-- ==== Sys2Proof/Word.lean ====
section
/-! DEFINITION. The word types of the part and their plainest arithmetic (00_scope R5: little-endian, bit 0 least significant). -/

namespace Sys2Proof

abbrev Byte := BitVec 8
abbrev Word32 := BitVec 32
abbrev Word64 := BitVec 64

/-- The field [hi:lo] of a word (R5). -/
abbrev field {w : Nat} (v : BitVec w) (hi lo : Nat) : BitVec (hi - lo + 1) := v.extractLsb' lo (hi - lo + 1)

end Sys2Proof
end

