-- ==== Sys2Proof/Syntax.lean ====
section
/-! DEFINITION. The commands of the TLX-SV3200 and their operands: one constructor of Instr for each row of spec/opcode_table.json. A command names the unit it acts on; a program's words stay in that unit's program store, and an operand carries what comes from outside the part. -/

namespace Sys2Proof

/-! Units (R3, R13, R14, R59, R69, R205, R285). -/
abbrev DieId := Fin 8
abbrev StackId := Fin 32
abbrev PortId := Fin 16
abbrev DomeId := Fin 16

/-- Cluster CLc of die CDd. -/
structure ClusterId where
  die : DieId
  idx : Fin 16
  deriving DecidableEq, Repr

/-- Core 0 to 511 of a die (R59). -/
structure CoreId where
  die : DieId
  idx : Fin 512
  deriving DecidableEq, Repr

/-- Host-class core 0 to 15 of a die. -/
structure HartId where
  die : DieId
  idx : Fin 16
  deriving DecidableEq, Repr

/-- Ulizen engine of a stack (R205). -/
structure EngineId where
  stack : StackId
  idx : Fin 32
  deriving DecidableEq, Repr

/-- A synchronisation object of the module (R275). -/
inductive ObjId where
  | die (d : DieId) (n : Fin 4096)
  | stack (t : StackId) (n : Fin 256)
  deriving DecidableEq, Repr

/-- A SYNC block (R282). -/
inductive SyncUnit where
  | die (d : DieId)
  | stack (t : StackId)
  deriving DecidableEq, Repr

/-- A unit with a PERF page (R460). -/
inductive PerfUnit where
  | cluster (c : ClusterId)
  | stack (t : StackId)
  deriving DecidableEq, Repr

/-- A function of the host link: the PF, the second physical function PF1, or VF n + 1 (R367, R368). -/
inductive HostFn where
  | pf
  | pf1
  | vf (n : Fin 64)
  deriving DecidableEq, Repr

/-- Who makes an access (R53, R61, R68, R262). -/
inductive Agent where
  | sequencer (c : ClusterId)
  | de (k : CoreId)
  | run (t : StackId) (slot : Fin 1024)
  | hart (h : HartId)
  | meridian (d : DieId)
  | host (f : HostFn)
  | remote (m : BitVec 12)
  deriving DecidableEq, Repr

/-- A requester of register pages (R68): a Meridian core or the physical function; any other requester is refused. -/
inductive Requester where
  | meridian (d : DieId)
  | pf
  | other (a : Agent)
  deriving DecidableEq, Repr

/-- The data of a register write: one aligned 32-bit word, or an aligned pair (R67). -/
inductive RegData where
  | w32 (v : BitVec 32)
  | w64 (v : BitVec 64)
  deriving DecidableEq, Repr

/-- A register access: a read or a write of 32 or 64 bits, or an access of any other width, which R67 refuses. -/
inductive RegOp where
  | read32
  | read64
  | write (d : RegData)
  | odd (isWrite : Bool)
  deriving DecidableEq, Repr

/-- An outside access presented to a core's scratchpad (R61 to R63): an offset of the core's 8 MiB slot and the bytes of a write, or the length of a read. -/
structure PortholeReq where
  off : BitVec 23
  len : Nat
  data : Option (List Byte)
  deriving DecidableEq, Repr

/-- An access of stack memory at a local address (R183): a read of len bytes, or a write; hint of R187. -/
structure StackReq where
  addr : BitVec 52
  len : Nat
  data : Option (List Byte)
  hint : BitVec 2
  deriving DecidableEq, Repr

/-- A posted reduction (R191): operation as RED_OP of R160, format code, bytes. -/
structure ReduceReq where
  addr : BitVec 52
  op : BitVec 4
  fmt : BitVec 4
  data : List Byte
  deriving DecidableEq, Repr

/-- A fetching atomic (R191): operation as AOP of R358, format code, operand and, for CAS, the new value. -/
structure AtomicReq where
  addr : BitVec 52
  op : BitVec 4
  fmt : BitVec 4
  operand : BitVec 64
  newValue : BitVec 64
  deriving DecidableEq, Repr

/-- A load or store of a hart (R270): 2^size bytes; data of a store. -/
structure HartReq where
  addr : BitVec 56
  cached : Bool
  size : Fin 4
  data : Option (BitVec 64)
  deriving DecidableEq, Repr

/-- An AMO of a hart (R270, R191): operation as AOP of R358; 64-bit when dbl. -/
structure AmoReq where
  addr : BitVec 56
  op : BitVec 4
  dbl : Bool
  operand : BitVec 64
  aq : Bool
  rl : Bool
  deriving DecidableEq, Repr

/-- What a loop-back run finds (R199): mismatches on one channel, by data lane and check lane. -/
structure LaneErrors where
  count : BitVec 32
  channel : Fin 32
  dataLanes : BitVec 64
  checkLanes : BitVec 8
  deriving DecidableEq, Repr

/-- What the tests of a bring-up find (R481, R483): stacks that fail, dies whose scratchpads fail, dies that give no boot report. -/
structure BringUp where
  stackFail : BitVec 32
  coreFail : BitVec 8
  absent : BitVec 8
  deriving DecidableEq, Repr

/-- Word 0 of a flit (R341). -/
structure FlitHead where
  seq : BitVec 12
  ack : BitVec 12
  nak : Bool
  crVc : BitVec 2
  crUnits : BitVec 12
  deriving DecidableEq, Repr

/-- What the receiver makes of a codeword and its flit (R341, R342): clean, corrected by the FEC, not correctable, or with a bad CRC. -/
inductive Codeword where
  | clean
  | corrected
  | uncorrectable
  | badCrc
  deriving DecidableEq, Repr

/-- A Finder frame's body (R347). -/
structure Finder where
  uid : BitVec 96
  port : BitVec 4
  lanes : BitVec 4
  width : BitVec 2
  moduleId : BitVec 12
  idValid : Bool
  direction : BitVec 2
  mgmt : Bool
  mgrUid : BitVec 96
  deriving DecidableEq, Repr

/-- A management packet (R348). -/
structure MgmtPacket where
  op : Byte
  hops : BitVec 4
  ptr : BitVec 4
  fault : BitVec 16
  target : Byte
  flags : Byte
  offset : BitVec 16
  fwd : BitVec 64
  rev : BitVec 64
  data : BitVec 32
  srcUid : BitVec 96
  deriving DecidableEq, Repr

/-- A request packet of the fabric (R357, R358). -/
structure FabricReq where
  op : BitVec 6
  down : Bool
  hops : BitVec 6
  dst : BitVec 12
  src : BitVec 12
  hint : BitVec 2
  fmt : BitVec 4
  aop : BitVec 4
  lenM1 : BitVec 8
  addr : BitVec 64
  tag : BitVec 16
  txn : BitVec 16
  active : BitVec 12
  die : BitVec 4
  operand : BitVec 64
  operand2 : BitVec 64
  data : List Byte
  deriving DecidableEq, Repr

/-- A response packet of the fabric (R358). -/
structure FabricRsp where
  op : BitVec 6
  down : Bool
  hops : BitVec 6
  dst : BitVec 12
  src : BitVec 12
  txn : BitVec 16
  die : BitVec 4
  tag : BitVec 16
  fault : BitVec 16
  data : List Byte
  deriving DecidableEq, Repr

/-- A packet of the fabric. -/
inductive FabricMsg where
  | req (m : FabricReq)
  | rsp (m : FabricRsp)
  | mgmt (m : MgmtPacket)
  deriving DecidableEq, Repr

/-- A PCI Express AtomicOp (R366): FetchAdd, Swap or CAS, of 2^sizeLog2 bytes. -/
inductive AtomicKind where
  | fetchAdd
  | swap
  | cas
  deriving DecidableEq, Repr

structure PcieAtomic where
  kind : AtomicKind
  sizeLog2 : Fin 5
  operand : BitVec 64
  newValue : BitVec 64
  deriving DecidableEq, Repr

/-- A configuration request to a function (R366, R368, R374, R384): a read, a write of a field this block acts on, or any other write. -/
inductive ConfigOp where
  | read (off : BitVec 12)
  | msixEnable (v : Bool)
  | vfEnable (v : Bool)
  | bar2Size (log2 : Nat)
  | d3hot (v : Bool)
  | ideRequire (link : Fin 2) (stream : Fin 8) (v : Bool)
  | other (off : BitVec 12)
  deriving DecidableEq, Repr

/-- A row report as service software writes it (R324). -/
structure RowReport where
  k : Byte
  flags : Byte
  zero2 : BitVec 16
  emitted : BitVec 32
  zero8 : BitVec 64
  path : List Byte
  deriving DecidableEq, Repr

/-- The caller of a firmware call (R311): a function through its mailbox, or a hart through the SBI. -/
inductive Caller where
  | fn (f : HostFn)
  | hart (h : HartId)
  deriving DecidableEq, Repr

/-- What a debug instrument reads (R479). -/
inductive ReadoutTarget where
  | register (addr : BitVec 52)
  | sequencer (c : ClusterId) (reg : Fin 32)
  | program (c : ClusterId) (word : Fin 32768)
  | scratch (k : CoreId) (off : BitVec 23) (len : Nat)
  | cacheLine (d : DieId) (t : StackId) (saddr : BitVec 36)
  | tile (k : CoreId) (pos : Fin 4)
  | engineStore (e : EngineId) (off : BitVec 16) (len : Nat)
  | engineReg (e : EngineId) (reg : Fin 32)
  | dram (t : StackId) (saddr : BitVec 36) (len : Nat)
  | nightLog (d : DieId) (seq : BitVec 64)
  deriving DecidableEq, Repr


/-- The commands of the block, one constructor for each row of the table of steps (95_what_each_step_holds.md). -/
inductive Instr where
  /-- NOP (R99): Sequencer issues nothing for c beats. -/
  | nop (c : ClusterId)
  /-- END (R120): Sequencer ends the step and the cluster drains its engine queues. -/
  | endStep (c : ClusterId)
  /-- TRACE (R99): Sequencer emits a trace record, or a TRACE_FENCE marker when FN[0] is 1. -/
  | trace (c : ClusterId)
  /-- ADD (R99): Scalar register add, wrapping modulo 2^64. -/
  | add (c : ClusterId)
  /-- SUB (R99): Scalar register subtract. -/
  | sub (c : ClusterId)
  /-- AND (R99): Scalar register bitwise and. -/
  | and (c : ClusterId)
  /-- OR (R99): Scalar register bitwise or. -/
  | or (c : ClusterId)
  /-- XOR (R99): Scalar register bitwise exclusive or. -/
  | xor (c : ClusterId)
  /-- SLL (R100): Scalar shift left logical by the low 6 bits of the amount. -/
  | sll (c : ClusterId)
  /-- SRL (R100): Scalar shift right logical. -/
  | srl (c : ClusterId)
  /-- SRA (R100): Scalar shift right arithmetic. -/
  | sra (c : ClusterId)
  /-- MUL (R100): Scalar multiply, low 64 bits. -/
  | mul (c : ClusterId)
  /-- MULHU (R100): Upper 64 bits of the unsigned 128-bit product. -/
  | mulhu (c : ClusterId)
  /-- SLT (R100): Signed set-less-than, writing 1 or 0. -/
  | slt (c : ClusterId)
  /-- SLTU (R100): Unsigned set-less-than, writing 1 or 0. -/
  | sltu (c : ClusterId)
  /-- MIN (R99): Signed scalar minimum. -/
  | min (c : ClusterId)
  /-- MAX (R99): Signed scalar maximum. -/
  | max (c : ClusterId)
  /-- MINU (R99): Unsigned scalar minimum. -/
  | minu (c : ClusterId)
  /-- MAXU (R99): Unsigned scalar maximum. -/
  | maxu (c : ClusterId)
  /-- ADDI (R99): Scalar add of a sign-extended immediate. -/
  | addi (c : ClusterId)
  /-- ANDI (R99): Scalar and with an immediate. -/
  | andi (c : ClusterId)
  /-- ORI (R99): Scalar or with an immediate. -/
  | ori (c : ClusterId)
  /-- XORI (R99): Scalar exclusive or with an immediate. -/
  | xori (c : ClusterId)
  /-- SLLI (R99): Scalar shift left logical by an immediate. -/
  | slli (c : ClusterId)
  /-- SRLI (R99): Scalar shift right logical by an immediate. -/
  | srli (c : ClusterId)
  /-- SRAI (R99): Scalar shift right arithmetic by an immediate. -/
  | srai (c : ClusterId)
  /-- LI (R99): Loads a sign-extended immediate into a scalar register. -/
  | li (c : ClusterId)
  /-- LIH (R99): Loads an immediate into the upper 32 bits of a scalar register. -/
  | lih (c : ClusterId)
  /-- BEQ (R101): Branches when two scalar registers are equal; the target is checked only when taken. -/
  | beq (c : ClusterId)
  /-- BNE (R101): Branches when two scalar registers differ. -/
  | bne (c : ClusterId)
  /-- BLT (R101): Branches on signed less-than. -/
  | blt (c : ClusterId)
  /-- BGE (R101): Branches on signed greater-or-equal. -/
  | bge (c : ClusterId)
  /-- BLTU (R101): Branches on unsigned less-than. -/
  | bltu (c : ClusterId)
  /-- BGEU (R101): Branches on unsigned greater-or-equal. -/
  | bgeu (c : ClusterId)
  /-- JMP (R101): Unconditional relative jump, checked for target and loop exit. -/
  | jmp (c : ClusterId)
  /-- SETLC (R99): Writes a loop count register. -/
  | setlc (c : ClusterId)
  /-- LOOP (R108): Enters a hardware loop level, latching its count or skipping the body. -/
  | loop (c : ClusterId)
  /-- RDLC (R99): Reads a loop count register into a scalar register. -/
  | rdlc (c : ClusterId)
  /-- RDIT (R99): Reads the iteration index of a loop level. -/
  | rdit (c : ClusterId)
  /-- SETMASK (R99): Sets the broadcast mask BMASK. -/
  | setmask (c : ClusterId)
  /-- RDMASK (R99): Reads BMASK into a scalar register. -/
  | rdmask (c : ClusterId)
  /-- RDBEAT (R99): Reads the current beat number. -/
  | rdbeat (c : ClusterId)
  /-- SETAD (R111): Sets a field of an address register of one engine kind. -/
  | setad (c : ClusterId)
  /-- RDAD (R99): Reads a field of an address register. -/
  | rdad (c : ClusterId)
  /-- WAIT (R116): Reads a synchronisation object and holds the sequencer until its count reaches the target. -/
  | wait (c : ClusterId)
  /-- WAIT_SATISFIED (R116): A later reading of a waited object meets the target and the next instruction executes in the following beat. -/
  | waitSatisfied (c : ClusterId)
  /-- SEQ_SIGNAL (R117): Sequencer adds an immediate to a synchronisation object with a release scope. -/
  | seqSignal (c : ClusterId)
  /-- ISSUE (R102): Resolves operand addresses and presents a 128-bit engine packet to the selected cores' queues. -/
  | issue (c : ClusterId)
  /-- BEAT (R30): One cluster-wide handshake in which every engine and porthole gate takes exactly one step. -/
  | beat (c : ClusterId)
  /-- EMPTY_SLOT (R36): Guider inserts a beat handshake with every engine enable withheld. -/
  | emptySlot (c : ClusterId)
  /-- PORTHOLE_ACCESS (R63): An outside access to a core's scratchpad is admitted through its porthole gate. -/
  | portholeAccess (k : CoreId) (a : Agent) (x : PortholeReq)
  /-- STEP_COMPLETION (R120): Once every engine is idle the sequencer reports the step complete, faulted or aborted to its Meridian core. -/
  | stepCompletion (c : ClusterId)
  /-- MMA (R134): Matrix engine multiplies A by B into the accumulator or the tile queue. -/
  | mma (k : CoreId)
  /-- MSCALE (R137): Loads the two tensor scales applied by a later mma with TSC. -/
  | mscale (k : CoreId)
  /-- TQ_DROP (R142): Removes the tile at position 0 of the tile queue. -/
  | tqDrop (k : CoreId)
  /-- TQ_CLEAR (R142): Removes every tile of the tile queue. -/
  | tqClear (k : CoreId)
  /-- VADD (R145): Vector add. -/
  | vadd (k : CoreId)
  /-- VSUB (R145): Vector subtract. -/
  | vsub (k : CoreId)
  /-- VMUL (R145): Vector multiply. -/
  | vmul (k : CoreId)
  /-- VFMA (R145): Vector fused multiply-add into D. -/
  | vfma (k : CoreId)
  /-- VMAX (R145): Vector maximum. -/
  | vmax (k : CoreId)
  /-- VMIN (R145): Vector minimum. -/
  | vmin (k : CoreId)
  /-- VEXP2 (R145): Vector base-2 exponential. -/
  | vexp2 (k : CoreId)
  /-- VLOG2 (R145): Vector base-2 logarithm. -/
  | vlog2 (k : CoreId)
  /-- VRCP (R145): Vector reciprocal. -/
  | vrcp (k : CoreId)
  /-- VRSQRT (R145): Vector reciprocal square root. -/
  | vrsqrt (k : CoreId)
  /-- VTANH (R145): Vector hyperbolic tangent. -/
  | vtanh (k : CoreId)
  /-- VGELU (R145): Vector GELU in erf form. -/
  | vgelu (k : CoreId)
  /-- VCVT (R145): Vector format conversion, including scaled formats and stochastic rounding. -/
  | vcvt (k : CoreId)
  /-- VREDSUM (R149): Sums groups of G elements by a fixed pairwise tree. -/
  | vredsum (k : CoreId)
  /-- VREDMAX (R149): Takes the maximum of groups of G elements. -/
  | vredmax (k : CoreId)
  /-- VMASK_CMP (R145): Writes a mask register from a lane-wise comparison. -/
  | vmaskCmp (k : CoreId)
  /-- VMASK_LD (R145): Loads a mask register from a 64-bit word. -/
  | vmaskLd (k : CoreId)
  /-- VSEED (R152): Seeds the core's LFSR, optionally mixed with the core number. -/
  | vseed (k : CoreId)
  /-- VFLAGS (R153): Writes the sticky flags word and optionally clears it. -/
  | vflags (k : CoreId)
  /-- DMA_LOAD (R156): Data engine moves data from anywhere into the core's own scratchpad. -/
  | dmaLoad (k : CoreId)
  /-- DMA_STORE (R156): Data engine moves data from the core's own scratchpad to anywhere. -/
  | dmaStore (k : CoreId)
  /-- DMA_COPY (R156): Data engine copies between any two places. -/
  | dmaCopy (k : CoreId)
  /-- DMA_T2D (R169): Data engine copies with the two innermost dimensions exchanged. -/
  | dmaT2d (k : CoreId)
  /-- DE_ACCESS_RESPONSE (R179): A read return, write acknowledgement or fault arrives for an access the data engine issued. -/
  | deAccessResponse (k : CoreId)
  /-- DE_COMPLETE (R176): Every access of a DE command has finished and it presents its KV-commit events and signals. -/
  | deComplete (k : CoreId)
  /-- STEP_GO (R96): CLUSTER_SEQ.CTRL.GO starts a step at ENTRY with initialised sequencer state. -/
  | stepGo (c : ClusterId)
  /-- ABORT (R122): CLUSTER_SEQ.CTRL.ABORT aborts the running step. -/
  | abort (c : ClusterId)
  /-- OWNER_WRITE (R61): Writes the cluster's owner and porthole phase, dropped while a step runs. -/
  | ownerWrite (c : ClusterId) (v : BitVec 32)
  /-- PSTORE_DATA_WRITE (R126): Writes one program store word and advances PSTORE_ADDR, dropped while a step runs. -/
  | pstoreDataWrite (c : ClusterId) (v : BitVec 64)
  /-- TFENCE_GO (R58): Starts a translate fence over accesses this die translated before the write. -/
  | tfenceGo (d : DieId)
  /-- TFENCE_DONE (R58): The last fenced access completes and TFENCE_BUSY clears. -/
  | tfenceDone (d : DieId)
  /-- REGION_ENTRY_WRITE (R57): Atomically replaces a region table entry, the low word staged for 32-bit writes. -/
  | regionEntryWrite (q : Requester) (d : DieId) (r : Fin 2048) (v : RegData)
  /-- MAIN_PATH_ACCESS (R184): A piece of a stack access looks up the stack cache and moves a 256-byte burst on a miss. -/
  | mainPathAccess (a : Agent) (x : StackReq)
  /-- SLIT_ACCESS (R185): A narrow piece moves 32 or 64 bytes without allocating in the stack cache. -/
  | slitAccess (a : Agent) (x : StackReq)
  /-- POSTED_REDUCTION (R191): A posted reduction enters the stack's reduction queue and is acknowledged. -/
  | postedReduction (a : Agent) (x : ReduceReq)
  /-- FETCHING_ATOMIC (R191): A fetching atomic is queued to the reduction engine and returns the old value. -/
  | fetchingAtomic (a : Agent) (x : AtomicReq)
  /-- REDUCTION_PERFORM (R193): The reduction engine performs one queued request every 4 beats. -/
  | reductionPerform (t : StackId)
  /-- STACK_CACHE_CLEAN (R189): Range operation writing dirty lines of the range back and keeping them. -/
  | stackCacheClean (d : DieId)
  /-- STACK_CACHE_INVAL (R189): Range operation dropping every line of the range. -/
  | stackCacheInval (d : DieId)
  /-- STACK_CACHE_CLEAN_INVAL (R189): Range operation writing back and dropping lines of the range. -/
  | stackCacheCleanInval (d : DieId)
  /-- CLEAN_INVAL_ALL (R189): Writes back and drops every line of the cache. -/
  | cleanInvalAll (d : DieId)
  /-- RANGE_DONE (R203): A range operation finishes and RANGE_BUSY falls. -/
  | rangeDone (d : DieId)
  /-- STACK_ONLINE_WRITE (R200): Sets or clears STACK_CTRL.CTRL.ONLINE, checked against loop-back. -/
  | stackOnlineWrite (t : StackId) (v : BitVec 32)
  /-- LOOPBACK_WRITE (R200): Changes the loop-back mode, allowed only while offline. -/
  | loopbackWrite (t : StackId) (v : BitVec 32)
  /-- LB_RUN (R199): Runs the loop-back pattern and counts mismatches per lane. -/
  | lbRun (t : StackId) (r : LaneErrors)
  /-- LB_ERR_COUNT_READ (R202): Reads and clears the loop-back mismatch count. -/
  | lbErrCountRead (t : StackId)
  /-- STACK_SELF_REFRESH (R20): Base die puts its DRAM dies into self-refresh within one interval after losing its controller. -/
  | stackSelfRefresh (t : StackId)
  /-- STACK_DOMAIN_OFF (R492): A stack domain switches off; its lines are dropped and its accesses fault. -/
  | stackDomainOff (t : StackId)
  /-- STACK_FILL (R484): At stack domain power-on the base die writes every codeword as zero. -/
  | stackFill (t : StackId)
  /-- REFRESH_INTERVAL (R196): A refresh interval expires and one refresh becomes owed to each pseudo-channel. -/
  | refreshInterval (t : StackId)
  /-- REFRESH_SERVE (R198): An owed refresh is served when the pseudo-channel is idle or at a yield point. -/
  | refreshServe (t : StackId) (p : Fin 64)
  /-- FORCED_REFRESH (R198): With 8 refreshes owed the base die refreshes at the next row boundary. -/
  | forcedRefresh (t : StackId) (p : Fin 64)
  /-- STACK_SENSOR_SAMPLE (R197): Base die samples its sensors, adjusts the refresh interval and applies stack limits. -/
  | stackSensorSample (t : StackId) (r : List (BitVec 16))
  /-- SLOT_CTRL_WRITE (R211): Enables or disables a Ulizen command slot, with malformed and shared-doorbell checks. -/
  | slotCtrlWrite (t : StackId) (n : Fin 1024) (v : BitVec 32)
  /-- SLOT_RUN_SEQ_WRITE (R211): Rewrites a disabled slot's RUN_SEQ to skip or re-pend runs. -/
  | slotRunSeqWrite (t : StackId) (n : Fin 1024) (v : BitVec 64)
  /-- RUN_START (R214): A queued run starts once its engines are idle, loading arguments and preload. -/
  | runStart (t : StackId) (n : Fin 1024)
  /-- RUN_END (R217): All engines have ended and SENDs are acknowledged; the record is written and the signal given. -/
  | runEnd (t : StackId) (n : Fin 1024)
  /-- UNIT_RESET (R236): ULIZEN.CTRL.UNIT_RESET stops every active run at a row boundary, tearing it. -/
  | unitReset (t : StackId)
  /-- LAB_INVAL_ALL (R225): Empties the page walker's look-aside buffer. -/
  | labInvalAll (t : StackId)
  /-- LAB_INVAL (R225): Invalidates every look-aside entry of one handle. -/
  | labInval (t : StackId) (h : BitVec 32)
  /-- LAB_INVAL_COMPLETE (R225): PAGEs begun before an invalidation finish and LAB_BUSY clears. -/
  | labInvalComplete (t : StackId)
  /-- MICROPROGRAM_WORD_WRITE (R223): Stages or lands a 32-bit part of a micro-program store word. -/
  | microprogramWordWrite (q : Requester) (t : StackId) (w : Fin 4096) (p : Fin 4) (v : BitVec 32)
  /-- SETI (R220): Ulizen scalar immediate load. -/
  | seti (e : EngineId)
  /-- ALU (R220): Ulizen scalar arithmetic selected by MODE. -/
  | alu (e : EngineId)
  /-- BR (R220): Ulizen conditional branch. -/
  | br (e : EngineId)
  /-- LD (R220): Ulizen load from the engine store into a scalar register. -/
  | ld (e : EngineId)
  /-- ST (R220): Ulizen store of a scalar to the engine store. -/
  | st (e : EngineId)
  /-- REP (R221): Ulizen repeat of the following words. -/
  | rep (e : EngineId)
  /-- LDV (R220): Loads vector lanes from the engine store. -/
  | ldv (e : EngineId)
  /-- STV (R220): Stores vector lanes to the engine store with conversion. -/
  | stv (e : EngineId)
  /-- VOP (R220): Lane-wise vector operation selected by MODE. -/
  | vop (e : EngineId)
  /-- EXP2 (R220): Ulizen exponential rounded to BF16. -/
  | exp2 (e : EngineId)
  /-- DOT (R220): Segmented dot products, optionally streamed from the open block. -/
  | dot (e : EngineId)
  /-- ACC (R220): Multiply-accumulate into vector registers. -/
  | acc (e : EngineId)
  /-- MAXRED (R220): Segment maximum reduction. -/
  | maxred (e : EngineId)
  /-- SUMRED (R220): Segment sum reduction. -/
  | sumred (e : EngineId)
  /-- FOLD (R220): Adds the upper 128 lanes onto the lower. -/
  | fold (e : EngineId)
  /-- FILL (R220): Fills lanes from a base with minus infinity or zero. -/
  | fill (e : EngineId)
  /-- ROW_OPEN (R208): Opens a 64 KiB block, closing any block already held. -/
  | rowOpen (e : EngineId)
  /-- STREAM (R222): Streams 256 elements from the open block into a vector register. -/
  | stream (e : EngineId)
  /-- STASH (R220): Copies bytes from the open block to the engine store. -/
  | stash (e : EngineId)
  /-- WRITE (R230): Writes a converted vector into the open block in-bank. -/
  | write (e : EngineId)
  /-- YIELD (R226): Closes the open block at a yield point. -/
  | yield (e : EngineId)
  /-- PAGE (R224): Walker resolves a KV page of a list handle. -/
  | page (e : EngineId)
  /-- FETCH (R220): Reads bytes from a local address into the engine store. -/
  | fetch (e : EngineId)
  /-- SEND (R220): Sends bytes from the engine store to a local address. -/
  | send (e : EngineId)
  /-- KV_COMPACT (R232): Moves accepted KV entries down over rejected ones, optionally committing. -/
  | kvCompact (e : EngineId)
  /-- DELTA (R234): Adds a stored FP8 difference block to a weight block when its bitmap bit is set. -/
  | delta (e : EngineId)
  /-- ULZ_END (R220): Closes the block, awaits the engine's SENDs and ends its part of the run. -/
  | ulzEnd (e : EngineId)
  /-- OBJ_READ (R276): Returns a synchronisation object's count and notify word. -/
  | objRead (a : Agent) (o : ObjId)
  /-- OBJ_SIGNAL (R276): Adds to a synchronisation object's count and checks its notification. -/
  | objSignal (a : Agent) (o : ObjId) (v : BitVec 64) (s : Option (BitVec 3))
  /-- OBJ_SET (R276): Sets an object's count and disarms it. -/
  | objSet (a : Agent) (o : ObjId) (v : BitVec 64)
  /-- OBJ_ARM (R276): Arms an object's notification threshold and checks it. -/
  | objArm (a : Agent) (o : ObjId) (t : BitVec 48)
  /-- OBJ_DISARM (R276): Clears an object's ARM without a check. -/
  | objDisarm (a : Agent) (o : ObjId)
  /-- CLEAR_ALL (R282): Resets every object of a SYNC block as at power-on. -/
  | clearAll (u : SyncUnit)
  /-- NOTE_READ (R282): Pops the oldest notification and queues any pending one. -/
  | noteRead (u : SyncUnit)
  /-- NOTIFICATION_FORWARD (R337): Firmware sends a routed notification to an MSI-X vector or IMSIC file. -/
  | notificationForward (u : SyncUnit)
  /-- HART_MEMORY_ACCESS (R270): A host-class core loads or stores, cached or uncached by its memory type. -/
  | hartMemoryAccess (h : HartId) (x : HartReq)
  /-- HART_AMO (R270): A host-class core AMO is written back from host caches and performed by the reduction engine. -/
  | hartAmo (h : HartId) (x : AmoReq)
  /-- HART_FENCE (R270): Holds successor accesses until predecessor writes are acknowledged at their serving points. -/
  | hartFence (h : HartId) (pred : BitVec 4) (succ : BitVec 4)
  /-- CBO_CLEAN (R269): Writes a dirty block of every host cache of the die to its stack cache. -/
  | cboClean (h : HartId) (addr : BitVec 56)
  /-- CBO_FLUSH (R269): Writes back and drops a block from the die's host caches. -/
  | cboFlush (h : HartId) (addr : BitVec 56)
  /-- CBO_INVAL (R269): Drops a block from the die's host caches without writing it. -/
  | cboInval (h : HartId) (addr : BitVec 56)
  /-- LR (R271): Load-reserved on cacheable stack memory among the harts of one die. -/
  | lr (h : HartId) (addr : BitVec 56) (dbl : Bool) (cached : Bool)
  /-- SC (R271): Store-conditional against a reservation of the same die. -/
  | sc (h : HartId) (addr : BitVec 56) (dbl : Bool) (cached : Bool) (v : BitVec 64)
  /-- HOSTCORE_RUN (R70): HOSTCORE.CTRL.RUN lets the hart fetch. -/
  | hostcoreRun (h : HartId) (v : Bool)
  /-- HOSTCORE_RESET (R70): HOSTCORE.CTRL.RESET holds the hart in reset or releases it to RESET_PC. -/
  | hostcoreReset (h : HartId) (v : Bool)
  /-- SCRUB_BURST (R417): The scrubber reads one burst of a pseudo-channel on idle time and rewrites corrected codewords. -/
  | scrubBurst (t : StackId) (p : Fin 64)
  /-- SCRUB_STALL (R418): LAP_AGE_MS passes STALL_MS and the scrubber sets STALLED. -/
  | scrubStall (t : StackId)
  /-- POISON_GO (R493): Starts poisoning every codeword of a range, or is refused. -/
  | poisonGo (t : StackId)
  /-- POISON_DONE (R493): Every codeword of the range is poisoned and POISON_BUSY clears. -/
  | poisonDone (t : StackId)
  /-- RETIRE_GO (R420): Starts retiring a 64 KiB block to a replacement, or is refused. -/
  | retireGo (t : StackId)
  /-- RETIRE_COPY (R420): Once no engine holds the block, it is copied, the entry written and held accesses released. -/
  | retireCopy (t : StackId)
  /-- CE_LOG_READ (R436): Reads and removes the oldest correction log entry. -/
  | ceLogRead (t : StackId)
  /-- THERMAL_SAMPLE (R450): A compute die samples its sensors and the Guider computes its duty and applies the limits. -/
  | thermalSample (d : DieId) (r : List (BitVec 16))
  /-- CORE_RESTART (R454): After 100 ms below 85 deg C the core domain restarts, fenced with duty 7. -/
  | coreRestart (d : DieId)
  /-- RING_RESTART (R455): The standby controller restarts a tripped ring after 1 s, unless it tripped thrice in an hour. -/
  | ringRestart (d : DieId)
  /-- STACK_TRIP_CLEARED (R456): After 100 ms below 85 deg C the base die reports the stack trip cleared. -/
  | stackTripCleared (t : StackId)
  /-- UVLO (R438): Input below 38 V for 20 µs stops every main converter. -/
  | uvlo
  /-- OVLO (R438): Input above 62 V for 20 µs stops every main converter. -/
  | ovlo
  /-- LOCKOUT_CLEAR (R439): The input stays in range for 10 ms and the module restarts by a cold reset. -/
  | lockoutClear
  /-- PWR_ALERT (R443): Input current above 135 A for 100 µs forces every Guider to duty 4 or more. -/
  | pwrAlert
  /-- PWR_ALERT_CLEAR (R443): Current below 120 A for 1 ms clears the alert. -/
  | pwrAlertClear
  /-- ENVELOPE_CHECK (R442): Firmware computes the 100 ms power average every 1 ms and throttles or relaxes. -/
  | envelopeCheck (avg : BitVec 32)
  /-- POINT_WRITE (R38): POWER.CTRL.POINT selects a die's operating point and the supply slews. -/
  | pointWrite (d : DieId) (p : BitVec 2)
  /-- EVENTS_READ (R458): Reads and clears the latched power events. -/
  | eventsRead
  /-- PORT_ENABLE (R343): CTRL.ENABLE starts training a Kuzopa port. -/
  | portEnable (p : PortId)
  /-- RETRAIN (R345): Retrains a port from step 1. -/
  | retrain (p : PortId)
  /-- WIDEN (R345): Retrains a port at full LANE_MASK. -/
  | widen (p : PortId)
  /-- DETECT_PROBE (R343): A port probes for a receiver every 1 ms during DETECT. -/
  | detectProbe (p : PortId) (present : BitVec 4)
  /-- EQUALISE_TIMEOUT (R343): After 20 ms equalisation ends and lanes without margin are left out. -/
  | equaliseTimeout (p : PortId) (met : BitVec 4)
  /-- TRAINING_TIMEOUT (R343): A 100 ms stay at one training step returns the port to step 1. -/
  | trainingTimeout (p : PortId)
  /-- IDLE_FLIT (R341): Receives an idle flit, discarded after its header is used. -/
  | idleFlit (p : PortId) (lane : Fin 4) (w : Codeword) (f : FlitHead)
  /-- DATA_FLIT (R342): Receives a DATA flit, checked by CRC, acknowledged or NAKed. -/
  | dataFlit (p : PortId) (lane : Fin 4) (w : Codeword) (f : FlitHead) (ms : List FabricMsg)
  /-- CTRL_FLIT (R344): Receives a CTRL flit carrying width negotiation or narrowing. -/
  | ctrlFlit (p : PortId) (f : FlitHead) (lanes : BitVec 4)
  /-- FINDER_FRAME (R347): Receives a Finder frame and stores it in the NBR registers. -/
  | finderFrame (p : PortId) (f : Finder)
  /-- FINDER_SEND (R347): An active port sends a Finder frame every 1 ms. -/
  | finderSend (p : PortId)
  /-- FINDER_LOST (R347): No Finder frame for 10 ms sets FINDER_LOST. -/
  | finderLost (p : PortId)
  /-- MGMT_GO (R348): MGMT_CMD.GO sends the management packet in MGMT_BUF. -/
  | mgmtGo
  /-- MGMT_READ (R348): A management READ is forwarded or applied to the target page. -/
  | mgmtRead (p : PortId) (m : MgmtPacket)
  /-- MGMT_WRITE (R349): A management WRITE is forwarded or applied under the claim checks. -/
  | mgmtWrite (p : PortId) (m : MgmtPacket)
  /-- MGMT_RESPONSE (R348): A management RESPONSE travels back and replaces MGMT_BUF. -/
  | mgmtResponse (p : PortId) (m : MgmtPacket)
  /-- MGMT_DISCARD (R348): A management packet that cannot move on within 1 ms is discarded. -/
  | mgmtDiscard (p : PortId)
  /-- MGMT_TIMEOUT (R348): No management response arrives within TIMEOUT. -/
  | mgmtTimeout
  /-- RELEASE_MGR (R349): Clears the manager's claim. -/
  | releaseMgr
  /-- MODULE_ID_WRITE (R350): Assigns the module ID to all eight dies. -/
  | moduleIdWrite (v : BitVec 32)
  /-- ROUTE_ENTRY_WRITE (R352): Atomically writes a route entry on all four port dies. -/
  | routeEntryWrite (n : Fin 4096) (v : BitVec 32)
  /-- EGRESS_GRANT (R362): A port's egress arbiter grants a packet whose credits cover it, setting ACTIVE. -/
  | egressGrant (p : PortId) (vc : Fin 4)
  /-- REMOTE_LOAD (R357): A LOAD request arrives, is routed onward or served with LOAD_RSP. -/
  | remoteLoad (p : PortId) (m : FabricReq)
  /-- REMOTE_STORE (R357): A STORE request arrives and is acknowledged at its serving point. -/
  | remoteStore (p : PortId) (m : FabricReq)
  /-- REMOTE_REDUCE (R357): A posted REDUCE request arrives and is acknowledged on entering the reduction queue. -/
  | remoteReduce (p : PortId) (m : FabricReq)
  /-- REMOTE_ATOMIC (R357): A fetching ATOMIC request arrives and returns the old value. -/
  | remoteAtomic (p : PortId) (m : FabricReq)
  /-- REMOTE_SIGNAL (R357): A SIGNAL request arrives and is applied to a synchronisation object. -/
  | remoteSignal (p : PortId) (m : FabricReq)
  /-- REMOTE_DOORBELL (R357): A DOORBELL request arrives and is queued in DB_RX. -/
  | remoteDoorbell (p : PortId) (m : FabricReq)
  /-- LOAD_RSP (R358): A load response with data returns to the requester. -/
  | loadRsp (p : PortId) (m : FabricRsp)
  /-- ACK (R358): An acknowledgement response returns to the requester. -/
  | ack (p : PortId) (m : FabricRsp)
  /-- ATOMIC_RSP (R358): An atomic response with the old value returns to the requester. -/
  | atomicRsp (p : PortId) (m : FabricRsp)
  /-- RESP_TIMEOUT (R361): A remote request gets no response within TIMEOUT. -/
  | respTimeout (d : DieId) (txn : BitVec 16)
  /-- DB_TX_DATA_WRITE (R365): Sends a DOORBELL carrying DATA to DB_TX.DST. -/
  | dbTxDataWrite (d : DieId) (v : BitVec 32)
  /-- DB_RX_SRC_READ (R365): Removes the oldest DB_RX entry and exposes its data. -/
  | dbRxSrcRead (d : DieId)
  /-- PERST (R376): PERST# resets every function's configuration, ends calls and stops host-ring queues. -/
  | perst
  /-- HOT_RESET (R376): A hot reset acts as PERST#. -/
  | hotReset (link : Fin 2)
  /-- HOST_LINK_DOWN (R376): The host link goes down with the effect of PERST#. -/
  | hostLinkDown (link : Fin 2)
  /-- VF_FLR (R376): Function level reset of one VF's calls, queues and vectors. -/
  | vfFlr (n : Fin 64)
  /-- PF_FLR (R376): Function level reset of the PF and, with VF Enable cleared, every VF. -/
  | pfFlr
  /-- CONFIG_REQUEST (R482): A PCI Express configuration request, retried until firmware runs or recovery starts. -/
  | configRequest (f : HostFn) (x : ConfigOp)
  /-- BAR0_ACCESS (R369): A BAR0 access decodes to a register page, mailbox or MSI-X structure. -/
  | bar0Access (f : HostFn) (off : BitVec 26) (v : RegOp)
  /-- BAR2_READ (R371): A BAR2 read as an agent of the function, completing after earlier writes. -/
  | bar2Read (f : HostFn) (off : BitVec 36) (len : Nat)
  /-- BAR2_WRITE (R371): A posted BAR2 write as an agent of the function. -/
  | bar2Write (f : HostFn) (off : BitVec 36) (data : List Byte) (ep : Bool)
  /-- ATOMICOP (R366): A PCIe AtomicOp completed on stack memory by the reduction engine. -/
  | atomicOp (f : HostFn) (off : BitVec 36) (x : PcieAtomic)
  /-- QUEUE_DOORBELL (R372): A 32-bit BAR4 write gives a queue's new submission tail. -/
  | queueDoorbell (f : HostFn) (page : Nat) (off : BitVec 12) (size : Nat) (v : BitVec 32)
  /-- MAILBOX_GO (R370): Submits the call block in the mailbox, or is dropped with CALL_BUSY. -/
  | mailboxGo (f : HostFn)
  /-- VF_DOME_WRITE (R373): Maps VFs to domes, dropped for a VF named by a queue. -/
  | vfDomeWrite (k : Fin 16) (v : BitVec 32)
  /-- COPY_CHANNEL_RESPONSE (R375): A response to a copy-channel request arrives, failing the operation on an error. -/
  | copyChannelResponse (ok : Bool)
  /-- GET_VERSION (R382): SPDM GET_VERSION request. -/
  | getVersion (m : List Byte)
  /-- GET_CAPABILITIES (R382): SPDM GET_CAPABILITIES request. -/
  | getCapabilities (m : List Byte)
  /-- NEGOTIATE_ALGORITHMS (R382): SPDM NEGOTIATE_ALGORITHMS request. -/
  | negotiateAlgorithms (m : List Byte)
  /-- GET_DIGESTS (R382): SPDM GET_DIGESTS request. -/
  | getDigests (m : List Byte)
  /-- GET_CERTIFICATE (R382): SPDM GET_CERTIFICATE request. -/
  | getCertificate (m : List Byte)
  /-- CHALLENGE (R382): SPDM CHALLENGE request. -/
  | challenge (m : List Byte)
  /-- GET_MEASUREMENTS (R383): SPDM GET_MEASUREMENTS returns the measurement blocks. -/
  | getMeasurements (index : Byte)
  /-- KEY_EXCHANGE (R382): SPDM KEY_EXCHANGE request. -/
  | keyExchange (m : List Byte)
  /-- FINISH (R382): SPDM FINISH request. -/
  | finish (m : List Byte)
  /-- KEY_UPDATE (R382): SPDM KEY_UPDATE request. -/
  | keyUpdate (m : List Byte)
  /-- END_SESSION (R382): SPDM END_SESSION request. -/
  | endSession (m : List Byte)
  /-- IDE_KM (R384): Programs selective IDE stream keys inside a secured session. -/
  | ideKm (link : Fin 2) (stream : Fin 8) (f : HostFn) (ranges : List (BitVec 64 × BitVec 64))
  /-- PLDM_DISCOVERY (R385): PLDM type 0 discovery request. -/
  | pldmDiscovery (m : List Byte)
  /-- PLDM_PLATFORM_MONITORING (R385): PLDM type 2 sensor request. -/
  | pldmPlatformMonitoring (sensor : Nat)
  /-- PLDM_FIRMWARE_UPDATE (R429): Writes a new image into the bank not running and checks it. -/
  | pldmFirmwareUpdate (image : List Byte)
  /-- ACTIVATE_FIRMWARE (R430): Starts the live handoff of running state to the new image. -/
  | activateFirmware
  /-- DIE_IMPORTED (R430): A die reports IMPORTED; after all eight CD0 commits and resumes. -/
  | dieImported (d : DieId) (ok : Bool)
  /-- HANDOFF_ABORT (R431): A failed import or 4 ms without commit aborts the update. -/
  | handoffAbort
  /-- MASK_ROM_BOOT (R380): A die's mask ROM checks the committed image and starts it or enters recovery. -/
  | maskRomBoot (d : DieId)
  /-- DIE_ABSENT (R481): A die gives no boot report within 2 s. -/
  | dieAbsent (d : DieId)
  /-- SVN_GO (R381): Fuses SVN_NEW as SVN_MIN when larger, or refuses. -/
  | svnGo (d : DieId)
  /-- POWER_UP (R481): The input reaches range and the module powers up in its fixed order. -/
  | powerUp (r : BringUp)
  /-- COLD_MODULE_RESET (R485): MOD_RST_N low 100 ms or more resets everything and refills stacks. -/
  | coldModuleReset (r : BringUp)
  /-- WARM_MODULE_RESET (R487): MOD_RST_N low under 100 ms resets control while keeping stack contents. -/
  | warmModuleReset (r : BringUp)
  /-- DOME_DEFINE (R287): Creates a dome from its descriptor. -/
  | domeDefine (c : Caller)
  /-- DOME_RELEASE (R309): Removes a dome and returns its resources. -/
  | domeRelease (c : Caller)
  /-- DOME_DRAIN (R309): Stops admission to a dome and lets admitted requests finish. -/
  | domeDrain (c : Caller)
  /-- SHARED_SET (R290): Names the shared-weight stack set. -/
  | sharedSet (c : Caller)
  /-- IMAGE_LOAD (R301): Checks and loads a dome's program image. -/
  | imageLoad (c : Caller)
  /-- EPHEMERIS_SET (R305): Gives a dome its Ephemeris table. -/
  | ephemerisSet (c : Caller)
  /-- QUEUE_SET (R314): Configures a queue of the dome. -/
  | queueSet (c : Caller)
  /-- QUEUE_STOP (R314): Stops admission from a queue. -/
  | queueStop (c : Caller)
  /-- CANCEL (R326): Cancels the oldest unrecorded request with a COOKIE. -/
  | cancel (c : Caller)
  /-- ADAPTER_LOAD (R332): Creates the next version of an adapter. -/
  | adapterLoad (c : Caller)
  /-- ADAPTER_DROP (R333): Stops admission for an adapter. -/
  | adapterDrop (c : Caller)
  /-- CACHE_RANGE (R313): Runs a stack-cache range operation on every die the range spreads over. -/
  | cacheRange (c : Caller)
  /-- NOTIFY_ROUTE (R337): Binds an object's notification to a target. -/
  | notifyRoute (c : Caller)
  /-- SOURCE_SET (R424): Names a region's source of record. -/
  | sourceSet (c : Caller)
  /-- DIE_FENCE (R426): Fences a die. -/
  | dieFence (c : Caller)
  /-- DIE_ADMIT (R426): Re-admits a fenced die. -/
  | dieAdmit (c : Caller)
  /-- DIE_RESET (R488): Warm-resets one die. -/
  | dieReset (c : Caller)
  /-- MODULE_RESET (R486): Starts a warm or cold module reset. -/
  | moduleReset (c : Caller)
  /-- TRACE_SET (R468): Sets or disables a dome's trace ring. -/
  | traceSet (c : Caller)
  /-- TRACE_POINTS (R472): Sets a dome's trace point enable mask. -/
  | tracePoints (c : Caller)
  /-- NIGHTLOG_READ (R475): Copies night log entries to a buffer. -/
  | nightlogRead (c : Caller)
  /-- COUNTER_READ (R465): Writes a snapshot of a unit's counters to a buffer. -/
  | counterRead (c : Caller)
  /-- FRAME_START (R306): An Ephemeris anchor passes and firmware runs a frame's slots. -/
  | frameStart (m : DomeId)
  /-- DOME_STEP_END (R324): Firmware handles a finished dome step: status word, commit marks, counts and replay. -/
  | domeStepEnd (m : DomeId)
  /-- ROW_REPORTS (R325): Firmware processes a step's row reports, ending, compacting and writing records. -/
  | rowReports (m : DomeId) (r : List RowReport)
  /-- STEP_WATCHDOG (R308): A step runs longer than WATCHDOG and firmware aborts it. -/
  | stepWatchdog (m : DomeId)
  /-- PHOTOMETER_SAMPLE (R387): The Photometer samples input voltage and current and integrates energy. -/
  | photometerSample (uv : Nat) (ua : Nat)
  /-- TAP_KV_COMMIT (R392): A tap frame adds KV-commit events to a dome's COMMITTED count. -/
  | tapKvCommit (d : DieId) (f : BitVec 32)
  /-- TAP_EMISSION (R392): A tap frame adds emission events to a dome's EMITTED count. -/
  | tapEmission (d : DieId) (f : BitVec 32)
  /-- TAP_RESYNC (R394): A resynchronisation frame resets the die's stored TOGGLE to 0. -/
  | tapResync (d : DieId) (f : BitVec 32)
  /-- TAP_ACK (R393): The die receives the acknowledgement of its outstanding frame. -/
  | tapAck (d : DieId) (toggle : Bool)
  /-- TAP_RESEND (R393): A die resends its frame after 10 µs without acknowledgement. -/
  | tapResend (d : DieId)
  /-- TAP_STALL (R395): 100 ms without acknowledgement sets TAP_STALL while the die keeps holding. -/
  | tapStall (d : DieId)
  /-- PERIODIC_RECORD (R398): Every PERIOD seconds of MONO the Photometer makes a stored record. -/
  | periodicRecord
  /-- GET_RECORD (R407): Readout port returns a stored record. -/
  | getRecord (seq : BitVec 64)
  /-- DEMAND (R407): Readout port makes a DEMAND record with a nonce. -/
  | demand (nonce : BitVec 128)
  /-- GET_CERT (R407): Readout port returns part of the certificate chain. -/
  | getCert (off : BitVec 32)
  /-- GET_EVENTS (R407): Readout port returns event log entries. -/
  | getEvents (index : BitVec 32)
  /-- SET_TIME (R402): Sets the calendar clock under the service seal. -/
  | setTime (t : BitVec 64)
  /-- SET_PERIOD (R407): Sets the periodic record period under the service seal. -/
  | setPeriod (sec : BitVec 32)
  /-- TEST_ENTER (R406): Starts test operation with fresh test accumulators. -/
  | testEnter
  /-- TEST_EXIT (R406): Ends test operation. -/
  | testExit
  /-- TEST_INJECT (R406): Adds synthetic events to the test accumulators. -/
  | testInject (dome : Byte) (kind : Byte) (count : BitVec 32)
  /-- TEST_RECORD (R406): Makes a TEST record of the test set. -/
  | testRecord (nonce : BitVec 128)
  /-- TEST_TIMEOUT (R406): Test operation ends after 3,600 s of MONO. -/
  | testTimeout
  /-- SEAL_BROKEN (R403): The tamper loop breaks and an event is logged. -/
  | sealBroken
  /-- SEAL_RESTORED (R404): The tamper loop is restored and an event is logged. -/
  | sealRestored
  /-- PHOTOMETER_POWER_DOWN (R405): Input below 30 V: the Photometer stores its state and makes POWER_DOWN. -/
  | photometerPowerDown (complete : Bool)
  /-- PHOTOMETER_POWER_UP (R405): The Photometer restores its store, recovering a checkpoint if needed. -/
  | photometerPowerUp (broken : Bool) (clockKept : Option (BitVec 64))
  /-- REQ_GET_RECORD (R408): Record channel request for a stored record. -/
  | reqGetRecord (d : DieId)
  /-- REQ_DEMAND (R408): Record channel request for a DEMAND record. -/
  | reqDemand (d : DieId)
  /-- REQ_GET_CERT (R408): Record channel request for the certificate chain. -/
  | reqGetCert (d : DieId)
  /-- REQ_GET_EVENTS (R408): Record channel request for event log entries. -/
  | reqGetEvents (d : DieId)
  /-- EMIT (R397): An EMIT CSR write accepts a token and presents an emission event. -/
  | emit (h : HartId) (v : BitVec 64)
  /-- EMITDST_WRITE (R396): Sets the destination of the next token. -/
  | emitdstWrite (h : HartId) (v : BitVec 64)
  /-- EMITCFG_WRITE (R396): Sets the emission address space and function and clears DFAULT. -/
  | emitcfgWrite (h : HartId) (v : BitVec 64)
  /-- EMIT_TOKEN_WRITE (R397): The port writes an accepted token to EMITDST, setting DFAULT on a fault. -/
  | emitTokenWrite (h : HartId)
  /-- AUTH_GO (R476): Checks a debug authorisation and arms the Coelostat or refuses. -/
  | authGo
  /-- DISARM (R480): Ends ARMED. -/
  | disarm (d : DieId)
  /-- FREEZE (R477): CTRL.FREEZE triggers a freeze when armed. -/
  | freeze (d : DieId)
  /-- COEL_TRIG (R477): The COEL_TRIG pin held low 1 µs triggers a freeze. -/
  | coelTrig
  /-- JTAG_READOUT (R479): A debug instrument reads frozen state without writing it. -/
  | jtagReadout (x : ReadoutTarget)
  /-- PERF_SNAP (R464): Copies a cluster's or stack's live counters into snapshot words at one beat. -/
  | perfSnap (u : PerfUnit)
  /-- VIEW_SEL_WRITE (R465): Selects the unit a VF's counter view shows. -/
  | viewSelWrite (n : Fin 64) (v : BitVec 32)
  /-- TRACE_RECORD_WRITE (R470): The trace unit writes a record to the ring or drops it when full. -/
  | traceRecordWrite (m : DomeId)
  /-- REGISTER_WRITE (R9): A write to a register field with no behaviour of its own, per its access code. -/
  | registerWrite (q : Requester) (addr : BitVec 52) (v : RegData)
  /-- TAP_BAD_FRAME (R393): The Photometer receives a tap frame with a bad CRC or malformed fields and counts it towards TAP_FAULT. -/
  | tapBadFrame (d : DieId)
  /-- LANE_LOCK_LOST (R344): A Kuzopa lane loses lock, so the link narrows or, with no lane left, goes down. -/
  | laneLockLost (p : PortId) (lane : Fin 4)
  /-- RECEIVE_MARGIN_MET (R343): During EQUALISE every lane meets its receive margin and training moves on to LOCK. -/
  | receiveMarginMet (p : PortId)
  /-- PERST_DEASSERT (R367): PERST# is deasserted, the BIFUR strap is sampled and the host link begins training. -/
  | perstDeassert (bifur : Bool)
  /-- HOST_LINK_UP (R366): The host link finishes training at some width and rate, and LINK0_UP or LINK1_UP is set. -/
  | hostLinkUp (link : Fin 2) (width : BitVec 5) (speed : BitVec 3)
  /-- CLEAR_ALL_DONE (R282): A CLEAR_ALL finishes, CLEAR_BUSY falls and the operations held meanwhile proceed. -/
  | clearAllDone (u : SyncUnit)
  /-- SUPPLY_SLEW_DONE (R38): A die's core supply reaches the selected operating point, SLEWING clears and POINT_ACTIVE changes. -/
  | supplySlewDone (d : DieId)
  /-- SVN_FUSE_DONE (R381): A fuse write of SVN_MIN finishes and SVN_BUSY clears. -/
  | svnFuseDone (d : DieId)
  /-- SBI_FIRMWARE_CALL (R311): A host-class core makes the SBI call with a call block address, which is run or answered with SBI_ERR_INVALID_ADDRESS. -/
  | sbiFirmwareCall (h : HartId) (a0 : BitVec 56)
  /-- EXPLICIT_POWER_DOWN (R190): The module is powered down explicitly, after firmware has cleaned every stack cache, and its edge rings switch off. -/
  | explicitPowerDown
  deriving DecidableEq, Repr

end Sys2Proof
end

