-- ==== Sys2Proof/Decode.lean ====
section
/-! DEFINITION. The command that a word spells. The table of the block's commands gives no row any bits (log entry 1), so no word spells one. -/

namespace Sys2Proof

/-- No row of the table has bits (log entry 1): every word is refused. [log 1 DEDUCED] -/
def decodeTableWord (_nbits _w : Nat) : Option Instr := none

end Sys2Proof
end

