-- ==== Sys2Proof/Config.lean ====
section
/-! DEFINITION. What one module fixes and the spec leaves open: the free values (constants without a body, so that nothing can be proved of their value) and the results of outside algorithms. notes/assumptions/6.md and 10.md name them. -/

namespace Sys2Proof.Config

/-- A free value of w bits; the state's counter picks which (log entry 6). [log 6 DESIGN CHOICE] -/
opaque freeBits (w n : Nat) : BitVec w

/-- A free choice among alternatives: a victim line (R188), a look-aside entry (R225). -/
opaque freeChoice (n : Nat) : Nat

/-- SHA-384 (R3). [log 10 DEDUCED] -/
opaque sha384 (m : List Byte) : BitVec 384

/-- ECDSA P-384 verification: public key, message, signature (R3). -/
opaque ecdsaVerify (key : List Byte) (m : List Byte) (sig : List Byte) : Bool

/-- ECDSA P-384 signature under the Photometer's key (R399). -/
opaque meterSign (m : List Byte) : List Byte

/-- The Photometer's certificate chain (R407). -/
opaque meterCerts : List Byte

/-- What the approximated functions of the vector engine choose inside R90's error bounds. -/
opaque vexp2 (x : Word32) : Word32
opaque vlog2 (x : Word32) : Word32
opaque vrcp (x : Word32) : Word32
opaque vrsqrt (x : Word32) : Word32
opaque vtanh (x : Word32) : Word32
opaque vgelu (x : Word32) : Word32

/-- What the Ulizen exponential chooses inside R90's error bound. -/
opaque ulzExp2 (x : Word32) : Word32

/-- Fused values of the module (R340, R378, R381). -/
opaque uid : BitVec 96
opaque rootDigest : BitVec 384
/-- The root public key as the mask ROM holds it, x then y (R378). -/
opaque rootKey : List Byte

/-- The Coelostat's NONCE of a draw (R476). -/
opaque coelNonce (attempts : Nat) : BitVec 128

/-- The two flash banks as the module leaves manufacture: commit record bytes and image bytes (R379). -/
opaque bankRecord (bank : Bool) : List Byte
opaque bankImage (bank : Bool) : List Byte

/-- Answers of the outside management standards (SPDM, DOE, PLDM) to a request (R382, R385). -/
opaque spdmReply (code : Nat) (request : List Byte) (nonce : Nat) : List Byte
opaque pldmReply (kind : Nat) (request : List Byte) : List Byte

/-- The measurement digest of R383 of an index, over what the index measures. -/
opaque measurement (index : Nat) (measured : List Byte) : List Byte

/-- What the load-time checks of R130, R143 and R302 find on the paths of an image that the model's checker does not follow: the locator of a refusal, for an image that has one. -/
opaque portholeMissing (image : List Byte) : Option (BitVec 64)
opaque tqDepth (image : List Byte) : Option (BitVec 64)
opaque scratchOverflow (image : List Byte) : Option (BitVec 64)

/-- The shape of an image's model, which no section of it states: page lists of a sequence (layers times KV-head groups), d_head, the format of its KV, and its MoE layers (R242, R259, R320, R330). [log 81 DEDUCED] -/
opaque kvLists (image : BitVec 384) : Nat
opaque kvHeadDim (image : BitVec 384) : Nat
opaque kvFormat (image : BitVec 384) : Nat
opaque moeLayers (image : BitVec 384) : Nat

/-- What an adapter package holds for one of the 8 private experts of a MoE layer: whether it is used, its shared expert, its dense weights, its difference in directory form and its router row (R329). -/
structure PackedExpert where
  present : Bool
  base : Nat
  dense : List (BitVec 8)
  diff : List (BitVec 8)
  router : List (BitVec 8)
  deriving DecidableEq, Repr

/-- An adapter package as its bytes lay it out, by MoE layer; the layout is the Heluz toolchain's (R329). [log 95 DEDUCED] -/
opaque adapterPackage (package : List (BitVec 8)) : List (List PackedExpert)

/-- The sensors that neighbour a sensor (R446). [log 136 DEDUCED] -/
opaque neighbours (sensor : Nat) : List Nat

end Sys2Proof.Config
end

