-- ==== Sys2Proof/Machine/Store.lean ====
section
/-! DEFINITION. The two kinds of storage every block is built from: a table of units by name, and a byte memory in canonical form (keys strictly rising, no byte listed that an unlisted address reads as). -/

namespace Sys2Proof.Machine

/-- A table of units: the units that differ from the table's default, each named once. -/
abbrev Table (κ α : Type) := List (κ × α)

/-- The entry of a unit; the default when none is listed. -/
def Table.read {κ α : Type} [DecidableEq κ] (dflt : α) : Table κ α → κ → α
  | [], _ => dflt
  | (k', a) :: t, k => if k' = k then a else Table.read dflt t k

/-- The table with one unit's entry replaced. -/
def Table.write {κ α : Type} [DecidableEq κ] : Table κ α → κ → α → Table κ α
  | [], k, a => [(k, a)]
  | (k', a') :: t, k, a => if k' = k then (k, a) :: t else (k', a') :: Table.write t k a

/-- A byte memory. An address that is not listed reads 0. -/
abbrev Memory := List Host.Cell

/-- What an unlisted address reads as (R484 for stack memory; log entries 7 and 8 elsewhere). [log 8 DESIGN CHOICE] -/
def Memory.unlisted : BitVec 8 := 0

/-- One byte. -/
def Memory.byte : Memory → Nat → BitVec 8
  | [], _ => Memory.unlisted
  | (a', b) :: t, a => if a' = a then b else Memory.byte t a

/-- Insert a byte of an address that is not listed. -/
def Memory.insert : Memory → Nat → BitVec 8 → Memory
  | [], a, b => [(a, b)]
  | (a', b') :: t, a, b => if a < a' then (a, b) :: (a', b') :: t else (a', b') :: Memory.insert t a b

/-- Write one byte, keeping the canonical form. -/
def Memory.put (m : Memory) (a : Nat) (b : BitVec 8) : Memory :=
  let rest := m.filter (fun c => c.1 != a)
  if b = Memory.unlisted then rest else Memory.insert rest a b

/-- The bytes from an address on. -/
def Memory.bytes (m : Memory) (a : Nat) : Nat → List (BitVec 8)
  | 0 => []
  | n + 1 => Memory.byte m a :: Memory.bytes m (a + 1) n

/-- Write bytes from an address on. -/
def Memory.putBytes (m : Memory) (a : Nat) : List (BitVec 8) → Memory
  | [] => m
  | b :: t => Memory.putBytes (Memory.put m a b) (a + 1) t

/-- Drop every byte from lo to below hi (they read as unlisted). -/
def Memory.clear (m : Memory) (lo hi : Nat) : Memory :=
  m.filter (fun c => c.1 < lo || hi ≤ c.1)

/-- The canonical form: addresses strictly rising, no entry equal to the unlisted byte. -/
def Memory.wf : Memory → Bool
  | [] => true
  | [(_, b)] => b != Memory.unlisted
  | (a, b) :: (a', b') :: t => b != Memory.unlisted && decide (a < a') && Memory.wf ((a', b') :: t)

/-- Little-endian value of bytes (R5). -/
def leNat : List (BitVec 8) → Nat
  | [] => 0
  | b :: t => b.toNat + 256 * leNat t

/-- The n low bytes of a number, little-endian (R5). -/
def leBytes : Nat → Nat → List (BitVec 8)
  | 0, _ => []
  | n + 1, v => BitVec.ofNat 8 v :: leBytes n (v / 256)

/-- A list of given length made from a function of the index. -/
def tabulate {α : Type} (n : Nat) (f : Nat → α) : List α := (List.range n).map f

/-- Replace the element at an index. -/
def setAt {α : Type} : List α → Nat → α → List α
  | [], _, _ => []
  | _ :: t, 0, b => b :: t
  | a :: t, n + 1, b => a :: setAt t n b

end Sys2Proof.Machine
end

