-- ==== Sys2Proof/Machine/Formats.lean ====
section
/-! DEFINITION. Number formats: layouts, exact values, rounding, block scales, stochastic rounding and the approximated functions (04_number_formats_and_loss). -/

namespace Sys2Proof.Machine

/-! ## Exact values -/

/-- The value of an element: NaN, an infinity, or (-1)^neg * m * 2^e (R73). -/
inductive Num where
  | nan
  | inf (neg : Bool)
  | fin (neg : Bool) (m : Nat) (e : Int)
  deriving DecidableEq, Repr

def Num.zero : Num := .fin false 0 0
def Num.one : Num := .fin false 1 0

def Num.isNan : Num → Bool
  | .nan => true
  | _ => false

def Num.isInf : Num → Bool
  | .inf _ => true
  | _ => false

def Num.isZero : Num → Bool
  | .fin _ 0 _ => true
  | _ => false

/-- The sign bit (false for NaN, which is canonical). -/
def Num.neg : Num → Bool
  | .nan => false
  | .inf n => n
  | .fin n _ _ => n

def Num.negate : Num → Num
  | .nan => .nan
  | .inf n => .inf (!n)
  | .fin n m e => .fin (!n) m e

def Num.abs : Num → Num
  | .nan => .nan
  | .inf _ => .inf false
  | .fin _ m e => .fin false m e

/-- The signed coefficient at a lower exponent. -/
def scaled (neg : Bool) (m : Nat) (e lo : Int) : Int :=
  let v : Int := ((m * 2 ^ (e - lo).toNat : Nat) : Int)
  if neg then -v else v

/-- Exact product; infinity times zero is NaN (R86). -/
def Num.mul : Num → Num → Num
  | .nan, _ => .nan
  | _, .nan => .nan
  | .inf a, .inf b => .inf (a != b)
  | .inf a, .fin b m _ => if m = 0 then .nan else .inf (a != b)
  | .fin a m _, .inf b => if m = 0 then .nan else .inf (a != b)
  | .fin a m e, .fin b n f => .fin (a != b) (m * n) (e + f)

/-- Exact sum; infinities of opposite sign give NaN; an exact zero is +0 unless both terms are negative. -/
def Num.add : Num → Num → Num
  | .nan, _ => .nan
  | _, .nan => .nan
  | .inf a, .inf b => if a = b then .inf a else .nan
  | .inf a, .fin _ _ _ => .inf a
  | .fin _ _ _, .inf b => .inf b
  | .fin a m e, .fin b n f =>
    let lo := if e < f then e else f
    let v := scaled a m e lo + scaled b n f lo
    if v = 0 then .fin (a && b) 0 0 else .fin (decide (v < 0)) v.natAbs lo

/-- Order of two values that are not NaN; the zeros compare equal. -/
def Num.lt : Num → Num → Bool
  | .nan, _ => false
  | _, .nan => false
  | .inf a, .inf b => a && !b
  | .inf a, .fin _ _ _ => a
  | .fin _ _ _, .inf b => !b
  | .fin a m e, .fin b n f =>
    let lo := if e < f then e else f
    decide (scaled a m e lo < scaled b n f lo)

/-- Equality of two values that are not NaN; the zeros are equal. -/
def Num.eq (x y : Num) : Bool := !x.isNan && !y.isNan && !Num.lt x y && !Num.lt y x

/-- Maximum and minimum: NaN when either is NaN, and -0 lies below +0 (R192). -/
def Num.max (x y : Num) : Num :=
  if x.isNan || y.isNan then .nan
  else if Num.lt x y then y else if Num.lt y x then x else if x.neg then y else x

def Num.min (x y : Num) : Num :=
  if x.isNan || y.isNan then .nan
  else if Num.lt x y then x else if Num.lt y x then y else if x.neg then x else y

/-- The exponent of a non-zero magnitude: floor of its base-2 logarithm. -/
def magExp (m : Nat) (e : Int) : Int := (Nat.log2 m : Int) + e

/-! ## Format codes (R72, R73, R75) -/

/-- A floating-point layout: exponent bits, mantissa bits, bias, largest finite magnitude's bits, infinity, NaN. -/
structure FloatFmt where
  eb : Nat
  mb : Nat
  bias : Nat
  maxFinite : Nat
  inf : Option Nat
  nan : Option Nat

def fp32 : FloatFmt := ⟨8, 23, 127, 0x7F7FFFFF, some 0x7F800000, some 0x7FC00000⟩
def bf16 : FloatFmt := ⟨8, 7, 127, 0x7F7F, some 0x7F80, some 0x7FC0⟩
def fp16 : FloatFmt := ⟨5, 10, 15, 0x7BFF, some 0x7C00, some 0x7E00⟩
def e4m3 : FloatFmt := ⟨4, 3, 7, 0x7E, none, some 0x7F⟩
def e5m2 : FloatFmt := ⟨5, 2, 15, 0x7B, some 0x7C, some 0x7E⟩
def e3m2 : FloatFmt := ⟨3, 2, 3, 0x1F, none, none⟩
def e2m3 : FloatFmt := ⟨2, 3, 1, 0x1F, none, none⟩
def e2m1 : FloatFmt := ⟨2, 1, 1, 0x7, none, none⟩

/-- The floating-point formats by code (R72). -/
def floatFmt : Nat → Option FloatFmt
  | 0 => some fp32
  | 1 => some bf16
  | 2 => some fp16
  | 3 => some e4m3
  | 4 => some e5m2
  | 5 => some e3m2
  | 6 => some e2m3
  | 7 => some e2m1
  | _ => none

/-- Element bits by format code (R72); 0 for a code that is no format. -/
def elemBits (c : Nat) : Nat := [32, 16, 16, 8, 8, 6, 6, 4, 8, 4, 4, 32, 64].getD c 0

/-- Whether a format code exists (R72). -/
def fmtValid (c : Nat) : Bool := c < 13

/-- Scaled formats carry block scales (R72). -/
def isScaled (c : Nat) : Bool := c = 5 || c = 6 || c = 7 || c = 9

/-- Integer formats (R75). -/
def isInt (c : Nat) : Bool := 8 ≤ c && c ≤ 12

/-- Bytes of a Plate or Plate6, and of one stripe (R78, R79). -/
def plateBytes (c : Nat) : Nat := if c = 5 || c = 6 then 832 else 576
def stripeBytes (c : Nat) : Nat := if c = 5 || c = 6 then 104 else 72

/-- The format maximum used to choose a block scale (R82), as a fraction. -/
def fmtMax (c : Nat) : Nat × Nat :=
  if c = 7 then (6, 1) else if c = 5 then (28, 1) else if c = 6 then (15, 2) else (7, 1)

/-- The value of a floating-point element (R73). -/
def FloatFmt.value (f : FloatFmt) (b : Nat) : Num :=
  let mag := b % 2 ^ (f.eb + f.mb)
  let neg := b / 2 ^ (f.eb + f.mb) % 2 = 1
  if some mag = f.inf then .inf neg
  else if f.maxFinite < mag then .nan
  else
    let ef := mag / 2 ^ f.mb
    let mant := mag % 2 ^ f.mb
    if ef = 0 then .fin neg mant (1 - (f.bias : Int) - f.mb)
    else .fin neg (2 ^ f.mb + mant) ((ef : Int) - f.bias - f.mb)

/-- Two's complement value of a w-bit word (R75). -/
def intValue (w b : Nat) : Int := (BitVec.ofNat w b).toInt

/-- The value of an integer as a number. -/
def Num.ofInt (i : Int) : Num := .fin (decide (i < 0)) i.natAbs 0

/-- The value of an element of a format, before any scale. -/
def elemValue (c b : Nat) : Num :=
  match floatFmt c with
  | some f => f.value b
  | none => .ofInt (intValue (elemBits c) b)

/-- A block scale byte: zero or a positive value; none when malformed; NaN for 0xFF (R74). -/
def scaleValue (b : Nat) : Option Num :=
  if b = 0xFF then some .nan
  else if 0xF8 ≤ b then none
  else if b / 8 = 0 then some (.fin false (b % 8) (-17))
  else some (.fin false (8 + b % 8) ((b / 8 : Nat) - 18))

/-! ## Rounding (R83, R84) -/

/-- How a magnitude between two neighbours rounds: to nearest even, or against a 16-bit draw. -/
inductive Rounding where
  | nearest
  | stochastic (draw : Nat)

/-- Round num/den to an integer. -/
def roundNat (mode : Rounding) (num den : Nat) : Nat :=
  let q := num / den
  let r := num % den
  match mode with
  | .nearest => if 2 * r < den then q else if den < 2 * r then q + 1 else q + q % 2
  | .stochastic d => if d < r * 65536 / den then q + 1 else q

/-- floor of the base-2 logarithm of num/den, both non-zero. -/
def ratLog2 (num den : Nat) : Int :=
  let k : Int := (Nat.log2 num : Int) - Nat.log2 den
  if num * 2 ^ (-k).toNat < den * 2 ^ k.toNat then k - 1 else k

/-- The magnitude bits of num/den * 2^e in a format, as if its exponent range were unbounded above; subnormals gradual (R73, R83). -/
def FloatFmt.roundMag (f : FloatFmt) (mode : Rounding) (num den : Nat) (e : Int) : Nat :=
  if num = 0 then 0 else
  let emin : Int := 1 - (f.bias : Int)
  let ex := ratLog2 num den + e
  let q := (if ex < emin then emin else ex) - f.mb
  let r := roundNat mode (num * 2 ^ (e - q).toNat) (den * 2 ^ (q - e).toNat)
  (q - (emin - f.mb)).toNat * 2 ^ f.mb + r

/-- The flags of a narrowing conversion (R83, R154). -/
structure CvtFlags where
  sat : Bool := false
  nanZero : Bool := false
  zero : Bool := false

def CvtFlags.or (a b : CvtFlags) : CvtFlags := ⟨a.sat || b.sat, a.nanZero || b.nanZero, a.zero || b.zero⟩

/-- Sign bit of a format. -/
def FloatFmt.signBit (f : FloatFmt) (neg : Bool) : Nat := if neg then 2 ^ (f.eb + f.mb) else 0

/-- Narrow x / y into a floating-point format (R83, R84); y is positive and finite. -/
def FloatFmt.narrow (f : FloatFmt) (mode : Rounding) (x y : Num) : Nat × CvtFlags :=
  match x with
  | .nan => (f.nan.getD 0, {})
  | .inf n =>
    match f.inf with
    | some b => (b + f.signBit n, {})
    | none => (f.maxFinite + f.signBit n, { sat := true })
  | .fin n m e =>
    match y with
    | .fin _ d g =>
      let b := f.roundMag .nearest m d (e - g)
      if f.maxFinite < b then (f.maxFinite + f.signBit n, { sat := true })
      else
        let b' := Nat.min f.maxFinite (f.roundMag mode m d (e - g))
        (b' + f.signBit n, { zero := m ≠ 0 && b' = 0 })
    | _ => (f.nan.getD 0, {})

/-- Narrow x / y into a w-bit integer (R83). -/
def narrowInt (w : Nat) (mode : Rounding) (x y : Num) : Nat × CvtFlags :=
  let hi : Nat := 2 ^ (w - 1) - 1
  let clampTo (n : Bool) : Nat := if n then 2 ^ (w - 1) else hi
  match x, y with
  | .nan, _ => (0, { nanZero := true })
  | .inf n, _ => (clampTo n, { sat := true })
  | .fin n m e, .fin _ d g =>
    let num := m * 2 ^ (e - g).toNat
    let den := d * 2 ^ (g - e).toNat
    let r := roundNat .nearest num den
    if (if n then hi + 1 else hi) < r then (clampTo n, { sat := true })
    else
      let r' := Nat.min (if n then hi + 1 else hi) (roundNat mode num den)
      ((BitVec.ofInt w (if n then -(r' : Int) else r')).toNat, { zero := m ≠ 0 && r' = 0 })
  | _, _ => (0, {})

/-- Narrow x / y into the format of a code. -/
def narrowTo (c : Nat) (mode : Rounding) (x y : Num) : Nat × CvtFlags :=
  match floatFmt c with
  | some f => f.narrow mode x y
  | none => narrowInt (elemBits c) mode x y

/-- The result of arithmetic in a format: to nearest even with IEEE 754 overflow to the infinity (R88, R192). -/
def FloatFmt.arith (f : FloatFmt) (x : Num) : Nat :=
  match x with
  | .nan => f.nan.getD 0
  | .inf n => f.inf.getD f.maxFinite + f.signBit n
  | .fin n m e =>
    let b := f.roundMag .nearest m 1 e
    (if f.maxFinite < b then f.inf.getD f.maxFinite else b) + f.signBit n

/-- FP32 words and values. -/
def f32 (w : Word32) : Num := fp32.value w.toNat
def toF32 (x : Num) : Word32 := BitVec.ofNat 32 (fp32.arith x)

/-- Whether an FP32 word is a positive normal number, as a tensor scale must be (R81). -/
def tensorScaleOk (w : Word32) : Bool := 0x00800000 ≤ w.toNat && w.toNat ≤ 0x7F7FFFFF

/-! ## Block scales (R82) -/

/-- Whether x / y is at most the value of a scale code times the format maximum. -/
def scaleCovers (c : Nat) (x y : Num) (code : Nat) : Bool :=
  match scaleValue code, x, y with
  | some (.fin _ sm se), .fin _ m e, .fin _ d g =>
    -- m/d * 2^(e-g) ≤ sm * 2^se * fn/fd
    let fn := (fmtMax c).1
    let fd := (fmtMax c).2
    let k := (e - g) - se
    decide (m * fd * 2 ^ k.toNat ≤ sm * fn * d * 2 ^ (-k).toNat)
  | _, _, _ => false

/-- The largest magnitude of a block. -/
def blockMax : List Num → Num
  | [] => .zero
  | x :: t => Num.max x.abs (blockMax t)

/-- The scale byte a writer chooses for a block of inputs and a tensor scale (R82). -/
def chooseScale (c : Nat) (ts : Num) (xs : List Num) : Nat :=
  match blockMax xs with
  | .nan => 0xFF
  | .inf _ => 0xF7
  | .fin n m e =>
    if m = 0 then 0
    else ((List.range 0xF8).tail.find? (fun code => scaleCovers c (.fin n m e) ts code)).getD 0xF7

/-! ## Stochastic rounding draws (R85) -/

/-- One step of the Galois LFSR: the new state and the output bit. -/
def lfsrStep (s : Word32) : Word32 × Bool :=
  let s' := s >>> 1
  if s.getLsbD 0 then (s' ^^^ 0x80200003, true) else (s', false)

/-- n steps; the first output bit lands in bit 0. -/
def lfsrSteps : Nat → Word32 → Word32 × Nat
  | 0, s => (s, 0)
  | n + 1, s =>
    let a := lfsrStep s
    let r := lfsrSteps n a.1
    (r.1, 2 * r.2 + (if a.2 then 1 else 0))

/-- The draws of a number of lanes from a state. -/
def lfsrDraws : Nat → Word32 → Word32 × List Nat
  | 0, s => (s, [])
  | n + 1, s =>
    let a := lfsrSteps 16 s
    let r := lfsrDraws n a.1
    (r.1, a.2 :: r.2)

/-- A seed as it is loaded (R85). -/
def seedOf (v : Word32) : Word32 := if v = 0 then 1 else v

/-! ## Approximated functions (R90): exact outside their domain; inside it a free value that R90's error bounds (log entry 11)

The exact values are computed in fixed point, with 160 bits after the point and more terms of each series than change those bits. -/

def fxOne : Nat := 2 ^ 160
def fxMul (a b : Nat) : Nat := a * b / fxOne
/-- ln 2, log2 e, 2 / sqrt pi and 1 / sqrt 2. -/
def fxLn2 : Nat := 0xb17217f7d1cf79abc9e3b39803f2f6af40f34326
def fxLog2e : Nat := 0x171547652b82fe1777d0ffda0d23a7d11d6aef551
def fxErfScale : Nat := 0x120dd750429b6d11ae3a914fed7fd8688281341d7
def fxHalfRoot : Nat := 0xb504f333f9de6484597d89b3754abe9f1d6f60ba

/-- A magnitude m * 2^e in fixed point. -/
def toFx (m : Nat) (e : Int) : Nat := m * 2 ^ (e + 160).toNat / 2 ^ (-(e + 160)).toNat

/-- The terms y^k / k! from the k-th on, t being the k-th. -/
def expTerms : Nat → Nat → Nat → Nat → Nat
  | 0, _, _, _ => 0
  | n + 1, k, t, y => t + expTerms n (k + 1) (fxMul t y / (k + 1)) y

/-- 2 to a fraction below 1. -/
def exp2Frac (f : Nat) : Nat := expTerms 60 0 fxOne (fxMul f fxLn2)

/-- The odd powers of z over their exponents, from exponent k on, t being z^k. -/
def oddTerms : Nat → Nat → Nat → Nat → Nat
  | 0, _, _, _ => 0
  | n + 1, k, t, z => t / k + oddTerms n (k + 2) (fxMul t z) z

/-- log2 of a value of at least 1 and below 2, by the area hyperbolic tangent. -/
def log2Frac (m : Nat) : Nat :=
  let z := (m - fxOne) * fxOne / (m + fxOne)
  fxMul (2 * oddTerms 64 1 z (fxMul z z)) fxLog2e

/-- The terms of erf's series of positive terms: each is the one before times 2 z^2 / k, k odd. -/
def erfTerms : Nat → Nat → Nat → Nat → Nat
  | 0, _, _, _ => 0
  | n + 1, k, t, w => t + erfTerms n (k + 2) (fxMul t w / (k + 2)) w

/-- 2^y for a fixed-point y of at least 0: the power's integer part, and its fraction. -/
def exp2Parts (y : Nat) : Nat × Nat := (y / fxOne, exp2Frac (y % fxOne))

/-- erf of a fixed-point z of at least 0. -/
def erfFx (z : Nat) : Nat :=
  let p := exp2Parts (fxMul (fxMul z z) fxLog2e)
  fxMul (fxMul fxErfScale (erfTerms 220 1 z (2 * fxMul z z))) (fxOne * fxOne / (p.2 * 2 ^ p.1))

/-- The square root of n rounded down, bit by bit from a power of two. -/
def sqrtBits : Nat → Nat → Nat → Nat
  | 0, _, r => r
  | k + 1, n, r => sqrtBits k n (if (r + 2 ^ k) * (r + 2 ^ k) ≤ n then r + 2 ^ k else r)

/-- Magnitude bits at most d away from b, a free choice of w, at most the infinity's. -/
def nearBits (b d inf : Nat) (w : Word32) : Nat := Nat.min inf (b + w.toNat % (2 * d + 1) - d)

def ge (x : Num) (n : Int) : Bool := !x.isNan && !Num.lt x (.ofInt n)

/-- 2^x rounded once, for a finite x from -149 up to 128. -/
def exp2Bits (f : FloatFmt) (x : Num) : Nat :=
  match x with
  | .fin n m e =>
    let y := if n then 150 * fxOne - toFx m e else 150 * fxOne + toFx m e
    f.roundMag .nearest (exp2Frac (y % fxOne)) 1 (((y / fxOne : Nat) : Int) - 150 - 160)
  | _ => 0

/-- 2 to the power of a value, within R90's bound. [log 11 DEDUCED] -/
def exp2Of (w : Word32) : Word32 :=
  let x := f32 w
  if x.isNan then 0x7FC00000 else if ge x 128 then 0x7F800000 else if Num.lt x (.ofInt (-149)) then 0
  else BitVec.ofNat 32 (nearBits (exp2Bits fp32 x) 2 0x7F800000 (Config.vexp2 w))

/-- log2 of m * 2^e rounded once; m is not 0. -/
def log2Bits (m : Nat) (e : Int) : Bool × Nat :=
  let k := Nat.log2 m
  let v : Int := (e + k) * (fxOne : Nat) + (log2Frac (m * fxOne / 2 ^ k) : Nat)
  (decide (v < 0), fp32.roundMag .nearest v.natAbs 1 (-160))

def log2Of (w : Word32) : Word32 :=
  let x := f32 w
  if x.isNan then 0x7FC00000 else if x.isZero then 0xFF800000 else if x.neg then 0x7FC00000
  else if x.isInf then 0x7F800000 else if Num.eq x .one then 0 else
  match x with
  | .fin _ m e =>
    let r := log2Bits m e
    BitVec.ofNat 32 (nearBits r.2 2 0x7F800000 (Config.vlog2 w) + fp32.signBit r.1)
  | _ => 0

/-- The reciprocal: the exactly rounded result or one of its two neighbours. -/
def rcpOf (w : Word32) : Word32 :=
  match f32 w with
  | .nan => 0x7FC00000
  | .inf n => if n then 0x80000000 else 0
  | .fin n m e =>
    if m = 0 then (if n then 0xFF800000 else 0x7F800000) else
    BitVec.ofNat 32 (nearBits (fp32.roundMag .nearest 1 m (-e)) 1 0x7F800000 (Config.vrcp w) + fp32.signBit n)

/-- 1 / sqrt(m * 2^e) rounded once: 200 bits of the root, and one more that says whether it is exact. -/
def rsqrtBits (m : Nat) (e : Int) : Nat :=
  let odd := e % 2
  let n := m * 2 ^ odd.toNat
  let r := sqrtBits 201 (2 ^ 400 / n) 0
  fp32.roundMag .nearest (2 * r + (if r * r * n = 2 ^ 400 then 0 else 1)) 1 (-(e - odd) / 2 - 201)

def rsqrtOf (w : Word32) : Word32 :=
  let x := f32 w
  if x.isNan then 0x7FC00000 else if x.isZero then (if x.neg then 0xFF800000 else 0x7F800000)
  else if x.neg then 0x7FC00000 else if x.isInf then 0 else
  match x with
  | .fin _ m e => BitVec.ofNat 32 (nearBits (rsqrtBits m e) 2 0x7F800000 (Config.vrsqrt w))
  | _ => 0

/-- A free word when it lies within 2^-20 of v * 2^-160, else that value rounded. -/
def nearValue (neg : Bool) (v : Nat) (w : Word32) : Word32 :=
  let ref : Num := .fin neg v (-160)
  let off := Num.add (f32 w) ref.negate
  if off.isNan || off.isInf || Num.lt (.fin false 1 (-20)) off.abs then toF32 ref else w

/-- tanh of a magnitude below 9. -/
def tanhFx (y : Nat) : Nat :=
  let p := exp2Parts (fxMul (2 * y) fxLog2e)
  let v := p.2 * 2 ^ p.1
  (v - fxOne) * fxOne / (v + fxOne)

def tanhOf (w : Word32) : Word32 :=
  let x := f32 w
  if x.isNan then 0x7FC00000 else if ge x.abs 9 then (if x.neg then 0xBF800000 else 0x3F800000) else
  match x with
  | .fin n m e => nearValue n (tanhFx (toFx m e)) (Config.vtanh w)
  | _ => 0

/-- x times the normal distribution function of x, for a magnitude below 8. -/
def geluFx (neg : Bool) (y : Nat) : Nat :=
  let g := Nat.min fxOne (erfFx (fxMul y fxHalfRoot))
  fxMul y (if neg then fxOne - g else fxOne + g) / 2

def geluOf (w : Word32) : Word32 :=
  let x := f32 w
  if x.isNan then 0x7FC00000 else if ge x 8 then w else if ge x.negate 8 then 0x80000000 else
  match x with
  | .fin n m e => nearValue n (geluFx n (toFx m e)) (Config.vgelu w)
  | _ => 0

/-- The Ulizen exponential: the limits of exp2; its result is a BF16 value, as an FP32 word. -/
def ulzExp2Of (w : Word32) : Word32 :=
  let x := f32 w
  if x.isNan then 0x7FC00000 else if ge x 128 then 0x7F800000 else if Num.lt x (.ofInt (-149)) then 0
  else BitVec.ofNat 32 (nearBits (exp2Bits bf16 x) 1 0x7F80 (Config.ulzExp2 w) * 65536)

/-! ## Packed elements (R76, R78, R79) -/

/-- Bit offset of element i of a run of w-bit elements (R76). -/
def bitOffset (w i : Nat) : Nat := w * i

/-- Byte offset of block (stripe s, block b)'s scale, and of its first data byte, in a tensor of Plates. -/
def scaleOffset (c n : Nat) : Nat :=
  (n / 1024) * plateBytes c + ((n % 1024) / 128) * stripeBytes c + (n / 16) % 8
def blockOffset (c n : Nat) : Nat :=
  (n / 1024) * plateBytes c + ((n % 1024) / 128) * stripeBytes c + 8 + ((n / 16) % 8) * (stripeBytes c / 8 - 1)

/-- Bytes of one block's data. -/
def blockBytes (c : Nat) : Nat := stripeBytes c / 8 - 1

/-- Element i of packed bytes, w bits wide. -/
def packedElem (w : Nat) (bs : List Byte) (i : Nat) : Nat :=
  let lo := w * i / 8
  let n := leNat ((bs.drop lo).take ((w + 7) / 8 + 1))
  n / 2 ^ (w * i % 8) % 2 ^ w

/-- Pack elements of w bits into bytes. -/
def packElems (w : Nat) (xs : List Nat) : List Byte :=
  leBytes ((xs.length * w + 7) / 8) (xs.foldr (fun x acc => x + 2 ^ w * acc) 0)

end Sys2Proof.Machine
end

