-- ==== Sys2Proof/Machine/Codes.lean ====
section
/-! DEFINITION. The fault and firmware codes (R491). -/

namespace Sys2Proof.Machine

abbrev FaultCode := BitVec 16

namespace Code

def illegalOpcode : FaultCode := 0x1001
def reservedField : FaultCode := 0x1002
def branchTarget : FaultCode := 0x1003
def loopNest : FaultCode := 0x1004
def loopExit : FaultCode := 0x1005
def queueOverrun : FaultCode := 0x1006
def scopeInvalid : FaultCode := 0x1007
def operandRange : FaultCode := 0x1008
def syncTarget : FaultCode := 0x1009
def pcOverrun : FaultCode := 0x100A
def configDropped : FaultCode := 0x100B
def tqOverrun : FaultCode := 0x1101
def tqEmpty : FaultCode := 0x1102
def tqBusy : FaultCode := 0x1103
def accState : FaultCode := 0x1104
def operandAlign : FaultCode := 0x1105
def paramRange : FaultCode := 0x1106
def descAlign : FaultCode := 0x1201
def descField : FaultCode := 0x1202
def descSide : FaultCode := 0x1203
def transposeAlias : FaultCode := 0x1204
def overlapOrder : FaultCode := 0x1205
def indexRange : FaultCode := 0x1206
def ulzIllegal : FaultCode := 0x1301
def ulzPc : FaultCode := 0x1302
def ulzRow : FaultCode := 0x1303
def ulzStore : FaultCode := 0x1304
def ulzLane : FaultCode := 0x1305
def ulzPage : FaultCode := 0x1306
def kvcOrder : FaultCode := 0x1307
def unmapped : FaultCode := 0x2001
def scratchHole : FaultCode := 0x2002
def regionInvalid : FaultCode := 0x2003
def regionDenied : FaultCode := 0x2004
def scratchDenied : FaultCode := 0x2005
def regDenied : FaultCode := 0x2006
def opTarget : FaultCode := 0x2007
def misaligned : FaultCode := 0x2008
def unreachable : FaultCode := 0x2009
def frameDenied : FaultCode := 0x2101
def pageUnmapped : FaultCode := 0x2201
def syncDenied : FaultCode := 0x2301
def syncOp : FaultCode := 0x2302
def syncScope : FaultCode := 0x2303
def syncOffline : FaultCode := 0x2304
def uncorrectable : FaultCode := 0x3001
def poisoned : FaultCode := 0x3002
def atomicAlign : FaultCode := 0x3101
def stackOffline : FaultCode := 0x3102
def fmtInvalid : FaultCode := 0x5001
def tensorScale : FaultCode := 0x5002
def plateShape : FaultCode := 0x5003
def formatPair : FaultCode := 0x5004
def plateTranspose : FaultCode := 0x5005
def scaleMalformed : FaultCode := 0x5006
def noRoute : FaultCode := 0x6001
def updownViolation : FaultCode := 0x6002
def hopLimit : FaultCode := 0x6003
def respTimeout : FaultCode := 0x6004
def idUnassigned : FaultCode := 0x6005
def ingressClosed : FaultCode := 0x6006
def dbFull : FaultCode := 0x6007
def mgmtDenied : FaultCode := 0x6008
def mgmtTimeout : FaultCode := 0x6009
def coreOff : FaultCode := 0x7001
def ringTrip : FaultCode := 0x7002
def stackTrip : FaultCode := 0x7003
def sensorBroken : FaultCode := 0x7004
def inputLockout : FaultCode := 0x7005
def domeMalformed : FaultCode := 0x8101
def domeConflict : FaultCode := 0x8102
def domeBusy : FaultCode := 0x8103
def stepWatchdog : FaultCode := 0x8104
def callMalformed : FaultCode := 0x8201
def callDenied : FaultCode := 0x8202
def callBusy : FaultCode := 0x8203
def queueBroken : FaultCode := 0x8204
def cancelUnknown : FaultCode := 0x8205
def adapterNoRoom : FaultCode := 0x8206
def adapterBusy : FaultCode := 0x8207
def replayLimit : FaultCode := 0x8208
def reportBad : FaultCode := 0x8209
def full : FaultCode := 0x8211
def tooLong : FaultCode := 0x8212
def seqLimit : FaultCode := 0x8213
def entryMalformed : FaultCode := 0x8214
def draining : FaultCode := 0x8215
def adapterUnknown : FaultCode := 0x8216
def bootRecovery : FaultCode := 0x8301
def hostAccess : FaultCode := 0x8302
def imageRejected : FaultCode := 0x8303
def recUnavailable : FaultCode := 0x8401
def pmBusy : FaultCode := 0x8402
def tapStall : FaultCode := 0x8403
def retireNoRoom : FaultCode := 0x8501
def dieFenced : FaultCode := 0x8502
def handoffAborted : FaultCode := 0x8503
def cacheLost : FaultCode := 0x8504
def sourceMissing : FaultCode := 0x8505
def frameMissed : FaultCode := 0x8601
def logStart : FaultCode := 0x8602
def handoffDone : FaultCode := 0x8603
def coelostatFreeze : FaultCode := 0x8604
def traceFault : FaultCode := 0x8605
def authRefused : FaultCode := 0x8606
def stackFailed : FaultCode := 0x8701
def coreTestFailed : FaultCode := 0x8702
def dieAbsent : FaultCode := 0x8703
def callReset : FaultCode := 0x8704
def moduleReady : FaultCode := 0x8705
def imageMismatch : FaultCode := 0x9001
def formatUnsupported : FaultCode := 0x9002
def scratchOverflow : FaultCode := 0x9003
def syncExhausted : FaultCode := 0x9004
def portholeMissing : FaultCode := 0x9005
def tqDepth : FaultCode := 0x9006
def yieldDistance : FaultCode := 0x9007
def routeMissing : FaultCode := 0x9008
def kvReserve : FaultCode := 0x9009
def slotOverrun : FaultCode := 0x900A

end Code

end Sys2Proof.Machine
end

