-- ==== Sys2Proof/Machine/State.lean ====
section
/-! DEFINITION. The state of the module as plain data, block by block, with every field at its reset value (INVENTORY.md lists each field's rule), the queue of waiting commands, and the reasons a step can stop. -/

namespace Sys2Proof.Machine

/-- Nobody raises it: every meaning of this model ends in a next state, since the part reports its faults in its own registers and records (R71, R121, R237). Safe. -/
inductive Fault where
  | neverRaised
  deriving DecidableEq, Repr

/-- notModelled: raised by an arm of the dispatch whose command has no meaning yet. Safe. -/
inductive Refusal where
  | notModelled (mnemonic : String)
  deriving DecidableEq, Repr

/-! ## Register heads (R64, R66, R67) -/

/-- The head fields every block keeps (R64); ID, VERSION, CAPS, STATUS and CTRL are computed or belong to the block. -/
structure Head where
  errStatus : Word32 := 0
  errMask : Word32 := 0
  irqEvents : Word32 := 0
  irqEnable : Word32 := 0
  errAddr : Word64 := 0
  errTag : Word32 := 0
  errSyndrome : Word32 := 0
  counters : Table Nat Word32 := []
  deriving DecidableEq, Repr

/-- The blocks of R69. -/
inductive Block where
  | meridian (d : DieId) | security (d : DieId) | power (d : DieId) | guider (d : DieId)
  | coelostat (d : DieId) | photometerIf (d : DieId) | d2d (d : DieId) | stackCache (d : DieId)
  | sync (u : SyncUnit) | hostlink | kuzopaPort (p : PortId) | fabricRoute (d : DieId)
  | clusterSeq (c : ClusterId) | perf (u : PerfUnit) | core (k : CoreId) | dataEngine (k : CoreId)
  | hostcore (h : HartId) | stackCtrl (t : StackId) | ulizen (t : StackId) | slit (t : StackId)
  | reducer (t : StackId) | scrub (t : StackId)
  deriving DecidableEq, Repr

/-! ## Clusters and cores -/

/-- The engines of a core (R103). -/
inductive EngineKind where
  | me | ve | de | tq
  deriving DecidableEq, Repr

/-- An address register (R95, R111). -/
structure AddrReg where
  addr : Word64 := 0
  stride : Word64 := 0
  rept : Word32 := 0
  wrap : Word64 := 0
  count : Word32 := 0
  deriving DecidableEq, Repr

/-- A hardware loop level (R95, R108): body words start to stop, both included. -/
structure LoopLevel where
  active : Bool := false
  remaining : Word32 := 0
  iter : Word32 := 0
  start : Nat := 0
  stop : Nat := 0
  deriving DecidableEq, Repr

/-- Where the sequencer stands within its beat (R97, R116): the slot is free; the instruction whose last word is `last` ends with this beat (a taken branch goes to `target`); it holds for `left` more beats; it waits, and `first` says that the beat of the wait itself has not ended; or the step's ENTRY names a packet word, which its beat 0 finds (R101). -/
inductive SeqPhase where
  | ready
  | retire (last : Nat) (target : Option Nat)
  | hold (last : Nat) (left : Nat)
  | waiting (last : Nat) (obj : Nat) (goal : Word64) (first : Bool)
  | badEntry
  deriving DecidableEq, Repr

/-- How a stopped step ends (R121 to R123). -/
inductive StopKind where
  | ended | faulted | aborted
  deriving DecidableEq, Repr

/-- A cluster: its sequencer (R95), its CLUSTER_SEQ registers (R61, R125) and its PERF registers (R467). -/
structure Cluster where
  regs : Table (Fin 32) Word64 := []
  pc : Nat := 0
  ads : Table (Fin 3 × Fin 8) AddrReg := []
  lc : Table (Fin 4) Word32 := []
  levels : Table (Fin 4) LoopLevel := []
  bmask : Word32 := 0xFFFFFFFF
  beat : Word64 := 0
  phase : SeqPhase := .ready
  running : Bool := false
  stop : Option StopKind := none
  faultedFlag : Bool := false
  abortedFlag : Bool := false
  stepBeats : Word64 := 0
  lastStepBeats : Word64 := 0
  entry : BitVec 15 := 0
  args : Table (Fin 15) Word64 := []
  pstoreAddr : BitVec 15 := 0
  fabricOpen : Bool := false
  assigned : Bool := false
  dome : BitVec 4 := 0
  phPhase : BitVec 3 := 0
  slotNo : BitVec 3 := 0
  groupDuty : BitVec 3 := 0
  presented : Option (Nat × BitVec 16) := none
  sels : Table (Fin 16) Word32 := []
  coreSels : Table (Fin 8) Word32 := []
  ovf : Word32 := 0
  coreOvf : Word32 := 0
  snapBeat : Word64 := 0
  snaps : Table Nat Word32 := []
  /-- The first stop cause that waits to be reported to the Meridian core, and its command's tag (R115). -/
  stepCode : BitVec 16 := 0
  stepTag : BitVec 16 := 0
  deriving DecidableEq, Repr

/-- A command as an engine's queue holds it: its packet (R103), the word of its ISSUE and its resolved addresses (R112). -/
structure EngineCmd where
  packet : BitVec 128 := 0
  pc : Nat := 0
  a : Word64 := 0
  b : Word64 := 0
  d : Word64 := 0
  x : Word64 := 0
  /-- Presented in the current beat: it may begin in the next (R104). -/
  fresh : Bool := false
  deriving DecidableEq, Repr

/-- The command an engine runs (R104): the beats it has taken of its length, the operand bytes it has read and still uses, its indices, the chunk results of a reduction (R149), the bytes it writes, those of them that another engine's command makes undefined (R107), and whether a beat of the chunk in hand had too many bank accesses (R130). -/
structure Running where
  cmd : EngineCmd
  taken : Nat := 0
  len : Nat := 1
  a : List Byte := []
  b : List Byte := []
  idx : List Nat := []
  part : List Word32 := []
  dst : List (Nat × Nat) := []
  hazard : List (Nat × Nat) := []
  crowded : Bool := false
  deriving DecidableEq, Repr

/-- One engine's queue (R104). -/
structure EngineQueue where
  running : Option Running := none
  waiting : List EngineCmd := []
  deriving DecidableEq, Repr

/-- A 32 x 32 tile in row order (R136, R140). -/
structure Tile where
  isInt : Bool
  data : List Word32
  deriving DecidableEq, Repr

/-- An access waiting at a porthole gate (R63): within one 256-byte line of the scratchpad. -/
structure GateAccess where
  agent : Agent
  off : Nat
  len : Nat
  data : Option (List Byte)
  deriving DecidableEq, Repr

/-- An access of a DE command that has not been issued yet (R161, R175): it reads or writes bytes of the own side, or an address outside. A read names the piece of its row; a write of 4-bit elements may leave the low half of its first byte or the high half of its last byte as it is (R167). -/
inductive DeTask where
  | readOwn (piece off n : Nat)
  | readOut (piece : Nat) (addr : Word64) (n i1 i2 : Nat)
  | writeOwn (off : Nat) (data : List Byte) (keepLow keepHigh : Bool)
  | writeOut (addr : Word64) (data : List Byte) (keepLow keepHigh : Bool) (i1 i2 : Nat)
  /-- A row of a page list that leaves its region at an address (R244, R260). -/
  | unmapped (addr : Word64) (i1 i2 : Nat)
  deriving DecidableEq, Repr

/-- A DE command between its first beat and its completion (R157, R175, R176, R179): its descriptor, indices and page addresses, the accesses still to issue, what its reads have returned, the local accesses not yet answered and the number of remote ones, the ranges that its writes have covered, its first fault, the KV-commit events still to present, the bytes of its own side it may touch, those it writes, and those another engine's command makes undefined (R107, R177). [log 39 DEDUCED] -/
structure DeJob where
  cmd : EngineCmd
  desc : BitVec 512 := 0
  idx : List Nat := []
  pages : List Nat := []
  writing : Bool := false
  todo : List DeTask := []
  buf : Table Nat (List Byte) := []
  flight : List Word64 := []
  remote : Nat := 0
  written : List (Nat × Nat) := []
  fault : Option (BitVec 16 × Word64 × Nat × Nat) := none
  kvEvents : Nat := 0
  touch : List (Nat × Nat) := []
  dst : List (Nat × Nat) := []
  hazard : List (Nat × Nat) := []
  deriving DecidableEq, Repr

/-- Local accesses of a DE command that have not been answered. -/
def DeJob.owed (j : DeJob) : Nat := j.flight.length

/-- A core: queues, ME accumulator and scales, tile queue, VE registers, sticky flags, porthole gate, DE (R132 to R181). -/
structure Core where
  me : EngineQueue := {}
  ve : EngineQueue := {}
  de : EngineQueue := {}
  tq : EngineQueue := {}
  acc : Option Tile := none
  scaleA : Word32 := 0x3F800000
  scaleB : Word32 := 0x3F800000
  tiles : List Tile := []
  latched : Option (Nat × Tile) := none
  vm : Table (Fin 4) Word64 := []
  lfsr : Word32 := 1
  flags : BitVec 8 := 0
  gate : List GateAccess := []
  /-- A bad codeword that an engine meets while it reads in a beat; none between beats (R415). -/
  badRead : Option (BitVec 16) := none
  job : Option DeJob := none
  lastTag : BitVec 16 := 0
  snaps : Table Nat Word32 := []
  deriving DecidableEq, Repr

/-! ## Edge-ring blocks of a die -/

/-- The state of one thermal sensor (R445 to R447). -/
structure Sensor where
  reading : BitVec 16 := 0
  broken : Bool := false
  deviations : Nat := 0
  history : List (BitVec 16) := []
  deriving DecidableEq, Repr

/-- A Guider (R450, R457), of a compute die or of a stack's base die (R456). -/
structure Guider where
  ctrlDuty : BitVec 3 := 0
  dThermal : Nat := 0
  cool : Nat := 0
  pauseHold : Nat := 0
  samples : Nat := 0
  rorWarn : Bool := false
  throttling : Bool := false
  duty : Nat := 0
  deriving DecidableEq, Repr

/-- A tap frame's content before TOGGLE and CRC (R392). -/
structure TapFrame where
  kind : BitVec 2
  dome : BitVec 4
  count : Nat
  deriving DecidableEq, Repr

/-- The die's end of its tap (R392 to R395). -/
structure Tap where
  buffer : List TapFrame := []
  outstanding : Bool := false
  toggle : Bool := false
  resync : Bool := true
  sends : Nat := 0
  /-- Events of a stopped KV_COMPACT whose entries were written while the buffer was full: kind and dome (R233, R395). -/
  owed : List (BitVec 2 × BitVec 4) := []
  deriving DecidableEq, Repr

/-- The record channel of a die (R408). -/
structure RecordChannel where
  kind : BitVec 2 := 0
  arg : Word64 := 0
  nonce : BitVec 128 := 0
  len : Nat := 0
  buf : List Byte := []
  busy : Bool := false
  done : Bool := false
  deriving DecidableEq, Repr

/-- The Coelostat page of a die (R480). -/
structure Coelostat where
  armed : Bool := false
  perms : BitVec 2 := 0
  freezing : Bool := false
  frozen : Bool := false
  /-- Which draw of Config.coelNonce the NONCE registers show; a new one after every attempt. -/
  attempts : Nat := 0
  trigCtrl : Word32 := 0
  trigTrace : Word32 := 0
  cause : Word32 := 0
  deriving DecidableEq, Repr

/-- A night log entry (R473). -/
structure LogEntry where
  seq : Nat
  time : Word64
  level : Nat
  code : BitVec 16
  dome : Byte
  tag : BitVec 16
  detail : Word64
  deriving DecidableEq, Repr

/-- Who waits for a remote response (R357, R361): a DOORBELL is sent by a die's FABRIC_ROUTE page; the responses of a core domain that went off are dropped (R453). -/
inductive Waiter where
  | sequencer (c : ClusterId)
  | engine (k : CoreId)
  | deRead (k : CoreId) (piece i1 i2 : Nat)
  | deWrite (k : CoreId) (i1 i2 : Nat)
  | ulizen (t : StackId) (slot : Fin 1024)
  | doorbell (d : DieId)
  | dropped
  deriving DecidableEq, Repr

/-- A remote request without a response yet (R361). -/
structure Txn where
  num : BitVec 16
  waiter : Waiter
  addr : Word64
  tag : BitVec 16
  deriving DecidableEq, Repr

/-- A compute die's edge ring and its domains (R17). [log 185 DESIGN CHOICE] -/
structure Die where
  ringOn : Bool := true
  coreOn : Bool := false
  fenced : Bool := true
  faultFence : Bool := false
  tripped : Bool := false
  /-- A thermally restarted core domain waits for firmware's pattern test (R426); the ring tripped and has returned (R425); clusters whose running step ended with the core domain (R453, R488). -/
  retest : Bool := false
  ringReturned : Bool := false
  lostSteps : BitVec 16 := 0
  /-- How often the die's objects were lost with its core domain (R281, R336). -/
  objLosses : Nat := 0
  timer : Word64 := 0
  /-- Millionths of a unit counted beyond it (R43). -/
  phase : Nat := 0
  -- MERIDIAN and SECURITY (R70, R381)
  fwState : Nat := 0
  handoffStep : Nat := 0
  verified : Bool := false
  bank : Bool := false
  recovery : Bool := false
  svnBusy : Bool := false
  failCheck : Nat := 0
  svnNew : Word64 := 0
  svnLatched : Word64 := 0
  gen : Word32 := 0
  -- POWER (R458)
  point : BitVec 2 := 1
  pointActive : BitVec 2 := 1
  slewing : Bool := false
  -- GUIDER (R457)
  guider : Guider := {}
  sensors : Table (Fin 64) Sensor := []
  alert : Bool := false
  coel : Coelostat := {}
  tap : Tap := {}
  chan : RecordChannel := {}
  -- D2D (R53, R58)
  regions : Table (Fin 2048) Word64 := []
  tfenceBusy : Bool := false
  -- STACK_CACHE (R203)
  keepWaysMax : BitVec 5 := 0xC
  bypass : Bool := false
  rangeBase : Word64 := 0
  rangeSize : Word64 := 0
  rangeOp : BitVec 3 := 0
  rangeBusy : Bool := false
  -- FABRIC_ROUTE parts that differ by port die (R365), requests (R361)
  dbRx : List (BitVec 12 × BitVec 32) := []
  dbRxData : Word32 := 0
  dbTxDst : BitVec 12 := 0
  txns : List Txn := []
  retired : List (BitVec 16) := []
  nextTxn : BitVec 16 := 0
  -- MERIDIAN's further pages (R70)
  exchange : Table Nat Word32 := []
  -- Meridian RAM (R473)
  log : List LogEntry := [⟨1, 0, 0, 0x8602, 0xFF, 0, 0⟩]
  logSeq : Nat := 1
  deriving DecidableEq, Repr

/-- A line of a stack cache (R186 to R188). -/
structure CacheLine where
  stack : StackId
  line : Nat
  data : List Byte
  dirty : Bool
  retained : Bool
  way : Fin 16 := 0
  /-- What the check bytes of its four codewords do not match (R412, R415). -/
  errors : Table (Fin 4) (List (Nat × Byte)) := []
  deriving DecidableEq, Repr

/-- A 64-byte block of a die's host caches (R269). -/
structure HostLine where
  die : DieId
  block : Nat
  data : List Byte
  dirty : Bool
  deriving DecidableEq, Repr

/-- A synchronisation object and its owner (R275, R282). -/
structure SyncObj where
  count : Word64 := 0
  arm : Bool := false
  threshold : BitVec 48 := 0
  assigned : Bool := false
  fabricOpen : Bool := false
  dome : BitVec 4 := 0
  notesPending : Nat := 0
  deriving DecidableEq, Repr

/-- An operation an object holds while CLEAR_ALL runs (R282). -/
inductive ObjOp where
  | signal (v : Word64) (scope : Option (BitVec 3))
  | set (v : Word64)
  | arm (t : BitVec 48)
  | disarm
  | read
  deriving DecidableEq, Repr

/-- A SYNC block (R280, R282). -/
structure SyncBlock where
  notes : List Nat := []
  clearBusy : Bool := false
  held : List (Agent × ObjId × ObjOp) := []
  sel : Table Requester (BitVec 12) := []
  deriving DecidableEq, Repr

/-- A host-class core (R70, R270, R271, R396). -/
structure Hart where
  run : Bool := false
  inReset : Bool := false
  fetching : Bool := false
  wfi : Bool := false
  priv : BitVec 2 := 0
  resetPc : Word64 := 0
  pc : Word64 := 0
  imsic : Word64 := 0
  /-- The hypervisor's htimedelta CSR (R46). -/
  htimedelta : Word64 := 0
  /-- The menvcfg and senvcfg CSRs, whose bits 5:4 (CBIE) and 6 (CBCFE) govern Zicbom (R269). -/
  menvcfg : Word64 := 0x70
  senvcfg : Word64 := 0x70
  assigned : Bool := false
  dome : BitVec 4 := 0
  emitDst : Word64 := 0
  emitHost : Bool := false
  emitFn : BitVec 7 := 0
  dfault : Bool := false
  tokens : List (BitVec 32) := []
  reservation : Option Nat := none
  exception : Option Nat := none
  call : Option (BitVec 56) := none
  sbiResult : Option Int := none
  rd : Word64 := 0
  deriving DecidableEq, Repr

/-! ## Stacks -/

/-- A command slot of a stack's Ulizen unit (R210). -/
structure Slot where
  en : Bool := false
  cplScope : BitVec 3 := 0
  dbObj : BitVec 8 := 0
  dome : BitVec 4 := 0
  entry : BitVec 12 := 0
  engines : Word32 := 0
  tag : BitVec 16 := 0
  preLen : BitVec 8 := 0
  cplDepth : BitVec 4 := 0
  argDepth : BitVec 4 := 0
  argBase : Word64 := 0
  cplBase : Word64 := 0
  cplSig : Word64 := 0
  rdFrames : Word64 := 0
  wrFrames : Word64 := 0
  runSeq : Word64 := 0
  /-- The active run of the slot, when one is: its number and outcome so far. -/
  active : Option Nat := none
  runFault : Option (BitVec 16 × Fin 32 × Nat × Word64) := none
  torn : Bool := false
  stopped : Word32 := 0
  ended : Word32 := 0
  corrected : Bool := false
  forced : Bool := false
  userA : Word64 := 0
  userB : Word64 := 0
  /-- Of each handle the run has named: LIST, ENTRIES and the length (R247). -/
  headers : List (BitVec 32 × Nat × Nat × Nat) := []
  deriving DecidableEq, Repr

/-- The repeat level of an engine (R221). -/
structure Repeat where
  count : Word64
  first : Nat
  last : Nat
  deriving DecidableEq, Repr

/-- A Ulizen engine (R205, R206). -/
structure Engine where
  u : Table (Fin 32) Word64 := []
  v : Table (Fin 32) (List Word32) := []
  upc : Nat := 0
  rep : Option Repeat := none
  openBlock : Option Nat := none
  slot : Option (Fin 1024) := none
  storeDome : Option (BitVec 4) := none
  bursts : Word32 := 0
  /-- The stack addresses the engine has written in its run (R229). -/
  wrote : List (Nat × Nat) := []
  /-- Entries a KV_COMPACT in progress has moved, and whether the last one's event is still to present (R233, R395). -/
  kvNext : Nat := 0
  kvOwed : Bool := false
  lastRow : Word64 := 0xFFFFFFFFFFFFFFFF
  tornRow : Word64 := 0xFFFFFFFFFFFFFFFF
  deriving DecidableEq, Repr

/-- A request in a reduction queue (R191, R194): the die that translated it, and whether a translate fence of that die covers it (R58). -/
structure RedReq where
  agent : Agent
  saddr : Nat
  op : BitVec 4
  fmt : BitVec 4
  data : List Byte
  newValue : Word64
  fetching : Bool
  die : DieId
  fenced : Bool := false
  deriving DecidableEq, Repr

/-- A correction log entry (R436). -/
structure CeEntry where
  saddr : Nat
  lap : Nat
  symbol : Nat
  path : Nat
  deriving DecidableEq, Repr

/-- A computing stack and its controller (R182 to R239, R410 to R436). -/
structure Stack where
  domainOn : Bool := true
  filled : Bool := false
  online : Bool := false
  onlineAck : Bool := false
  selfRefresh : Bool := false
  quarteredSelf : Bool := false
  lbRun : Bool := false
  lbPattern : BitVec 3 := 0
  loopback : BitVec 2 := 0
  lbErrCount : Word32 := 0
  lbChanErr : Word32 := 0
  lbLaneSel : BitVec 5 := 0
  lbData : Table (Fin 32) Word64 := []
  lbCheck : Table (Fin 32) (BitVec 8) := []
  share0 : Word32 := 0
  share1 : Word32 := 0
  shareOther : BitVec 4 := 0
  refreshRate : Nat := 0
  owed : Table (Fin 64) Nat := []
  coolSamples : Nat := 0
  hottest : BitVec 16 := 0
  sensors : Table (Fin 24) Sensor := []
  guider : Guider := {}
  tripped : Bool := false
  ticks : Word64 := 0
  /-- Millionths of a tick counted beyond it (R43). -/
  phase : Nat := 0
  -- Stack port (R195)
  active : Table (Nat × Nat) Nat := []
  deficit : Table (Nat × Nat) Nat := []
  redQueue : List RedReq := []
  redWait : List RedReq := []
  grantAt : Nat := 0
  -- Ulizen
  slots : Table (Fin 1024) Slot := []
  runQueue : List (Fin 1024 × Nat × Nat) := []
  engines : Table (Fin 32) Engine := []
  /-- The stack addresses each engine has read in-bank in its run (R229). -/
  bankReads : List (Fin 32 × Nat × Nat) := []
  ustore : Table (Fin 4096) (BitVec 128) := []
  stage : Table Requester (Nat × Table (Fin 3) Word32) := []
  lab : List (BitVec 32 × Nat × BitVec 32) := []
  labBusy : Bool := false
  resetBusy : Bool := false
  -- SCRUB
  scrubEn : Bool := true
  poisonBusy : Bool := false
  retireBusy : Bool := false
  stalled : Bool := false
  lapped : Bool := false
  lapMs : Word32 := 0xFFFFFFFF
  lapStart : Word64 := 0
  sweep : Table (Fin 64) Nat := []
  laps : Word32 := 0
  stallMs : Word32 := 0x05265C00
  ceLog : List CeEntry := []
  ceLast : Option CeEntry := none
  poisonBase : Word64 := 0
  poisonSize : Word32 := 0
  retireBlock : BitVec 20 := 0
  retireRepl : BitVec 20 := 0
  retireTable : List (Nat × Nat) := []
  -- PERF of the stack
  sels : Table (Fin 32) Word32 := []
  ovf : Word32 := 0
  snaps : Table Nat Word32 := []
  deriving DecidableEq, Repr

/-! ## Fabric -/

/-- A flit kept for resending (R342). -/
structure RetryFlit where
  seq : BitVec 12
  msgs : List FabricMsg
  deriving DecidableEq, Repr

/-- A Kuzopa port (R339 to R365). -/
structure Port where
  enable : Bool := false
  laneMask : BitVec 4 := 0xF
  direction : BitVec 2 := 0
  uncorrMax : BitVec 8 := 8
  state : Nat := 0
  lanes : BitVec 4 := 0
  width : BitVec 2 := 0
  candidate : BitVec 4 := 0
  locks : Table (Fin 4) Nat := []
  nbrValid : Bool := false
  nbr : Option Finder := none
  txSeq : BitVec 12 := 0
  rxSeq : BitVec 12 := 0
  nakOwed : Bool := false
  retry : List RetryFlit := []
  resends : Nat := 0
  credits : Table (Fin 4) Nat := []
  /-- Credits of each channel that the next flits return, and word 0 of the last flit sent (R341, R354). -/
  creditOwed : Table (Fin 4) Nat := []
  sent : Option FlitHead := none
  /-- Packets waiting to leave: the channel, the input (an ingress port, or 16 for the module's own injection) and the packet. -/
  queue : List (Fin 4 × Nat × FabricMsg) := []
  /-- ACTIVE of the latest packet received here (R362). -/
  activeIn : Nat := 1
  /-- Deficits by input and channel, and the input each channel's arbiter stands at. -/
  deficit : Table (Nat × Fin 4) Nat := []
  turn : Table (Fin 4) Nat := []
  uncorr : Table (Fin 4) Nat := []
  /-- The latest Finder frame sent. -/
  finderSent : Option Finder := none
  mgmtBuf : Option MgmtPacket := none
  deriving DecidableEq, Repr

/-- The fabric registers shared by the four port dies (R352, R365). -/
structure Fabric where
  mgmtLock : Bool := false
  ingressEn : Bool := false
  forwardEn : Bool := false
  idValid : Bool := false
  moduleId : BitVec 12 := 0
  mgrClaimed : Bool := false
  mgrUid : BitVec 96 := 0
  timeout : Word32 := 0x2710
  hopInit : BitVec 6 := 0x20
  mgmtBuf : BitVec 384 := 0
  mgmtBusy : Bool := false
  routes : Table (Fin 4096) Word32 := []
  deriving DecidableEq, Repr

/-! ## Host link -/

/-- One function's call mailbox, MSI-X and BAR state (R368, R370, R374). [log 110 PRESUMED] -/
structure Function where
  block : BitVec 512 := 0
  busy : Bool := false
  done : Bool := false
  callBusy : Bool := false
  discardReply : Bool := false
  bar2Base : Word64 := 0
  /-- The BAR2 size the host has set; 0 while it is the reset size (R368). -/
  bar2SizeLog2 : Nat := 0
  msixEnable : Bool := false
  /-- The words of the MSI-X table; a vector-control word is 1, masked, at reset. -/
  msixTable : Table Nat Word32 := []
  pba : List Nat := []
  sentMsix : List Nat := []
  viewSel : Word32 := 0
  d3hot : Bool := false
  deriving DecidableEq, Repr

/-- A write of a copy channel that has not been answered (R375): a token of a hart, or a record of a queue. -/
inductive CopyOp where
  | token (h : HartId)
  | record (queue : Nat)
  deriving DecidableEq, Repr

/-- A selective IDE stream (R384). -/
structure IdeStream where
  fn : HostFn
  ranges : List (BitVec 64 × BitVec 64)
  required : Bool
  deriving DecidableEq, Repr

/-- The SPDM responder's place in its protocol (R382). -/
structure Spdm where
  version : Bool := false
  capabilities : Bool := false
  algorithms : Bool := false
  handshake : Bool := false
  session : Bool := false
  keyEpoch : Nat := 0
  nonces : Nat := 0
  deriving DecidableEq, Repr

/-- The host link (R366 to R384). -/
structure HostLink where
  perst : Bool := true
  bifurcated : Bool := false
  width : BitVec 5 := 0
  speed : BitVec 3 := 0
  speed1 : BitVec 3 := 0
  link0Up : Bool := false
  link1Up : Bool := false
  vfDome : Table (Fin 64) Byte := []
  smbusAddr : BitVec 7 := 0x4D
  vfEnable : Bool := false
  fns : Table HostFn Function := []
  ide : Table (Fin 2 × Fin 8) IdeStream := []
  spdm : Spdm := {}
  ideCheckFailed : Nat := 0
  poisonedTlp : Nat := 0
  advisory : Nat := 0
  copyFailed : Nat := 0
  copyPending : List (HostFn × CopyOp) := []
  /-- CD0's firmware owes, or last sent, the vector of R475. -/
  logOwed : Bool := false
  logSent : Option Word64 := none
  deriving DecidableEq, Repr

/-- The power stage and the standby controller (R438 to R458): `standby` counts 10 ns of the standby controller, which times ring trips and alerts (R444, R455). -/
structure Power where
  lockout : Bool := false
  pwrAlert : Bool := false
  lastAlert : Option Nat := none
  inputMv : Word32 := 0
  inputMa : Word32 := 0
  inputAvg : Word32 := 0
  pLimit : Word32 := 0x1450
  peakGate : Word32 := 0x11F8
  coolant : Word32 := 0
  ringTripEv : BitVec 8 := 0
  ovloEv : Bool := false
  uvloEv : Bool := false
  standby : Nat := 0
  ringTrips : Table DieId (List Nat) := []
  /-- The envelope steps firmware has taken, newest first: which of R442's steps, and the dies it moved. -/
  throttleSteps : List (Nat × List DieId) := []
  dutyWait : Nat := 0
  calmChecks : Nat := 0
  deriving DecidableEq, Repr

/-- A trace record before it is written (R469); the cluster of a TRACE_FENCE marker. -/
structure TraceRec where
  time : Word64
  src : Byte
  type : Nat
  tag : BitVec 16
  unit : BitVec 16
  beat : Word64 := 0
  data : Word64 := 0
  marker : Option ClusterId := none
  fenceLost : Bool := false
  deriving DecidableEq, Repr

/-- A release held behind a TRACE_FENCE marker of its cluster (R471). -/
structure HeldRelease where
  cluster : ClusterId
  agent : Agent
  tag : BitVec 16
  addr : Word64
  value : Word64
  scope : BitVec 3
  deriving DecidableEq, Repr

/-- A dome's trace ring as its home die's trace unit keeps it (R468 to R470). -/
structure TraceUnit where
  sizeLog2 : Nat := 0
  sources : BitVec 16 := 0
  base : Word64 := 0
  ctl : Word64 := 0
  written : Nat := 0
  dropped : Nat := 0
  fenceLost : Bool := false
  points : Word64 := 0
  queue : List TraceRec := []
  held : List HeldRelease := []
  deriving DecidableEq, Repr

/-- What the last access returned to its requester (the model's own field, log entry 9). [log 9 DESIGN CHOICE] -/
inductive Reply where
  | none
  | word (v : Nat)
  | bytes (l : List Byte)
  | fault (code : BitVec 16)
  | completerAbort
  | poisonedCompletion
  | unsupported
  | retryStatus
  /-- What held operations return when they proceed: the requester, its fault or 0, and the value (R282). -/
  | answers (l : List (Agent × BitVec 16 × Nat))
  deriving DecidableEq, Repr

/-- The silicon outside firmware and the Photometer: dies, stacks, ports, host link, power stage, memories. -/
structure Chip where
  heads : Table Block Head := []
  stagedLow : Table Requester (Nat × Word32) := []
  latchedHigh : Table Requester (Nat × Word32) := []
  dies : Table DieId Die := []
  clusters : Table ClusterId Cluster := []
  cores : Table CoreId Core := []
  pstore : Table (ClusterId × Fin 32768) Word64 := []
  harts : Table HartId Hart := []
  stk : Table StackId Stack := []
  ports : Table PortId Port := []
  objs : Table ObjId SyncObj := []
  syncs : Table SyncUnit SyncBlock := []
  cache : List CacheLine := []
  recency : Table (DieId × Nat) (BitVec 15) := []
  hostCache : List HostLine := []
  scratch : Memory := []
  /-- Scratchpad codewords whose check bytes do not match, by address / 64 (R412, R415). -/
  scratchErrors : Table Nat (List (Nat × Byte)) := []
  dram : Memory := []
  engineStore : Memory := []
  codeErrors : Table Nat (List (Nat × Byte)) := []
  fabric : Fabric := {}
  link : HostLink := {}
  power : Power := {}
  traces : Table DomeId TraceUnit := []
  authBuf : BitVec 2816 := 0
  ready : Bool := false
  out : Reply := .none
  /-- Domes with a Ulizen run that ended FAULTED or TORN since their step began (R334). -/
  badRuns : BitVec 16 := 0
  free : Nat := 0
  deriving DecidableEq, Repr

/-! ## Firmware state (Meridian RAM) -/

/-- One Ephemeris slot (R304) is its 64-bit word. A step kind of an image (R299). -/
structure StepKind where
  bound : Word64
  tOut : Word32
  placement : Word32
  consts : List (Word32 × Word64)
  deriving DecidableEq, Repr

/-- A loaded program image (R293 to R300). -/
structure Image where
  kinds : List StepKind
  /-- Per image cluster: porthole phase, entry of each kind, program words. -/
  programs : List (BitVec 3 × List (BitVec 15) × List Word64)
  /-- Image die, position and INCR of each counting object. -/
  counters : List (Nat × Nat × List Nat)
  /-- Words of each micro-program, and its place on each dome stack (4,096 for none). -/
  placements : List (Nat × List Nat)
  digest : BitVec 384
  /-- Where the binding table lies, and its words (R300). -/
  bindings : Word64
  table : List Word64 := []
  steps : Nat
  /-- PRIVATE_BYTES of each private stack (R298). -/
  area : List Nat := []
  deriving DecidableEq, Repr

/-- Where a row of a running step stands (R322, R334). -/
structure Row where
  seq : Nat
  pos : Nat
  count : Nat
  commitFrom : Nat
  verify : Bool
  sample : Bool
  commitObj : ObjId
  commitBase : Word64
  committed : Nat := 0
  runs : Nat := 0
  /-- The further fields of the batch table: HANDLE0, ADAPTER_SLOT, TOKENS, TREE, REQUEST and REPORT. -/
  handle0 : Nat := 0
  adapterSlot : Nat := 0xFFFF
  tokens : Word64 := 0
  tree : Word64 := 0
  request : Word64 := 0
  report : Word64 := 0
  deriving DecidableEq, Repr

/-- A slot of the frame in progress (R306). -/
structure FrameSlot where
  queue : Nat
  realtime : Bool
  left : Nat
  budget : Nat
  spent : Nat := 0
  deriving DecidableEq, Repr

/-- The step a dome runs (R306, R321). -/
structure StepRun where
  queue : Nat
  kind : Nat
  number : Nat
  rows : List Row
  replay : Bool
  status : Nat := 0
  started : Word64 := 0
  verify : Bool := false
  fault : BitVec 16 := 0
  /-- The home die's losses of its objects when the step started (R336). -/
  losses : Nat := 0
  deriving DecidableEq, Repr

/-- A dome (R285 to R309). -/
structure Dome where
  desc : BitVec 2048
  home : DieId
  image : Option Image := none
  table : List Word64 := []
  nextTable : Option (List Word64) := none
  anchor : Option Word64 := none
  frame : Nat := 0
  rotation : Nat := 0
  frameLate : Nat := 0
  draining : Bool := false
  queues : List Nat := []
  counts : List Nat := []
  step : Option StepRun := none
  /-- A completed step whose row reports are awaited; faulted steps to replay. -/
  reporting : Option StepRun := none
  replays : List StepRun := []
  plan : List FrameSlot := []
  frameEnd : Word64 := 0
  stepObj : ObjId := .die 0 0
  reportObj : ObjId := .die 0 0
  statusWord : Word64 := 0
  /-- The engines placed for the dome on each shared-weight stack (R292). -/
  engines : List (StackId × Word32) := []
  deriving DecidableEq, Repr

/-- A completion record that waits to be written (R317); `index` is the sequence it is the last to name. -/
structure Completion where
  cookie : Word64
  seq : Nat
  status : Nat
  flags : Nat
  detail : BitVec 16
  emitted : Nat
  committed : Nat
  adapter : Nat
  version : Nat
  tAdmit : Word64
  index : Option Nat
  deriving DecidableEq, Repr

/-- A configured queue (R314, R315). -/
structure Queue where
  dome : DomeId
  configured : Bool := false
  subLog2 : Nat := 4
  cplLog2 : Nat := 4
  kind : Nat := 0
  maxRows : Nat := 1
  next : Nat := 0
  subBase : Word64 := 0
  cplBase : Word64 := 0
  ctlBase : Word64 := 0
  flags : Word32 := 0
  msix : BitVec 16 := 0xFFFF
  dbObj : BitVec 16 := 0
  maxLen : Nat := 0
  maxTree : Nat := 1
  chunk : Nat := 16
  cplObj : BitVec 16 := 0xFFFF
  subTail : Nat := 0
  subHead : Nat := 0
  records : Nat := 0
  cplHead : Nat := 0
  stopped : Bool := false
  broken : Bool := false
  owed : List Completion := []
  /-- Entries cancelled before their admission. -/
  cancels : List Nat := []
  deriving DecidableEq, Repr

/-- A tracked request (R318 to R335). -/
structure Sequence where
  index : Nat
  generation : Nat
  dome : DomeId
  queue : Nat
  submitted : Nat
  cookie : Word64
  promptLen : Nat
  maxNew : Nat
  prompt : Word64
  out : Word64
  adapter : Nat
  spec : Bool
  stop : Word32
  version : Nat := 0
  pos : Nat := 0
  emitted : Nat := 0
  committed : Nat := 0
  handle0 : Nat := 0
  pages : List Nat := []
  /-- Its block of the dome's request area, and the pages of its lists, list by list: private stack and page slot (R318 to R320). -/
  block : Nat := 0
  blockLen : Nat := 0
  lists : Nat := 0
  slots : List (Nat × Nat) := []
  tAdmit : Word64 := 0
  replayed : Bool := false
  diffServed : Bool := false
  cancelled : Bool := false
  cancelLate : Bool := false
  replayHeld : Bool := false
  faultCode : BitVec 16 := 0
  stopped : Bool := false
  /-- It has ended and waits for its record. -/
  ended : Bool := false
  /-- Its record is never written (R376); it goes to the front of its queue's next step. -/
  noRecord : Bool := false
  first : Bool := false
  deriving DecidableEq, Repr

/-- A private expert or an unused router row of an adapter version: the shared expert its difference is taken against, and where its parts lie in the version's space (R329, R330). -/
structure ExpertPlace where
  present : Bool
  base : Nat
  dense : Nat
  denseLen : Nat
  diff : Nat
  router : Nat
  deriving DecidableEq, Repr

/-- A held version of an adapter (R329 to R332): its slot of the expert table, its space (private stack, address and bytes), its experts by MoE layer, where its package came from, and whether its dense copies have landed, with the retired blocks they were staged under. -/
structure AdapterVersion where
  number : Nat
  form : Nat
  pins : Nat
  slot : Nat := 0
  place : Nat × Nat × Nat := (0, 0, 0)
  experts : List (List ExpertPlace) := []
  source : Word64 := 0
  sourceFn : Option HostFn := none
  sourceLen : Nat := 0
  landed : Bool := false
  staged : List Nat := []
  deriving DecidableEq, Repr

/-- An adapter of a dome (R329 to R333). -/
structure Adapter where
  versions : List AdapterVersion := []
  current : Option Nat := none
  dropped : Bool := false
  lastVersion : Nat := 0
  deriving DecidableEq, Repr

/-- A source of record (R424). -/
structure Source where
  kind : Byte
  addr : Word64
  deriving DecidableEq, Repr

/-- A flash bank (R428, R379): the commit record's fields, and the image. -/
structure Bank where
  magicOk : Bool
  gen : Word32
  digest : BitVec 384
  crcOk : Bool
  image : List Byte
  deriving DecidableEq, Repr

/-- The live handoff of R430. -/
structure Handoff where
  step : Nat
  imported : List DieId
  image : List Byte
  deriving DecidableEq, Repr

/-- The firmware's account (R285 to R337, R424 to R431). -/
structure Firmware where
  domes : Table DomeId (Option Dome) := []
  sharedSet : Word32 := 0
  queues : Table Nat (Option Queue) := []
  seqs : List Sequence := []
  generations : Table Nat Nat := []
  adapters : Table (DomeId × Nat) Adapter := []
  routes : Table ObjId (Option Word32) := []
  sources : Table (Fin 2048) (Option Source) := []
  poisoned : List (StackId × Nat) := []
  banks : Table Bool (Option Bank) := []
  handoff : Option Handoff := none
  /-- The bank that does not run holds a checked image that waits for its activation (R429). -/
  staged : Bool := false
  imsicSent : List (HartId × BitVec 16) := []
  /-- Consecutive steps that met a class 0x3 fault in a die's scratchpads or engines (R426). -/
  softErrors : Table (DomeId × DieId) Nat := []
  /-- Codewords whose granule was restored, with the lap counts of their stack at the time (R423). -/
  restored : List (StackId × Nat × Word32) := []
  /-- Corrected codewords that firmware has read from the correction logs, by stack, with their laps (R419). -/
  corrected : List (StackId × Nat × Nat) := []
  deriving DecidableEq, Repr

/-! ## The Photometer -/

/-- An event log entry of the Photometer (R404). -/
structure MeterEvent where
  event : Nat
  time : Word64
  mono : Word64
  eventCount : Nat
  detail : Word64
  deriving DecidableEq, Repr

/-- A meter record (R400) before its signature; counts are (COMMITTED, EMITTED) of domes 0 to 15. -/
structure MeterRecord where
  kind : Nat
  seq : Nat
  prev : Nat
  event : Nat
  time : Word64
  mono : Word64
  energy : Nat
  vAvg : Nat
  iAvg : Nat
  eventCount : Nat
  powerCycles : Nat
  status : Word32
  period : Word32
  nonce : BitVec 128
  counts : List (Nat × Nat)
  deriving DecidableEq, Repr

/-- What a checkpoint keeps (R405). -/
structure Checkpoint where
  seq : Nat
  counts : List (Nat × Nat)
  energy : Nat
  toggles : Table DieId Bool
  deriving DecidableEq, Repr

/-- A request to the Photometer (R407, R408). -/
inductive MeterCmd where
  | getRecord (seq : Word64)
  | demand (nonce : BitVec 128)
  | getCert (off : Word32)
  | getEvents (index : Word32)
  | setTime (t : Word64)
  | setPeriod (sec : Word32)
  | testEnter
  | testExit
  | testInject (dome kind : Byte) (count : Word32)
  | testRecord (nonce : BitVec 128)
  deriving DecidableEq, Repr

/-- The Photometer (R387 to R408): energies are sums of microvolts times microamperes over the samples. -/
structure Photometer where
  on : Bool := true
  counts : Table DomeId (Nat × Nat) := []
  energy : Nat := 0
  mono : Word64 := 0
  time : Word64 := 0
  subTick : Nat := 0
  clockUnset : Bool := true
  nextSeq : Nat := 1
  lastStored : Nat := 0
  period : Word32 := 300
  eventCount : Nat := 0
  powerCycles : Nat := 0
  vSum : Nat := 0
  iSum : Nat := 0
  spanSamples : Nat := 0
  vOut : Bool := false
  iOver : Bool := false
  tapFault : Bool := false
  nvRecovered : Bool := false
  toggles : Table DieId Bool := []
  badRun : Table DieId Nat := []
  acceptAny : List DieId := []
  stored : List MeterRecord := []
  events : List MeterEvent := []
  checkpoint : Option Checkpoint := none
  powerDownOk : Bool := true
  testing : Bool := false
  testCounts : Table DomeId (Nat × Nat) := []
  testEnergy : Nat := 0
  testStart : Word64 := 0
  pulses : Nat := 0
  sealOpen : Bool := false
  service : Bool := false
  lastDemand : Option Word64 := none
  /-- Requests in order of arrival, from the readout port or a die's record channel. -/
  requests : List (Option DieId × MeterCmd) := []
  /-- The tamper loop broke while the Photometer was off. -/
  breakOwed : Bool := false
  reply : Option (Byte × Byte × List Byte) := none
  acks : List (DieId × Bool) := []
  deriving DecidableEq, Repr

/-! ## The whole module -/

/-- The fused values (R378, R381). -/
structure Fuses where
  svnMin : Table DieId Word64 := []
  deriving DecidableEq, Repr

/-- The module, the server host's memory as the copy channels reach it, and the waiting commands, first in, first out. [log 7 DESIGN CHOICE] -/
structure State where
  chip : Chip := {}
  fw : Firmware := {}
  phot : Photometer := {}
  fuses : Fuses := {}
  hostMem : Memory := []
  pending : List Instr := []
  deriving DecidableEq, Repr

/-- The module right after reset: stack domains, edge rings and the Photometer powered, core domains off (R481 step 2), every register at its reset value, no command waiting. [log 4 DEDUCED, log 5 DESIGN CHOICE] -/
def State.reset : State := {}

end Sys2Proof.Machine
end

