-- ==== Sys2Proof/Machine/Flags.lean ====
section
/-! DEFINITION. The error and event flags of a block's head (R64, R66): recording an error, capturing it, and the interrupt words. -/

namespace Sys2Proof.Machine

/-- An error as a block records it: its ERR_STATUS bit, fault code, command tag, address and syndrome. -/
structure ErrorInfo where
  bit : Nat
  code : FaultCode
  tag : BitVec 16 := 0
  addr : Word64 := 0
  syn : Word32 := 0

/-- A word with one bit set. -/
def bitMask (n : Nat) : Word32 := BitVec.ofNat 32 (2 ^ n)

/-- Record an error: its bit is set; it is captured only when ERR_STATUS read 0 before and the kind is not masked (R64, R66). -/
def Head.record (h : Head) (e : ErrorInfo) : Head :=
  let h' := { h with errStatus := h.errStatus ||| bitMask e.bit }
  if h.errStatus = 0 ∧ h.errMask.getLsbD e.bit = false then
    { h' with errAddr := e.addr, errTag := e.code ++ e.tag, errSyndrome := e.syn }
  else h'

/-- The unmasked error with the lowest bit among those recorded in one handshake (R66); of one bit, the lowest code (R155). -/
def Head.firstUnmasked (h : Head) : List ErrorInfo → Option ErrorInfo
  | [] => none
  | e :: t =>
    match Head.firstUnmasked h t with
    | some e' => if h.errMask.getLsbD e.bit = false ∧ (e.bit < e'.bit ∨ (e.bit = e'.bit ∧ e.code.toNat ≤ e'.code.toNat)) then some e else some e'
    | none => if h.errMask.getLsbD e.bit = false then some e else none

/-- Record several errors of one handshake (R66). -/
def Head.recordAll (h : Head) (es : List ErrorInfo) : Head :=
  let h' := { h with errStatus := es.foldl (fun w e => w ||| bitMask e.bit) h.errStatus }
  match Head.firstUnmasked h es with
  | some e =>
    if h.errStatus = 0 then
      { h' with errAddr := e.addr, errTag := e.code ++ e.tag, errSyndrome := e.syn }
    else h'
  | none => h'

/-- Raise a block-specific event bit of IRQ_RAW (R64). -/
def Head.raise (h : Head) (bit : Nat) : Head := { h with irqEvents := h.irqEvents ||| bitMask bit }

/-- IRQ_RAW: bit 0 is the unmasked ERR_STATUS, bits 31 to 1 the events (R64). -/
def Head.irqRaw (h : Head) : Word32 :=
  (h.irqEvents &&& ~~~1#32) ||| (if h.errStatus &&& ~~~h.errMask = 0 then 0 else 1)

/-- IRQ_STATUS (R64). -/
def Head.irqStatus (h : Head) : Word32 := Head.irqRaw h &&& h.irqEnable

/-- Add to a fixed-function count, which wraps (R460). -/
def Head.bump (h : Head) (word n : Nat) : Head :=
  { h with counters := Table.write h.counters word (Table.read 0 h.counters word + BitVec.ofNat 32 n) }

end Sys2Proof.Machine
end

