-- ==== Sys2Proof/Machine/Ops.lean ====
section
/-! DEFINITION. The operations every block shares: reading and replacing a unit of the chip, recording an error, the night log, MSI-X messages, trace records, free values, and the Coelostat's freeze. -/

namespace Sys2Proof.Machine

open Host

/-! ## Lifting a meaning to the whole module -/

/-- A meaning that touches the chip alone. -/
def onChip (f : Chip → Chip) (s : State) : Outcome State Fault Refusal := .next { s with chip := f s.chip }

/-- A meaning that touches the chip and the host's memory. -/
def onBus (f : Chip → Memory → Chip × Memory) (s : State) : Outcome State Fault Refusal :=
  let r := f s.chip s.hostMem
  .next { s with chip := r.1, hostMem := r.2 }

/-- The chip, the firmware's account and the host's memory: what firmware reaches. -/
structure Reach where
  chip : Chip
  fw : Firmware
  host : Memory

/-- A meaning of firmware. -/
def onReach (f : Reach → Reach) (s : State) : Outcome State Fault Refusal :=
  let r := f ⟨s.chip, s.fw, s.hostMem⟩
  .next { s with chip := r.chip, fw := r.fw, hostMem := r.host }

/-- A meaning of the Photometer and its links. -/
def onPhot (f : Chip → Photometer → Chip × Photometer) (s : State) : Outcome State Fault Refusal :=
  let r := f s.chip s.phot
  .next { s with chip := r.1, phot := r.2 }

/-! ## Units of the chip -/

def Chip.head (s : Chip) (b : Block) : Head := Table.read {} s.heads b
def Chip.die (s : Chip) (d : DieId) : Die := Table.read {} s.dies d
def Chip.cluster (s : Chip) (c : ClusterId) : Cluster := Table.read {} s.clusters c
def Chip.core (s : Chip) (k : CoreId) : Core := Table.read {} s.cores k
def Chip.hart (s : Chip) (h : HartId) : Hart := Table.read {} s.harts h
def Chip.stack (s : Chip) (t : StackId) : Stack := Table.read {} s.stk t
def Chip.port (s : Chip) (p : PortId) : Port := Table.read {} s.ports p
def Chip.obj (s : Chip) (o : ObjId) : SyncObj := Table.read {} s.objs o
def Chip.sync (s : Chip) (u : SyncUnit) : SyncBlock := Table.read {} s.syncs u
def Chip.trace (s : Chip) (m : DomeId) : TraceUnit := Table.read {} s.traces m
def Chip.fn (s : Chip) (f : HostFn) : Function := Table.read {} s.link.fns f

def Chip.updHead (s : Chip) (b : Block) (f : Head → Head) : Chip := { s with heads := Table.write s.heads b (f (s.head b)) }
def Chip.updDie (s : Chip) (d : DieId) (f : Die → Die) : Chip := { s with dies := Table.write s.dies d (f (s.die d)) }
def Chip.updCluster (s : Chip) (c : ClusterId) (f : Cluster → Cluster) : Chip := { s with clusters := Table.write s.clusters c (f (s.cluster c)) }
def Chip.updCore (s : Chip) (k : CoreId) (f : Core → Core) : Chip := { s with cores := Table.write s.cores k (f (s.core k)) }
def Chip.updHart (s : Chip) (h : HartId) (f : Hart → Hart) : Chip := { s with harts := Table.write s.harts h (f (s.hart h)) }
def Chip.updStack (s : Chip) (t : StackId) (f : Stack → Stack) : Chip := { s with stk := Table.write s.stk t (f (s.stack t)) }
def Chip.updPort (s : Chip) (p : PortId) (f : Port → Port) : Chip := { s with ports := Table.write s.ports p (f (s.port p)) }
def Chip.updObj (s : Chip) (o : ObjId) (f : SyncObj → SyncObj) : Chip := { s with objs := Table.write s.objs o (f (s.obj o)) }
def Chip.updSync (s : Chip) (u : SyncUnit) (f : SyncBlock → SyncBlock) : Chip := { s with syncs := Table.write s.syncs u (f (s.sync u)) }
def Chip.updTrace (s : Chip) (m : DomeId) (f : TraceUnit → TraceUnit) : Chip := { s with traces := Table.write s.traces m (f (s.trace m)) }
def Chip.updFn (s : Chip) (f : HostFn) (g : Function → Function) : Chip :=
  { s with link := { s.link with fns := Table.write s.link.fns f (g (s.fn f)) } }

/-- All units of a kind, in increasing number. -/
def allDies : List DieId := List.finRange 8
def allStacks : List StackId := List.finRange 32
def allPorts : List PortId := List.finRange 16
def clustersOf (d : DieId) : List ClusterId := (List.finRange 16).map (fun c => ⟨d, c⟩)
def coresOf (d : DieId) : List CoreId := (List.finRange 512).map (fun k => ⟨d, k⟩)
def hartsOf (d : DieId) : List HartId := (List.finRange 16).map (fun h => ⟨d, h⟩)
def stacksOf (d : DieId) : List StackId := (List.finRange 32).filter (fun t => t.val / 4 = d.val)

/-- Core i of a cluster (R59). -/
def coreOf (c : ClusterId) (i : Fin 32) : CoreId := ⟨c.die, ⟨c.idx.val * 32 + i.val, by omega⟩⟩
/-- The cluster of a core (R59). -/
def clusterOf (k : CoreId) : ClusterId := ⟨k.die, ⟨k.idx.val / 32, by omega⟩⟩
/-- A core's number within its cluster. -/
def laneOf (k : CoreId) : Fin 32 := ⟨k.idx.val % 32, by omega⟩
/-- The die a stack attaches to (R14). -/
def stackDie (t : StackId) : DieId := ⟨t.val / 4, by omega⟩
/-- The die a port lies on (R15). -/
def portDie (p : PortId) : DieId := [1, 2, 5, 6].getD (p.val / 4) 1
/-- The die of a SYNC block's Meridian core (R280). -/
def syncDie : SyncUnit → DieId
  | .die d => d
  | .stack t => stackDie t
/-- The SYNC block that holds an object (R282). -/
def unitOf : ObjId → SyncUnit
  | .die d _ => .die d
  | .stack t _ => .stack t
/-- An object's number within its block. -/
def numOf : ObjId → Nat
  | .die _ n => n.val
  | .stack _ n => n.val

/-- The die a block sits on or attaches to (R65). -/
def Block.die : Block → DieId
  | .meridian d | .security d | .power d | .guider d | .coelostat d | .photometerIf d | .d2d d | .stackCache d | .fabricRoute d => d
  | .sync u => syncDie u
  | .hostlink => 0
  | .kuzopaPort p => portDie p
  | .clusterSeq c => c.die
  | .perf (.cluster c) => c.die
  | .perf (.stack t) => stackDie t
  | .core k | .dataEngine k => k.die
  | .hostcore h => h.die
  | .stackCtrl t | .ulizen t | .slit t | .reducer t | .scrub t => stackDie t

/-- The bits of a number within a width, as a finite index. -/
def clip (n : Nat) [NeZero n] (v : Nat) : Fin n := Fin.ofNat n v

/-! ## Free values -/

/-- Take the next free value (log entry 6). -/
def Chip.freeBits (s : Chip) (w : Nat) : BitVec w × Chip := (Config.freeBits w s.free, { s with free := s.free + 1 })

/-- Take a free choice below a bound (log entry 6). -/
def Chip.freeChoice (s : Chip) (n : Nat) : Nat × Chip := (Config.freeChoice s.free % n, { s with free := s.free + 1 })

/-- The classes a fault code may have (R12). -/
def codeClasses : List (BitVec 4) := [1, 2, 3, 5, 6, 7, 8, 9, 0xF]

/-- Take a free fault code: its class is one of those in use. -/
def Chip.freeCode (s : Chip) : FaultCode × Chip :=
  let k := s.freeChoice 9
  let n := k.2.freeBits 12
  ((codeClasses.getD k.1 1) ++ n.1, n.2)

/-! ## MSI-X and the night log -/

/-- Send a message of a vector: dropped while MSI-X is off or the function lacks the vector, kept in the PBA while masked (R374). -/
def Chip.msix (s : Chip) (f : HostFn) (v : Nat) : Chip :=
  s.updFn f (fun g =>
    if g.msixEnable = false ∨ (match f with | .pf => 128 | .pf1 => 0 | .vf _ => 30) ≤ v then g
    else if (Table.read 1 g.msixTable (4 * v + 3)).getLsbD 0 then { g with pba := if v ∈ g.pba then g.pba else v :: g.pba }
    else { g with sentMsix := g.sentMsix ++ [v] })

/-- CD0's firmware sends the vector it owes for the night logs, once a millisecond has passed since the last (R475). -/
def Chip.logVector (s : Chip) : Chip :=
  let now := (s.die 0).timer
  let due : Bool := match s.link.logSent with
    | none => true
    | some t => decide (100000 ≤ (now - t).toNat)
  if s.link.logOwed = false ∨ due = false ∨ (s.die 0).ringOn = false ∨ (s.die 0).fwState ≠ 1 then s
  else Chip.msix { s with link := { s.link with logOwed := false, logSent := some now } } .pf 1

/-- Append to a die's night log, which keeps the newest 8,192 entries (R473); after an entry of level 1 or 2 CD0's firmware sends PF vector 1, at most once per millisecond of its timer (R475). -/
def Chip.log (s : Chip) (d : DieId) (level : Nat) (code : FaultCode) (dome : Byte) (tag : BitVec 16) (detail : Word64) : Chip :=
  if (s.die d).ringOn = false then s else
  let s := s.updDie d (fun x =>
    let e : LogEntry := ⟨x.logSeq + 1, x.timer, level, code, dome, tag, detail⟩
    { x with logSeq := x.logSeq + 1, log := (x.log ++ [e]).drop (x.log.length + 1 - 8192) })
  if level = 0 then s else Chip.logVector { s with link := { s.link with logOwed := true } }

/-! ## The freeze (R477, R478) -/

/-- Whether a freeze is in force: every handshake of the module is held. -/
def Chip.frozen (s : Chip) : Bool := allDies.any (fun d => (s.die d).coel.freezing)

/-- A link that goes down: what its sender held unacknowledged and what its receiver held in part is discarded, credits and numbers start afresh, and the port returns to step 1 while ENABLE is 1 (R346). -/
def Port.down (p : Port) : Port :=
  { p with state := if p.enable then 1 else 0, lanes := 0, width := 0, candidate := 0, locks := [],
           txSeq := 0, rxSeq := 0, nakOwed := false, retry := [], resends := 0, credits := [], creditOwed := [], sent := none, uncorr := [], mgmtBuf := none }

/-- A die reports FROZEN once its tap buffer is empty or given up (R478). -/
def Die.reportFrozen (x : Die) : Die :=
  if x.coel.freezing ∧ x.tap.buffer = [] ∧ x.tap.owed = [] then { x with coel := { x.coel with frozen := true } } else x

/-- Every step of R478: FREEZE on every die, the night log, ports and host link down, harts halted, DRAM in self-refresh; a die with events in its tap buffer reports FROZEN when they are acknowledged or given up. [log 180 DEDUCED] -/
def Chip.freeze (s : Chip) (d : DieId) (kind : Nat) (code : BitVec 16) : Chip :=
  if s.frozen then s else
  let cause : Word32 := code ++ BitVec.ofNat 4 0 ++ BitVec.ofNat 4 d.val ++ BitVec.ofNat 8 kind
  let s := allDies.foldl (fun s x =>
    if (s.die x).ringOn then
      let s := s.updDie x (fun y => Die.reportFrozen { y with coel := { y.coel with freezing := true, cause := cause } })
      s.log x 2 Code.coelostatFreeze 0xFF 0 (cause.setWidth 64)
    else s) s
  let s := { s with ports := s.ports.map (fun p => (p.1, { Port.down p.2 with state := 0 })),
                    harts := s.harts.map (fun h => (h.1, { h.2 with fetching := false })),
                    link := { s.link with link0Up := false, link1Up := false } }
  allStacks.foldl (fun s t => if (s.stack t).domainOn then s.updStack t (fun x => { x with selfRefresh := true }) else s) s

/-- What happens in a beat or in an empty slot is not cut by a freeze that one of its own events starts: the freeze takes effect at its end (R37). The work is done with the trigger controls held at 0, and the freeze that they asked for follows; of the triggers in one handshake the lowest cause number counts, so a trace record's goes before a fault's (R477). [log 179 DEDUCED] -/
def Chip.uncut (s : Chip) (f : Chip → Chip) : Chip :=
  let t := f s
  if s.frozen ∨ t.frozen = false then t else
  let held (c : Chip) (ctrl : DieId → Word32) : Chip :=
    { c with dies := c.dies.map (fun p => (p.1, { p.2 with coel := { p.2.coel with trigCtrl := ctrl p.1 } })) }
  let traced := f (held s (fun d => (s.die d).coel.trigCtrl &&& 0xFFFFFFF7))
  let first := if traced.frozen then traced else t
  let cause := match allDies.find? (fun d => (first.die d).coel.freezing) with
    | some d => (first.die d).coel.cause
    | none => 0
  (held (f (held s (fun _ => 0))) (fun d => (s.die d).coel.trigCtrl)).freeze (clip 8 (cause.extractLsb' 8 4).toNat) (cause.extractLsb' 0 8).toNat (cause.extractLsb' 16 16)

/-- A trigger source enabled in TRIG_CTRL starts a freeze while ARMED with TRIGGER (R477). -/
def Chip.trigger (s : Chip) (d : DieId) (source kind : Nat) (code : BitVec 16) : Chip :=
  let c := (s.die d).coel
  if c.armed ∧ c.perms.getLsbD 0 ∧ c.trigCtrl.getLsbD source then s.freeze d kind code else s

/-! ## Errors -/

/-- A fault whose class is enabled may start a freeze (R477). -/
def Chip.faultTrigger (s : Chip) (b : Block) (code : FaultCode) : Chip :=
  let c := (s.die (Block.die b)).coel
  if code ≠ 0 ∧ c.trigCtrl.getLsbD (16 + (code >>> 12).toNat) then s.trigger (Block.die b) 3 4 code else s

/-- Record an error in a block's head (R66, R477). -/
def Chip.err (s : Chip) (b : Block) (e : ErrorInfo) : Chip := (s.updHead b (fun h => h.record e)).faultTrigger b e.code

/-- Record the errors of one handshake of a block: the lowest bit is the one captured (R66, R477). -/
def Chip.errAll (s : Chip) (b : Block) (es : List ErrorInfo) : Chip :=
  if es = [] then s else es.foldl (fun s e => s.faultTrigger b e.code) (s.updHead b (fun h => h.recordAll es))

/-! ## Trace records (R468 to R471) -/

/-- Emit a record to a dome's trace unit when the dome traces that source. -/
def Chip.emit (s : Chip) (d : DieId) (dome : DomeId) (source : Nat) (r : TraceRec) : Chip :=
  let u := s.trace dome
  if u.sizeLog2 = 0 ∨ u.sources.getLsbD source = false then s else
  let s := s.updTrace dome (fun u => { u with queue := u.queue ++ [r] })
  let c := (s.die d).coel
  let match? : Bool := ((c.trigTrace.extractLsb' 0 8).toNat = 0 || (c.trigTrace.extractLsb' 0 8).toNat = r.type) && c.trigTrace.extractLsb' 16 16 == r.tag
  if match? then s.trigger d 2 3 r.tag else s

/-- A record of a cluster (R469). -/
def Chip.clusterRec (s : Chip) (c : ClusterId) (type : Nat) (tag : BitVec 16) (data : Word64) : TraceRec :=
  { time := (s.die c.die).timer, src := BitVec.ofNat 8 (0x20 + c.die.val), type := type, tag := tag,
    unit := BitVec.ofNat 16 (c.die.val * 8192 + c.idx.val), beat := (s.cluster c).beat, data := data }

/-- A record of a stack (R469). -/
def Chip.stackRec (s : Chip) (t : StackId) (type : Nat) (tag : BitVec 16) (data : Word64) : TraceRec :=
  { time := (s.stack t).ticks, src := BitVec.ofNat 8 (0x60 + t.val), type := type, tag := tag,
    unit := BitVec.ofNat 16 ((t.val / 4) * 8192 + 0x1000 + t.val), data := data }

/-- A trace point of firmware (R472). -/
def Chip.point (s : Chip) (home : DieId) (dome : DomeId) (p : Nat) (detail : Nat) : Chip :=
  if (s.trace dome).points.getLsbD p = false then s else
  let r : TraceRec :=
    { time := (s.die home).timer, src := BitVec.ofNat 8 (0x20 + home.val), type := 10, tag := 0,
      unit := BitVec.ofNat 16 (home.val * 8192 + 0x1FFF), data := BitVec.ofNat 64 (p + detail * 65536) }
  s.emit home dome 5 r

/-! ## Performance counters (R460 to R463) -/

/-- Count an event on a set of counters: the selectors, the live words and OVF; a CHAIN selector carries into its odd neighbour. Answers the new words, the wrapped counters and those that sample. -/
def countEvent (n : Nat) (sel : Nat → Word32) (event cls amount : Nat) (words : Table Nat Word32) : Table Nat Word32 × List Nat :=
  (List.range n).foldl (fun (acc : Table Nat Word32 × List Nat) i =>
    let c := sel i
    let chained : Bool := i % 2 = 1 && (sel (i - 1)).getLsbD 29
    if c.getLsbD 31 = false ∨ chained ∨ (c.extractLsb' 0 8).toNat ≠ event ∨ (c.getLsbD 13 ∧ (c.extractLsb' 8 5).toNat ≠ cls) then acc else
    let old := (Table.read 0 acc.1 i).toNat
    let w1 := Table.write acc.1 i (BitVec.ofNat 32 (old + amount))
    let carry := (old + amount) / 2 ^ 32
    if carry = 0 then (w1, acc.2)
    else if i % 2 = 0 ∧ c.getLsbD 29 then
      let old' := (Table.read 0 w1 (i + 1)).toNat
      let w2 := Table.write w1 (i + 1) (BitVec.ofNat 32 (old' + carry))
      (w2, if (old' + carry) / 2 ^ 32 = 0 then acc.2 else acc.2 ++ [i + 1])
    else (w1, acc.2 ++ [i])) (words, [])

/-- OVF bits of the wrapped counters. -/
def ovfBits (l : List Nat) : Word32 := l.foldl (fun w i => w ||| bitMask i) 0

/-- A cluster's dome when it has one (R61). -/
def Cluster.domeOf (c : Cluster) : Option DomeId := if c.assigned then some ⟨c.dome.toNat, c.dome.isLt⟩ else none

/-- SAMPLE records of the wrapped counters that sample (R466). -/
def Chip.samples (s : Chip) (c : ClusterId) (sel : Nat → Word32) (l : List Nat) : Chip :=
  match (s.cluster c).domeOf with
  | none => s
  | some m => (l.filter (fun i => (sel i).getLsbD 30)).foldl (fun s i =>
      let p := (s.cluster c).presented.getD (0, 0)
      s.emit c.die m 4 (s.clusterRec c 8 p.2 (BitVec.ofNat 64 (i + p.1 * 256)))) s

/-- Count an event of a cluster (R463). -/
def Chip.clusterEvent (s : Chip) (c : ClusterId) (event amount : Nat) : Chip :=
  let sel := fun i => Table.read 0 (s.cluster c).sels (clip 16 i)
  let r := countEvent 16 sel event 0 amount (s.head (.perf (.cluster c))).counters
  let s := s.updHead (.perf (.cluster c)) (fun h => let h := { h with counters := r.1 }; if r.2 = [] then h else h.raise 1)
  let s := s.updCluster c (fun x => { x with ovf := x.ovf ||| ovfBits r.2 })
  s.samples c sel r.2

/-- Count an event of a core (R463). -/
def Chip.coreEvent (s : Chip) (k : CoreId) (event amount : Nat) : Chip :=
  let c := clusterOf k
  let sel := fun i => Table.read 0 (s.cluster c).coreSels (clip 8 i)
  let r := countEvent 8 sel event 0 amount (s.head (.core k)).counters
  let s := s.updHead (.core k) (fun h => { h with counters := r.1 })
  if r.2 = [] then s else
  let s := s.updHead (.perf (.cluster c)) (fun h => h.raise 1)
  let s := s.updCluster c (fun x => { x with coreOvf := x.coreOvf ||| ovfBits r.2 })
  s.samples c sel r.2

/-- Count an event of a stack, of a request class (R462, R463). -/
def Chip.stackEvent (s : Chip) (t : StackId) (event cls amount : Nat) : Chip :=
  let sel := fun i => Table.read 0 (s.stack t).sels (clip 32 i)
  let r := countEvent 32 sel event cls amount (s.head (.perf (.stack t))).counters
  let s := s.updHead (.perf (.stack t)) (fun h => let h := { h with counters := r.1 }; if r.2 = [] then h else h.raise 1)
  s.updStack t (fun x => { x with ovf := x.ovf ||| ovfBits r.2 })

/-! ## The gate of a frozen or switched-off module -/

/-- A meaning that a freeze holds: nothing happens while the freeze lasts (R478). [log 13 DESIGN CHOICE] -/
def Chip.live (f : Chip → Chip) (s : Chip) : Chip := if s.frozen then s else f s

/-! ## The tap (R392, R395) -/

/-- Present events of one kind and dome: they merge into the newest frame not yet sent, then fill new frames of up to 1,023 while fewer than 64 are buffered; answers the number accepted. -/
def Tap.put (t : Tap) (kind : BitVec 2) (dome : BitVec 4) (n : Nat) : Tap × Nat :=
  let sentLast : Bool := t.outstanding && decide (t.buffer.length = 1)
  let merge : Nat := match t.buffer.getLast? with
    | some f => if f.kind = kind ∧ f.dome = dome ∧ sentLast = false then Nat.min n (1023 - f.count) else 0
    | none => 0
  let b := if merge = 0 then t.buffer else
    match t.buffer.getLast? with
    | some f => t.buffer.dropLast ++ [{ f with count := f.count + merge }]
    | none => t.buffer
  let rest := n - merge
  let frames := Nat.min (64 - b.length) ((rest + 1022) / 1023)
  let added := (List.range frames).map (fun i => (⟨kind, dome, Nat.min 1023 (rest - 1023 * i)⟩ : TapFrame))
  ({ t with buffer := b ++ added }, merge + Nat.min rest (1023 * frames))

/-- Present events at a die's tap. -/
def Chip.present (s : Chip) (d : DieId) (kind : BitVec 2) (dome : BitVec 4) (n : Nat) : Chip × Nat :=
  let r := (s.die d).tap.put kind dome n
  (s.updDie d (fun x => { x with tap := r.1 }), r.2)

/-- Present an event that no engine waits for any more: what the full buffer does not take waits at the tap (R233, R395). -/
def Chip.presentOwed (s : Chip) (d : DieId) (kind : BitVec 2) (dome : BitVec 4) : Chip :=
  let r := s.present d kind dome 1
  if r.2 = 0 then s.updDie d (fun x => { x with tap := { x.tap with owed := x.tap.owed ++ [(kind, dome)] } }) else r.1

/-- The waiting events enter a buffer that has room again, oldest first. -/
def Tap.settle (t : Tap) : Tap :=
  t.owed.foldl (fun t e =>
    let r := t.put e.1 e.2 1
    if r.2 = 0 then { t with owed := t.owed ++ [e] } else r.1) { t with owed := [] }

end Sys2Proof.Machine
end

