-- ==== Sys2Proof/Machine/Operands.lean ====
section
/-! DEFINITION. The forms an operand takes: local and global addresses (R48 to R51), the region table (R52 to R54), the agents and their domes (R53, R61), the routes between dies (R16), and the fields of the words a program store holds (R98, R103, R218). -/

namespace Sys2Proof.Machine

/-! ## Addresses -/

/-- What a local address names (R51). -/
inductive Place where
  | mem (a : Nat)
  | scratch (k : CoreId) (off : Nat)
  | diePage (d : DieId) (off : Nat)
  | stackPage (t : StackId) (off : Nat)
  | obj (o : ObjId) (off : Nat)
  | none
  deriving DecidableEq, Repr

/-- The local map (R51, R59). -/
def place (a : Nat) : Place :=
  if a < 2 ^ 41 then .mem a
  else if 0x100000000000 ≤ a ∧ a < 0x100800000000 then
    let o := a - 0x100000000000
    .scratch ⟨clip 8 (o / 2 ^ 32), clip 512 (o / 2 ^ 23)⟩ (o % 2 ^ 23)
  else if 0x200000000000 ≤ a ∧ a < 0x200008000000 then
    .diePage (clip 8 (a / 2 ^ 24)) (a % 2 ^ 24)
  else if 0x200100000000 ≤ a ∧ a < 0x200120000000 then
    .stackPage (clip 32 (a / 2 ^ 24)) (a % 2 ^ 24)
  else if 0x300000000000 ≤ a ∧ a < 0x300000080000 then
    let o := a - 0x300000000000
    .obj (.die (clip 8 (o / 2 ^ 16)) (clip 4096 (o / 16))) (o % 16)
  else if 0x300000080000 ≤ a ∧ a < 0x3000000C0000 then
    let o := a - 0x300000080000
    if o % 8192 < 4096 then .obj (.stack (clip 32 (o / 8192)) (clip 256 (o % 8192 / 16))) (o % 16) else .none
  else .none

/-- The local address of an object (R275). -/
def objAddr : ObjId → Nat
  | .die d n => 0x300000000000 + d.val * 2 ^ 16 + n.val * 16
  | .stack t n => 0x300000080000 + t.val * 2 ^ 13 + n.val * 16

/-- The local address of a scratchpad byte (R59). -/
def scratchAddr (k : CoreId) (off : Nat) : Nat := 0x100000000000 + k.die.val * 2 ^ 32 + k.idx.val * 2 ^ 23 + off

/-- The MODULE and LOCAL fields of a global address (R48). -/
def moduleOf (a : Word64) : BitVec 12 := a.extractLsb' 52 12
def localOf (a : Word64) : Nat := (a.extractLsb' 0 52).toNat

/-- A local address as a global address of the issuing module. -/
def selfAddr (a : Nat) : Word64 := 0xFFF#12 ++ BitVec.ofNat 52 a

/-- An access is local when MODULE is 0xFFF or the module's own assigned ID (R49). -/
def Chip.isLocal (s : Chip) (a : Word64) : Bool :=
  moduleOf a == 0xFFF#12 || (s.fabric.idValid && moduleOf a == s.fabric.moduleId)

/-! ## Region entries (R53, R54) -/

def regionMode (e : Word64) : Nat := (field e 1 0).toNat
def regionWidth (e : Word64) : Nat := (field e 3 2).toNat
def regionStack (e : Word64) : Nat := (field e 8 4).toNat
def regionFrame (e : Word64) : Nat := (field e 14 9).toNat
def regionPf (e : Word64) : Bool := e.getLsbD 15
def regionRead (e : Word64) (m : DomeId) : Bool := e.getLsbD (16 + m.val)
def regionWrite (e : Word64) (m : DomeId) : Bool := e.getLsbD (32 + m.val)
def regionFabricRead (e : Word64) : Bool := e.getLsbD 48
def regionFabricWrite (e : Word64) : Bool := e.getLsbD 49

/-- Stacks of a spread set by WIDTH (R54). -/
def spreadWidth (w : Nat) : Nat := if w = 0 then 4 else if w = 1 then 8 else 32

/-- Whether a region entry can translate: neither INVALID nor malformed (R54). -/
def regionUsable (e : Word64) : Bool :=
  regionMode e = 1 || (regionMode e = 2 && regionWidth e ≠ 3 && regionStack e % spreadWidth (regionWidth e) = 0)

/-- The stack and stack address an entry gives a local address (R54). -/
def translate (e : Word64) (a : Nat) : StackId × Nat :=
  let off := a % 2 ^ 30
  let frame := regionFrame e * 2 ^ 30
  if regionMode e = 1 then (clip 32 (regionStack e), frame + off)
  else
    let k := spreadWidth (regionWidth e)
    let g := ((a / 2 ^ 30 % k) * 2 ^ 30 + off) / 4096
    (clip 32 (regionStack e + g % k), frame + g / k * 4096 + a % 4096)

/-! ## Requesters -/

/-- Who makes an access: the agent, the die whose region table translates it (R56), its command tag, its hint (R187) and the ACTIVE count that came with it (R195). -/
structure Who where
  agent : Agent
  die : DieId
  tag : BitVec 16 := 0
  hint : BitVec 2 := 0
  active : Nat := 1

/-- The dome an agent belongs to (R53, R215, R373). -/
def Chip.domeOf (s : Chip) : Agent → Option DomeId
  | .sequencer c => (s.cluster c).domeOf
  | .de k => (s.cluster (clusterOf k)).domeOf
  | .run t n => let x := Table.read {} (s.stack t).slots n; some (clip 16 x.dome.toNat)
  | .hart h => let x := s.hart h; if x.assigned then some (clip 16 x.dome.toNat) else none
  | .host (.vf n) => let b := Table.read 0 s.link.vfDome n; if b.getLsbD 7 then some (clip 16 (b.toNat % 16)) else none
  | _ => none

/-- The die an agent issues from (R56, R262). -/
def agentDie : Agent → DieId
  | .sequencer c => c.die
  | .de k => k.die
  | .run t _ => stackDie t
  | .hart h => h.die
  | .meridian d => d
  | .host _ => 0
  | .remote _ => 1

/-- The default form of a requester. -/
def whoOf (a : Agent) : Who := { agent := a, die := agentDie a }

/-- The physical function, whose accesses the host's own rules allow. -/
def isPf : Agent → Bool
  | .host .pf => true
  | _ => false

def isMeridian : Agent → Bool
  | .meridian _ => true
  | _ => false

def isRemote : Agent → Bool
  | .remote _ => true
  | _ => false

/-- Whether a region entry grants an agent an access (R53). -/
def Chip.regionGrants (s : Chip) (e : Word64) (a : Agent) (write : Bool) : Bool :=
  match a with
  | .meridian _ => true
  | .host .pf => regionPf e
  | .remote _ => if write then regionFabricWrite e else regionFabricRead e
  | _ =>
    match s.domeOf a with
    | some m => if write then regionWrite e m else regionRead e m
    | none => false

/-- Whether an agent may reach a cluster's scratchpads from outside (R61). -/
def Chip.scratchGrants (s : Chip) (c : ClusterId) (a : Agent) : Bool :=
  let x := s.cluster c
  match a with
  | .meridian _ => true
  | .host .pf => true
  | .remote _ => x.assigned && x.fabricOpen
  | _ => x.assigned && decide (s.domeOf a = x.domeOf)

/-- The request class at a stack port: the agent's dome, or 16 (R195). -/
def Chip.classOf (s : Chip) (a : Agent) : Nat :=
  match s.domeOf a with
  | some m => m.val
  | none => 16

/-! ## Routes between dies (R13, R16) -/

/-- Dies joined by a D2D link (R13). -/
def adjacent (a b : DieId) : Bool :=
  (a.val % 4 = b.val % 4 && a.val ≠ b.val) || (a.val / 4 = b.val / 4 && (a.val + 1 = b.val || b.val + 1 = a.val))

/-- One more D2D hop over dies whose edge ring is on. -/
def Chip.spread (s : Chip) (from_ : List DieId) : List DieId :=
  allDies.filter (fun d => from_.contains d || ((s.die d).ringOn && from_.any (fun x => adjacent x d)))

/-- Whether a die can be reached from another: both rings are on and a path of dies with their rings on joins them; when both rings of a column are down no path crosses it (R16). [log 167 DEDUCED] -/
def Chip.route (s : Chip) (a b : DieId) : Bool :=
  (s.die a).ringOn && (s.die b).ringOn &&
    ((s.spread (s.spread (s.spread (s.spread (s.spread (s.spread (s.spread [a]))))))).contains b)

/-! ## Fields of program words -/

/-- The fields of a scalar instruction (R98). -/
def opcOf (w : Word64) : Nat := (field w 63 56).toNat
def rdOf (w : Word64) : Fin 32 := clip 32 (field w 55 51).toNat
def rs1Of (w : Word64) : Fin 32 := clip 32 (field w 50 46).toNat
def rs2Of (w : Word64) : Fin 32 := clip 32 (field w 45 41).toNat
def fnOf (w : Word64) : Nat := (field w 40 32).toNat
def immZ (w : Word64) : Word64 := (w.extractLsb' 0 32).setWidth 64
def immS (w : Word64) : Word64 := (w.extractLsb' 0 32).signExtend 64

/-- The fields of an engine packet (R103). -/
def pkOpcode (p : BitVec 128) : Nat := (field p 127 120).toNat
def pkEngine (p : BitVec 128) : EngineKind := [EngineKind.me, .ve, .de, .tq].getD (field p 119 118).toNat .tq
def pkAgm (p : BitVec 128) : Bool := p.getLsbD 117
def pkSigEn (p : BitVec 128) : Bool := p.getLsbD 116
def pkSigScope (p : BitVec 128) : BitVec 3 := p.extractLsb' 113 3
def pkSigObj (p : BitVec 128) : Fin 4096 := clip 4096 (field p 112 101).toNat
def pkTag (p : BitVec 128) : BitVec 16 := p.extractLsb' 85 16
def pkFmtA (p : BitVec 128) : Nat := (field p 84 81).toNat
def pkFmtB (p : BitVec 128) : Nat := (field p 80 77).toNat
def pkFmtD (p : BitVec 128) : Nat := (field p 76 73).toNat
/-- An operand selector: ADV and the address register. -/
structure Sel where
  adv : Bool
  reg : Fin 8
  deriving DecidableEq, Repr
def selAt (p : BitVec 128) (lo : Nat) : Sel := ⟨p.getLsbD (lo + 3), clip 8 (p.extractLsb' lo 3).toNat⟩
def pkA (p : BitVec 128) : Sel := selAt p 69
def pkB (p : BitVec 128) : Sel := selAt p 65
def pkD (p : BitVec 128) : Sel := selAt p 61
def pkX (p : BitVec 128) : Sel := selAt p 57
def pkXw (p : BitVec 128) : Nat := if p.getLsbD 56 then 4 else 2
def pkXShift (p : BitVec 128) : Nat := (field p 55 51).toNat
def pkReserved (p : BitVec 128) : Nat := (field p 50 48).toNat
def pkParam (p : BitVec 128) : BitVec 48 := p.extractLsb' 0 48

end Sys2Proof.Machine
end

