-- ==== Sys2Proof/Machine/Ecc.lean ====
section
/-! DEFINITION. The stack code (R410, R411): a shortened Reed-Solomon code over GF(2^8), decoded from the syndromes of a codeword's error pattern, and reads and writes of codewords in DRAM with retirement (R420), capture (R416) and the correction log (R436). -/

namespace Sys2Proof.Machine

/-- Multiplication by alpha = 0x02 with x^8 + x^4 + x^3 + x^2 + 1. -/
def gfDouble (a : Byte) : Byte := if a.getLsbD 7 then (a <<< 1) ^^^ 0x1D else a <<< 1

/-- Multiplication in GF(2^8), over the bits of the second factor from bit 7 down. -/
def gfMulBits (a b : Byte) : Nat → Byte
  | 0 => 0
  | n + 1 =>
    let r := gfMulBits a b n
    -- bits of b from the top: after n steps r holds the product with b's top n bits
    let r := gfDouble r
    if b.getLsbD (7 - n) then r ^^^ a else r

def gfMul (a b : Byte) : Byte := gfMulBits a b 8

/-- alpha^n. -/
def gfPow : Nat → Byte
  | 0 => 1
  | n + 1 => gfDouble (gfPow n)

/-- An error pattern: symbols 0 to 71 (64 data bytes, then 8 check bytes) and the value exclusive-ored into each. -/
abbrev ErrorPattern := List (Nat × Byte)

/-- Syndrome j: the error polynomial at alpha^j; symbol k is the coefficient of x^(71-k) (R410). -/
def syndrome (p : ErrorPattern) (j : Nat) : Byte :=
  p.foldl (fun acc e => acc ^^^ gfMul e.2 (gfPow (j * (71 - e.1) % 255))) 0

def syndromes (p : ErrorPattern) : List Byte := (List.range 8).map (syndrome p)

/-- The pattern of a poisoned codeword (R411): 0x5A into check bytes 0 and 7. -/
def poisonPattern : ErrorPattern := [(64, 0x5A), (71, 0x5A)]

/-- What the decoder reports (R410, R411). -/
inductive Decoded where
  | clean
  | corrected (symbol : Nat) (value : Byte)
  | poisoned
  | uncorrectable
  deriving DecidableEq, Repr

/-- The single-symbol error that a set of syndromes names, when one does. -/
def singleError (syn : List Byte) : Option (Nat × Byte) :=
  let v := syn.getD 0 0
  if v = 0 then none else
  ((List.range 72).find? (fun k => (List.range 8).all (fun j => syn.getD j 0 == gfMul v (gfPow (j * (71 - k) % 255))))).map (fun k => (k, v))

/-- What the code makes of an error pattern (R410). [log 55 DEDUCED] -/
def decodePattern (p : ErrorPattern) : Decoded :=
  if p = [] then .clean else
  let syn := syndromes p
  if syn.all (· == 0) then .clean
  else if syn = syndromes poisonPattern then .poisoned
  else
    match singleError syn with
    | some (k, v) => .corrected k v
    | none => .uncorrectable

/-- The block an access reaches after retirement (R420). -/
def Stack.phys (x : Stack) (a : Nat) : Nat :=
  match x.retireTable.find? (fun e => e.1 = a / 65536) with
  | some e => e.2 * 65536 + a % 65536
  | none => a

/-- Keys of the stores. -/
def dramKey (t : StackId) (a : Nat) : Nat := t.val * 2 ^ 36 + a
def cwKey (t : StackId) (a : Nat) : Nat := t.val * 2 ^ 30 + a / 64

/-- The path of an access, as ERR_SYNDROME.PATH numbers it (R436). -/
inductive Path where
  | main | slit | reducer | ulizen | walker | scrub | merge | retire
  deriving DecidableEq, Repr

def Path.code : Path → Nat
  | .main => 0 | .slit => 1 | .reducer => 2 | .ulizen => 3 | .walker => 4 | .scrub => 5 | .merge => 6 | .retire => 7

/-- Count and capture a code event on the stack's SCRUB page (R416, R436); a correction also enters the log of 64. -/
def Chip.codeEvent (s : Chip) (t : StackId) (a : Nat) (path : Path) (d : Decoded) : Chip :=
  let scrub := path = .scrub
  let e (bit : Nat) (code : FaultCode) (sym : Nat) : ErrorInfo :=
    { bit := bit, code := code, addr := BitVec.ofNat 64 (a / 64 * 64), syn := BitVec.ofNat 32 (sym * 2 ^ 24 + path.code * 2 ^ 20) }
  let b := Block.scrub t
  match d with
  | .clean => s
  | .corrected k _ =>
    let s := (s.err b (e (if scrub then 1 else 0) 0 k)).updHead b (fun h => h.bump (if scrub then 1 else 0) 1)
    let s := s.stackEvent t 8 16 1
    let x := s.stack t
    if x.ceLog.length < 64 then
      s.updStack t (fun x => { x with ceLog := x.ceLog ++ [⟨a / 64 * 64, x.laps.toNat % 2 ^ 15, k, path.code⟩] })
    else s.err b (e 5 0 k)
  | .poisoned => (s.err b (e (if scrub then 3 else 2) Code.poisoned 0xFE)).updHead b (fun h => h.bump (if scrub then 3 else 2) 1)
  | .uncorrectable => (s.err b (e (if scrub then 3 else 2) Code.uncorrectable 0xFF)).updHead b (fun h => h.bump (if scrub then 3 else 2) 1)

/-- The value exclusive-ored into symbol k. -/
def patternAt (p : ErrorPattern) (k : Nat) : Byte := p.foldl (fun acc e => if e.1 = k then acc ^^^ e.2 else acc) 0

/-- The data bytes of a codeword as they were written, or the fault the decoder reports (R411, R414). -/
def Decoded.bytes (d : Decoded) (raw : List Byte) (pat : ErrorPattern) : Except FaultCode (List Byte) :=
  let seen := raw.mapIdx (fun k b => b ^^^ patternAt pat k)
  match d with
  | .clean => .ok seen
  | .corrected k v => .ok (seen.mapIdx (fun i b => if i = k then b ^^^ v else b))
  | .poisoned => .error Code.poisoned
  | .uncorrectable => .error Code.uncorrectable

/-- A codeword of 64 data bytes under an error pattern. -/
def decodeWord (raw : List Byte) (pat : ErrorPattern) : Except FaultCode (List Byte) :=
  if pat = [] then .ok raw else (decodePattern pat).bytes raw pat

/-- Read the codeword that holds stack address a: 64 bytes, or the fault the decoder reports; nothing is rewritten (R413, R414). -/
def Chip.readCodeword (s : Chip) (t : StackId) (a : Nat) (path : Path) : Chip × Except FaultCode (List Byte) :=
  let p := (s.stack t).phys (a / 64 * 64)
  let raw := s.dram.bytes (dramKey t p) 64
  let pat := Table.read [] s.codeErrors (cwKey t p)
  if pat = [] then (s, .ok raw) else
  let d := decodePattern pat
  (s.codeEvent t a path d, d.bytes raw pat)

/-- Write a whole codeword with fresh check bytes (R411). -/
def Chip.writeCodeword (s : Chip) (t : StackId) (a : Nat) (bs : List Byte) : Chip :=
  let p := (s.stack t).phys (a / 64 * 64)
  { s with dram := s.dram.putBytes (dramKey t p) bs, codeErrors := s.codeErrors.filter (fun e => e.1 ≠ cwKey t p) }

/-- Poison a codeword (R411). -/
def Chip.poisonCodeword (s : Chip) (t : StackId) (a : Nat) : Chip :=
  let p := (s.stack t).phys (a / 64 * 64)
  { s with codeErrors := Table.write s.codeErrors (cwKey t p) poisonPattern }

/-- The error pattern of the codeword that holds a stack address. -/
def Chip.patternOf (s : Chip) (t : StackId) (a : Nat) : ErrorPattern := Table.read [] s.codeErrors (cwKey t ((s.stack t).phys (a / 64 * 64)))

/-- Write a codeword with the check bytes it comes with: nothing is encoded again (R412). -/
def Chip.moveCodeword (s : Chip) (t : StackId) (a : Nat) (raw : List Byte) (pat : ErrorPattern) : Chip :=
  let s := s.writeCodeword t a raw
  if pat = [] then s else { s with codeErrors := Table.write s.codeErrors (cwKey t ((s.stack t).phys (a / 64 * 64))) pat }

/-- The pieces of an access of n bytes at a, split at multiples of g. -/
def pieces (g a n : Nat) : List (Nat × Nat) :=
  if n = 0 then [] else
  (List.range ((a % g + n + g - 1) / g)).map (fun i =>
    let lo := Nat.max a (a / g * g + i * g)
    let hi := Nat.min (a + n) (a / g * g + (i + 1) * g)
    (lo, hi - lo))

/-- Read bytes of DRAM codeword by codeword; the first fault ends it. -/
def Chip.readDram (s : Chip) (t : StackId) (path : Path) : List (Nat × Nat) → Chip × Except FaultCode (List Byte)
  | [] => (s, .ok [])
  | (a, n) :: rest =>
    match s.readCodeword t a path with
    | (s, .error c) => (s, .error c)
    | (s, .ok bs) =>
      match Chip.readDram s t path rest with
      | (s, .error c) => (s, .error c)
      | (s, .ok more) => (s, .ok ((bs.drop (a % 64)).take n ++ more))

/-- Write bytes of DRAM codeword by codeword: a whole codeword is replaced, a part is merged by read-modify-write (R184); a part of a bad codeword is not written (R231). Answers the first fault. -/
def Chip.writeDram (s : Chip) (t : StackId) (bs : List Byte) : List (Nat × Nat) → Chip × Option FaultCode
  | [] => (s, none)
  | (a, n) :: rest =>
    let mine := bs.take n
    let r : Chip × Option FaultCode :=
      if n = 64 then (s.writeCodeword t a mine, none) else
      match s.readCodeword t a .merge with
      | (s, .error c) => (s, some c)
      | (s, .ok old) => (s.writeCodeword t a (old.take (a % 64) ++ mine ++ old.drop (a % 64 + n)), none)
    let q := Chip.writeDram r.1 t (bs.drop n) rest
    (q.1, r.2.or q.2)

end Sys2Proof.Machine
end

