-- ==== Sys2Proof/Machine/StackPath.lean ====
section
/-! DEFINITION. The ways into a stack that pass its controller: the stack cache and its hints (R184 to R190), the reduction engine (R191 to R194) and the stack port (R195). -/

namespace Sys2Proof.Machine

/-! ## The stack cache -/

/-- The set of a line of 256 bytes (R186). -/
def cacheSet (t : StackId) (line : Nat) : Nat :=
  line % 2 ^ 15 + ((line / 2 ^ 15 % 4) ^^^ (t.val % 4)) * 2 ^ 15

def CacheLine.is (l : CacheLine) (t : StackId) (line : Nat) : Bool := decide (l.stack = t) && decide (l.line = line)

/-- The line of a stack that the cache of its die holds (R186). -/
def Chip.findLine (s : Chip) (t : StackId) (line : Nat) : Option CacheLine := s.cache.find? (fun l => l.is t line)

def Chip.dropLine (s : Chip) (t : StackId) (line : Nat) : Chip := { s with cache := s.cache.filter (fun l => !l.is t line) }

/-- Lines of the same set, in the cache of the same die. -/
def Chip.setLines (s : Chip) (t : StackId) (line : Nat) : List CacheLine :=
  s.cache.filter (fun l => stackDie l.stack = stackDie t ∧ cacheSet l.stack l.line = cacheSet t line)

/-- The codeword of a line that holds an address. -/
def lineWord (a : Nat) : Fin 4 := clip 4 (a % 256 / 64)

/-- The stored bytes of a codeword of a line. -/
def CacheLine.raw (l : CacheLine) (j : Fin 4) : List Byte := (l.data.drop (64 * j.val)).take 64

/-- Codeword j of a line as its check bytes let it be read (R415). -/
def CacheLine.word (l : CacheLine) (j : Fin 4) : Except FaultCode (List Byte) := decodeWord (l.raw j) (Table.read [] l.errors j)

/-- Write a line to its stack: four whole codewords with the check bytes they have (R412); one that is uncorrectable becomes poisoned (R415). -/
def Chip.writeBack (s : Chip) (l : CacheLine) : Chip :=
  if l.errors = [] then (s.writeDram l.stack l.data (pieces 64 (l.line * 256) 256)).1 else
  (List.finRange 4).foldl (fun s j =>
    let a := l.line * 256 + 64 * j.val
    match l.word j with
    | .ok _ => s.moveCodeword l.stack a (l.raw j) (Table.read [] l.errors j)
    | .error _ => s.poisonCodeword l.stack a) s

/-- Replace a line in place. -/
def Chip.setLine (s : Chip) (n : CacheLine) : Chip :=
  { s with cache := s.cache.map (fun l => if l.is n.stack n.line then n else l) }

/-- Whether the set of a line may retain one line more (R188). -/
def Chip.mayRetain (s : Chip) (t : StackId) (line : Nat) : Bool :=
  ((s.setLines t line).filter (fun l => l.retained)).length < Nat.min 16 (s.die (stackDie t)).keepWaysMax.toNat

/-- A tree of 15 nodes over the 16 ways of a set: node n has the children 2n and 2n + 1, and its bit, number n - 1, is 1 when the ways less recently used are on its upper side. A use of a way turns every node on its path to the other side (R187, R188). -/
def treeTouch (t : BitVec 15) (way : Nat) : BitVec 15 :=
  (List.range 4).foldl (fun t d =>
    let node := (16 + way) / 2 ^ (4 - d)
    let upper : Bool := (way / 2 ^ (3 - d)) % 2 = 1
    let bit := BitVec.ofNat 15 (2 ^ (node - 1))
    if upper then t &&& ~~~bit else t ||| bit) t

/-- The way a tree points to among the ways it covers; a side without one is passed by. Fuel is the depth. -/
def treeVictim (t : BitVec 15) (covered : List Nat) : Nat → Nat → Nat
  | 0, node => node - 16
  | f + 1, node =>
    let under (n : Nat) : Bool := covered.any (fun w => (16 + w) / 2 ^ f = n)
    let upper : Bool := if !under (2 * node) then true else if !under (2 * node + 1) then false else t.getLsbD (node - 1)
    treeVictim t covered f (2 * node + (if upper then 1 else 0))

/-- The key of a line's set in its die's cache. -/
def setKey (t : StackId) (line : Nat) : DieId × Nat := (stackDie t, cacheSet t line)

/-- A line becomes the most recent of its set (R187). -/
def Chip.makeRecent (s : Chip) (l : CacheLine) : Chip :=
  let k := setKey l.stack l.line
  { s with recency := Table.write s.recency k (treeTouch (Table.read 0 s.recency k) l.way.val) }

/-- Put a new line into a way, as the most recent of its set. -/
def Chip.putLine (s : Chip) (n : CacheLine) (way : Fin 16) : Chip :=
  let n := { n with way := way }
  ({ s with cache := s.cache ++ [n] }).makeRecent n

/-- Bring a line in. A full set loses a victim, written back when dirty: the tree chooses it among the normal-priority lines when there are any, and among the retained lines otherwise (R188). Which empty way of a set is filled is a free choice. [log 48 DEDUCED] -/
def Chip.allocate (s : Chip) (n : CacheLine) : Chip :=
  let same := s.setLines n.stack n.line
  let empty := (List.finRange 16).filter (fun w => !same.any (fun l => l.way = w))
  if empty ≠ [] then
    let c := s.freeChoice empty.length
    c.2.putLine n (empty.getD c.1 0)
  else
    let normal := same.filter (fun l => !l.retained)
    let cands := if normal = [] then same else normal
    let way := treeVictim (Table.read 0 s.recency (setKey n.stack n.line)) (cands.map (fun l => l.way.val)) 4 1
    match cands.find? (fun l => l.way.val = way) with
    | none => s
    | some v => ((if v.dirty then s.writeBack v else s).dropLine v.stack v.line).putLine n v.way

/-- Replace bytes of a line. -/
def splice (old : List Byte) (at_ : Nat) (new : List Byte) : List Byte :=
  old.take at_ ++ new ++ old.drop (at_ + new.length)

/-- The effect of a hit under its hint after the data have moved (R187). -/
def Chip.afterHit (s : Chip) (l : CacheLine) (hint : BitVec 2) : Chip :=
  if hint = 3 then (if l.dirty then s.writeBack l else s).dropLine l.stack l.line
  else if hint = 1 then s.setLine l
  else if hint = 2 ∧ l.retained = false ∧ s.mayRetain l.stack l.line then (s.setLine { l with retained := true }).makeRecent l
  else (s.setLine l).makeRecent l

/-- The line that a fill brings in: its codewords keep their check bytes (R412). -/
def Chip.filled (s : Chip) (t : StackId) (line : Nat) (bs : List Byte) (retain : Bool) : CacheLine :=
  let word (j : Fin 4) : Nat := line * 256 + 64 * j.val
  let errors := (List.finRange 4).filterMap (fun j => if s.patternOf t (word j) = [] then none else some (j, s.patternOf t (word j)))
  let raw := (List.finRange 4).flatMap (fun j => s.dram.bytes (dramKey t ((s.stack t).phys (word j))) 64)
  { stack := t, line := line, data := if errors = [] then bs else raw, dirty := false, retained := retain && s.mayRetain t line, errors := errors }

/-- Read pieces of a line codeword by codeword; the first fault ends it. Every code event is counted (R414 to R416). -/
def Chip.readLine (s : Chip) (l : CacheLine) (path : Path) : List (Nat × Nat) → Chip × Except FaultCode (List Byte)
  | [] => (s, .ok [])
  | (a, n) :: rest =>
    let s := s.codeEvent l.stack a path (decodePattern (Table.read [] l.errors (lineWord a)))
    match l.word (lineWord a) with
    | .error c => (s, .error c)
    | .ok bs =>
      match Chip.readLine s l path rest with
      | (s, .error c) => (s, .error c)
      | (s, .ok more) => (s, .ok ((bs.drop (a % 64)).take n ++ more))

/-- Write pieces of a line codeword by codeword: a whole codeword is replaced, a part is merged, and a part of a bad codeword is not written. Answers the first fault. -/
def CacheLine.writeWords (l : CacheLine) (bs : List Byte) : List (Nat × Nat) → CacheLine × Option FaultCode
  | [] => (l, none)
  | (a, n) :: rest =>
    let j := lineWord a
    let set (word : List Byte) : CacheLine :=
      { l with data := splice l.data (64 * j.val) word, errors := l.errors.filter (fun e => e.1 ≠ j), dirty := true }
    let r : CacheLine × Option FaultCode :=
      if n = 64 then (set (bs.take n), none) else
      match l.word j with
      | .error c => (l, some c)
      | .ok old => (set (splice old (a % 64) (bs.take n)), none)
    let q := CacheLine.writeWords r.1 (bs.drop n) rest
    (q.1, r.2.or q.2)

/-- Write bytes into a line (R184, R415). -/
def CacheLine.store (l : CacheLine) (a : Nat) (bs : List Byte) : CacheLine × Option FaultCode :=
  if l.errors = [] then ({ l with data := splice l.data (a % 256) bs, dirty := true }, none)
  else l.writeWords bs (pieces 64 a bs.length)

/-- Read a piece within one 256-byte line (R184 to R187). -/
def Chip.readPiece (s : Chip) (t : StackId) (a n : Nat) (slit : Bool) (hint : BitVec 2) (path : Path) : Chip × Except FaultCode (List Byte) :=
  let line := a / 256
  match s.findLine t line with
  | some l =>
    if l.errors = [] then (s.afterHit l hint, .ok ((l.data.drop (a % 256)).take n))
    else let r := s.readLine l path (pieces 64 a n); (r.1.afterHit l hint, r.2)
  | none =>
    if slit ∨ hint = 1 ∨ hint = 3 ∨ (s.die (stackDie t)).bypass then s.readDram t path (pieces 64 a n)
    else
      match s.readDram t path (pieces 64 (line * 256) 256) with
      | (s, .ok bs) =>
        let s := s.allocate (s.filled t line bs (hint = 2))
        (s, .ok ((bs.drop (a % 256)).take n))
      | (s, .error _) => s.readDram t path (pieces 64 a n)

/-- Write a piece within one line (R184 to R187). -/
def Chip.writePiece (s : Chip) (t : StackId) (a : Nat) (bs : List Byte) (slit : Bool) (hint : BitVec 2) (path : Path) : Chip × Option FaultCode :=
  let line := a / 256
  match s.findLine t line with
  | some l => let r := l.store a bs; (s.afterHit r.1 hint, r.2)
  | none =>
    if slit ∨ hint = 1 ∨ hint = 3 ∨ (s.die (stackDie t)).bypass then s.writeDram t bs (pieces 64 a bs.length)
    else if bs.length = 256 then
      (s.allocate { stack := t, line := line, data := bs, dirty := true, retained := hint = 2 && s.mayRetain t line }, none)
    else
      match s.readDram t path (pieces 64 (line * 256) 256) with
      | (s, .ok old) =>
        let r := (s.filled t line old (hint = 2)).store a bs
        (s.allocate r.1, r.2)
      | (s, .error _) => s.writeDram t bs (pieces 64 a bs.length)

/-! ## Reductions (R191, R192) -/

/-- The formats an operation accepts, posted or fetching (R191); operations as AOP (R358). -/
def reduceAllowed (op fmt : Nat) (fetching : Bool) : Bool :=
  let int := fmt = 11 || fmt = 12
  let fp := fmt = 0 || fmt = 1 || fmt = 2
  if op = 1 ∨ op = 2 ∨ op = 3 then int || (!fetching && fp)
  else if op = 4 ∨ op = 5 ∨ op = 6 then int
  else if op = 7 ∨ op = 8 ∨ op = 9 then fetching && int
  else if op = 10 then fetching && fmt = 12
  else false

/-- One element reduced: the old and the given value, and for CAS the new value (R192). -/
def reduceElem (op fmt old v new : Nat) : Nat :=
  match floatFmt fmt with
  | some f =>
    let x := f.value old
    let y := f.value v
    if op = 1 then f.arith (Num.add x y) else if op = 2 then f.arith (Num.min x y) else f.arith (Num.max x y)
  | none =>
    let w := elemBits fmt
    let a := BitVec.ofNat w old
    let b := BitVec.ofNat w v
    let r : BitVec w :=
      match op with
      | 1 => a + b
      | 2 => if b.slt a then b else a
      | 3 => if a.slt b then b else a
      | 4 => a &&& b
      | 5 => a ||| b
      | 6 => a ^^^ b
      | 7 => if b.toNat < a.toNat then b else a
      | 8 => if a.toNat < b.toNat then b else a
      | 9 => b
      | _ => if a = b then BitVec.ofNat w new else a
    r.toNat

/-- Reduce a run of elements of size w bytes. -/
def reduceBytes (op fmt w new : Nat) : Nat → List Byte → List Byte → List Byte
  | 0, old, _ => old
  | n + 1, old, v =>
    leBytes w (reduceElem op fmt (leNat (old.take w)) (leNat (v.take w)) new) ++ reduceBytes op fmt w new n (old.drop w) (v.drop w)

/-- Why a request is refused, the lowest code first: ATOMIC_ALIGN, then FMT_INVALID for a code that names no format, then FORMAT_PAIR (R72, R191, R201). A format without whole-byte elements has an element size of one byte here: only the 64-byte block is checked. -/
def reduceRefusal (op fmt a n : Nat) (fetching : Bool) : Option FaultCode :=
  let w := Nat.max 1 (elemBits fmt / 8)
  if fetching ∧ (a % w ≠ 0 ∨ (n ≠ w ∧ 8 ≤ elemBits fmt)) then some Code.atomicAlign
  else if fetching = false ∧ (n = 0 ∨ a % w ≠ 0 ∨ n % w ≠ 0 ∨ 64 < a % 64 + n) then some Code.atomicAlign
  else if fmtValid fmt = false then some Code.fmtInvalid
  else if reduceAllowed op fmt fetching then none else some Code.formatPair

/-- Perform one request in DRAM; answers the old bytes, or the code of a bad codeword (R192, R414). -/
def Chip.reduce (s : Chip) (t : StackId) (r : RedReq) : Chip × Except FaultCode (List Byte) :=
  let s := s.stackEvent t 3 (s.classOf r.agent) 1
  match s.readCodeword t r.saddr .reducer with
  | (s, .error c) => (s, .error c)
  | (s, .ok cw) =>
    let n := r.data.length
    let at_ := r.saddr % 64
    let old := (cw.drop at_).take n
    let w := elemBits r.fmt.toNat / 8
    let new := reduceBytes r.op.toNat r.fmt.toNat w r.newValue.toNat (n / w) old r.data
    (s.writeCodeword t r.saddr (splice cw at_ new), .ok old)

/-! ## The stack port (R195) -/

/-- The arbiter input of a requester: 0 LOCAL, 1 MODULE, 2 FABRIC. -/
def portInput (t : StackId) (w : Who) : Nat := if isRemote w.agent then 2 else if w.die = stackDie t then 0 else 1

/-- The weight of a class: SHARE + 1 (R195, R202). -/
def Stack.weight (x : Stack) (cls : Nat) : Nat :=
  1 + (if cls < 8 then x.share0.toNat / 16 ^ cls % 16 else if cls < 16 then x.share1.toNat / 16 ^ (cls - 8) % 16 else x.shareOther.toNat)

/-- Charge a request to its pair of input and class by deficit round robin: the pair receives quanta until its deficit covers the charge. -/
def Chip.charge (s : Chip) (t : StackId) (w : Who) (bytes : Nat) : Chip :=
  let key := (portInput t w, s.classOf w.agent)
  s.updStack t (fun x =>
    let act := Nat.max 1 (Nat.min 4095 w.active)
    let quantum := act * x.weight key.2 * 64
    let d := Table.read 0 x.deficit key
    let d' := d + (if d < bytes then (bytes - d + quantum - 1) / quantum * quantum else 0)
    { x with active := Table.write x.active key act, deficit := Table.write x.deficit key (d' - bytes) })

/-- Whether an input may still queue a reduction: 16 entries of its own, then the 208 shared (R194). -/
def queueRoom (t : StackId) (q : List RedReq) (input : Nat) : Bool :=
  let count (i : Nat) := (q.filter (fun r => portInput t (whoOf r.agent) = i)).length
  count input < 16 || ((count 0 - 16) + (count 1 - 16) + (count 2 - 16)) < 208

/-- The pair of input and class of a queued reduction (R195). -/
def Chip.pairOf (s : Chip) (t : StackId) (r : RedReq) : Nat × Nat := (portInput t { whoOf r.agent with die := r.die }, s.classOf r.agent)

/-- The pairs in the order of the round: 17 classes of each input. -/
def pairAt (n : Nat) : Nat × Nat := (n % 51 / 17, n % 51 % 17)

/-- The leaf sources that wait at a pair, at least one: an arbiter within the module advertises their number; a remote module's requests bring their own count (R195). -/
def Chip.sources (s : Chip) (t : StackId) (key : Nat × Nat) : Nat :=
  if key.1 = 2 then Nat.max 1 (Table.read 1 (s.stack t).active key) else
  Nat.max 1 (Nat.min 4095 ((((s.stack t).redWait.filter (fun r => s.pairOf t r = key)).map (fun r => r.agent)).eraseDups).length)

/-- The arbiter comes to its next pair, which gets its quantum when requests wait for it. -/
def Chip.nextPair (s : Chip) (t : StackId) : Chip :=
  let n := ((s.stack t).grantAt + 1) % 51
  let key := pairAt n
  let act := s.sources t key
  let waits := (s.stack t).redWait.any (fun r => decide (s.pairOf t r = key))
  s.updStack t (fun x =>
    if waits then
      { x with grantAt := n, active := Table.write x.active key act,
               deficit := Table.write x.deficit key (Table.read 0 x.deficit key + act * x.weight key.2 * 64) }
    else { x with grantAt := n })

/-- Drop the line that holds an element, written back when dirty (R193). -/
def Chip.expel (s : Chip) (t : StackId) (a : Nat) : Chip :=
  match s.findLine t (a / 256) with
  | none => s
  | some l => (if l.dirty then s.writeBack l else s).dropLine t (a / 256)

/-- Deficit round robin over the pairs: while an entry of the reduction queue is free to an input, the pair in turn sends what its deficit covers, 64 bytes for each request (R194, R195). [log 175 DEDUCED] -/
def Chip.grant (s : Chip) (t : StackId) : Nat → Chip
  | 0 => s
  | f + 1 =>
    let x := s.stack t
    if x.redWait.any (fun r => queueRoom t x.redQueue (s.pairOf t r).1) = false then s else
    let key := pairAt x.grantAt
    let first := if queueRoom t x.redQueue key.1 then x.redWait.find? (fun r => s.pairOf t r = key) else none
    match first with
    | none => Chip.grant (s.nextPair t) t f
    | some r =>
      if Table.read 0 x.deficit key < 64 then Chip.grant (s.nextPair t) t f
      else Chip.grant ((s.expel t r.saddr).updStack t (fun y =>
        { y with redWait := y.redWait.erase r, redQueue := y.redQueue ++ [r], deficit := Table.write y.deficit key (Table.read 0 y.deficit key - 64) })) t f

/-- The waiting requests that a free entry lets in. -/
def Chip.grantAll (s : Chip) (t : StackId) : Chip :=
  if (s.stack t).redWait = [] then s else s.grant t (52 * ((s.stack t).redWait.length + 1))

/-- One request leaves the queue; the requests that are held lose the four beats it takes (R193, R204), and the arbiter fills the entry. -/
def Chip.popReduction (s : Chip) (t : StackId) (rest : List RedReq) : Chip :=
  let s := s.updStack t (fun x => { x with redQueue := rest })
  if (s.stack t).redWait = [] then s else (s.updHead (.reducer t) (fun h => h.bump 1 4)).grantAll t

/-- Perform the first n queued requests in order; the last one's answer. -/
def Chip.drain (s : Chip) (t : StackId) : Nat → Chip × Except FaultCode (List Byte)
  | 0 => (s, .ok [])
  | n + 1 =>
    match (s.stack t).redQueue with
    | [] => (s, .ok [])
    | r :: rest =>
      let q := (s.popReduction t rest).reduce t r
      if n = 0 then q else Chip.drain q.1 t n

/-- How many requests, from the front, must be performed before an access to blocks of 64 bytes from a to a + n (R193). -/
def queuedBefore (q : List RedReq) (a n : Nat) : Nat :=
  (q.foldl (fun (acc : Nat × Nat) r => (acc.1 + 1, if a / 64 ≤ r.saddr / 64 ∧ r.saddr / 64 ≤ (a + n - 1) / 64 then acc.1 + 1 else acc.2)) (0, 0)).2

/-- Every request of a stack that is queued or held is performed, the held ones as the arbiter lets them in. -/
def Chip.drainAll (s : Chip) (t : StackId) : Chip := (s.drain t ((s.stack t).redQueue.length + (s.stack t).redWait.length)).1

/-- A later access waits until every queued request to its blocks has been performed (R193). -/
def Chip.settle (s : Chip) (t : StackId) (a n : Nat) : Chip := (s.drain t (queuedBefore (s.stack t).redQueue a n)).1

/-- Whether a stack serves accesses: its domain is on and its controller online (R200, R492). -/
def Stack.serves (x : Stack) : Bool := x.domainOn && x.online && x.onlineAck

/-- Whether a block is held by a retirement in progress (R420). -/
def Stack.held (x : Stack) (a n : Nat) : Bool :=
  x.retireBusy && decide (a / 65536 ≤ x.retireBlock.toNat) && decide (x.retireBlock.toNat ≤ (a + n - 1) / 65536)

/-! ## Retirement (R420) -/

/-- Copy a block to its replacement, correcting what can be corrected; an uncorrectable codeword is copied poisoned, which decodes as poisoned at the copy. -/
def Chip.copyBlock (s : Chip) (t : StackId) (block repl : Nat) : Chip :=
  (List.range 1024).foldl (fun s i =>
    let r := s.readCodeword t (block * 65536 + i * 64) .retire
    match r.2 with
    | .ok bs => r.1.writeCodeword t (repl * 65536 + i * 64) bs
    | .error _ => r.1.poisonCodeword t (repl * 65536 + i * 64)) s

/-- The retirement's copy and its entry, once no engine holds the block open. -/
def Chip.retireCopy (t : StackId) (s : Chip) : Chip :=
  let x := s.stack t
  let b := x.retireBlock.toNat
  if x.retireBusy = false ∨ x.engines.any (fun e => decide (e.2.openBlock = some b)) then s else
  let s := s.copyBlock t b x.retireRepl.toNat
  s.updStack t (fun y => { y with retireBusy := false, retireTable := y.retireTable ++ [(b, y.retireRepl.toNat)] })

/-- An access to a block under retirement is held until the copy is made: it is served after it. -/
def Chip.settleRetire (s : Chip) (t : StackId) (a n : Nat) : Chip :=
  if (s.stack t).held a n then Chip.retireCopy t s else s

/-! ## Accesses of stack memory by local address -/

/-- Resolve a local address of stack memory for an access (R53, R54, R16, R200). -/
def Chip.resolve (s : Chip) (w : Who) (a : Nat) (write : Bool) : Except FaultCode (StackId × Nat) :=
  let e := Table.read 0 (s.die w.die).regions (clip 2048 (a / 2 ^ 30))
  if regionUsable e = false then .error Code.regionInvalid
  else if s.regionGrants e w.agent write = false then .error Code.regionDenied
  else
    let t := translate e a
    if s.route w.die (stackDie t.1) = false then .error Code.unreachable
    else if (s.stack t.1).serves = false then .error Code.stackOffline
    else .ok t

/-- Record an address fault on the D2D page of the die that translated it (R58, R71). -/
def Chip.d2dErr (s : Chip) (d : DieId) (c : FaultCode) (tag : BitVec 16) (addr : Word64) : Chip :=
  let at_ (bit : Nat) := s.err (.d2d d) { bit := bit, code := c, tag := tag, addr := addr }
  if c = Code.regionInvalid then at_ 0
  else if c = Code.regionDenied then at_ 1
  else if c = Code.unreachable then at_ 2
  else if c = Code.pageUnmapped then at_ 3
  else if c = Code.syncOffline then at_ 4
  else s

/-- Whether an access on the main path that misses fills a whole line (R184, R187). -/
def Chip.fills (s : Chip) (t : StackId) (w : Who) (slit : Bool) : Bool :=
  !slit && w.hint != 1 && w.hint != 3 && !(s.die (stackDie t)).bypass

/-- An access waits for the queued requests to its blocks, and for those to the whole line when a miss fills it (R187, R193). -/
def Chip.settleFor (s : Chip) (t : StackId) (w : Who) (slit : Bool) (x n : Nat) : Chip :=
  if s.fills t w slit then s.settle t (x / 256 * 256) 256 else s.settle t x n

/-- An engine that holds a block open uses every pseudo-channel (R208). -/
def Stack.anyOpen (x : Stack) : Bool := x.engines.any (fun e => e.2.openBlock.isSome)

/-- The pseudo-channel of a stack address: the channel in the low five bits, the pseudo-channel above (R182). -/
def pseudoChannel (x : Nat) : Fin 64 := clip 64 (x / 256)

/-- A pseudo-channel to which 4 refreshes or more are owed holds new commands until they are served, which they are at once unless an engine is at work (R198). [log 176 DEDUCED] -/
def Chip.settleRefresh (s : Chip) (t : StackId) (x : Nat) : Chip :=
  let p := pseudoChannel x
  let n := Table.read 0 (s.stack t).owed p
  if n < 4 ∨ (s.stack t).anyOpen then s
  else (s.updStack t (fun y => { y with owed := Table.write y.owed p 0 })).stackEvent t 5 16 n

/-- Charges and counts of one piece on its path (R195, R204, R463). -/
def Chip.pieceCost (s : Chip) (t : StackId) (w : Who) (slit hit : Bool) : Chip :=
  let s := s.charge t w (if slit then 64 else 256)
  if slit then
    let s := s.updHead (.slit t) (fun h => let h := h.bump 0 1; if hit then h.bump 1 1 else h)
    s.stackEvent t 2 (s.classOf w.agent) 1
  else if hit then s else s.stackEvent t 1 (s.classOf w.agent) 1

/-- Read one piece of stack memory at a local address, within one 256-byte line, on a named path. -/
def Chip.readMemVia (s : Chip) (w : Who) (a n : Nat) (slit : Bool) (path : Path) : Chip × Except FaultCode (List Byte) :=
  match s.resolve w a false with
  | .error c => (s.d2dErr w.die c w.tag (selfAddr a), .error c)
  | .ok (t, x) =>
    let s := ((s.settleFor t w slit x n).settleRetire t x n).settleRefresh t x
    let s := s.pieceCost t w slit (s.findLine t (x / 256)).isSome
    s.readPiece t x n slit w.hint path

/-- Read one piece on the main or the Slit path. -/
def Chip.readMem (s : Chip) (w : Who) (a n : Nat) (slit : Bool) : Chip × Except FaultCode (List Byte) :=
  s.readMemVia w a n slit (if slit then .slit else .main)

/-- Write one piece of stack memory at a local address, within one 256-byte line. -/
def Chip.writeMem (s : Chip) (w : Who) (a : Nat) (bs : List Byte) (slit : Bool) : Chip × Option FaultCode :=
  match s.resolve w a true with
  | .error c => (s.d2dErr w.die c w.tag (selfAddr a), some c)
  | .ok (t, x) =>
    let s := ((s.settleFor t w slit x bs.length).settleRetire t x bs.length).settleRefresh t x
    let s := s.pieceCost t w slit (s.findLine t (x / 256)).isSome
    s.writePiece t x bs slit w.hint (if slit then .slit else .main)

/-- What a reduction or atomic meets at the stack controller. -/
inductive Queued where
  | refused (c : FaultCode)
  | held (t : StackId) (r : RedReq)
  | taken (t : StackId)

/-- Queue a request to the reduction engine at a local address (R191, R193, R194). -/
def Chip.queueReduction (s : Chip) (w : Who) (a : Nat) (op fmt : BitVec 4) (data : List Byte) (new : Word64) (fetching : Bool) : Chip × Queued :=
  match s.resolve w a true with
  | .error c =>
    let c' := match reduceRefusal op.toNat fmt.toNat a data.length fetching with
      | some r => if r.toNat < c.toNat then r else c
      | none => c
    (s.d2dErr w.die c' w.tag (selfAddr a), .refused c')
  | .ok (t, x) =>
    match reduceRefusal op.toNat fmt.toNat x data.length fetching with
    | some c => (if c = Code.fmtInvalid then s else s.err (.reducer t) { bit := if c = Code.atomicAlign then 0 else 1, code := c, tag := w.tag, addr := selfAddr a }, .refused c)
    | none =>
      let r : RedReq := ⟨w.agent, x, op, fmt, data, new, fetching, w.die, false⟩
      let behind := (s.stack t).redWait.any (fun q => decide (s.pairOf t q = s.pairOf t r))
      if behind || !queueRoom t (s.stack t).redQueue (portInput t w) then (s, .held t r) else
      let s := s.expel t x
      let s := s.charge t w 64
      let s := s.updHead (.reducer t) (fun h => h.bump 0 1)
      (s.updStack t (fun y => { y with redQueue := y.redQueue ++ [r] }), .taken t)

/-- A posted request that finds no free entry waits in front of the queue: nothing is dropped (R194). -/
def Chip.waitReduction (s : Chip) (t : StackId) (r : RedReq) : Chip :=
  ((s.expel t r.saddr).updHead (.reducer t) (fun h => h.bump 0 1)).updStack t (fun y => { y with redWait := y.redWait ++ [r] })

/-- A fetching request: queued behind what waits, performed, and the old bytes returned (R191). [log 31 DEDUCED] -/
def Chip.fetchAtomic (s : Chip) (w : Who) (a : Nat) (op fmt : BitVec 4) (data : List Byte) (new : Word64) : Chip × Except FaultCode (List Byte) :=
  let first := s.queueReduction w a op fmt data new true
  -- held back by credit: the stack performs what is queued, and the request goes on (R194)
  let r := match first.2 with
    | .held t _ => (first.1.drainAll t).queueReduction w a op fmt data new true
    | _ => first
  match r with
  | (s, .refused c) => (s, .error c)
  | (s, .held _ _) => (s, .ok [])
  | (s, .taken t) => s.drain t (s.stack t).redQueue.length

/-! ## Range operations (R189) -/

/-- Whether a line lies in a range of local addresses by this die's region table. -/
def Chip.lineInRange (s : Chip) (d : DieId) (base size : Nat) (l : CacheLine) : Bool :=
  let regs := (List.range 2048).filter (fun r => base < (r + 1) * 2 ^ 30 && r * 2 ^ 30 < base + size)
  regs.any (fun r =>
    let e := Table.read 0 (s.die d).regions (clip 2048 r)
    regionUsable e &&
      -- the local addresses of this region that the line's granule can come from
      (let k := if regionMode e = 1 then 1 else spreadWidth (regionWidth e)
       let fo := l.line * 256 % 2 ^ 30
       let pos := l.stack.val - regionStack e
       let off := if regionMode e = 1 then fo else ((fo / 4096 * k + pos) * 4096 + fo % 4096) % 2 ^ 30
       let a := r * 2 ^ 30 + off
       decide (translate e a = (l.stack, l.line * 256)) && decide (base ≤ a) && decide (a < base + size)))

/-- Clean and drop as asked every line a predicate picks in a die's cache. -/
def Chip.rangeOp (s : Chip) (d : DieId) (pick : CacheLine → Bool) (clean inval : Bool) : Chip :=
  let mine := s.cache.filter (fun l => stackDie l.stack = d ∧ pick l)
  let s := if clean then (mine.filter (fun l => l.dirty)).foldl (fun s l => (s.writeBack l).setLine { l with dirty := false }) s else s
  if inval then mine.foldl (fun s l => s.dropLine l.stack l.line) s else s

end Sys2Proof.Machine
end

