-- ==== Sys2Proof/Machine/Routing.lean ====
section
/-! DEFINITION. Sending packets over the Kuzopa fabric: usable ports and the route tables (R352, R353), transactions (R357, R361). -/

namespace Sys2Proof.Machine

/-- A link is oriented when its direction is set and opposes its neighbour's (R355) and the neighbour is another module (R340); 1 UP, 2 DOWN. -/
def Port.orientOk (p : Port) : Bool :=
  match p.nbr with
  | some n => p.nbrValid && n.uid != Config.uid && ((p.direction = 1 && n.direction = 2) || (p.direction = 2 && n.direction = 1))
  | none => false

/-- A port carries data when it is ACTIVE and oriented, and the packet is the module's own or FORWARD_EN is 1 (R353). -/
def Chip.usable (s : Chip) (own : Bool) (p : PortId) : Bool :=
  let x := s.port p
  decide (x.state = 6) && x.orientOk && (own || s.fabric.forwardEn)

/-- The fold of R353 over the source ID and address bits [51:12]. -/
def hash8 (src : BitVec 12) (addr : Word64) : Nat :=
  let b (i : Nat) : BitVec 8 := addr.extractLsb' (12 + 8 * i) 8
  (b 0 ^^^ b 1 ^^^ b 2 ^^^ b 3 ^^^ b 4 ^^^ src.extractLsb' 0 8 ^^^ (src.extractLsb' 8 4).setWidth 8).toNat

/-- The ports an entry names (R352). -/
def entryPorts (e : Word32) : List PortId :=
  (List.range ((field e 17 16).toNat + 1)).map (fun i => clip 16 (e.extractLsb' (4 * i) 4).toNat)

/-- Choose the port of a packet (R353); answers the port and the packet's DOWN bit after it. [log 97 DEDUCED] -/
def Chip.choose (s : Chip) (own : Bool) (src dst : BitVec 12) (addr : Word64) (down : Bool) : Except FaultCode (PortId × Bool) :=
  let e := Table.read 0 s.fabric.routes (clip 4096 dst.toNat)
  if e.getLsbD 31 = false then .error Code.noRoute else
  let ports := (entryPorts e).filter (s.usable own)
  if ports = [] then .error Code.noRoute else
  let ports := if down then ports.filter (fun p => (s.port p).direction = 2) else ports
  match ports[hash8 src addr % ports.length]? with
  | none => .error Code.updownViolation
  | some p => .ok (p, down || (s.port p).direction = 2)

/-- Put a packet from an input in a port's egress queue: requests on VC0 or VC1, responses on VC2 or VC3 by the DOWN bit after this hop (R354, R355). The packet keeps its own DOWN bit until it leaves. -/
def Chip.enqueue (s : Chip) (p : PortId) (input : Nat) (down : Bool) (m : FabricMsg) : Chip :=
  let vc : Fin 4 := match m with
    | .req _ => if down then 1 else 0
    | .rsp _ => if down then 3 else 2
    | .mgmt _ => 0
  s.updPort p (fun x => { x with queue := x.queue ++ [(vc, input, m)] })

/-- The port die where a die's packets are routed (R353). -/
def routingDie (d : DieId) : DieId := if d = 0 then 1 else if d = 3 then 2 else if d = 4 then 5 else if d = 7 then 6 else d

/-- A transaction number in use by no outstanding request and not retired by a timeout (R361). -/
def freshTxn (used : List (BitVec 16)) : Nat → BitVec 16 → BitVec 16
  | 0, n => n
  | f + 1, n => if used.contains n then freshTxn used f (n + 1) else n

/-- Send a remote request from a die; answers a fault met before it leaves (R350, R353). The response comes back as LOAD_RSP, ACK, ATOMIC_RSP or RESP_TIMEOUT to the waiter. -/
def Chip.send (s : Chip) (d : DieId) (m : FabricReq) (w : Waiter) : Chip × Option FaultCode :=
  if s.fabric.idValid = false then (s, some Code.idUnassigned) else
  if s.route d (routingDie d) = false then (s, some Code.unreachable) else
  let src := s.fabric.moduleId
  let dst := moduleOf m.addr
  match s.choose true src dst m.addr false with
  | .error c => (s, some c)
  | .ok (p, down) =>
    if s.route (routingDie d) (portDie p) = false then (s, some Code.unreachable) else
    let x := s.die d
    let n := freshTxn (x.txns.map (fun t => t.num) ++ x.retired) (x.txns.length + x.retired.length) x.nextTxn
    let m := { m with down := false, hops := s.fabric.hopInit, dst := dst, src := src, txn := n, active := 1, die := BitVec.ofNat 4 d.val }
    let s := s.updDie d (fun x => { x with txns := x.txns ++ [⟨n, w, m.addr, m.tag⟩], nextTxn := n + 1 })
    (s.enqueue p 16 down (.req m), none)

/-- An empty request of an operation (R357, R358). -/
def requestOf (op : BitVec 6) (addr : Word64) (tag : BitVec 16) (data : List Byte) (len : Nat) (hint : BitVec 2) : FabricReq :=
  { op := op, down := false, hops := 0, dst := 0, src := 0, hint := hint, fmt := 0, aop := 0, lenM1 := BitVec.ofNat 8 (len - 1), addr := addr,
    tag := tag, txn := 0, active := 1, die := 0, operand := 0, operand2 := 0, data := data }

end Sys2Proof.Machine
end

