-- ==== Sys2Proof/Machine/SyncOps.lean ====
section
/-! DEFINITION. The operations of synchronisation objects (R275 to R282), doorbells that make Ulizen runs pending (R212, R213), and signals that may leave the module (R117, R118). -/

namespace Sys2Proof.Machine

/-! ## Doorbells (R212, R213) -/

/-- The number after the last run of a slot that is queued, or its next run. -/
def queuedEnd (q : List (Fin 1024 × Nat × Nat)) (n : Fin 1024) (next : Nat) : Nat :=
  (q.filter (fun e => e.1 = n)).foldl (fun a e => Nat.max a (e.2.1 + e.2.2)) next

/-- Queue the runs of an enabled slot that its doorbell's count has made pending; runs the count no longer covers leave (R212, R213). During a unit reset none becomes pending (R236). -/
def Stack.pend (x : Stack) (n : Fin 1024) (count : Nat) : Stack :=
  let slot := Table.read {} x.slots n
  if slot.en = false ∨ x.resetBusy then x else
  let kept := x.runQueue.filterMap (fun e =>
    if e.1 ≠ n then some e else if count ≤ e.2.1 then none else some (e.1, e.2.1, Nat.min e.2.2 (count - e.2.1)))
  let from_ := queuedEnd kept n slot.runSeq.toNat
  { x with runQueue := if from_ < count then kept ++ [(n, from_, count - from_)] else kept }

/-- The slots that name an object, in increasing number. -/
def Stack.ringSlots (x : Stack) (num : Nat) : List (Fin 1024) :=
  (x.slots.filter (fun e => e.2.en && decide (e.2.dbObj.toNat = num))).map (fun e => e.1)

/-- The count of a stack object has changed. -/
def Chip.doorbell (s : Chip) (o : ObjId) : Chip :=
  match o with
  | .die _ _ => s
  | .stack t n =>
    let count := (s.obj o).count.toNat
    s.updStack t (fun x => (x.ringSlots n.val).foldl (fun x i => x.pend i count) x)

/-! ## Notifications (R280) -/

/-- Queue a notification, or keep it pending at the object while the queue of 64 is full. -/
def Chip.notify (s : Chip) (o : ObjId) : Chip :=
  let u := unitOf o
  if (s.sync u).notes.length < 64 then s.updSync u (fun x => { x with notes := x.notes ++ [numOf o] })
  else s.updObj o (fun x => { x with notesPending := x.notesPending + 1 })

/-- The check after a SIGNAL or ARM: an armed object at its threshold notifies (R280). -/
def Chip.noteCheck (s : Chip) (o : ObjId) : Chip :=
  let x := s.obj o
  if x.arm ∧ x.threshold.toNat ≤ x.count.toNat then (s.updObj o (fun x => { x with arm := false })).notify o else s

/-- Apply an operation to an object (R276). -/
def Chip.applyObj (s : Chip) (o : ObjId) : ObjOp → Chip
  | .signal v _ => ((s.updObj o (fun x => { x with count := x.count + v })).noteCheck o).doorbell o
  | .set v => (s.updObj o (fun x => { x with count := v, arm := false })).doorbell o
  | .arm t => (s.updObj o (fun x => { x with arm := true, threshold := t })).noteCheck o
  | .disarm => s.updObj o (fun x => { x with arm := false })
  | .read => s

/-! ## Who may act on an object (R263, R265, R279, R281) -/

/-- Whether a release scope of an agent's die contains an object of the module (R262, R263). -/
def scopeContains (d : DieId) (o : ObjId) (sc : BitVec 3) : Bool :=
  match o with
  | .die e _ => 3 ≤ sc.toNat || decide (e = d)
  | .stack t _ => 3 ≤ sc.toNat || (sc = 2 && decide (stackDie t = d))

/-- Whether an agent may apply an operation (R279). -/
def Chip.objGrants (s : Chip) (a : Agent) (o : ObjId) (signal : Bool) : Bool :=
  let x := s.obj o
  match a with
  | .meridian _ => true
  | .host .pf => true
  | .remote _ => signal && x.fabricOpen
  | _ => x.assigned && decide (s.domeOf a = some (clip 16 x.dome.toNat))

/-- Whether an object's die has its core domain off: SYNC_OFFLINE, whatever else holds (R281). -/
def Chip.objOffline (s : Chip) (o : ObjId) : Bool :=
  match o with
  | .die d _ => (s.die d).ringOn && !(s.die d).coreOn
  | .stack _ _ => false

/-- Whether an object cannot be reached (R16, R492). -/
def Chip.objLost (s : Chip) (w : Who) (o : ObjId) : Bool :=
  match o with
  | .die d _ => !s.route w.die d
  | .stack t _ => !s.route w.die (stackDie t) || !(s.stack t).domainOn

/-- Why an access to an object that is no operation of R277 is refused: SYNC_OFFLINE above all, then the lowest code (R71, R277, R284). -/
def Chip.notOpRefusal (s : Chip) (w : Who) (o : ObjId) (off : Nat) : FaultCode :=
  if s.objOffline o then Code.syncOffline
  else if off ≠ 0 then Code.misaligned
  else if s.objLost w o then Code.unreachable
  else Code.syncOp

/-- Why an operation on an object is refused: SYNC_OFFLINE above all, then the lowest code (R281, R284, R492). -/
def Chip.objRefusal (s : Chip) (w : Who) (o : ObjId) (signal : Bool) (scope : Option (BitVec 3)) : Option FaultCode :=
  if s.objOffline o then some Code.syncOffline
  else
    if s.objLost w o then some Code.unreachable
    else if s.objGrants w.agent o signal = false then some Code.syncDenied
    else match scope with
      | some sc => if scopeContains w.die o sc then none else some Code.syncScope
      | none => none

/-- Record a refusal: on the SYNC page of the block that holds the object, or on a D2D page (R58, R281, R282). -/
def Chip.objErr (s : Chip) (w : Who) (o : ObjId) (c : FaultCode) (scope : Option (BitVec 3)) : Chip :=
  let addr := selfAddr (objAddr o)
  if c = Code.syncOffline then s.d2dErr (syncDie (unitOf o)) c w.tag addr
  else if c = Code.unreachable then s.d2dErr w.die c w.tag addr
  else
    let bit := if c = Code.syncDenied then 0 else if c = Code.syncOp then 1 else 2
    s.err (.sync (unitOf o)) { bit := bit, code := c, tag := w.tag, addr := addr, syn := BitVec.ofNat 32 ((scope.getD 0).toNat * 4096 + numOf o) }

/-- The answer to an operation on an object. -/
structure ObjAnswer where
  fault : Option FaultCode := none
  /-- The operation waits for a CLEAR_ALL (R282). -/
  held : Bool := false
  count : Word64 := 0
  notify : Word64 := 0

/-- The word at 0x8 of an object (R275). -/
def SyncObj.word8 (x : SyncObj) : Word64 := (if x.arm then 1#1 else 0#1) ++ 0#15 ++ x.threshold

/-- READ (R276): COUNT and the word at 0x8; it waits while a CLEAR_ALL runs (R282). -/
def Chip.objReadOp (s : Chip) (w : Who) (o : ObjId) : Chip × ObjAnswer :=
  match s.objRefusal w o false none with
  | some c => (s.objErr w o c none, { fault := some c })
  | none => if (s.sync (unitOf o)).clearBusy then (s, { held := true }) else (s, { count := (s.obj o).count, notify := (s.obj o).word8 })

/-- An operation joins those that wait for a CLEAR_ALL, in the order they arrived (R282). -/
def Chip.holdOp (s : Chip) (a : Agent) (o : ObjId) (op : ObjOp) : Chip :=
  s.updSync (unitOf o) (fun x => { x with held := x.held ++ [(a, o, op)] })

/-- SIGNAL, SET, ARM or DISARM (R276); it waits while a CLEAR_ALL runs (R282). The answer is the old COUNT. -/
def Chip.objOp (s : Chip) (w : Who) (o : ObjId) (op : ObjOp) : Chip × ObjAnswer :=
  let sg : Bool × Option (BitVec 3) := match op with
    | .signal _ sc => (true, sc)
    | _ => (false, none)
  match s.objRefusal w o sg.1 sg.2 with
  | some c => (s.objErr w o c sg.2, { fault := some c })
  | none =>
    if (s.sync (unitOf o)).clearBusy then
      (s.holdOp w.agent o op, { held := true })
    else (s.applyObj o op, { count := (s.obj o).count, notify := (s.obj o).word8 })

/-! ## Signals by global address (R117, R118, R217) -/

/-- Whether a marker of a cluster still waits to be written: its later releases are held (R471). -/
def Chip.markerPending (s : Chip) (c : ClusterId) : Option DomeId :=
  match (s.cluster c).domeOf with
  | none => none
  | some m => if (s.trace m).queue.any (fun r => decide (r.marker = some c)) then some m else none

/-- The object a global address names, when it names one of this module's: SYNC_TARGET or MISALIGNED otherwise (R117). [log 33 DEDUCED] -/
def Chip.signalTarget (s : Chip) (a : Word64) : Except FaultCode (Option ObjId) :=
  match place (localOf a) with
  | .obj o off => if off ≠ 0 then .error (if s.isLocal a && s.objOffline o then Code.syncOffline else Code.misaligned) else if s.isLocal a then .ok (some o) else .ok none
  | _ => .error Code.syncTarget

/-- A release leaves its agent: to an object of the module, or as a SIGNAL packet (R117, R265, R357). -/
def Chip.release (s : Chip) (w : Who) (a : Word64) (v : Word64) (scope : BitVec 3) (waiter : Waiter) : Chip × Option FaultCode :=
  match s.signalTarget a with
  | .error c => (s, some c)
  | .ok (some o) => let r := s.objOp w o (.signal v (some scope)); (r.1, r.2.fault)
  | .ok none =>
    if scope ≠ 4 then (s, some Code.syncScope)
    else s.send w.die { requestOf 5 a w.tag [] 1 0 with operand := v } waiter

end Sys2Proof.Machine
end

