-- ==== Sys2Proof/Machine/Access.lean ====
section
/-! DEFINITION. An outside agent's load or store of bytes at a local address: stack memory, a scratchpad through its porthole gate, or a place that accepts neither (R51, R60, R61, R63, R68, R71, R277). -/

namespace Sys2Proof.Machine

/-- Key of a scratchpad byte. -/
def scratchKey (k : CoreId) (off : Nat) : Nat := (k.die.val * 512 + k.idx.val) * 2 ^ 23 + off

/-- A scratchpad codeword, by address / 64, as its check bytes let it be read (R412, R415). -/
def Chip.scratchWord (s : Chip) (c : Nat) : Except FaultCode (List Byte) := decodeWord (s.scratch.bytes (c * 64) 64) (Table.read [] s.scratchErrors c)

/-- The fault of the first bad codeword among bytes of a core's scratchpad (R415). -/
def Chip.scratchBad (s : Chip) (k : CoreId) (off n : Nat) : Option FaultCode :=
  if s.scratchErrors = [] then none else
  (pieces 64 (scratchKey k off) n).findSome? (fun p => match s.scratchWord (p.1 / 64) with
    | .ok _ => none
    | .error c => some c)

/-- Bytes of a core's own scratchpad, corrected where their codeword lets it. -/
def Chip.scratchRead (s : Chip) (k : CoreId) (off n : Nat) : List Byte :=
  let raw := s.scratch.bytes (scratchKey k off) n
  if s.scratchErrors = [] then raw else
  (pieces 64 (scratchKey k off) n).flatMap (fun p => match s.scratchWord (p.1 / 64) with
    | .ok bs => (bs.drop (p.1 % 64)).take p.2
    | .error _ => s.scratch.bytes p.1 p.2)

/-- A write leaves the codewords it touches with fresh check bytes; a bad one only when it covers it whole (R415). -/
def Chip.mendScratch (s : Chip) (lo n : Nat) : Chip :=
  (s.scratchErrors.filter (fun e => decide (lo < e.1 * 64 + 64) && decide (e.1 * 64 < lo + n))).foldl (fun s e =>
    let clear := s.scratchErrors.filter (fun x => x.1 ≠ e.1)
    match s.scratchWord e.1 with
    | .ok bs => { s with scratch := s.scratch.putBytes (e.1 * 64) bs, scratchErrors := clear }
    | .error _ => if lo ≤ e.1 * 64 ∧ e.1 * 64 + 64 ≤ lo + n then { s with scratchErrors := clear } else s) s

/-- Write bytes of a core's own scratchpad. -/
def Chip.scratchWrite (s : Chip) (k : CoreId) (off : Nat) (bs : List Byte) : Chip :=
  let s := if s.scratchErrors = [] then s else s.mendScratch (scratchKey k off) bs.length
  { s with scratch := s.scratch.putBytes (scratchKey k off) bs }

/-- The size of the populated scratchpad (R59). -/
def scratchSize : Nat := 0x700000

/-! ## Bytes that a running command makes undefined (R107, R128, R177) -/

def inRanges (l : List (Nat × Nat)) (a : Nat) : Bool := l.any (fun r => decide (r.1 ≤ a) && decide (a < r.1 + r.2))

/-- The bytes of its scratchpad that the running commands of a core write: the VE's, and the DE's own side. -/
def Core.veWrites (x : Core) : List (Nat × Nat) := match x.ve.running with
  | some r => r.dst
  | none => []
def Core.deWrites (x : Core) : List (Nat × Nat) := match x.job with
  | some j => j.dst
  | none => []
/-- The bytes of its own side that a DE command may touch before its completion (R177). -/
def Core.deTouches (x : Core) : List (Nat × Nat) := match x.job with
  | some j => j.touch
  | none => []

/-- Read bytes; those in the ranges are free values. -/
def Chip.readFree (s : Chip) (k : CoreId) (l : List (Nat × Nat)) (off n : Nat) : Chip × List Byte :=
  let bs := s.scratchRead k off n
  if l = [] then (s, bs) else
  ({ s with free := s.free + n }, bs.mapIdx (fun i b => if inRanges l (off + i) then Config.freeBits 8 (s.free + i) else b))

/-- Write bytes; those in the ranges become free values. -/
def Chip.writeFree (s : Chip) (k : CoreId) (l : List (Nat × Nat)) (off : Nat) (bs : List Byte) : Chip :=
  if l = [] then s.scratchWrite k off bs else
  Chip.scratchWrite { s with free := s.free + bs.length } k off (bs.mapIdx (fun i b => if inRanges l (off + i) then Config.freeBits 8 (s.free + i) else b))

/-- An outside write: what a running command also writes becomes free at once and when that command ends. -/
def Chip.outsideWrite (s : Chip) (k : CoreId) (off : Nat) (bs : List Byte) : Chip :=
  let x := s.core k
  let l := x.veWrites ++ x.deWrites
  let s := s.writeFree k l off bs
  if l = [] then s else
  s.updCore k (fun x =>
    { x with ve := { x.ve with running := x.ve.running.map (fun r => { r with hazard := r.hazard ++ [(off, bs.length)] }) },
             job := x.job.map (fun j => { j with hazard := j.hazard ++ [(off, bs.length)] }) })

/-- An outside read: what a running command writes reads as free values. -/
def Chip.outsideRead (s : Chip) (k : CoreId) (off n : Nat) : Chip × List Byte :=
  s.readFree k ((s.core k).veWrites ++ (s.core k).deWrites) off n

/-- The gate of a core gives its oldest pending access its porthole beat (R62, R63). -/
def Chip.serveGate (s : Chip) (k : CoreId) : Chip :=
  match (s.core k).gate with
  | [] => s
  | g :: rest =>
    let s := s.updCore k (fun x => { x with gate := rest })
    let s := s.coreEvent k 6 1
    match g.data with
    | some bs => s.outsideWrite k g.off bs
    | none =>
      match s.scratchBad k g.off g.len with
      | some c => { s with out := .fault c }
      | none => let r := s.outsideRead k g.off g.len; { r.1 with out := .bytes r.2 }

/-- Serve every pending access of a core's gate, oldest first. [log 32 DEDUCED] -/
def Chip.flushGate (s : Chip) (k : CoreId) : Nat → Chip
  | 0 => s
  | n + 1 => (Chip.flushGate s k n).serveGate k

/-- Why an outside access to a scratchpad is refused: the lowest code that holds; a core domain that is off holds no OWNER to ask (R17, R61, R71, R459). -/
def Chip.scratchRefusal (s : Chip) (w : Who) (k : CoreId) (off n : Nat) : Option FaultCode :=
  if scratchSize < off + n then some Code.scratchHole
  else if (s.die k.die).ringOn ∧ (s.die k.die).coreOn ∧ s.scratchGrants (clusterOf k) w.agent = false then some Code.scratchDenied
  else if s.route w.die k.die = false then some Code.unreachable
  else if (s.die k.die).coreOn = false then some Code.coreOff
  else none

/-- Page indices of a die that hold a block (R69). -/
def diePagePopulated (d : DieId) (p : Nat) : Bool :=
  let portDie := d.val = 1 || d.val = 2 || d.val = 5 || d.val = 6
  p ≤ 0x14 && (p ≤ 0xF || 0x10 ≤ p) || (0x18 ≤ p && p ≤ 0x1C) || p = 0x20 || p = 0x21 || (p = 0x40 && d.val = 0) ||
  (portDie && ((0x48 ≤ p && p ≤ 0x4C) || (0x50 ≤ p && p ≤ 0xFF))) || (0x100 ≤ p && p ≤ 0x10F) || (0x120 ≤ p && p ≤ 0x12F) ||
  (0x200 ≤ p && p ≤ 0x60F)

/-- Page indices of a stack that hold a block (R69). -/
def stackPagePopulated (p : Nat) : Bool := p ≤ 6 || (0x10 ≤ p && p ≤ 0x2F)

/-- Why a place that is neither stack memory nor scratchpad refuses a load or store (R68, R71, R277), and where it is recorded. -/
def Chip.placeRefusal (s : Chip) (w : Who) (p : Place) : Chip × FaultCode :=
  match p with
  | .obj o off => let c := s.notOpRefusal w o off; (if c = Code.misaligned then s else s.objErr w o c none, c)
  | .diePage d off => (s, if diePagePopulated d (off / 4096) then Code.regDenied else Code.unmapped)
  | .stackPage _ off => (s, if stackPagePopulated (off / 4096) then Code.regDenied else Code.unmapped)
  | _ => (s, Code.unmapped)

/-- Why a reduction or an atomic at a place other than stack memory is refused: the lowest code (R60, R68, R71, R277). -/
def Chip.opRefusal (s : Chip) (w : Who) (p : Place) (n : Nat) : Chip × FaultCode :=
  match p with
  | .scratch k off =>
    match s.scratchRefusal w k off n with
    | some c => (s, if c = Code.scratchHole ∨ c = Code.scratchDenied then c else Code.opTarget)
    | none => (s, Code.opTarget)
  | .diePage d off => (s, if diePagePopulated d (off / 4096) = false then Code.unmapped else if isMeridian w.agent ∨ isPf w.agent then Code.opTarget else Code.regDenied)
  | .stackPage _ off => (s, if stackPagePopulated (off / 4096) = false then Code.unmapped else if isMeridian w.agent ∨ isPf w.agent then Code.opTarget else Code.regDenied)
  | p => s.placeRefusal w p

/-- A reduction or an atomic at a local address. -/
def Chip.reduceAt (s : Chip) (w : Who) (a : Nat) (op fmt : BitVec 4) (data : List Byte) (new : Word64) (fetching : Bool) : Chip × Queued :=
  match place a with
  | .mem a => s.queueReduction w a op fmt data new fetching
  | p => let r := s.opRefusal w p data.length; (r.1, .refused r.2)

/-- A fetching atomic at a local address. -/
def Chip.fetchAt (s : Chip) (w : Who) (a : Nat) (op fmt : BitVec 4) (data : List Byte) (new : Word64) : Chip × Except FaultCode (List Byte) :=
  match place a with
  | .mem a => s.fetchAtomic w a op fmt data new
  | p => let r := s.opRefusal w p data.length; (r.1, .error r.2)

/-- Load one piece within a 256-byte line. -/
def Chip.loadPiece (s : Chip) (w : Who) (slit : Bool) (a n : Nat) : Chip × Except FaultCode (List Byte) :=
  match place a with
  | .mem a => s.readMem w a n slit
  | .scratch k off =>
    match s.scratchRefusal w k off n with
    | some c => (if c = Code.unreachable then s.d2dErr w.die c w.tag (selfAddr a) else s, .error c)
    | none =>
      let s := (s.flushGate k (s.core k).gate.length).coreEvent k 6 1
      match s.scratchBad k off n with
      | some c => (s, .error c)
      | none => let r := s.outsideRead k off n; (r.1, .ok r.2)
  | p => let r := s.placeRefusal w p; (r.1, .error r.2)

/-- Store one piece within a 256-byte line. -/
def Chip.storePiece (s : Chip) (w : Who) (slit : Bool) (a : Nat) (bs : List Byte) : Chip × Option FaultCode :=
  match place a with
  | .mem a => s.writeMem w a bs slit
  | .scratch k off =>
    match s.scratchRefusal w k off bs.length with
    | some c => (if c = Code.unreachable then s.d2dErr w.die c w.tag (selfAddr a) else s, some c)
    | none => let s := s.flushGate k (s.core k).gate.length; ((s.coreEvent k 6 1).outsideWrite k off bs, none)
  | p => let r := s.placeRefusal w p; (r.1, some r.2)

/-- A piece of host, hart, Meridian, remote or run traffic takes the Slit path when it lies within one 64-byte block (R183). [log 52 DEDUCED] -/
def slitPiece (a n : Nat) : Bool := a / 64 = (a + n - 1) / 64

/-- Load bytes, split at 256-byte lines; the first fault ends it. -/
def Chip.loadPieces (s : Chip) (w : Who) : List (Nat × Nat) → Chip × Except FaultCode (List Byte)
  | [] => (s, .ok [])
  | (a, n) :: rest =>
    match s.loadPiece w (slitPiece a n) a n with
    | (s, .error c) => (s, .error c)
    | (s, .ok bs) =>
      match Chip.loadPieces s w rest with
      | (s, .error c) => (s, .error c)
      | (s, .ok more) => (s, .ok (bs ++ more))

/-- Store bytes, split at 256-byte lines; each piece is its own access, and the first fault is answered. -/
def Chip.storePieces (s : Chip) (w : Who) (bs : List Byte) : List (Nat × Nat) → Chip × Option FaultCode
  | [] => (s, none)
  | (a, n) :: rest =>
    let r := s.storePiece w (slitPiece a n) a (bs.take n)
    let q := Chip.storePieces r.1 w (bs.drop n) rest
    (q.1, r.2.or q.2)

def Chip.load (s : Chip) (w : Who) (a n : Nat) : Chip × Except FaultCode (List Byte) := s.loadPieces w (pieces 256 a n)
def Chip.store (s : Chip) (w : Who) (a : Nat) (bs : List Byte) : Chip × Option FaultCode := s.storePieces w bs (pieces 256 a bs.length)

/-- Firmware's access as the Meridian core of a die. -/
def firmwareOf (d : DieId) : Who := whoOf (.meridian d)

end Sys2Proof.Machine
end

