-- ==== Sys2Proof/Machine/EngineQueues.lean ====
section
/-! DEFINITION. Engine packets and the queues that hold them: fields, lengths in beats, the checks a packet's own fields and addresses reveal (R102 to R106, R112 to R115, R132 to R138, R142, R144 to R150, R156), the bytes a command writes, and how an idle engine begins its next command (R104). -/

namespace Sys2Proof.Machine

open Host

/-! ## Matrix engine packets -/

/-- mma PARAM fields (R134). -/
def mmaTsc (p : BitVec 128) : Bool := p.getLsbD 29
def mmaCols (p : BitVec 128) : Nat := (field p 28 24).toNat + 1
def mmaRows (p : BitVec 128) : Nat := (field p 23 19).toNat + 1
def mmaHold (p : BitVec 128) : Bool := p.getLsbD 18
def mmaAcc (p : BitVec 128) : Bool := p.getLsbD 17
def mmaPanels (p : BitVec 128) : Nat := (field p 15 0).toNat + 1

/-- A format pair the ME accepts: twice its K per beat, and whether it accumulates integers (R133). -/
def mePair (a b : Nat) : Option (Nat × Bool) :=
  let small (c : Nat) : Bool := c = 7 || c = 5 || c = 6 || c = 3 || c = 4
  if a = 7 ∧ b = 7 then some (4, false)
  else if a = 9 ∧ b = 9 then some (4, false)
  else if a = 10 ∧ b = 10 then some (4, true)
  else if small a ∧ small b then some (2, false)
  else if a = 8 ∧ b = 8 then some (2, true)
  else if a = 1 ∧ b = 1 then some (1, false)
  else if a = 2 ∧ b = 2 then some (1, false)
  else none

/-- Bytes of one panel of 1,024 elements (R132). -/
def panelBytes (c : Nat) : Nat := if isScaled c then plateBytes c else 1024 * elemBits c / 8

def whenC (b : Bool) (c : FaultCode) : List FaultCode := if b then [c] else []

/-- The checks of an ME packet from its own fields. -/
def meChecks (p : BitVec 128) : List FaultCode :=
  let a := pkFmtA p; let b := pkFmtB p; let d := pkFmtD p
  if pkOpcode p = 1 then
    whenC ((field p 47 30).toNat ≠ 0 || p.getLsbD 16) Code.reservedField ++
    whenC (!fmtValid a || !fmtValid b || !fmtValid d) Code.fmtInvalid ++
    (match mePair a b with
     | none => [Code.formatPair]
     | some (_, int) =>
       whenC (d ≠ (if int then 11 else 0)) Code.formatPair ++ whenC (mmaTsc p && int) Code.formatPair ++
       whenC (pkAgm p && !(a = 3 || a = 4 || a = 8 || a = 1 || a = 2)) Code.formatPair)
  else if pkOpcode p = 2 then
    whenC (pkAgm p || pkParam p ≠ 0) Code.reservedField ++
    whenC (!fmtValid a || !fmtValid b || !fmtValid d) Code.fmtInvalid ++
    whenC (a ≠ 0 || b ≠ 0 || d ≠ 0) Code.formatPair
  else [Code.illegalOpcode]

/-! ## Vector engine packets -/

/-- VE PARAM fields (R146). -/
def veCond (p : BitVec 128) : Nat := (field p 46 44).toNat
def veGLog2 (p : BitVec 128) : Nat := (field p 43 40).toNat
def veTqIdx (p : BitVec 128) : Nat := (field p 39 38).toNat
def veBMode (p : BitVec 128) : Nat := (field p 37 36).toNat
def vePop (p : BitVec 128) : Bool := p.getLsbD 35
def veSrcTq (p : BitVec 128) : Bool := p.getLsbD 34
def veSr (p : BitVec 128) : Bool := p.getLsbD 33
def veMaskEn (p : BitVec 128) : Bool := p.getLsbD 32
def veMreg (p : BitVec 128) : Fin 4 := clip 4 (field p 31 30).toNat
def veNField (p : BitVec 128) : Nat := (field p 19 0).toNat
/-- The kinds of VE commands (R145). -/
inductive VeKind where
  | arith2 | func | cvt | reduce | maskCmp | maskLd | seed | flagsOp
  deriving DecidableEq, Repr

def veKind (op : Nat) : Option VeKind :=
  if 1 ≤ op ∧ op ≤ 6 then some .arith2
  else if 8 ≤ op ∧ op ≤ 0x0D then some .func
  else if op = 0x10 then some .cvt
  else if op = 0x11 ∨ op = 0x12 then some .reduce
  else if op = 0x19 then some .maskCmp
  else if op = 0x1A then some .maskLd
  else if op = 0x1C then some .seed
  else if op = 0x1D then some .flagsOp
  else none

/-- N: 1,024 when A comes from the tile queue (R144), 64 for a comparison (R146). -/
def veN (p : BitVec 128) : Nat := if veSrcTq p then 1024 else if veKind (pkOpcode p) = some .maskCmp then 64 else veNField p + 1

/-- Cost of a function command per 64 elements (R145). -/
def veCost (op : Nat) : Nat := if op = 0x0C ∨ op = 0x0D then 4 else if 8 ≤ op ∧ op ≤ 0x0B then 2 else 1

/-- Whether a VE command reads B (R145, R146). -/
def veReadsB (p : BitVec 128) : Bool :=
  match veKind (pkOpcode p) with
  | some .arith2 | some .maskCmp => true
  | some .cvt => isScaled (pkFmtA p) || isScaled (pkFmtD p)
  | _ => false

/-- Whether a VE command has a scratchpad operand A, and a destination. -/
def veReadsA (p : BitVec 128) : Bool :=
  match veKind (pkOpcode p) with
  | some .flagsOp => false
  | some .maskCmp | some .maskLd | some .seed => true
  | _ => !veSrcTq p
def veWritesD (p : BitVec 128) : Bool :=
  match veKind (pkOpcode p) with
  | some .maskCmp | some .maskLd | some .seed => false
  | some _ => true
  | none => false

/-- PARAM checks of a VE packet (R146). -/
def veParamBad (p : BitVec 128) (k : VeKind) : Bool :=
  let dataLike := k = .arith2 || k = .func || k = .cvt || k = .reduce
  p.getLsbD 47 || (field p 29 20).toNat ≠ 0 ||
  (if k = .maskCmp then 4 < veCond p else veCond p ≠ 0) ||
  (if k = .reduce then veGLog2 p = 0 || 10 < veGLog2 p || veN p % 2 ^ veGLog2 p ≠ 0 else veGLog2 p ≠ 0) ||
  (!(dataLike && veSrcTq p) && (veTqIdx p ≠ 0 || vePop p)) ||
  (!dataLike && (veSrcTq p || veMaskEn p)) ||
  (!(k = .cvt) && veSr p) ||
  (!(dataLike && veMaskEn p) && !(k = .maskCmp || k = .maskLd) && (field p 31 30).toNat ≠ 0) ||
  (match k with
   | .arith2 | .maskCmp => veBMode p = 3
   | .cvt => veBMode p ≠ (if isScaled (pkFmtA p) || isScaled (pkFmtD p) then 2 else 0)
   | _ => veBMode p ≠ 0) ||
  (match k with
   | .maskCmp | .maskLd => veNField p ≠ 0
   | .seed | .flagsOp => 1 < veNField p
   | _ => false)

/-- Format checks of a VE packet (R144, R145). -/
def veFormatBad (p : BitVec 128) (k : VeKind) : Bool :=
  let a := pkFmtA p; let b := pkFmtB p; let d := pkFmtD p
  let ain (c : Nat) : Bool := c = 0 || c = 1 || c = 2 || c = 11
  let dout (c : Nat) : Bool := c = 0 || c = 1 || c = 2
  (match k with
   | .arith2 => !ain a || !ain b || !dout d
   | .func => !ain a || !dout d || b ≠ 0
   | .cvt => 11 < a || 11 < d || b ≠ 0
   | .reduce => !ain a || d ≠ 0 || b ≠ 0
   | .maskCmp => !ain a || !ain b || d ≠ 0
   | _ => a ≠ 0 || b ≠ 0 || d ≠ 0) ||
  (veSrcTq p && (k = .arith2 || k = .func || k = .cvt || k = .reduce) && !(a = 0 || a = 11))

def veChecks (p : BitVec 128) : List FaultCode :=
  match veKind (pkOpcode p) with
  | none => [Code.illegalOpcode]
  | some k =>
    let scaledSide := k = .cvt && (isScaled (pkFmtA p) || isScaled (pkFmtD p))
    whenC (veParamBad p k) Code.paramRange ++
    whenC (!fmtValid (pkFmtA p) || !fmtValid (pkFmtB p) || !fmtValid (pkFmtD p)) Code.fmtInvalid ++
    whenC (scaledSide && veN p % 1024 ≠ 0) Code.plateShape ++
    whenC (veFormatBad p k) Code.formatPair

/-! ## Data engine and tile queue packets -/

/-- A DE packet at ISSUE (R156): the format codes are judged with the descriptor (R179, R180). [log 44 DEDUCED] -/
def deChecks (p : BitVec 128) : List FaultCode :=
  whenC (pkOpcode p = 0 || 4 < pkOpcode p) Code.illegalOpcode ++
  whenC (pkFmtB p ≠ 0 || pkParam p ≠ 0) Code.reservedField

/-- A TQ packet uses no format and no parameter, and AGM must be 0 (R103, R124, R142). -/
def tqChecks (p : BitVec 128) : List FaultCode :=
  whenC (pkOpcode p = 0 || 2 < pkOpcode p) Code.illegalOpcode ++
  whenC (pkAgm p || pkFmtA p ≠ 0 || pkFmtB p ≠ 0 || pkFmtD p ≠ 0 || pkParam p ≠ 0) Code.reservedField

/-- Every check a packet's own fields reveal (R106); the index fields are unused without a gather (R103, R124). -/
def packetChecks (p : BitVec 128) : List FaultCode :=
  whenC (pkReserved p ≠ 0 || (!pkAgm p && (pkXw p ≠ 2 || pkXShift p ≠ 0))) Code.reservedField ++ whenC (pkSigEn p && 5 ≤ (pkSigScope p).toNat) Code.scopeInvalid ++
  (match pkEngine p with
   | .me => meChecks p
   | .ve => veChecks p
   | .de => deChecks p
   | .tq => tqChecks p)

/-! ## Lengths (R133, R142, R144, R145, R149) -/

/-- Elements of a row of a VE's gathered operand A: a chunk of 64, or a Plate of a scaled format (R80, R113). -/
def rowElems (p : BitVec 128) : Nat := if isScaled (pkFmtA p) then 1024 else 64

/-- Rows of a gathered operand A: 32 for mma, one per 64 elements for the VE, one per Plate of a scaled format. [log 37 DEDUCED] -/
def gatherRows (p : BitVec 128) : Nat :=
  match pkEngine p with
  | .me => 32
  | _ =>
    match veKind (pkOpcode p) with
    | some .maskLd | some .seed => 1
    | _ => (veN p + rowElems p - 1) / rowElems p

def cmdLength (p : BitVec 128) : Nat :=
  let extra := if pkAgm p then 1 else 0
  match pkEngine p with
  | .me =>
    if pkOpcode p = 1 then (32 * mmaPanels p * 2) / ((mePair (pkFmtA p) (pkFmtB p)).getD (2, false)).1 + extra else 1
  | .ve =>
    let chunks := (veN p + 63) / 64
    match veKind (pkOpcode p) with
    | some .arith2 => chunks + extra
    | some .func => veCost (pkOpcode p) * chunks + extra
    | some .cvt => chunks + (if isScaled (pkFmtD p) then 1 else 0) + extra
    | some .reduce => chunks + 6 + extra
    | _ => 1 + extra
  | _ => 1

/-! ## Checks that need the resolved addresses (R113, R114, R132, R137, R150) -/

/-- Bytes of n elements of a format, whole Plates for a scaled one. -/
def extent (c n : Nat) : Nat := if isScaled c then n / 1024 * plateBytes c else (n * elemBits c + 7) / 8

/-- Alignment of a VE operand (R150). -/
def veAlign (c : Nat) : Nat := if isScaled c then 64 else 8 * elemBits c

/-- The direct operands of a command: address, bytes and alignment. -/
def operands (p : BitVec 128) (a b d : Nat) : List (Nat × Nat × Nat) :=
  match pkEngine p with
  | .me =>
    if pkOpcode p = 1 then
      (if pkAgm p then [] else [(a, mmaPanels p * panelBytes (pkFmtA p), 64)]) ++ [(b, mmaPanels p * panelBytes (pkFmtB p), 64)]
    else [(a, 8, 8)]
  | .ve =>
    let n := veN p
    let fa := pkFmtA p; let fb := pkFmtB p; let fd := pkFmtD p
    let mode := veBMode p
    (match veKind (pkOpcode p) with
     | some .maskLd => if pkAgm p then [] else [(a, 8, 8)]
     | some .seed => if pkAgm p then [] else [(a, 4, 4)]
     | some .flagsOp => [(d, 4, 4)]
     | some .maskCmp =>
       (if pkAgm p then [] else [(a, extent fa 64, veAlign fa)]) ++ [(b, if mode = 2 then elemBits fb / 8 else extent fb 64, veAlign fb)]
     | some .reduce => (if veReadsA p && !pkAgm p then [(a, extent fa n, veAlign fa)] else []) ++ [(d, n / 2 ^ veGLog2 p * 4, 256)]
     | some k =>
       (if veReadsA p && !pkAgm p then [(a, extent fa n, veAlign fa)] else []) ++
       (if k = .arith2 then [(b, if mode = 0 then extent fb n else if mode = 1 then extent fb 64 else elemBits fb / 8, veAlign fb)] else []) ++
       (if veReadsB p && k = .cvt then
          (let two := isScaled fa && isScaled fd; [(b, if two then 8 else 4, if two then 8 else 4)]) else []) ++
       [(d, extent fd n, veAlign fd)]
     | none => [])
  | _ => []

/-- Bytes and alignment of row r of a VE's gathered operand A (R114, R150). -/
def gatheredRow (p : BitVec 128) (r : Nat) : Nat × Nat :=
  match veKind (pkOpcode p) with
  | some .maskLd => (8, 8)
  | some .seed => (4, 4)
  | _ => (extent (pkFmtA p) (Nat.min (rowElems p) (veN p - rowElems p * r)), veAlign (pkFmtA p))

/-- Whether an index vector leaves one 256-byte line of the scratchpad (R113). -/
def indexBad (x n w : Nat) : Bool := scratchSize < x + n * w || x % 256 + n * w > 256

/-- OPERAND_RANGE and OPERAND_ALIGN at issue. -/
def addressChecks (p : BitVec 128) (a b d x : Nat) : List FaultCode :=
  let ops := operands p a b d
  let gathered := pkAgm p && (pkEngine p = .me || pkEngine p = .ve)
  whenC (ops.any (fun o => scratchSize < o.1 + o.2.1) || (gathered && indexBad x (gatherRows p) (pkXw p))) Code.operandRange ++
  whenC (ops.any (fun o => o.1 % o.2.2 ≠ 0)) Code.operandAlign

/-! ## Queues and selectors (R102 to R106, R112) -/

/-- The lowest code of a list (R124, R155). -/
def lowest : List FaultCode → Option FaultCode
  | [] => none
  | c :: t =>
    match lowest t with
    | none => some c
    | some d => some (if c.toNat ≤ d.toNat then c else d)

/-- The address register set of an engine. -/
def engineSet : EngineKind → Fin 3
  | .me => 0
  | .ve => 1
  | _ => 2

/-- The selectors a packet uses, as (address slot, selector): 0 A, 1 B, 2 D, 3 X. -/
def usedSels (p : BitVec 128) : List (Nat × Sel) :=
  let x := if pkAgm p then [(3, pkX p)] else []
  match pkEngine p with
  | .me => if pkOpcode p = 1 then [(0, pkA p), (1, pkB p)] ++ x else [(0, pkA p)]
  | .ve => (if veReadsA p then [(0, pkA p)] else []) ++ (if veReadsB p then [(1, pkB p)] else []) ++ (if veWritesD p then [(2, pkD p)] else []) ++ x
  | .de => [(0, pkA p)] ++ (if pkOpcode p = 4 then [(1, pkB p)] else []) ++ x
  | .tq => []

/-- A core's queue of an engine, and its replacement. -/
def Core.queue (k : Core) : EngineKind → EngineQueue
  | .me => k.me
  | .ve => k.ve
  | .de => k.de
  | .tq => k.tq
def Core.setQueue (k : Core) (e : EngineKind) (q : EngineQueue) : Core :=
  match e with
  | .me => { k with me := q }
  | .ve => { k with ve := q }
  | .de => { k with de := q }
  | .tq => { k with tq := q }

/-- Whether a queue begins its front command in the current beat (R104). -/
def EngineQueue.starts (q : EngineQueue) : Bool :=
  match q.running, q.waiting with
  | none, w :: _ => !w.fresh
  | _, _ => false

/-- Waiting commands of a queue once this beat's command has begun (R104, R105). -/
def EngineQueue.depth (q : EngineQueue) : Nat := if q.starts then q.waiting.length - 1 else q.waiting.length

/-! ## The bytes a VE command writes (R107, R128, R148) -/

/-- Whether element n of a command is masked (R148). -/
def Core.masked (x : Core) (p : BitVec 128) (n : Nat) : Bool :=
  veMaskEn p && !(Table.read (BitVec.allOnes 64) x.vm (veMreg p)).getLsbD (n % 64)

/-- Elements of chunk m of a command of N elements (R144). -/
def chunkLen (n m : Nat) : Nat := Nat.min 64 (n - 64 * m)

/-- The bytes that the elements of bits w from an offset on take, for the elements that are not masked. -/
def laneBytes (off w : Nat) (live : List Nat) : List (Nat × Nat) :=
  live.map (fun i => (off + i * w / 8, (i * w + w + 7) / 8 - i * w / 8))

/-- The bytes of D that chunk m of an element-wise command writes: those of its unmasked elements, and in a scaled format the scale byte of each block that has one (R78, R148). -/
def Core.chunkBytes (x : Core) (cmd : EngineCmd) (m : Nat) : List (Nat × Nat) :=
  let p := cmd.packet
  let c := pkFmtD p
  let w := elemBits c
  let d := cmd.d.toNat
  let lanes := List.range (chunkLen (veN p) m)
  if isScaled c then
    (List.range 4).flatMap (fun b =>
      let live := (List.range 16).filter (fun i => !x.masked p (64 * m + 16 * b + i))
      if live = [] then [] else (d + scaleOffset c (64 * m + 16 * b), 1) :: laneBytes (d + blockOffset c (64 * m + 16 * b)) w live)
  else laneBytes (d + 64 * m * w / 8) w (lanes.filter (fun i => !x.masked p (64 * m + i)))

/-- The bytes of D that the chunks before chunk m write; without a mask, whole stripes and half of one in a scaled format, else a single run. -/
def Core.writtenBefore (x : Core) (cmd : EngineCmd) (m : Nat) : List (Nat × Nat) :=
  let p := cmd.packet
  let c := pkFmtD p
  let d := cmd.d.toNat
  match veKind (pkOpcode p) with
  | some .arith2 | some .func | some .cvt =>
    if m = 0 then []
    else if veMaskEn p then (List.range m).flatMap (x.chunkBytes cmd)
    else if isScaled c then
      let base := d + scaleOffset c (64 * m / 128 * 128)
      [(d, base - d)] ++ (if m % 2 = 1 then [(base, 4), (base + 8, 4 * blockBytes c)] else [])
    else [(d, (Nat.min (64 * m) (veN p) * elemBits c + 7) / 8)]
  | _ => []

/-- The whole range of D of a VE command (R151). -/
def veRange (cmd : EngineCmd) : List (Nat × Nat) :=
  let p := cmd.packet
  match veKind (pkOpcode p) with
  | some .arith2 | some .func | some .cvt => [(cmd.d.toNat, extent (pkFmtD p) (veN p))]
  | some .reduce => [(cmd.d.toNat, veN p / 2 ^ veGLog2 p * 4)]
  | some .flagsOp => [(cmd.d.toNat, 4)]
  | _ => []

/-- The bytes a VE command writes: its range, without the bytes of masked elements (R148). -/
def Core.veDst (x : Core) (cmd : EngineCmd) : List (Nat × Nat) :=
  let p := cmd.packet
  if veMaskEn p ∧ veKind (pkOpcode p) ≠ some .reduce then x.writtenBefore cmd ((veN p + 63) / 64) else veRange cmd

/-! ## How an engine begins its next command (R104) -/

/-- An idle engine begins the front command of its queue; one presented in this beat waits for the next. -/
def Core.start (x : Core) (e : EngineKind) : Core :=
  let q := x.queue e
  match q.running, q.waiting with
  | none, w :: rest =>
    if w.fresh then x else
    let dst := if e = .ve then x.veDst w else []
    let r : Running := { cmd := w, len := cmdLength w.packet, dst := dst, hazard := x.deTouches }
    let x := x.setQueue e { running := some r, waiting := rest }
    { x with job := x.job.map (fun j => { j with hazard := j.hazard ++ dst }) }
  | _, _ => x

/-- Every idle engine of a core begins its next command. -/
def Core.startAll (x : Core) : Core := (((x.start .me).start .ve).start .de).start .tq

/-- The cores of a cluster begin the commands that are due in this beat (R104). -/
def Chip.startQueues (s : Chip) (c : ClusterId) : Chip :=
  (List.finRange 32).foldl (fun s i => s.updCore (coreOf c i) Core.startAll) s

end Sys2Proof.Machine
end

