-- ==== Sys2Proof/Machine/Sequencer.lean ====
section
/-! DEFINITION. The cluster sequencer's own work: faults and stops (R121 to R124), the scalar instructions (R98 to R101), hardware loops (R108 to R110), address registers (R111), and the meanings of the scalar commands. A command runs the instruction at PC in the current beat; BEAT ends the beat. -/

namespace Sys2Proof.Machine

open Host

/-! ## State of a cluster -/

/-- A scalar register; s0 reads 0 (R95). -/
def Cluster.s (c : Cluster) (r : Fin 32) : Word64 := if r = 0 then 0 else Table.read 0 c.regs r
/-- Write a scalar register; a write to s0 is discarded (R95). -/
def Cluster.setS (c : Cluster) (r : Fin 32) (v : Word64) : Cluster := if r = 0 then c else { c with regs := Table.write c.regs r v }
def Cluster.lcv (c : Cluster) (n : Fin 4) : Word32 := Table.read 0 c.lc n
def Cluster.level (c : Cluster) (n : Fin 4) : LoopLevel := Table.read {} c.levels n
def Cluster.setLevel (c : Cluster) (n : Fin 4) (l : LoopLevel) : Cluster := { c with levels := Table.write c.levels n l }
def Cluster.ad (c : Cluster) (k : Fin 3 × Fin 8) : AddrReg := Table.read {} c.ads k
def Cluster.setAd (c : Cluster) (k : Fin 3 × Fin 8) (a : AddrReg) : Cluster := { c with ads := Table.write c.ads k a }

/-- A word of a cluster's program store. -/
def Chip.word (s : Chip) (c : ClusterId) (n : Nat) : Word64 := Table.read 0 s.pstore (c, clip 32768 n)

/-- The innermost active loop level at or below a level (R109, R110). -/
def Cluster.innermost (c : Cluster) : Option (Fin 4) :=
  [(3 : Fin 4), 2, 1, 0].find? (fun n => (c.level n).active)

/-- Packet words are fixed by the store's contents, read from word 0 onwards (R101): how many packet words follow word n - 1. -/
def packetSkip (word : Nat → Word64) : Nat → Nat
  | 0 => 0
  | n + 1 =>
    let k := packetSkip word n
    if k = 0 then (if opcOf (word n) = 0x60 then 2 else 0) else k - 1

/-- Whether a word is a packet word (R101). -/
def isPacketWord (word : Nat → Word64) (n : Nat) : Bool := packetSkip word n ≠ 0

/-! ## Faults and stops -/

/-- Discard every waiting command of a cluster's queues; running ones keep on (R121). -/
def Chip.discardWaiting (s : Chip) (c : ClusterId) : Chip :=
  (List.finRange 32).foldl (fun s i =>
    let idle (q : EngineQueue) : EngineQueue := { q with waiting := [] }
    s.updCore (coreOf c i) (fun k => { k with me := idle k.me, ve := idle k.ve, de := idle k.de, tq := idle k.tq })) s

/-- The sequencer executes nothing further, and what waits is discarded: a fault wins over an abort and over `end` (R121 to R123). -/
def Chip.halt (s : Chip) (c : ClusterId) (k : StopKind) : Chip :=
  let s := s.updCluster c (fun x =>
    { x with phase := .ready, stop := if k = .faulted ∨ x.stop ≠ some .faulted then some k else x.stop })
  s.discardWaiting c

/-- The first stop cause of a step and its tag, for the night log (R115, R121). -/
def Chip.stopCause (s : Chip) (c : ClusterId) (code : FaultCode) (tag : BitVec 16) : Chip :=
  s.updCluster c (fun x => if x.stepCode = 0 then { x with stepCode := code, stepTag := tag } else x)

/-- A fault record of the cluster for its dome's trace (R469). -/
def Chip.faultTrace (s : Chip) (c : ClusterId) (code : FaultCode) (tag : BitVec 16) (pc : Nat) : Chip :=
  match (s.cluster c).domeOf with
  | some m => s.emit c.die m 2 (s.clusterRec c 5 tag (BitVec.ofNat 64 (code.toNat + pc * 65536)))
  | none => s

/-- A fault of the instruction of the current beat, or of a reading at the beat's start: recorded under R66 with its PC, and the step stops. The commands due in this beat begin before what waits is discarded (R104), and the beat itself still ends (R121). -/
def Chip.instrFault (s : Chip) (c : ClusterId) (e : ErrorInfo) (pc : Nat) : Chip :=
  let s := s.faultTrace c e.code e.tag pc
  let s := s.err (.clusterSeq c) { e with syn := BitVec.ofNat 32 (pc % 32768) }
  (((s.stopCause c e.code e.tag).startQueues c).halt c .faulted).updCluster c (fun x => { x with phase := .retire x.pc (some x.pc) })

/-- A command fault of the sequencer (R121, R124). A code of R124's table sets its own bit; a packet fault that the engine chapters raise at issue (R106, R155) sets bit 31 (DEDUCED, log entry 46). -/
def Chip.seqFault (s : Chip) (c : ClusterId) (code : FaultCode) (tag : BitVec 16) (pc : Nat) : Chip :=
  s.instrFault c { bit := if code.toNat ≤ 0x100B then code.toNat - 0x1001 else 31, code := code, tag := tag } pc

/-- A refused signal or reading of the current beat's instruction, which reaches ERR_STATUS bit 31 (R121, R282). -/
def Chip.syncFault (s : Chip) (c : ClusterId) (code : FaultCode) (pc : Nat) (addr : Word64) : Chip :=
  s.instrFault c { bit := 31, code := code, addr := addr } pc

/-- A fault that reaches the sequencer through ERR_STATUS bit 31: an engine's, or a refused signal or reading (R121, R282, R359). -/
def Chip.engineFault (s : Chip) (c : ClusterId) (code : FaultCode) (tag : BitVec 16) (pc : Nat) (lane : Nat) (addr : Word64) : Chip :=
  let s := s.faultTrace c code tag pc
  let s := s.err (.clusterSeq c) { bit := 31, code := code, tag := tag, addr := addr, syn := BitVec.ofNat 32 (lane * 65536 + pc % 32768) }
  (s.stopCause c code tag).halt c .faulted

/-- A configuration write that reached a running cluster is dropped and recorded; the step continues (R23, R124). [log 170 DESIGN CHOICE] -/
def Chip.configDropped (s : Chip) (c : ClusterId) : Chip :=
  s.err (.clusterSeq c) { bit := 10, code := Code.configDropped, syn := BitVec.ofNat 32 (s.cluster c).pc }

/-! ## The instruction of the current beat -/

/-- The sequencer may execute an instruction in this beat. -/
def Cluster.mayExecute (x : Cluster) : Bool := x.running && x.stop.isNone && decide (x.phase = .ready)

/-- The cluster's core domain is on and no freeze holds it. -/
def Chip.clusterLive (s : Chip) (c : ClusterId) : Bool := !s.frozen && (s.die c.die).ringOn && (s.die c.die).coreOn

/-- The instruction that a scalar command runs: the word at PC, when the sequencer may execute and the word has the opcode. -/
def Chip.current (s : Chip) (c : ClusterId) (opc : Nat) : Option Word64 :=
  let x := s.cluster c
  if s.clusterLive c ∧ x.mayExecute ∧ opcOf (s.word c x.pc) = opc then some (s.word c x.pc) else none

/-- The bits of a scalar word outside the fields an opcode uses (R98). -/
def unusedBits (w : Word64) (rd rs1 rs2 : Bool) (fnMask immMask : Nat) : Bool :=
  (!rd && (field w 55 51).toNat ≠ 0) || (!rs1 && (field w 50 46).toNat ≠ 0) || (!rs2 && (field w 45 41).toNat ≠ 0) ||
  (fnOf w &&& (0x1FF ^^^ fnMask)) ≠ 0 || ((w.extractLsb' 0 32).toNat &&& (0xFFFFFFFF ^^^ immMask)) ≠ 0

/-- The fields each opcode uses (R98, R99): RD, RS1, RS2, the used bits of FN and of IMM; none for an undefined opcode. -/
def usedFields (opc : Nat) : Option (Bool × Bool × Bool × Nat × Nat) :=
  let all := 0xFFFFFFFF
  if opc = 0x00 then some (false, false, false, 0, 0xFFFFF)
  else if opc = 0x01 then some (false, false, false, 0, 0)
  else if opc = 0x02 then some (false, false, false, 1, 0xFFFF)
  else if 0x10 ≤ opc ∧ opc ≤ 0x1F then some (true, true, true, 0, 0)
  else if opc = 0x20 ∨ (0x22 ≤ opc ∧ opc ≤ 0x27) then some (true, true, false, 0, all)
  else if opc = 0x28 ∨ opc = 0x29 then some (true, false, false, 0, all)
  else if 0x30 ≤ opc ∧ opc ≤ 0x35 then some (false, true, true, 0, all)
  else if opc = 0x36 then some (false, false, false, 0, all)
  else if opc = 0x40 then some (false, true, false, 3, all)
  else if opc = 0x41 then some (false, false, false, 3, 0xFFFF)
  else if opc = 0x42 ∨ opc = 0x43 then some (true, false, false, 3, 0)
  else if opc = 0x44 then some (false, true, false, 0, all)
  else if opc = 0x45 ∨ opc = 0x46 then some (true, false, false, 0, 0)
  else if opc = 0x48 then some (false, true, false, 0xF7, all)
  else if opc = 0x49 then some (true, false, false, 0xF7, 0)
  else if opc = 0x50 then some (false, true, true, 7, all)
  else if opc = 0x51 then some (false, true, false, 7, all)
  else if opc = 0x60 then some (false, false, false, 1, 0)
  else none

/-- Whether a word holds a non-zero unused field (R98). -/
def reservedSet (w : Word64) : Bool :=
  match usedFields (opcOf w) with
  | some (rd, rs1, rs2, fm, im) => unusedBits w rd rs1 rs2 fm im
  | none => false

/-- The instruction ends with this beat: its last word, and its target when it is a taken branch. -/
def Cluster.retireAt (x : Cluster) (last : Nat) (target : Option Nat) : Cluster := { x with phase := .retire last target }

/-- A one-beat instruction that only changes sequencer state. -/
def Chip.scalar (c : ClusterId) (opc : Nat) (f : Cluster → Word64 → Cluster) (s : Chip) : Chip :=
  match s.current c opc with
  | none => s
  | some w =>
    if reservedSet w then s.seqFault c Code.reservedField 0 (s.cluster c).pc
    else s.updCluster c (fun x => (f x w).retireAt x.pc none)

/-- A three-register instruction (R99, R100). -/
def Chip.binary (c : ClusterId) (opc : Nat) (op : Word64 → Word64 → Word64) : Chip → Chip :=
  Chip.scalar c opc (fun x w => x.setS (rdOf w) (op (x.s (rs1Of w)) (x.s (rs2Of w))))

/-- A register and immediate instruction (R99). -/
def Chip.immediate (c : ClusterId) (opc : Nat) (op : Word64 → Word64 → Word64) : Chip → Chip :=
  Chip.scalar c opc (fun x w => x.setS (rdOf w) (op (x.s (rs1Of w)) (immS w)))

/-- The scalar operations; shifts use the low 6 bits of their amount (R100). -/
def opSll (a b : Word64) : Word64 := a <<< (b.toNat % 64)
def opSrl (a b : Word64) : Word64 := a >>> (b.toNat % 64)
def opSra (a b : Word64) : Word64 := a.sshiftRight (b.toNat % 64)
def opMulhu (a b : Word64) : Word64 := BitVec.ofNat 64 (a.toNat * b.toNat / 2 ^ 64)
def opSlt (a b : Word64) : Word64 := if a.slt b then 1 else 0
def opSltu (a b : Word64) : Word64 := if a.ult b then 1 else 0
def opMin (a b : Word64) : Word64 := if a.slt b then a else b
def opMax (a b : Word64) : Word64 := if a.slt b then b else a
def opMinu (a b : Word64) : Word64 := if a.ult b then a else b
def opMaxu (a b : Word64) : Word64 := if a.ult b then b else a

/-! ## Branches (R101, R110) -/

/-- The target of a branch word: PC + IMM. -/
def branchTarget (pc : Nat) (w : Word64) : Int := (pc : Int) + (immS w).toInt

/-- A branch or jump, checked when taken: BRANCH_TARGET before LOOP_EXIT (R101, R110, R124). -/
def Chip.branch (c : ClusterId) (opc : Nat) (taken : Cluster → Word64 → Bool) (s : Chip) : Chip :=
  match s.current c opc with
  | none => s
  | some w =>
    let x := s.cluster c
    if reservedSet w then s.seqFault c Code.reservedField 0 x.pc
    else if taken x w = false then s.updCluster c (fun y => y.retireAt y.pc none)
    else
      let t := branchTarget x.pc w
      if t < 0 ∨ 32768 ≤ t then s.seqFault c Code.branchTarget 0 x.pc
      else if isPacketWord (s.word c) t.toNat then s.seqFault c Code.branchTarget 0 x.pc
      else
        let outside := match x.innermost with
          | some n => decide (t.toNat < (x.level n).start) || decide ((x.level n).stop < t.toNat)
          | none => false
        if outside then s.seqFault c Code.loopExit 0 x.pc
        else s.updCluster c (fun y => y.retireAt y.pc (some t.toNat))

/-- A conditional branch on two registers. -/
def Chip.branchOn (c : ClusterId) (opc : Nat) (cond : Word64 → Word64 → Bool) : Chip → Chip :=
  Chip.branch c opc (fun x w => cond (x.s (rs1Of w)) (x.s (rs2Of w)))

/-! ## Loops (R108 to R110) -/

/-- The end rule: the innermost active level whose body ends at the word repeats, or becomes inactive and the next enclosing level that ends there follows; answers the next PC. Fuel is the number of levels. -/
def Cluster.endRule (x : Cluster) (last : Nat) : Nat → Cluster
  | 0 => { x with pc := last + 1 }
  | f + 1 =>
    match x.innermost with
    | none => { x with pc := last + 1 }
    | some n =>
      let l := x.level n
      if l.stop ≠ last then { x with pc := last + 1 }
      else if 1 < l.remaining.toNat then
        { x.setLevel n { l with remaining := l.remaining - 1, iter := l.iter + 1 } with pc := l.start }
      else Cluster.endRule (x.setLevel n { l with active := false }) last f

/-- LOOP (R108, R110). -/
def Chip.loopEnter (c : ClusterId) (s : Chip) : Chip :=
  match s.current c 0x41 with
  | none => s
  | some w =>
    let x := s.cluster c
    if reservedSet w then s.seqFault c Code.reservedField 0 x.pc else
    let n : Fin 4 := clip 4 (fnOf w)
    let len := (w.extractLsb' 0 16).toNat
    let stop := x.pc + len
    let bad : Bool := match x.innermost with
      | some m => decide (n ≤ m) || decide ((x.level m).stop < stop)
      | none => false
    if bad ∨ len = 0 ∨ 32767 < stop ∨ isPacketWord (s.word c) (stop + 1) then s.seqFault c Code.loopNest 0 x.pc
    else
      let count := x.lcv n
      if count = 0 then s.updCluster c (fun y => y.retireAt stop none)
      else s.updCluster c (fun y =>
        (y.setLevel n { active := true, remaining := count, iter := 0, start := x.pc + 1, stop := stop }).retireAt x.pc none)

/-! ## Address registers (R111) -/

/-- Supply an address and advance (R111). -/
def AddrReg.supply (a : AddrReg) : AddrReg :=
  let n := a.count + 1
  if a.rept ≠ 0 ∧ n = a.rept then { a with count := 0, addr := a.addr + a.wrap }
  else { a with count := n, addr := a.addr + a.stride }

/-- Set a field; ADDR and REPEAT clear COUNT (R111). -/
def AddrReg.set (a : AddrReg) (fieldNo : Nat) (v : Word64) : AddrReg :=
  match fieldNo with
  | 0 => { a with addr := v, count := 0 }
  | 1 => { a with stride := v }
  | 2 => { a with rept := v.setWidth 32, count := 0 }
  | _ => { a with wrap := v }

/-- Read a field; field 2 is REPEAT and not COUNT (R99). -/
def AddrReg.get (a : AddrReg) (fieldNo : Nat) : Word64 :=
  match fieldNo with
  | 0 => a.addr
  | 1 => a.stride
  | 2 => a.rept.setWidth 64
  | _ => a.wrap

/-- The register SETAD and RDAD name: engine FN[7:6], register FN[2:0] (R99). -/
def adName (w : Word64) : Fin 3 × Fin 8 := (clip 3 (fnOf w / 64 % 4), clip 8 (fnOf w % 8))
def adField (w : Word64) : Nat := fnOf w / 16 % 4

/-- SETAD or RDAD: engine code 3 is ILLEGAL_OPCODE. -/
def Chip.adInstr (c : ClusterId) (opc : Nat) (f : Cluster → Word64 → Cluster) (s : Chip) : Chip :=
  match s.current c opc with
  | none => s
  | some w =>
    if fnOf w / 64 % 4 = 3 then s.seqFault c Code.illegalOpcode 0 (s.cluster c).pc
    else Chip.scalar c opc f s

/-! ## wait, signal, trace, nop, end -/

/-- NOP for c beats (R99). -/
def Chip.nopInstr (c : ClusterId) (s : Chip) : Chip :=
  match s.current c 0x00 with
  | none => s
  | some w =>
    if reservedSet w then s.seqFault c Code.reservedField 0 (s.cluster c).pc
    else s.updCluster c (fun x => { x with phase := .hold x.pc ((w.extractLsb' 0 20).toNat + 1) })

/-- END (R120): the sequencer executes nothing further; its beat still ends. -/
def Chip.endInstr (c : ClusterId) (s : Chip) : Chip :=
  match s.current c 0x01 with
  | none => s
  | some w =>
    if reservedSet w then s.seqFault c Code.reservedField 0 (s.cluster c).pc
    else s.updCluster c (fun x => { x with stop := some .ended, phase := .retire x.pc (some x.pc) })

/-- TRACE (R99, R469, R471). -/
def Chip.traceInstr (c : ClusterId) (s : Chip) : Chip :=
  match s.current c 0x02 with
  | none => s
  | some w =>
    let x := s.cluster c
    if reservedSet w then s.seqFault c Code.reservedField 0 x.pc else
    let fence := fnOf w % 2 = 1
    let r := s.clusterRec c (if fence then 2 else 1) 0 ((w.extractLsb' 0 16).setWidth 64)
    let r := if fence then { r with marker := some c } else r
    let s := match x.domeOf with
      | some m => s.emit c.die m 0 r
      | none => s
    s.updCluster c (fun y => y.retireAt y.pc none)

/-- One reading of a waited object (R116): satisfied, not yet, or refused. -/
def Chip.waitReading (s : Chip) (c : ClusterId) (obj : Nat) (goal : Word64) : Chip × Except FaultCode Bool :=
  let o : ObjId := .die c.die (clip 4096 obj)
  let r := s.objReadOp (whoOf (.sequencer c)) o
  match r.2.fault with
  | some f => (r.1, .error f)
  | none => (r.1, .ok (!r.2.held && decide (goal.toNat ≤ r.2.count.toNat)))

/-- WAIT (R116): checks, then the first reading. -/
def Chip.waitInstr (c : ClusterId) (s : Chip) : Chip :=
  match s.current c 0x50 with
  | none => s
  | some w =>
    let x := s.cluster c
    if reservedSet w then s.seqFault c Code.reservedField 0 x.pc
    else if 5 ≤ fnOf w % 8 then s.seqFault c Code.scopeInvalid 0 x.pc
    else
      let obj := (x.s (rs1Of w) + immZ w).toNat
      if 4095 < obj then s.seqFault c Code.syncTarget 0 x.pc else
      match s.waitReading c obj (x.s (rs2Of w)) with
      | (s, .error f) => s.syncFault c f x.pc (selfAddr (objAddr (.die c.die (clip 4096 obj))))
      | (s, .ok true) => s.updCluster c (fun y => y.retireAt y.pc none)
      | (s, .ok false) => s.updCluster c (fun y => { y with phase := .waiting y.pc obj (y.s (rs2Of w)) true })

/-- WAIT_SATISFIED (R116): the reading at step 1 of a later beat meets the target. -/
def Chip.waitAgain (c : ClusterId) (s : Chip) : Chip :=
  if s.clusterLive c = false then s else
  let x := s.cluster c
  match x.phase with
  | .waiting last obj goal false =>
    match s.waitReading c obj goal with
    | (s, .error f) => s.syncFault c f last (selfAddr (objAddr (.die c.die (clip 4096 obj))))
    | (s, .ok true) => s.updCluster c (fun y => { y with phase := .retire last none })
    | (s, .ok false) => s
  | _ => s

/-- A release of a cluster: held while a TRACE_FENCE marker of the cluster is unwritten (R471). -/
def Chip.clusterRelease (s : Chip) (c : ClusterId) (a : Agent) (tag : BitVec 16) (addr v : Word64) (scope : BitVec 3) (w : Waiter) : Chip × Option FaultCode :=
  let s := s.clusterEvent c 6 1
  match s.markerPending c with
  | some m => (s.updTrace m (fun u => { u with held := u.held ++ [⟨c, a, tag, addr, v, scope⟩] }), none)
  | none => s.release { whoOf a with tag := tag } addr v scope w

/-- SEQ_SIGNAL (R117). -/
def Chip.signalInstr (c : ClusterId) (s : Chip) : Chip :=
  match s.current c 0x51 with
  | none => s
  | some w =>
    let x := s.cluster c
    if reservedSet w then s.seqFault c Code.reservedField 0 x.pc
    else if 5 ≤ fnOf w % 8 then s.seqFault c Code.scopeInvalid 0 x.pc
    else
      let addr := x.s (rs1Of w)
      match s.signalTarget addr with
      | .error f =>
        if f = Code.syncTarget then s.seqFault c Code.syncTarget 0 x.pc else s.syncFault c f x.pc addr
      | .ok _ =>
        match s.clusterRelease c (.sequencer c) 0 addr (immZ w) (BitVec.ofNat 3 (fnOf w)) (.sequencer c) with
        | (s, none) => s.updCluster c (fun y => y.retireAt y.pc none)
        | (s, some f) => s.syncFault c f x.pc addr

/-! ## One-beat register instructions (R99) -/

/-- LI. -/
def Chip.loadImm (c : ClusterId) : Chip → Chip := Chip.scalar c 0x28 (fun x w => x.setS (rdOf w) (immS w))
/-- LIH: the upper half is the immediate, the lower half stays. -/
def Chip.loadHigh (c : ClusterId) : Chip → Chip :=
  Chip.scalar c 0x29 (fun x w => x.setS (rdOf w) (w.extractLsb' 0 32 ++ (x.s (rdOf w)).extractLsb' 0 32))
/-- SETLC. -/
def Chip.setLc (c : ClusterId) : Chip → Chip :=
  Chip.scalar c 0x40 (fun x w => { x with lc := Table.write x.lc (clip 4 (fnOf w)) ((x.s (rs1Of w) + immZ w).setWidth 32) })
/-- RDLC: the value last written. -/
def Chip.readLc (c : ClusterId) : Chip → Chip := Chip.scalar c 0x42 (fun x w => x.setS (rdOf w) ((x.lcv (clip 4 (fnOf w))).setWidth 64))
/-- RDIT: 0 when the level is inactive. -/
def Chip.readIt (c : ClusterId) : Chip → Chip :=
  Chip.scalar c 0x43 (fun x w => x.setS (rdOf w) (let l := x.level (clip 4 (fnOf w)); if l.active then l.iter.setWidth 64 else 0))
/-- SETMASK. -/
def Chip.setMask (c : ClusterId) : Chip → Chip := Chip.scalar c 0x44 (fun x w => { x with bmask := (x.s (rs1Of w) ||| immZ w).setWidth 32 })
/-- RDMASK. -/
def Chip.readMask (c : ClusterId) : Chip → Chip := Chip.scalar c 0x45 (fun x w => x.setS (rdOf w) (x.bmask.setWidth 64))
/-- RDBEAT. -/
def Chip.readBeat (c : ClusterId) : Chip → Chip := Chip.scalar c 0x46 (fun x w => x.setS (rdOf w) x.beat)
/-- SETAD (R111). -/
def Chip.setAdr (c : ClusterId) : Chip → Chip :=
  Chip.adInstr c 0x48 (fun x w => x.setAd (adName w) ((x.ad (adName w)).set (adField w) (x.s (rs1Of w) + immS w)))
/-- RDAD. -/
def Chip.readAdr (c : ClusterId) : Chip → Chip := Chip.adInstr c 0x49 (fun x w => x.setS (rdOf w) ((x.ad (adName w)).get (adField w)))

/-! ## The meanings of the scalar commands -/

def execNop (c : ClusterId) : State → Outcome State Fault Refusal := onChip (Chip.nopInstr c)
def execEndStep (c : ClusterId) : State → Outcome State Fault Refusal := onChip (Chip.endInstr c)
def execTrace (c : ClusterId) : State → Outcome State Fault Refusal := onChip (Chip.traceInstr c)
def execAdd (c : ClusterId) : State → Outcome State Fault Refusal := onChip (Chip.binary c 0x10 (· + ·))
def execSub (c : ClusterId) : State → Outcome State Fault Refusal := onChip (Chip.binary c 0x11 (· - ·))
def execAnd (c : ClusterId) : State → Outcome State Fault Refusal := onChip (Chip.binary c 0x12 (· &&& ·))
def execOr (c : ClusterId) : State → Outcome State Fault Refusal := onChip (Chip.binary c 0x13 (· ||| ·))
def execXor (c : ClusterId) : State → Outcome State Fault Refusal := onChip (Chip.binary c 0x14 (· ^^^ ·))
def execSll (c : ClusterId) : State → Outcome State Fault Refusal := onChip (Chip.binary c 0x15 opSll)
def execSrl (c : ClusterId) : State → Outcome State Fault Refusal := onChip (Chip.binary c 0x16 opSrl)
def execSra (c : ClusterId) : State → Outcome State Fault Refusal := onChip (Chip.binary c 0x17 opSra)
def execMul (c : ClusterId) : State → Outcome State Fault Refusal := onChip (Chip.binary c 0x18 (· * ·))
def execMulhu (c : ClusterId) : State → Outcome State Fault Refusal := onChip (Chip.binary c 0x19 opMulhu)
def execSlt (c : ClusterId) : State → Outcome State Fault Refusal := onChip (Chip.binary c 0x1A opSlt)
def execSltu (c : ClusterId) : State → Outcome State Fault Refusal := onChip (Chip.binary c 0x1B opSltu)
def execMin (c : ClusterId) : State → Outcome State Fault Refusal := onChip (Chip.binary c 0x1C opMin)
def execMax (c : ClusterId) : State → Outcome State Fault Refusal := onChip (Chip.binary c 0x1D opMax)
def execMinu (c : ClusterId) : State → Outcome State Fault Refusal := onChip (Chip.binary c 0x1E opMinu)
def execMaxu (c : ClusterId) : State → Outcome State Fault Refusal := onChip (Chip.binary c 0x1F opMaxu)
def execAddi (c : ClusterId) : State → Outcome State Fault Refusal := onChip (Chip.immediate c 0x20 (· + ·))
def execAndi (c : ClusterId) : State → Outcome State Fault Refusal := onChip (Chip.immediate c 0x22 (· &&& ·))
def execOri (c : ClusterId) : State → Outcome State Fault Refusal := onChip (Chip.immediate c 0x23 (· ||| ·))
def execXori (c : ClusterId) : State → Outcome State Fault Refusal := onChip (Chip.immediate c 0x24 (· ^^^ ·))
def execSlli (c : ClusterId) : State → Outcome State Fault Refusal := onChip (Chip.immediate c 0x25 opSll)
def execSrli (c : ClusterId) : State → Outcome State Fault Refusal := onChip (Chip.immediate c 0x26 opSrl)
def execSrai (c : ClusterId) : State → Outcome State Fault Refusal := onChip (Chip.immediate c 0x27 opSra)
def execLi (c : ClusterId) : State → Outcome State Fault Refusal := onChip (Chip.loadImm c)
def execLih (c : ClusterId) : State → Outcome State Fault Refusal := onChip (Chip.loadHigh c)
def execBeq (c : ClusterId) : State → Outcome State Fault Refusal := onChip (Chip.branchOn c 0x30 (fun a b => a == b))
def execBne (c : ClusterId) : State → Outcome State Fault Refusal := onChip (Chip.branchOn c 0x31 (fun a b => a != b))
def execBlt (c : ClusterId) : State → Outcome State Fault Refusal := onChip (Chip.branchOn c 0x32 (fun a b => a.slt b))
def execBge (c : ClusterId) : State → Outcome State Fault Refusal := onChip (Chip.branchOn c 0x33 (fun a b => !a.slt b))
def execBltu (c : ClusterId) : State → Outcome State Fault Refusal := onChip (Chip.branchOn c 0x34 (fun a b => a.ult b))
def execBgeu (c : ClusterId) : State → Outcome State Fault Refusal := onChip (Chip.branchOn c 0x35 (fun a b => !a.ult b))
def execJmp (c : ClusterId) : State → Outcome State Fault Refusal := onChip (Chip.branch c 0x36 (fun _ _ => true))
def execSetlc (c : ClusterId) : State → Outcome State Fault Refusal := onChip (Chip.setLc c)
def execLoop (c : ClusterId) : State → Outcome State Fault Refusal := onChip (Chip.loopEnter c)
def execRdlc (c : ClusterId) : State → Outcome State Fault Refusal := onChip (Chip.readLc c)
def execRdit (c : ClusterId) : State → Outcome State Fault Refusal := onChip (Chip.readIt c)
def execSetmask (c : ClusterId) : State → Outcome State Fault Refusal := onChip (Chip.setMask c)
def execRdmask (c : ClusterId) : State → Outcome State Fault Refusal := onChip (Chip.readMask c)
def execRdbeat (c : ClusterId) : State → Outcome State Fault Refusal := onChip (Chip.readBeat c)
def execSetad (c : ClusterId) : State → Outcome State Fault Refusal := onChip (Chip.setAdr c)
def execRdad (c : ClusterId) : State → Outcome State Fault Refusal := onChip (Chip.readAdr c)
def execWait (c : ClusterId) : State → Outcome State Fault Refusal := onChip (Chip.waitInstr c)
def execWaitSatisfied (c : ClusterId) : State → Outcome State Fault Refusal := onChip (Chip.waitAgain c)
def execSeqSignal (c : ClusterId) : State → Outcome State Fault Refusal := onChip (Chip.signalInstr c)

end Sys2Proof.Machine
end

