-- ==== Sys2Proof/Machine/Packets.lean ====
section
/-! DEFINITION. ISSUE: the check and the presentation of an engine packet (R102 to R106, R112, R124). -/

namespace Sys2Proof.Machine

open Host

/-- Advance each register of the set that some used selector advances, once (R112). -/
def Cluster.advance (x : Cluster) (p : BitVec 128) : Cluster :=
  (List.finRange 8).foldl (fun x r =>
    if (usedSels p).any (fun e => e.2.reg = r && e.2.adv) then x.setAd (engineSet (pkEngine p), r) (x.ad (engineSet (pkEngine p), r)).supply else x) x

/-- The address a slot of a packet resolves to. -/
def Cluster.slotAddr (x : Cluster) (p : BitVec 128) (slot : Nat) : Word64 :=
  match (usedSels p).find? (fun e => e.1 = slot) with
  | some e => (x.ad (engineSet (pkEngine p), e.2.reg)).addr
  | none => 0

/-- The cores an ISSUE selects (R102). -/
def selectedCores (x : Cluster) (all : Bool) : List (Fin 32) := (List.finRange 32).filter (fun i => all || x.bmask.getLsbD i.val)

/-- Why an ISSUE faults, when it does: the lowest code. -/
def Chip.issueFault (s : Chip) (c : ClusterId) (w : Word64) (p : BitVec 128) (cores : List (Fin 32)) : Option FaultCode :=
  let x := s.cluster c
  let low (i : Nat) : Nat := (x.slotAddr p i).toNat
  lowest (whenC (reservedSet w) Code.reservedField ++
    (if 32765 < x.pc then [Code.pcOverrun] else
      packetChecks p ++
      (if cores = [] then [] else
        addressChecks p (low 0) (low 1) (low 2) (low 3) ++
        whenC (cores.any (fun i => 4 ≤ ((s.core (coreOf c i)).queue (pkEngine p)).depth)) Code.queueOverrun)))

/-- ISSUE: the packet after it, its checks, and the command in the queue of every selected core (R101 to R106, R112). [log 43 DEDUCED, log 171 DESIGN CHOICE] -/
def Chip.issueInstr (c : ClusterId) (s : Chip) : Chip :=
  match s.current c 0x60 with
  | none => s
  | some w =>
    let x := s.cluster c
    let p : BitVec 128 := s.word c (x.pc + 2) ++ s.word c (x.pc + 1)
    let cores := selectedCores x (fnOf w % 2 = 1)
    match s.issueFault c w p cores with
    | some f => s.seqFault c f (if 32765 < x.pc then 0 else pkTag p) x.pc
    | none =>
      let cmd : EngineCmd := ⟨p, x.pc, x.slotAddr p 0, x.slotAddr p 1, x.slotAddr p 2, x.slotAddr p 3, true⟩
      let s := cores.foldl (fun s i =>
        s.updCore (coreOf c i) (fun k => let q := k.queue (pkEngine p); k.setQueue (pkEngine p) { q with waiting := q.waiting ++ [cmd] })) s
      let s := s.clusterEvent c 4 1
      s.updCluster c (fun y =>
        let y := if cores = [] then y else y.advance p
        { y with phase := .retire (y.pc + 2) none, presented := some (y.pc, pkTag p) })

def execIssue (c : ClusterId) : State → Outcome State Fault Refusal := onChip (Chip.issueInstr c)

end Sys2Proof.Machine
end

