-- ==== Sys2Proof/Machine/Matrix.lean ====
section
/-! DEFINITION. What the engines of a core share (faults, completion signals, operand rows), and the matrix engine's arithmetic (R86 to R89, R132 to R139). -/

namespace Sys2Proof.Machine

/-! ## Engine faults and completion -/

/-- A fault of an engine's command in a beat. -/
structure EngineError where
  code : FaultCode
  cmd : EngineCmd
  addr : Word64 := 0

/-- The error an engine fault is on the CORE page: a format fault of R94, or a code of R155 (R154); none for a code of R124, and none for the DE, whose page is its own (R181). -/
def EngineError.onCore (e : EngineError) : List ErrorInfo :=
  let tag := pkTag e.cmd.packet
  if pkEngine e.cmd.packet = .de then []
  else if e.code >>> 12 = 5 then [{ bit := 16, code := e.code, tag := tag }]
  else if e.code >>> 8 = 0x11 then [{ bit := e.code.toNat - 0x1101, code := e.code, tag := tag }]
  else []

/-- The same error on the CLUSTER_SEQ page: bit 31, with the core's number and the PC of its ISSUE (R121, R125). An OPERAND_RANGE of an index beat is an engine's fault and sets bit 31 too (DEDUCED, log entry 46). [log 46 DEDUCED] -/
def EngineError.onCluster (e : EngineError) (k : CoreId) : ErrorInfo :=
  { bit := 31, code := e.code, tag := pkTag e.cmd.packet, addr := e.addr, syn := BitVec.ofNat 32 ((laneOf k).val * 65536 + e.cmd.pc % 32768) }

/-- The faults of a core's engines in one beat are recorded on its CORE page (R66, R155). -/
def Chip.coreErrors (s : Chip) (k : CoreId) (es : List EngineError) : Chip := s.errAll (.core k) (es.flatMap EngineError.onCore)

/-- The lowest code among the engine faults of a cluster in one beat (R155). -/
def firstError : List (CoreId × EngineError) → Option (CoreId × EngineError)
  | [] => none
  | e :: t =>
    match firstError t with
    | none => some e
    | some d => some (if e.2.code.toNat ≤ d.2.code.toNat then e else d)

/-- The engine faults of a cluster in one beat reach its sequencer, which stops from the next beat (R121, R155). -/
def Chip.clusterErrors (s : Chip) (c : ClusterId) (es : List (CoreId × EngineError)) : Chip :=
  match firstError es with
  | none => s
  | some (_, e) =>
    let s := es.foldl (fun s p => s.faultTrace c p.2.code (pkTag p.2.cmd.packet) p.2.cmd.pc) s
    let s := s.errAll (.clusterSeq c) (es.map (fun p => p.2.onCluster p.1))
    (s.stopCause c e.code (pkTag e.cmd.packet)).halt c .faulted

/-- Engine faults of one core, outside the beat of a cluster. -/
def Chip.report (s : Chip) (k : CoreId) (es : List EngineError) : Chip :=
  (s.coreErrors k es).clusterErrors (clusterOf k) (es.map (fun e => (k, e)))

/-- The completion signal of a command (R118). -/
def Chip.complete (s : Chip) (k : CoreId) (a : Agent) (cmd : EngineCmd) : Chip :=
  let p := cmd.packet
  if pkSigEn p = false then s else
  let addr := selfAddr (objAddr (.die k.die (pkSigObj p)))
  match s.clusterRelease (clusterOf k) a (pkTag p) addr 1 (pkSigScope p) (.engine k) with
  | (s, none) => s
  | (s, some f) => s.engineFault (clusterOf k) f (pkTag p) cmd.pc (laneOf k).val addr

/-- Free bytes for a range the spec calls undefined (R94, R151). -/
def Chip.freeFill (s : Chip) (k : CoreId) (off : Nat) : Nat → Chip
  | 0 => s
  | n + 1 =>
    let f := s.freeBits 8
    Chip.freeFill (f.2.scratchWrite k off [f.1]) k (off + 1) n

/-- Read operand bytes in a beat: those another running command writes are free (R107); in a beat with more bank accesses than the scratchpad has, every byte is, and so are the lines touched (R130). A bad codeword is noted for the step that reads it, which then has no results (R415). -/
def Chip.engineRead (s : Chip) (k : CoreId) (crowd : Bool) (busy : List (Nat × Nat)) (off n : Nat) : Chip × List Byte :=
  if crowd then (s.freeFill k (off / 256 * 256) ((off % 256 + n + 255) / 256 * 256)).readFree k [(off, n)] off n
  else match s.scratchBad k off n with
    | none => s.readFree k busy off n
    | some c => (s.updCore k (fun x => { x with badRead := some c }), List.replicate n 0)

/-- Run one step of an engine; where it meets a bad codeword nothing of the step happens but the fault (R121, R415). [log 183 DEDUCED] -/
def Chip.guarded {α : Type} (s : Chip) (k : CoreId) (step : Chip → Chip × α) (fault : FaultCode → Chip × α) : Chip × α :=
  if s.scratchErrors = [] then step s else
  let r := step (s.updCore k (fun x => { x with badRead := none }))
  match (r.1.core k).badRead with
  | none => r
  | some c => fault c

/-- The indices of a gathered operand, read in its first beat (R113). -/
def Chip.readIndices (s : Chip) (k : CoreId) (crowd : Bool) (busy : List (Nat × Nat)) (cmd : EngineCmd) (n : Nat) : Chip × List Nat :=
  let w := pkXw cmd.packet
  let r := s.engineRead k crowd busy cmd.x.toNat (n * w)
  (r.1, (List.range n).map (fun i => leNat ((r.2.drop (i * w)).take w)))

/-- How an engine's step ends. -/
inductive StepEnd where
  | going
  | finished
  | faulted (c : FaultCode)
  deriving DecidableEq, Repr

/-- The address of row r of operand A (R113). -/
def rowAddr (cmd : EngineCmd) (idx : List Nat) (r : Nat) : Nat :=
  (cmd.a + BitVec.ofNat 64 (idx.getD r 0 * 2 ^ pkXShift cmd.packet)).toNat

/-- The value of an element of a run of 16-element blocks with their scales, before any tensor scale: none for a malformed scale (R74, R81). -/
def scaledElem (c : Nat) (bs : List Byte) (n : Nat) : Option Num :=
  match scaleValue (bs.getD (scaleOffset c n) 0).toNat with
  | none => none
  | some .nan => some .nan
  | some sv => some (Num.mul sv (elemValue c (packedElem (elemBits c) ((bs.drop (blockOffset c n)).take (blockBytes c)) (n % 16))))

/-- Element n of the bytes of an operand. -/
def elemAt (c : Nat) (bs : List Byte) (n : Nat) : Option Num :=
  if isScaled c then scaledElem c bs n else some (elemValue c (packedElem (elemBits c) bs n))

/-! ## Groups (R86) -/

/-- The sum of a group of products, aligned to the exponent of the largest, bits below 2^(e_max - 33) truncated towards zero; and whether any were. -/
def groupSum (ps : List Num) : Num × Bool :=
  if ps.any Num.isNan then (.nan, false)
  else if ps.any (fun x => x.isInf && x.neg) && ps.any (fun x => x.isInf && !x.neg) then (.nan, false)
  else match ps.find? Num.isInf with
  | some i => (i, false)
  | none =>
    let es := ps.filterMap (fun x => match x with | .fin _ m e => if m = 0 then none else some (magExp m e) | _ => none)
    match es with
    | [] => (.zero, false)
    | e :: t =>
      let emax := t.foldl (fun a b => if a < b then b else a) e
      let lo := emax - 33
      let part (x : Num) : Int × Bool := match x with
        | .fin n m e =>
          let v := m * 2 ^ (e - lo).toNat / 2 ^ (lo - e).toNat
          (if n then -(v : Int) else v, decide (v * 2 ^ (lo - e).toNat ≠ m * 2 ^ (e - lo).toNat))
        | _ => (0, false)
      let total : Int := (ps.map (fun x => (part x).1)).foldl (· + ·) 0
      (.fin (decide (total < 0)) total.natAbs lo, ps.any (fun x => (part x).2))

/-- EXC_FLAGS bits (R154). -/
def flagBit (n : Nat) : BitVec 8 := BitVec.ofNat 8 (2 ^ n)
def meNan : BitVec 8 := flagBit 7
def meOverflow : BitVec 8 := flagBit 6
def meTrunc : BitVec 8 := flagBit 5
def veInvalid : BitVec 8 := flagBit 4
def veOverflow : BitVec 8 := flagBit 3
def cvtBits (f : CvtFlags) : BitVec 8 :=
  (if f.sat then flagBit 2 else 0) ||| (if f.nanZero then flagBit 1 else 0) ||| (if f.zero then flagBit 0 else 0)

/-- Overflow of a rounding: an infinity from a finite value (R88). -/
def overflowed (x : Num) (r : Word32) : BitVec 8 := if !x.isNan && !x.isInf && (f32 r).isInf then meOverflow else 0

/-- One group added to a floating-point accumulator element (R88). -/
def accStep (v : Word32) (ps : List Num) : Word32 × BitVec 8 :=
  let g := groupSum ps
  let gr := toF32 g.1
  let sum := Num.add (f32 v) (f32 gr)
  let r := toF32 sum
  (r, (if g.1.isNan || (sum.isNan && !(f32 v).isNan) then meNan else 0) ||| (if g.2 then meTrunc else 0) |||
      overflowed g.1 gr ||| overflowed sum r)

/-- One group added to an integer accumulator element, saturating (R89). -/
def accStepInt (v : Word32) (ps : List Num) : Word32 × BitVec 8 :=
  let g := ps.foldl (fun a x => a + (match x with | .fin n m e => scaled n m e 0 | _ => 0)) 0
  let t := v.toInt + g
  if t < -(2 ^ 31 : Int) then (0x80000000, meOverflow)
  else if (2 ^ 31 : Int) ≤ t then (0x7FFFFFFF, meOverflow)
  else (BitVec.ofInt 32 t, 0)

/-! ## mma (R134 to R139) -/

/-- The elements of a panel from its bytes: 1,024 values, row after row. -/
def panelOf (c : Nat) (bs : List Byte) : List (Option Num) := (List.range 1024).map (elemAt c bs)

/-- Row r of a panel: 32 values, or none when a scale byte of the row is malformed. -/
def panelRow (t : List (Option Num)) (r : Nat) : Option (List Num) := ((t.drop (32 * r)).take 32).mapM id

/-- The faults of the first beat: ACC_STATE, and for a gathered A the rows' range and alignment (R113, R136, R138). -/
def Core.meBegin (x : Core) (cmd : EngineCmd) (idx : List Nat) : Option FaultCode :=
  let p := cmd.packet
  let int := ((mePair (pkFmtA p) (pkFmtB p)).getD (2, false)).2
  let rows := if pkAgm p then (List.range 32).map (rowAddr cmd idx) else []
  let len := 32 * mmaPanels p * elemBits (pkFmtA p) / 8
  let held := match x.acc with
    | some t => decide (t.isInt = int)
    | none => false
  lowest (whenC (rows.any (fun a => scratchSize < a + len)) Code.operandRange ++
    whenC (mmaAcc p && !held) Code.accState ++ whenC (rows.any (fun a => a % 64 ≠ 0)) Code.operandAlign)

/-- Whether the panel pair read last holds a malformed scale for an element in use (R135, R139). -/
def Running.badPanel (r : Running) : Bool :=
  let p := r.cmd.packet
  let a := panelOf (pkFmtA p) r.a
  let b := panelOf (pkFmtB p) r.b
  (List.range (mmaRows p)).any (fun n => (panelRow a n).isNone) || (List.range (mmaCols p)).any (fun n => (panelRow b n).isNone)

/-- The accumulator that an mma starts from (R136). -/
def Core.accStart (x : Core) (p : BitVec 128) : List Word32 :=
  match x.acc with
  | some t => if mmaAcc p then t.data else List.replicate 1024 0
  | none => List.replicate 1024 0

/-- The accumulator after the panel pair read last, and the flags of its elements in use (R86 to R89, R135). -/
def Running.panelStep (r : Running) (acc : List Word32) : Tile × BitVec 8 :=
  let p := r.cmd.packet
  let int := ((mePair (pkFmtA p) (pkFmtB p)).getD (2, false)).2
  let a := panelOf (pkFmtA p) r.a
  let b := panelOf (pkFmtB p) r.b
  let q := (List.range 1024).map (fun n =>
    let v := acc.getD n 0
    if mmaRows p ≤ n / 32 ∨ mmaCols p ≤ n % 32 then (v, (0 : BitVec 8)) else
    let ps := List.zipWith Num.mul ((panelRow a (n / 32)).getD []) ((panelRow b (n % 32)).getD [])
    if int then accStepInt v ps else accStep v ps)
  (⟨int, q.map (fun e => e.1)⟩, q.foldl (fun f e => f ||| e.2) 0)

/-- The tile as it leaves the accumulator: tensor scales, then masked elements +0 (R88, R135, R137). -/
def Core.leave (x : Core) (p : BitVec 128) (t : Tile) : Tile × BitVec 8 :=
  let ts := Num.mul (f32 x.scaleA) (f32 x.scaleB)
  let tsr := toF32 ts
  let r := t.data.mapIdx (fun n v =>
    if mmaRows p ≤ n / 32 ∨ mmaCols p ≤ n % 32 then ((0 : Word32), (0 : BitVec 8))
    else if mmaTsc p then
      let m := Num.mul (f32 v) (f32 tsr)
      let q := toF32 m
      (q, overflowed ts tsr ||| overflowed m q ||| (if m.isNan && !(f32 v).isNan then meNan else 0))
    else (v, 0))
  (⟨t.isInt, r.map (fun e => e.1)⟩, r.foldl (fun f e => f ||| e.2) 0)

/-- A tile of free values: the accumulator after a faulted mma (R139). -/
def Chip.freeTile (s : Chip) (isInt : Bool) : Tile × Chip :=
  (⟨isInt, (List.range 1024).map (fun i => Config.freeBits 32 (s.free + i))⟩, { s with free := s.free + 1024 })

/-- An ME command's running record on a core. -/
def Core.setMe (x : Core) (r : Running) : Core := { x with me := { x.me with running := some r } }

/-- Whether a panel pair ends with the next beat after `taken` beats (R133); the table of R133 is doubled in mePair. -/
def panelEnds (p : BitVec 128) (taken : Nat) : Bool :=
  let pair := ((mePair (pkFmtA p) (pkFmtB p)).getD (2, false)).1
  let j := taken - (if pkAgm p then 1 else 0)
  !(pkAgm p && taken = 0) && decide ((j + 1) * pair % 64 = 0)

/-- The accesses of a panel pair: the table's beats are those whose number in the panel pair is a multiple of 4, and each reads its share of a panel; a gathered A reads half a row or a row in every beat (R129). -/
def panelShare (p : BitVec 128) (c : Nat) : Nat := panelBytes c * ((mePair (pkFmtA p) (pkFmtB p)).getD (2, false)).1 / 16

/-- The beats an mma has taken since its panel pair began, and that panel pair; none outside the pairs. -/
def panelBeat (p : BitVec 128) (taken : Nat) : Option (Nat × Nat) :=
  let pair := ((mePair (pkFmtA p) (pkFmtB p)).getD (2, false)).1
  let j := taken - (if pkAgm p then 1 else 0)
  if (pkAgm p ∧ taken = 0) ∨ mmaPanels p ≤ j * pair / 64 then none else some (j * pair % 64 / pair, j * pair / 64)

/-- Read what a beat of a panel pair reads into the running record (R113, R129). [log 178 DEDUCED] -/
def Chip.readShare (s : Chip) (k : CoreId) (crowd : Bool) (busy : List (Nat × Nat)) (r : Running) (j i : Nat) : Chip × Running :=
  let p := r.cmd.packet
  let pair := ((mePair (pkFmtA p) (pkFmtB p)).getD (2, false)).1
  let share (c base : Nat) (s : Chip) : Chip × List Byte :=
    if j % 4 = 0 then s.engineRead k crowd busy (base + i * panelBytes c + j / 4 * panelShare p c) (panelShare p c) else (s, [])
  let a : Chip × List Byte :=
    if pkAgm p then
      let n := elemBits (pkFmtA p) * 2 * pair
      s.engineRead k crowd busy (rowAddr r.cmd r.idx (j * pair / 2) + 4 * i * elemBits (pkFmtA p) + j * pair % 2 * n) n
    else share (pkFmtA p) r.cmd.a.toNat s
  let b := share (pkFmtB p) r.cmd.b.toNat a.1
  (b.1, if j = 0 then { r with a := a.2, b := b.2 } else { r with a := r.a ++ a.2, b := r.b ++ b.2 })

/-- Read panel pair i, whole, into the running record. -/
def Chip.readPanels (s : Chip) (k : CoreId) (crowd : Bool) (busy : List (Nat × Nat)) (r : Running) (i : Nat) : Chip × Running :=
  let p := r.cmd.packet
  let w := elemBits (pkFmtA p) / 8
  let a : Chip × List Byte :=
    if pkAgm p then
      (List.range 32).foldl (fun (acc : Chip × List Byte) row =>
        let q := acc.1.engineRead k crowd busy (rowAddr r.cmd r.idx row + 32 * i * w) (32 * w)
        (q.1, acc.2 ++ q.2)) (s, [])
    else s.engineRead k crowd busy (r.cmd.a.toNat + i * panelBytes (pkFmtA p)) (panelBytes (pkFmtA p))
  let b := a.1.engineRead k crowd busy (r.cmd.b.toNat + i * panelBytes (pkFmtB p)) (panelBytes (pkFmtB p))
  (b.1, { r with a := a.2, b := b.2 })

/-- The last beat of an mma: the tile to push when its HOLD is 0 (R136, R137, R140). -/
def Chip.mmaEnd (s : Chip) (k : CoreId) (r : Running) : Chip × Option Tile :=
  let p := r.cmd.packet
  if mmaHold p then (s, none) else
  match (s.core k).acc with
  | none => (s, none)
  | some t =>
    let q := (s.core k).leave p t
    (s.updCore k (fun x => { x with acc := none, flags := x.flags ||| q.2 }), some q.1)

/-- mscale (R137). -/
def Chip.mscaleStep (s : Chip) (k : CoreId) (crowd : Bool) (busy : List (Nat × Nat)) (r : Running) : Chip × Option Tile × StepEnd :=
  let q := s.engineRead k crowd busy r.cmd.a.toNat 8
  let a : Word32 := BitVec.ofNat 32 (leNat (q.2.take 4))
  let b : Word32 := BitVec.ofNat 32 (leNat (q.2.drop 4))
  if tensorScaleOk a && tensorScaleOk b then (q.1.updCore k (fun x => { x with scaleA := a, scaleB := b }), none, .finished)
  else (q.1, none, .faulted Code.tensorScale)

/-- An mma that faults while running: the accumulator is undefined (R139). -/
def Chip.mmaSpoil (s : Chip) (k : CoreId) (p : BitVec 128) (c : FaultCode) : Chip × Option Tile × StepEnd :=
  let t := s.freeTile ((mePair (pkFmtA p) (pkFmtB p)).getD (2, false)).2
  (t.2.updCore k (fun x => { x with acc := some t.1 }), none, .faulted c)

/-- One beat of a running mma (R31, R133, R136 to R139). [log 173 DEDUCED] -/
def Chip.mmaStep (s : Chip) (k : CoreId) (crowd : Bool) (busy : List (Nat × Nat)) (r : Running) : Chip × Option Tile × StepEnd :=
  let p := r.cmd.packet
  let i := if r.taken = 0 ∧ pkAgm p then s.readIndices k crowd busy r.cmd 32 else (s, r.idx)
  let s := i.1
  let r := { r with idx := i.2 }
  match (if r.taken = 0 then (s.core k).meBegin r.cmd r.idx else none) with
  | some c => s.mmaSpoil k p c
  | none =>
    let s := if r.taken = 0 then s.updCore k (fun x =>
      { x with acc := some ⟨((mePair (pkFmtA p) (pkFmtB p)).getD (2, false)).2, x.accStart p⟩ }) else s
    -- the block scales of a panel pair are checked in its first beat, ahead of its data (R139)
    let peek : Chip × Bool := match panelBeat p r.taken with
      | some (0, i) =>
        if isScaled (pkFmtA p) || isScaled (pkFmtB p) then
          let q := s.readPanels k false busy r i
          (q.1, q.2.badPanel)
        else (s, false)
      | _ => (s, false)
    let s := peek.1
    if peek.2 then s.mmaSpoil k p Code.scaleMalformed else
    let q : Chip × Running := match panelBeat p r.taken with
      | some (j, i) => s.readShare k crowd busy r j i
      | none => (s, r)
    let s := q.1
    let r := q.2
    let s := if panelEnds p r.taken then
        let e := r.panelStep (((s.core k).acc.map (fun t => t.data)).getD [])
        s.updCore k (fun x => { x with acc := some e.1, flags := x.flags ||| e.2 })
      else s
    if r.taken + 1 < r.len then (s.updCore k (fun x => x.setMe { r with taken := r.taken + 1 }), none, .going)
    else let e := s.mmaEnd k r; (e.1, e.2, .finished)

/-- One beat of the running ME command. -/
def Chip.meStep (s : Chip) (k : CoreId) (crowd : Bool) : Chip × Option Tile × StepEnd :=
  match (s.core k).me.running with
  | none => (s, none, .going)
  | some r =>
    let busy := (s.core k).veWrites ++ (s.core k).deWrites
    if pkOpcode r.cmd.packet = 1 then s.guarded k (fun s => s.mmaStep k crowd busy r) (fun c => s.mmaSpoil k r.cmd.packet c)
    else s.guarded k (fun s => s.mscaleStep k crowd busy r) (fun c => (s, none, .faulted c))

/-- Bank accesses of the running ME command in its next beat (R129). -/
def Core.meAccesses (x : Core) : Nat :=
  match x.me.running with
  | none => 0
  | some r =>
    let p := r.cmd.packet
    if pkOpcode p ≠ 1 then 1
    else if pkAgm p then (if r.taken = 0 then 1 else if (r.taken - 1) % 4 = 0 then 2 else 1)
    else if r.taken % 4 = 0 then 2 else 0

end Sys2Proof.Machine
end

