-- ==== Sys2Proof/Machine/Vector.lean ====
section
/-! DEFINITION. The vector engine's arithmetic (R144 to R153). -/

namespace Sys2Proof.Machine

/-- Chunk m of operand A as exact values; none for an element under a malformed scale (R113, R144, R147). -/
def Chip.veA (s : Chip) (k : CoreId) (crowd : Bool) (busy : List (Nat × Nat)) (r : Running) (m : Nat) : Chip × List (Option Num) :=
  let p := r.cmd.packet
  let c := pkFmtA p
  let n := chunkLen (veN p) m
  if veSrcTq p then
    match (s.core k).latched with
    | some (_, t) => (s, ((t.data.drop (64 * m)).take 64).map (fun w => some (if t.isInt then .ofInt w.toInt else f32 w)))
    | none => (s, [])
  else if isScaled c ∧ pkAgm p = false then
    let q := s.engineRead k crowd busy (r.cmd.a.toNat + 64 * m / 128 * stripeBytes c) (stripeBytes c)
    (q.1, (List.range n).map (fun i => elemAt c q.2 (64 * m % 128 + i)))
  else if isScaled c then
    let q := s.engineRead k crowd busy (rowAddr r.cmd r.idx (64 * m / 1024) + 64 * m % 1024 / 128 * stripeBytes c) (stripeBytes c)
    (q.1, (List.range n).map (fun i => elemAt c q.2 (64 * m % 128 + i)))
  else
    let at_ := if pkAgm p then rowAddr r.cmd r.idx m else r.cmd.a.toNat + 64 * m * elemBits c / 8
    let q := s.engineRead k crowd busy at_ (extent c n)
    (q.1, (List.range n).map (elemAt c q.2))

/-- The bytes of operand B for chunk m (R147): a chunk of its own, or what the first beat read. -/
def Chip.veB (s : Chip) (k : CoreId) (crowd : Bool) (busy : List (Nat × Nat)) (r : Running) (m : Nat) : Chip × List Byte :=
  let p := r.cmd.packet
  let w := elemBits (pkFmtB p) / 8
  if veReadsB p && veBMode p = 0 then s.engineRead k crowd busy (r.cmd.b.toNat + 64 * m * w) (chunkLen (veN p) m * w) else (s, r.b)

/-- Element i of a chunk of B under its mode. -/
def bElem (p : BitVec 128) (bs : List Byte) (i : Nat) : Num :=
  let w := elemBits (pkFmtB p) / 8
  let i := if veBMode p = 2 then 0 else i
  elemValue (pkFmtB p) (leNat ((bs.drop (i * w)).take w))

/-- What the first beat reads of B: a chunk, one element, or the tensor scales of a conversion (R145, R147). -/
def Chip.readB (s : Chip) (k : CoreId) (crowd : Bool) (busy : List (Nat × Nat)) (r : Running) : Chip × List Byte :=
  let p := r.cmd.packet
  if veReadsB p = false ∨ veBMode p = 0 then (s, []) else
  let n := if veKind (pkOpcode p) = some .cvt then (if isScaled (pkFmtA p) && isScaled (pkFmtD p) then 8 else 4)
    else if veBMode p = 1 then 64 * (elemBits (pkFmtB p) / 8) else elemBits (pkFmtB p) / 8
  s.engineRead k crowd busy r.cmd.b.toNat n

/-- A word of the tensor scales read. -/
def scaleWord (bs : List Byte) (o : Nat) : Word32 := BitVec.ofNat 32 (leNat ((bs.drop o).take 4))

/-- The first beat's faults: the tile queue, the tensor scales, gathered rows (R113, R114, R142, R144, R145). -/
def Core.veBegin (x : Core) (r : Running) : Option FaultCode :=
  let p := r.cmd.packet
  let rows := if pkAgm p ∧ veReadsA p then (List.range (gatherRows p)).map (fun n => (rowAddr r.cmd r.idx n, gatheredRow p n)) else []
  let tq := if veSrcTq p then
      (match x.tiles[veTqIdx p]? with
       | none => [Code.tqEmpty]
       | some t => whenC (t.isInt ≠ decide (pkFmtA p = 11)) Code.formatPair)
    else []
  let two := isScaled (pkFmtA p) && isScaled (pkFmtD p)
  let ts := whenC (veKind (pkOpcode p) = some .cvt && (isScaled (pkFmtA p) || isScaled (pkFmtD p)) &&
    (!tensorScaleOk (scaleWord r.b 0) || (two && !tensorScaleOk (scaleWord r.b 4)))) Code.tensorScale
  lowest (whenC (rows.any (fun a => scratchSize < a.1 + a.2.1)) Code.operandRange ++
    whenC (rows.any (fun a => a.1 % a.2.2 ≠ 0)) Code.operandAlign ++ tq ++ ts)

/-- Latch the tile a command reads (R142). -/
def Core.latch (x : Core) (p : BitVec 128) : Core :=
  if veSrcTq p = false then x else { x with latched := (x.tiles[veTqIdx p]?).map (fun t => (veTqIdx p, t)) }

/-- Flags of a VE result from its inputs (R154). -/
def veFlags (inputs : List Num) (r : Num) : BitVec 8 :=
  if r.isNan && inputs.all (fun x => !x.isNan) then veInvalid
  else if r.isInf && inputs.all (fun x => !x.isNan && !x.isInf) then veOverflow else 0

/-- The exact result of an arithmetic command (R145). -/
def veExact (op : Nat) (a b d : Num) : Num :=
  match op with
  | 1 => Num.add a b
  | 2 => Num.add a b.negate
  | 3 => Num.mul a b
  | 4 => Num.add (Num.mul a b) d
  | 5 => Num.max a b
  | _ => Num.min a b

/-- The FP32 result of a function command (R90, R145). -/
def veFunc (op : Nat) (x : Num) : Word32 :=
  let w := toF32 x
  match op with
  | 8 => exp2Of w
  | 9 => log2Of w
  | 10 => rcpOf w
  | 11 => rsqrtOf w
  | 12 => tanhOf w
  | _ => geluOf w

/-- Write bytes in a beat: those another running command touches become free, and in a crowded beat the lines do (R107, R130). -/
def Chip.engineWrite (s : Chip) (k : CoreId) (crowd : Bool) (hazard : List (Nat × Nat)) (off : Nat) (bs : List Byte) : Chip :=
  if crowd then s.freeFill k (off / 256 * 256) ((off % 256 + bs.length + 255) / 256 * 256) else s.writeFree k hazard off bs

/-- Write the elements of an unscaled destination, keeping the bits of those that are none. -/
def Chip.writeElems (s : Chip) (k : CoreId) (crowd : Bool) (hazard : List (Nat × Nat)) (c off : Nat) (xs : List (Option Nat)) : Chip :=
  let w := elemBits c
  let bytes := (xs.length * w + 7) / 8
  let old := s.scratchRead k off bytes
  let all := xs ++ (if w = 4 ∧ xs.length % 2 = 1 then [none] else [])
  if xs.all Option.isNone then s else
  s.engineWrite k crowd hazard off (packElems w (all.mapIdx (fun i x => x.getD (packedElem w old i))))

/-- An element's result: bits to write (none when masked) and flags. -/
abbrev LaneResult := Option Nat × BitVec 8

/-- Set flags of a core. -/
def Chip.orFlags (s : Chip) (k : CoreId) (f : BitVec 8) : Chip := s.updCore k (fun x => { x with flags := x.flags ||| f })

/-- What a VE command may not write undisturbed: bytes of its hazards, and bytes the DE may touch (R177). -/
def Core.veHazard (x : Core) (r : Running) : List (Nat × Nat) := r.hazard ++ x.deTouches

/-- Chunk m of an arithmetic or function command (R144, R145, R148). -/
def Chip.veArith (s : Chip) (k : CoreId) (crowd : Bool) (busy : List (Nat × Nat)) (r : Running) (m : Nat) : Chip :=
  let p := r.cmd.packet
  let fd := pkFmtD p
  let wd := elemBits fd / 8
  let n := chunkLen (veN p) m
  let off := r.cmd.d.toNat + 64 * m * wd
  let qa := s.veA k crowd busy r m
  let qb := qa.1.veB k crowd busy r m
  let qd := if pkOpcode p = 4 then qb.1.engineRead k crowd busy off (n * wd) else (qb.1, [])
  let s := qd.1
  let x := s.core k
  let lane (i : Nat) (a : Num) : LaneResult :=
    if x.masked p (64 * m + i) then (none, 0) else
    if veKind (pkOpcode p) = some .func then
      let v := f32 (veFunc (pkOpcode p) a)
      let q := narrowTo fd .nearest v .one
      (some q.1, veFlags [a] v ||| cvtBits q.2)
    else
      let b := bElem p qb.2 i
      let d := if pkOpcode p = 4 then elemValue fd (leNat ((qd.2.drop (i * wd)).take wd)) else .zero
      let v := veExact (pkOpcode p) a b d
      let q := narrowTo fd .nearest v .one
      (some q.1, veFlags [a, b, d] v ||| cvtBits q.2)
  let rs := qa.2.mapIdx (fun i a => lane i (a.getD .nan))
  (s.writeElems k crowd (x.veHazard r) fd off (rs.map (fun e => e.1))).orFlags k (rs.foldl (fun f e => f ||| e.2) 0)

/-- How element i rounds. -/
def roundingOf (p : BitVec 128) (draws : List Nat) (i : Nat) : Rounding := if veSr p then .stochastic (draws.getD i 0) else .nearest

/-- One block of a scaled destination: the scale byte and element bits (R82, R148); inputs are none where masked. -/
def writeBlock (c : Nat) (ts : Num) (xs : List (Option Num)) (modes : Nat → Rounding) : Option (Nat × List (Option Nat) × BitVec 8) :=
  let live := xs.filterMap id
  if live = [] then none else
  let sc := chooseScale c ts live
  match scaleValue sc with
  | some (.fin n m e) =>
    let y := Num.mul ts (.fin n m e)
    let es := xs.mapIdx (fun i x => match x with
      | none => ((none : Option Nat), (0 : BitVec 8))
      | some v => if m = 0 then (some 0, 0) else let q := narrowTo c (modes i) v y; (some q.1, cvtBits q.2))
    some (sc, es.map (fun e => e.1), es.foldl (fun f e => f ||| e.2) 0)
  | _ => some (sc, xs.map (fun x => x.map (fun _ => 0)), 0)

/-- Replace bytes of one block and its scale in a scaled destination. -/
def Chip.putBlock (s : Chip) (k : CoreId) (crowd : Bool) (hazard : List (Nat × Nat)) (c base n0 sc : Nat) (es : List (Option Nat)) : Chip :=
  let s := s.engineWrite k crowd hazard (base + scaleOffset c n0) [BitVec.ofNat 8 sc]
  let off := base + blockOffset c n0
  let w := elemBits c
  let old := s.scratchRead k off (blockBytes c)
  s.engineWrite k crowd hazard off (packElems w (es.mapIdx (fun i x => x.getD (packedElem w old i))))

/-- A converted input: the scaled source's element times the tensor scale with one rounding (R145); none where masked. -/
def cvtInput (fa : Nat) (ts : Num) (masked : Bool) (a : Option Num) : Option Num × BitVec 8 :=
  if masked then (none, 0) else
  match a with
  | none => (none, 0)
  | some v => if isScaled fa then let q := fp32.narrow .nearest (Num.mul v ts) .one; (some (fp32.value q.1), cvtBits q.2) else (some v, 0)

/-- Bytes of a range that are in none of the kept ones become free values: what a command that faults while running leaves of its destination (R94, R151). -/
def Chip.freeRest (s : Chip) (k : CoreId) (range kept : List (Nat × Nat)) : Chip :=
  range.foldl (fun s e => (List.range e.2).foldl (fun s i => if inRanges kept (e.1 + i) then s else s.freeFill k (e.1 + i) 1) s) s

/-- Chunk m of vcvt (R145, R148): its fault when an unmasked element lies under a malformed scale, in its beat; what earlier chunks wrote stays (R94, R151). -/
def Chip.veCvt (s : Chip) (k : CoreId) (crowd : Bool) (busy : List (Nat × Nat)) (r : Running) (m : Nat) : Chip × StepEnd :=
  let p := r.cmd.packet
  let fa := pkFmtA p
  let fd := pkFmtD p
  let qa := s.veA k crowd busy r m
  let s := qa.1
  let x := s.core k
  let tsA := if isScaled fa then f32 (scaleWord r.b 0) else .one
  let tsD := if isScaled fd then f32 (scaleWord r.b (if isScaled fa then 4 else 0)) else .one
  let dr := if veSr p then lfsrDraws 64 x.lfsr else (x.lfsr, [])
  let n := qa.2.length
  let s := s.updCore k (fun y => { y with lfsr := dr.1 })
  if (List.range n).any (fun i => (qa.2.getD i none).isNone && !x.masked p (64 * m + i)) then
    (s.freeRest k (veRange r.cmd) (x.writtenBefore r.cmd m), .faulted Code.scaleMalformed)
  else
  let input (i : Nat) : Option Num × BitVec 8 := cvtInput fa tsA (x.masked p (64 * m + i)) (qa.2.getD i none)
  if isScaled fd then
    ((List.range 4).foldl (fun s b =>
      let ins := (List.range 16).map (fun i => input (16 * b + i))
      match writeBlock fd tsD (ins.map (fun e => e.1)) (fun i => roundingOf p dr.2 (16 * b + i)) with
      | none => s
      | some (sc, es, f) =>
        (s.putBlock k crowd (x.veHazard r) fd r.cmd.d.toNat (64 * m + 16 * b) sc es).orFlags k (f ||| ins.foldl (fun f e => f ||| e.2) 0)) s, .going)
  else
    let rs : List LaneResult := (List.range n).map (fun i =>
      match input i with
      | (none, f) => (none, f)
      | (some v, f) => let q := narrowTo fd (roundingOf p dr.2 i) v .one; (some q.1, f ||| cvtBits q.2))
    ((s.writeElems k crowd (x.veHazard r) fd (r.cmd.d.toNat + 64 * m * elemBits fd / 8) (rs.map (fun e => e.1))).orFlags k (rs.foldl (fun f e => f ||| e.2) 0), .going)

/-- A pairwise tree in lane order (R149); fuel is the depth. -/
def treeFold (f : Word32 × BitVec 8 → Word32 × BitVec 8 → Word32 × BitVec 8) : Nat → List (Word32 × BitVec 8) → List (Word32 × BitVec 8)
  | 0, l => l
  | d + 1, l =>
    let rec pair : List (Word32 × BitVec 8) → List (Word32 × BitVec 8)
      | a :: b :: t => f a b :: pair t
      | l => l
    treeFold f d (pair l)

/-- One node of a reduction: the sum narrowed to FP32 by R83, which saturates a finite sum beyond the range and sets CVT_SAT, or the maximum. [log 36 DEDUCED] -/
def redNode (isMax : Bool) (a b : Word32 × BitVec 8) : Word32 × BitVec 8 :=
  let x := f32 a.1
  let y := f32 b.1
  let e := if isMax then Num.max x y else Num.add x y
  let q := fp32.narrow .nearest e .one
  let r : Word32 := BitVec.ofNat 32 q.1
  (r, a.2 ||| b.2 ||| cvtBits q.2 ||| veFlags [x, y] (f32 r))

/-- Chunk m of vredsum and vredmax: the results of its groups, or of the whole chunk when a group spans chunks (R148, R149); answers them and the flags. -/
def Chip.veReduce (s : Chip) (k : CoreId) (crowd : Bool) (busy : List (Nat × Nat)) (r : Running) (m : Nat) : Chip × List Word32 :=
  let p := r.cmd.packet
  let isMax := decide (pkOpcode p = 0x12)
  let g := Nat.min 64 (2 ^ veGLog2 p)
  let qa := s.veA k crowd busy r m
  let x := qa.1.core k
  let leaf (i : Nat) : Word32 × BitVec 8 :=
    if x.masked p (64 * m + i) then (if isMax then 0xFF800000 else 0, 0)
    else let q := fp32.narrow .nearest ((qa.2.getD i none).getD .nan) .one; (BitVec.ofNat 32 q.1, cvtBits q.2)
  let rs := (List.range (qa.2.length / g)).map (fun j => (treeFold (redNode isMax) 6 ((List.range g).map (fun i => leaf (j * g + i)))).headD (0, 0))
  (qa.1.orFlags k (rs.foldl (fun f e => f ||| e.2) 0), rs.map (fun e => e.1))

/-- The results of a reduction from its chunk results: groups of more than 64 combine in increasing order (R149). -/
def reduceResults (p : BitVec 128) (part : List Word32) : List (Word32 × BitVec 8) :=
  let isMax := decide (pkOpcode p = 0x12)
  let per := 2 ^ veGLog2 p / 64
  if per ≤ 1 then part.map (fun w => (w, 0)) else
  (List.range (part.length / per)).map (fun j =>
    ((part.drop (j * per + 1)).take (per - 1)).foldl (fun a w => redNode isMax a (w, 0)) (part.getD (j * per) 0, 0))

/-- vmask.cmp (R145, R146). -/
def veCompare (cond : Nat) (a b : Num) : Bool :=
  match cond with
  | 0 => Num.lt a b
  | 1 => Num.lt a b || Num.eq a b
  | 2 => Num.eq a b
  | 3 => !Num.eq a b
  | _ => a.isNan || b.isNan

def boolsToNat : List Bool → Nat
  | [] => 0
  | b :: t => (if b then 1 else 0) + 2 * boolsToNat t

/-- Where operand A of a command of one data beat lies: gathered, its only row (R113). -/
def firstRow (r : Running) : Nat := if pkAgm r.cmd.packet then rowAddr r.cmd r.idx 0 else r.cmd.a.toNat

/-- A VE command of one data beat: masks, the seed, the flags word (R145, R152, R153). -/
def Chip.veSingle (s : Chip) (k : CoreId) (crowd : Bool) (busy : List (Nat × Nat)) (r : Running) (kind : VeKind) : Chip :=
  let p := r.cmd.packet
  match kind with
  | .maskCmp =>
    let qa := s.veA k crowd busy r 0
    let qb := qa.1.veB k crowd busy r 0
    let bits := (List.range 64).map (fun i => veCompare (veCond p) ((qa.2.getD i none).getD .nan) (bElem p qb.2 i))
    qb.1.updCore k (fun x => { x with vm := Table.write x.vm (veMreg p) (BitVec.ofNat 64 (boolsToNat bits)) })
  | .maskLd =>
    let q := s.engineRead k crowd busy (firstRow r) 8
    q.1.updCore k (fun x => { x with vm := Table.write x.vm (veMreg p) (BitVec.ofNat 64 (leNat q.2)) })
  | .seed =>
    let q := s.engineRead k crowd busy (firstRow r) 4
    let v : Word32 := BitVec.ofNat 32 (leNat q.2)
    q.1.updCore k (fun x => { x with lfsr := seedOf (if p.getLsbD 0 then v ^^^ BitVec.ofNat 32 k.idx.val else v) })
  | _ =>
    let s := s.engineWrite k crowd ((s.core k).veHazard r) r.cmd.d.toNat (leBytes 4 (s.core k).flags.toNat)
    if p.getLsbD 0 then s.updCore k (fun x => { x with flags := 0 }) else s

/-- The chunk a VE command of a cost works in the beat after `taken` beats: the last beat of the chunk's c beats. -/
def chunkDue (p : BitVec 128) (taken : Nat) : Option Nat :=
  let c := veCost (pkOpcode p)
  let j := taken - (if pkAgm p then 1 else 0)
  if (pkAgm p ∧ taken = 0) ∨ (j + 1) % c ≠ 0 ∨ (veN p + 63) / 64 ≤ j / c then none else some (j / c)

/-- The work of one beat of a VE command. -/
def Chip.veWork (s : Chip) (k : CoreId) (crowd : Bool) (r : Running) : Chip × Running × StepEnd :=
  let p := r.cmd.packet
  let busy (m : Nat) := (s.core k).deWrites ++ (s.core k).writtenBefore r.cmd m
  match veKind (pkOpcode p), chunkDue p r.taken with
  | some .arith2, some m | some .func, some m => (s.veArith k crowd (busy m) r m, r, .going)
  | some .cvt, some m => let q := s.veCvt k crowd (busy m) r m; (q.1, r, q.2)
  | some .reduce, some m => let q := s.veReduce k crowd (busy m) r m; (q.1, { r with part := r.part ++ q.2 }, .going)
  | some kind, some m =>
    if (kind = .maskCmp ∨ kind = .maskLd ∨ kind = .seed ∨ kind = .flagsOp) ∧ m = 0 then (s.veSingle k crowd (busy 0) r kind, r, .going) else (s, r, .going)
  | _, _ => (s, r, .going)

/-- The last beat of a reduction writes its results (R149). -/
def Chip.veFlush (s : Chip) (k : CoreId) (crowd : Bool) (r : Running) : Chip :=
  let p := r.cmd.packet
  if veKind (pkOpcode p) ≠ some .reduce then s else
  let rs := reduceResults p r.part
  (s.engineWrite k crowd ((s.core k).veHazard r) r.cmd.d.toNat (rs.flatMap (fun e => leBytes 4 e.1.toNat))).orFlags k (rs.foldl (fun f e => f ||| e.2) 0)

/-- One beat of a VE command (R31, R142 to R153). -/
def Chip.veRun (s : Chip) (k : CoreId) (crowd : Bool) (r : Running) : Chip × StepEnd :=
  let p := r.cmd.packet
  let busy := (s.core k).deWrites
  let i := if r.taken = 0 ∧ pkAgm p ∧ veReadsA p then s.readIndices k crowd busy r.cmd (gatherRows p) else (s, r.idx)
  let b := if r.taken = 0 then i.1.readB k crowd busy r else (i.1, r.b)
  let s := b.1
  let r := { r with idx := i.2, b := b.2 }
  match (if r.taken = 0 then (s.core k).veBegin r else none) with
  | some c =>
    -- a fault of the index beat writes nothing (R114, R155); after another the destination is undefined (R151)
    (if c = Code.operandRange ∨ c = Code.operandAlign then s else s.freeRest k (veRange r.cmd) [], .faulted c)
  | none =>
    let s := if r.taken = 0 then s.updCore k (fun x => x.latch p) else s
    -- a chunk of several beats loses what any of them loses (R129, R130)
    let crowd := crowd || r.crowded
    let r := { r with crowded := crowd && (chunkDue p r.taken).isNone && !(pkAgm p && r.taken = 0) }
    match s.veWork k crowd r with
    | (s, _, .faulted c) => (s.updCore k (fun x => { x with latched := none }), .faulted c)
    | (s, r, _) =>
      if r.taken + 1 < r.len then
        (s.updCore k (fun x => { x with ve := { x.ve with running := some { r with taken := r.taken + 1 } } }), .going)
      else (s.veFlush k crowd r, .finished)

/-- One beat of the running VE command. -/
def Chip.veStep (s : Chip) (k : CoreId) (crowd : Bool) : Chip × StepEnd :=
  match (s.core k).ve.running with
  | none => (s, .going)
  | some r => s.guarded k (fun s => s.veRun k crowd r) (fun c => (s.updCore k (fun x => { x with latched := none }), .faulted c))

/-- Bank accesses of the running VE command in its next beat (R129). -/
def Core.veAccesses (x : Core) : Nat :=
  match x.ve.running with
  | none => 0
  | some r =>
    let p := r.cmd.packet
    match veKind (pkOpcode p) with
    | some .maskCmp => 2
    | some .maskLd | some .seed | some .flagsOp => 1
    | some _ =>
      (if veReadsA p then 1 else 0) + (if veReadsB p && (veBMode p = 0 || r.taken = 0) then 1 else 0) +
      (if pkOpcode p = 4 then 1 else 0) + 1
    | none => 0

/-- The tile leaves the TQ at the end of a popping command, and the latch is released (R140, R142). [log 172 DEDUCED] -/
def Core.popLatched (x : Core) (p : BitVec 128) : Core :=
  match x.latched with
  | none => x
  | some (i, _) => { x with latched := none, tiles := if vePop p then x.tiles.eraseIdx i else x.tiles }

end Sys2Proof.Machine
end

