-- ==== Sys2Proof/Machine/DataEngine.lean ====
section
/-! DEFINITION. The data engine: descriptors and their validation (R159 to R174, R180), page lists (R165, R244), the walk of a command, and its completion (R175 to R179). -/

namespace Sys2Proof.Machine

open Host

/-! ## Descriptors (R159, R160) -/

/-- A little-endian field of a descriptor at a byte offset. -/
def descU (d : BitVec 512) (off size : Nat) : Nat := (d.extractLsb' (8 * off) (8 * size)).toNat
def descI (d : BitVec 512) (off : Nat) : Int := (d.extractLsb' (8 * off) 32).toInt
def descBit (d : BitVec 512) (n : Nat) : Bool := d.getLsbD (480 + n)
def descCount (d : BitVec 512) (k : Nat) : Nat := descU d (0x28 + 2 * k) 2 + 1
def descRed (d : BitVec 512) : Nat := (d.extractLsb' 508 4).toNat
def descKvc (d : BitVec 512) : Bool := descBit d 26
def descHint (d : BitVec 512) : BitVec 2 := d.extractLsb' 504 2
def descScaleEn (d : BitVec 512) : Bool := descBit d 23
def descBound (d : BitVec 512) : Nat := (d.extractLsb' 501 2).toNat
def descCompact (d : BitVec 512) : Bool := descBit d 20
def descTscale (d : BitVec 512) : Word32 := d.extractLsb' 448 32

/-- What a data engine command is: its packet, its core and its descriptor. -/
structure DeCtx where
  core : CoreId
  packet : BitVec 128
  desc : BitVec 512
  staging : Nat
  idx : Option (List Nat) := none
  pages : List Nat := []

def DeCtx.t2d (c : DeCtx) : Bool := pkOpcode c.packet = 4
def DeCtx.fa (c : DeCtx) : Nat := pkFmtA c.packet
def DeCtx.fd (c : DeCtx) : Nat := pkFmtD c.packet
/-- The formats are equal and nothing is scaled: elements move bit by bit (R172). -/
def DeCtx.bitCopy (c : DeCtx) : Bool := decide (c.fa = c.fd) && !descScaleEn c.desc
/-- A scaled source expands into unscaled elements (R166). -/
def DeCtx.expands (c : DeCtx) : Bool := isScaled c.fa && !isScaled c.fd
/-- Bits of one unit of dimension 0 of a side: a Plate of a scaled format, else an element. -/
def unitBits (f : Nat) : Nat := if isScaled f then 8 * plateBytes f else elemBits f
/-- Units of dimension 0 on the destination side. -/
def DeCtx.dstCount0 (c : DeCtx) : Nat := descCount c.desc 0 * (if c.expands then 1024 else 1)

/-- One side of a copy: source false, destination true. -/
structure Side where
  sp : Bool
  list : Bool
  addr : Word64
  s1 : Int
  s2 : Int
  s3 : Int
  own : Bool

/-- The core offset of R163. -/
def DeCtx.coreOfs (c : DeCtx) : Nat :=
  let w := descU c.desc 0x36 2
  (c.core.idx.val % 32) * (w % 4096 * 2 ^ (w / 4096 + 6))

/-- Whether a global address lies in a core's own scratchpad window (R162). -/
def Chip.ownWindow (s : Chip) (k : CoreId) (a : Word64) : Bool :=
  s.isLocal a && (match place (localOf a) with
    | .scratch k' _ => decide (k' = k)
    | _ => false)

def Chip.deSide (s : Chip) (c : DeCtx) (dst : Bool) : Side :=
  let d := c.desc
  let sp := descBit d (if dst then 17 else 16)
  let list := descBit d (if dst then 19 else 18)
  let raw : Word64 := BitVec.ofNat 64 (descU d (if dst then 8 else 0) 8)
  let addr := if sp then raw else raw + BitVec.ofNat 64 c.coreOfs
  let o := if dst then 0x1C else 0x10
  { sp := sp, list := list, addr := addr, s1 := descI d o,
    s2 := if list then (descU d (o + 4) 4 : Int) else descI d (o + 4), s3 := descI d (o + 8),
    own := sp || (!list && s.ownWindow c.core addr) }

/-- The base of an own side as an offset in the scratchpad. -/
def Side.ownBase (x : Side) : Int := if x.sp then (x.addr.toNat : Int) else ((localOf x.addr % 2 ^ 23 : Nat) : Int)

/-- Byte distance of indices from a side's base: j1 is replaced by a gathered index on the source side (R161, R164). -/
def DeCtx.rel (c : DeCtx) (x : Side) (dst : Bool) (j1 i2 i3 : Nat) : Int :=
  let one : Int := if pkAgm c.packet ∧ dst = false then (((c.idx.getD []).getD j1 0 * 2 ^ pkXShift c.packet : Nat) : Int) else j1 * x.s1
  (if x.list then x.s2 else (i2 : Int) * x.s2) + one + (i3 : Int) * x.s3

/-- Extents of a side's dimensions 0 and 1 (R161): exchanged on the destination of dma.t2d. -/
def DeCtx.extents (c : DeCtx) (dst : Bool) : Nat × Nat :=
  if c.t2d && dst then (descCount c.desc 1, descCount c.desc 0)
  else if dst then (c.dstCount0, descCount c.desc 1) else (descCount c.desc 0, descCount c.desc 1)

/-- The lowest and one past the highest byte, relative to the base, that the full extents reach (R170). -/
def DeCtx.interval (c : DeCtx) (x : Side) (dst : Bool) : Int × Int :=
  let e := c.extents dst
  let lo (n : Nat) (st : Int) : Int := if st < 0 then ((n : Int) - 1) * st else 0
  let hi (n : Nat) (st : Int) : Int := if st < 0 then 0 else ((n : Int) - 1) * st
  let g := (c.idx.getD []).map (fun i => ((i * 2 ^ pkXShift c.packet : Nat) : Int))
  let gather : Bool := pkAgm c.packet && !dst
  let lo1 := if gather then g.foldl (fun a b => if b < a then b else a) (g.headD 0) else lo e.2 x.s1
  let hi1 := if gather then g.foldl (fun a b => if a < b then b else a) 0 else hi e.2 x.s1
  let n2 := descCount c.desc 2
  let n3 := descCount c.desc 3
  let w := unitBits (if dst then c.fd else c.fa)
  (lo1 + lo n2 x.s2 + lo n3 x.s3, hi1 + hi n2 x.s2 + hi n3 x.s3 + ((e.1 * w + 7) / 8 : Nat))

/-! ## Validation (R162 to R174, R180) -/

/-- Format pairs of R172. [log 42 DEDUCED] -/
def dePair (fa fd : Nat) (scaleEn : Bool) : Bool :=
  let fp (c : Nat) : Bool := c ≤ 4
  (fa = fd && !scaleEn) || (fp fa && fp fd) ||
  ((fa = 8 || fa = 10) && (fd = 0 || fd = 1 || fd = 2 || (!scaleEn && (fd = 11 || (fa = 10 && fd = 8))))) ||
  (fa = 11 && fd = 0) ||
  (isScaled fa && (fd = 0 || fd = 1 || fd = 2) && !scaleEn) || (isScaled fa && (fd = 0 || fd = 1 || fd = 2))

/-- In-place transpose, the only overlap a dma.t2d may have (R171). -/
def DeCtx.inPlace (c : DeCtx) (src dst : Side) : Bool :=
  let n := descCount c.desc 0
  c.t2d && decide (src.addr = dst.addr) && (src.sp == dst.sp) && decide (c.fa = c.fd) && decide (n = descCount c.desc 1) && decide (n % 32 = 0) &&
  decide (src.s1 = dst.s1) && decide (src.s2 = dst.s2) && decide (src.s3 = dst.s3) && !pkAgm c.packet && !src.list && !dst.list &&
  decide (descBound c.desc = 0) && decide (descRed c.desc = 0)

/-- Bytes of the staging area (R171). -/
def DeCtx.stagingBytes (c : DeCtx) : Nat := 2048 * elemBits c.fd / 8

/-- The stride test of a plain copy that moves down (R171). -/
def DeCtx.stridesPass (c : DeCtx) (src dst : Side) : Bool :=
  let s0 : Int := ((descCount c.desc 0 * unitBits c.fa / 8 : Nat) : Int)
  let next (prev : Int) (n : Nat) (a b : Int) : Option Int :=
    if n ≤ 1 then some prev else if a = b ∧ 0 ≤ a ∧ prev ≤ a then some ((n : Int) * a) else none
  match next s0 (descCount c.desc 1) src.s1 dst.s1 with
  | none => false
  | some t1 =>
    match next t1 (descCount c.desc 2) src.s2 dst.s2 with
    | none => false
    | some t2 => (next t2 (descCount c.desc 3) src.s3 dst.s3).isSome

/-- A side's interval as local addresses; none on another module (R170). -/
def Chip.sideInterval (s : Chip) (c : DeCtx) (x : Side) (dst : Bool) : Option (Int × Int) :=
  let i := c.interval x dst
  if x.own then let b := ((scratchAddr c.core 0 : Nat) : Int) + x.ownBase; some (b + i.1, b + i.2)
  else if s.isLocal x.addr then let b := ((localOf x.addr : Nat) : Int); some (b + i.1, b + i.2) else none

def meets (a b : Int × Int) : Bool := decide (a.1 < b.2) && decide (b.1 < a.2)

/-- Whether the two sides of a copy overlap (R170). -/
def Chip.sidesOverlap (s : Chip) (c : DeCtx) (src dst : Side) : Bool :=
  if src.list || dst.list then false else
  match s.sideInterval c src false, s.sideInterval c dst true with
  | some a, some b => meets a b
  | none, none => decide (moduleOf src.addr = moduleOf dst.addr) &&
      (let a := c.interval src false; let b := c.interval dst true
       let x := ((localOf src.addr : Nat) : Int); let y := ((localOf dst.addr : Nat) : Int)
       meets (x + a.1, x + a.2) (y + b.1, y + b.2))
  | _, _ => false

/-- Overlap faults (R171). -/
def Chip.overlapFaults (s : Chip) (c : DeCtx) (src dst : Side) : List FaultCode :=
  if pkAgm c.packet && c.idx.isNone then [] else
  if s.sidesOverlap c src dst = false then [] else
  if c.t2d then
    let st : Int × Int := (((scratchAddr c.core c.staging : Nat) : Int), ((scratchAddr c.core (c.staging + c.stagingBytes) : Nat) : Int))
    let stagingClear := match s.sideInterval c dst true with
      | some i => !meets st i
      | none => true
    if c.inPlace src dst then
      whenC (c.staging % 256 ≠ 0) Code.descAlign ++ whenC (!stagingClear) Code.transposeAlias ++
      whenC (scratchSize < c.staging + c.stagingBytes) Code.descField
    else [Code.transposeAlias]
  else if pkAgm c.packet then
    let idx := c.idx.getD []
    let sh : Int := ((2 ^ pkXShift c.packet : Nat) : Int)
    let ok : Bool := descCompact c.desc && decide (src.addr = dst.addr) && (src.sp == dst.sp) && decide (c.fa = c.fd) && decide (sh = src.s1) && decide (sh = dst.s1) &&
      (List.range (descCount c.desc 1)).all (fun i => decide (i ≤ idx.getD i 0)) &&
      decide (descCount c.desc 2 = 1) && decide (descCount c.desc 3 = 1) && decide (descBound c.desc = 0) && decide (descRed c.desc = 0)
    whenC (!ok) Code.transposeAlias
  else
    let below : Bool := match s.sideInterval c src false, s.sideInterval c dst true with
      | some a, some b => decide (b.1 - (c.interval dst true).1 ≤ a.1 - (c.interval src false).1)
      | _, _ => decide (dst.addr.toNat ≤ src.addr.toNat)
    whenC (!(c.bitCopy && below && decide (descRed c.desc = 0) && c.stridesPass src dst)) Code.overlapOrder

/-- Own-side range: [63:23] of an SP address, and the extents (R162, R180). -/
def DeCtx.ownBad (c : DeCtx) (x : Side) (dst : Bool) : Bool :=
  (x.sp && decide (2 ^ 23 ≤ x.addr.toNat)) ||
  (x.own && !x.list && !(pkAgm c.packet && !dst && c.idx.isNone) &&
    (let i := c.interval x dst; decide (x.ownBase + i.1 < 0) || decide ((scratchSize : Int) < x.ownBase + i.2)))

/-- A gathered row of Plates starts at a multiple of 64 too (R80, R166). -/
def DeCtx.gatherBad (c : DeCtx) : Bool := pkAgm c.packet && (c.idx.getD []).any (fun i => i * 2 ^ pkXShift c.packet % 64 ≠ 0)

/-- Plate rules of one side (R166). -/
def plateBad (x : Side) : Bool := x.addr.toNat % 64 ≠ 0 || x.s1 % 64 ≠ 0 || x.s2 % 64 ≠ 0 || x.s3 % 64 ≠ 0

/-- Every validation fault of a descriptor; the index vector's own are those of the index beat (R179, R180). [log 169 DEDUCED] -/
def Chip.deFaults (s : Chip) (c : DeCtx) (x : Nat) : List FaultCode :=
  let d := c.desc
  let src := s.deSide c false
  let dst := s.deSide c true
  let n0 := descCount d 0
  let n1 := descCount d 1
  let op := pkOpcode c.packet
  let red := descRed d
  let ctrlReserved := descBit d 27 || (d.extractLsb' 480 16).toNat ≠ 0
  let odd4 := (elemBits c.fa = 4 && !isScaled c.fa && n0 % 2 = 1) ||
    (elemBits c.fd = 4 && !isScaled c.fd && (if c.t2d then n1 else n0) % 2 = 1) || (c.t2d && c.fa = 10 && (n0 % 2 = 1 || n1 % 2 = 1))
  let widthOk (f : Nat) : Bool := f = 10 || elemBits f = 8 || elemBits f = 16 || elemBits f = 32 || elemBits f = 64
  let w := pkXw c.packet
  whenC (ctrlReserved || descBound d = 3 || 7 ≤ red || (src.list && dst.list) || (src.sp && src.list) || (dst.sp && dst.list) ||
    (pkAgm c.packet && src.list) || (descKvc d && (!dst.list || red ≠ 0)) || c.ownBad src false || c.ownBad dst true || odd4) Code.descField ++
  whenC ((op = 1 && !dst.own) || (op = 2 && !src.own)) Code.descSide ++
  s.overlapFaults c src dst ++
  whenC (pkAgm c.packet && (scratchSize < x + n1 * w || x % 256 + n1 * w > 256)) Code.indexRange ++
  whenC (red ≠ 0 && (dst.own || (match place (localOf dst.addr) with
    | .scratch _ _ => true
    | _ => false))) Code.opTarget ++
  whenC (!fmtValid c.fa || !fmtValid c.fd) Code.fmtInvalid ++
  whenC ((isScaled c.fa && c.fa ≠ c.fd || (!isScaled c.fa && descScaleEn d)) && !tensorScaleOk (descTscale d)) Code.tensorScale ++
  whenC ((isScaled c.fa && (plateBad src || c.gatherBad)) || (isScaled c.fd && plateBad dst)) Code.plateShape ++
  whenC (!dePair c.fa c.fd (descScaleEn d) || (descScaleEn d && (isInt c.fd || (isScaled c.fa && c.fa = c.fd))) ||
    (red ≠ 0 && !reduceAllowed red c.fd false) ||
    (c.t2d && !isScaled c.fa && (!widthOk c.fa || !widthOk c.fd || (c.fa = 10) != (c.fd = 10)))) Code.formatPair ++
  whenC (c.t2d && isScaled c.fa) Code.plateTranspose

/-! ## The elements of a row (R166, R167, R172, R173) -/

/-- In-bounds destination units of row i1 and, when the rest is filled, all of them (R167). [log 38 DEDUCED] -/
def DeCtx.inBounds (c : DeCtx) (i1 : Nat) : Nat :=
  let l0 := descU c.desc 0x30 2
  let l1 := descU c.desc 0x32 2
  let all := c.dstCount0
  let per := if c.expands then 1024 else 1
  let cap (l n : Nat) : Nat := if l = 0 then n else Nat.min l n
  if descBound c.desc = 0 then all
  else if descBound c.desc = 1 then (if l1 ≠ 0 ∧ l1 ≤ i1 then 0 else per * cap l0 (descCount c.desc 0))
  else if c.t2d then (if l0 ≠ 0 ∧ l0 ≤ i1 then 0 else cap l1 all)
  else (if l1 ≠ 0 ∧ l1 ≤ i1 then 0 else cap l0 all)

/-- Source bytes read for that many destination units. -/
def DeCtx.srcBytes (c : DeCtx) (n : Nat) : Nat :=
  if c.expands then (n + 1023) / 1024 * plateBytes c.fa else (n * unitBits c.fa + 7) / 8

/-- Bits of the elements that the writes of a row hold: whole bytes for a scaled copy. -/
def DeCtx.dstWidth (c : DeCtx) : Nat := if isScaled c.fd then 8 else elemBits c.fd

/-- FILL in the destination format (R167). -/
def DeCtx.fillBits (c : DeCtx) : Nat :=
  let f := descU c.desc 0x34 2
  if isScaled c.fa then 0
  else if isInt c.fd then (narrowTo c.fd .nearest (.ofInt (BitVec.ofNat 16 f).toInt) .one).1
  else (narrowTo c.fd .nearest (bf16.value f) .one).1

/-- Convert an element: one that is not scaled is widened to FP32 before it meets TSCALE (R173). -/
def DeCtx.convert (c : DeCtx) (v : Num) : Nat × BitVec 8 :=
  if isScaled c.fa || descScaleEn c.desc then
    let v := if isScaled c.fa then v else f32 (toF32 v)
    let q := fp32.narrow .nearest (Num.mul v (f32 (descTscale c.desc))) .one
    let r := narrowTo c.fd .nearest (fp32.value q.1) .one
    (r.1, cvtBits q.2 ||| cvtBits r.2)
  else let r := narrowTo c.fd .nearest v .one; (r.1, cvtBits r.2)

/-- The destination elements of a row from the bytes read, the flags, and whether a block scale is malformed. -/
def DeCtx.rowElems (c : DeCtx) (i1 : Nat) (bs : List Byte) : List Nat × BitVec 8 × Bool :=
  let n := c.inBounds i1
  let fill := if descBound c.desc = 1 then c.dstCount0 - n else 0
  if c.bitCopy then
    if isScaled c.fa then ((bs.map (fun b => b.toNat)) ++ List.replicate (fill * plateBytes c.fa) 0, 0, false)
    else ((List.range n).map (packedElem (elemBits c.fa) bs) ++ List.replicate fill c.fillBits, 0, false)
  else
    let es := (List.range n).map (elemAt c.fa bs)
    let r := es.map (fun e => c.convert (e.getD .zero))
    (r.map (fun e => e.1) ++ List.replicate fill c.fillBits, r.foldl (fun f e => f ||| e.2) 0, es.any Option.isNone)

/-! ## The walk -/

/-- The rows of a command in iteration order: i1, i2, i3 (R161). -/
def DeCtx.rows (c : DeCtx) : List (Nat × Nat × Nat) :=
  (List.range (descCount c.desc 3)).flatMap (fun i3 => (List.range (descCount c.desc 2)).flatMap (fun i2 =>
    (List.range (descCount c.desc 1)).map (fun i1 => (i1, i2, i3))))

/-- Where a row of a side lies: an offset of the own scratchpad, or a global address; a row of a page list that leaves its region does so at an address (R244, R260). -/
inductive RowAt where
  | own (off : Nat)
  | outside (a : Word64)
  | unmapped (a : Word64)

def DeCtx.rowAt (c : DeCtx) (x : Side) (dst : Bool) (j1 i2 i3 bytes : Nat) : RowAt :=
  let r := c.rel x dst j1 i2 i3
  if x.list then
    match c.pages[i2]? with
    | none => .unmapped x.addr
    | some b =>
      let a := (b : Int) + r
      if a < 0 ∨ a.toNat / 2 ^ 30 ≠ b / 2 ^ 30 then .unmapped (0xFFF#12 ++ BitVec.ofInt 52 a)
      else if (a.toNat + bytes - 1) / 2 ^ 30 ≠ b / 2 ^ 30 then .unmapped (selfAddr ((b / 2 ^ 30 + 1) * 2 ^ 30))
      else .outside (selfAddr a.toNat)
  else if x.own then .own (x.ownBase + r).toNat
  else .outside (x.addr + BitVec.ofInt 64 r)

/-- The requester of a DE command's accesses. -/
def deWho (k : CoreId) (cmd : EngineCmd) (hint : BitVec 2) : Who := { whoOf (.de k) with tag := pkTag cmd.packet, hint := hint }

/-- Note the first access fault of a job: it issues nothing further (R179). -/
def DeJob.fail (j : DeJob) (c : FaultCode) (a : Word64) (i1 i2 : Nat) : DeJob :=
  if j.fault.isSome then j else { j with fault := some (c, a, i1, i2), todo := [] }

/-- Read one piece of a row from outside (R162, R179); a remote piece returns as LOAD_RSP. -/
def Chip.deReadPiece (s : Chip) (k : CoreId) (j : DeJob) (a : Word64) (n piece i1 i2 : Nat) : Chip × DeJob :=
  let w := deWho k j.cmd (descHint j.desc)
  if s.isLocal a then
    -- a gathered row's piece of less than a whole line goes by the Slit path, split at 64 bytes (R183)
    match (if pkAgm j.cmd.packet ∧ n < 256 then s.loadPieces w (pieces 64 (localOf a) n) else s.loadPiece w false (localOf a) n) with
    | (s, .ok bs) => (s, { j with buf := Table.write j.buf piece bs, flight := j.flight ++ [a] })
    | (s, .error c) => (s, { j with flight := j.flight ++ [a] }.fail c a i1 i2)
  else
    match s.send k.die (requestOf 1 a w.tag [] n w.hint) (.deRead k piece i1 i2) with
    | (s, none) => (s, { j with remote := j.remote + 1 })
    | (s, some c) => (s, { j with flight := j.flight ++ [a] }.fail c a i1 i2)

/-- Number of a piece of a row. -/
def pieceNo (row p : Nat) : Nat := row * 2 ^ 24 + p

/-- The pieces of an outside row: runs within 256-byte lines. -/
def addrPieces (a : Word64) (n : Nat) : List (Word64 × Nat) :=
  (pieces 256 (localOf a) n).map (fun p => ((a.extractLsb' 52 12) ++ BitVec.ofNat 52 p.1, p.2))

/-- The accesses that read one row; a row that leaves its region is an access that fails (R244). -/
def DeCtx.readTasks (c : DeCtx) (src : Side) (row i1 i2 i3 : Nat) : List DeTask :=
  let n := c.srcBytes (c.inBounds i1)
  if n = 0 then [] else
  match c.rowAt src false i1 i2 i3 n with
  | .unmapped a => [.unmapped a i1 i2]
  | .own off => (pieces 256 off n).zipIdx.map (fun p => .readOwn (pieceNo row p.2) p.1.1 p.1.2)
  | .outside a => (addrPieces a n).zipIdx.map (fun p => .readOut (pieceNo row p.2) p.1.1 p.1.2 i1 i2)

/-- The bytes of a row once its pieces have returned. -/
def DeCtx.rowBytes (c : DeCtx) (j : DeJob) (row i1 : Nat) : List Byte :=
  (List.range ((c.srcBytes (c.inBounds i1) + 511) / 256 + 1)).flatMap (fun p => Table.read [] j.buf (pieceNo row p))

/-- Half bytes that a write keeps are taken from the bytes that lie there (R167). -/
def keepHalves (old bs : List Byte) (low high : Bool) : List Byte :=
  let bs := bs.mapIdx (fun i b => if low ∧ i = 0 then (b &&& 0xF0) ||| ((old.headD 0) &&& 0x0F) else b)
  bs.mapIdx (fun i b => if high ∧ i + 1 = bs.length then (b &&& 0x0F) ||| ((old.getLastD 0) &&& 0xF0) else b)

/-- The bytes that a write outside holds: where it keeps a half byte, the DE reads it first; a half byte of another module is a free value (log entry 12). [log 12 DEDUCED] -/
def Chip.deMerge (s : Chip) (w : Who) (a : Word64) (bs : List Byte) (low high : Bool) : Chip × Except FaultCode (List Byte) :=
  if low = false ∧ high = false then (s, .ok bs)
  else if s.isLocal a then
    match s.loadPiece w false (localOf a) bs.length with
    | (s, .ok old) => (s, .ok (keepHalves old bs low high))
    | (s, .error c) => (s, .error c)
  else
    let f := s.freeBits 8
    (f.2, .ok (keepHalves (List.replicate bs.length f.1) bs low high))

/-- Write one piece outside: a store, or pieces of a reduction, each within one 64-byte block (R174, R191). -/
def Chip.deWritePiece (s : Chip) (k : CoreId) (j : DeJob) (fd : Nat) (a : Word64) (bs : List Byte) (i1 i2 : Nat) : Chip × DeJob :=
  let w := deWho k j.cmd (descHint j.desc)
  let red := descRed j.desc
  let bad (j : DeJob) (c : FaultCode) (a : Word64) : DeJob := { j with flight := j.flight ++ [a] }.fail c a i1 i2
  if s.isLocal a then
    if red = 0 then
      match s.storePiece w false (localOf a) bs with
      | (s, none) => (s, { j with flight := j.flight ++ [a], written := j.written ++ [(localOf a, bs.length)] })
      | (s, some c) => (s, bad j c a)
    else
      (pieces 64 (localOf a) bs.length).foldl (fun (acc : Chip × DeJob) p =>
        if acc.2.fault.isSome then acc else
        let mine := (bs.drop (p.1 - localOf a)).take p.2
        let go (s : Chip) := s.reduceAt w p.1 (BitVec.ofNat 4 red) (BitVec.ofNat 4 fd) mine 0 false
        let first := go acc.1
        -- held back by credit: the stack performs what is queued, and the request goes on (R174, R194)
        let r := match first.2 with
          | .held t _ => go (first.1.drainAll t)
          | _ => first
        match r.2 with
        | .refused c => (r.1, bad acc.2 c (selfAddr p.1))
        | _ => (r.1, { acc.2 with flight := acc.2.flight ++ [selfAddr p.1], written := acc.2.written ++ [p] })) (s, j)
  else
    let m := localOf a
    (pieces (if red = 0 then 256 else 64) m bs.length).foldl (fun (acc : Chip × DeJob) p =>
      if acc.2.fault.isSome then acc else
      let mine := (bs.drop (p.1 - m)).take p.2
      let at_ : Word64 := a.extractLsb' 52 12 ++ BitVec.ofNat 52 p.1
      let op : BitVec 6 := if red = 0 then 2 else 3
      let q := { requestOf op at_ w.tag mine p.2 w.hint with fmt := BitVec.ofNat 4 fd, aop := BitVec.ofNat 4 red }
      match acc.1.send k.die q (.deWrite k i1 i2) with
      | (s, none) => (s, { acc.2 with remote := acc.2.remote + 1 })
      | (s, some c) => (s, bad acc.2 c at_)) (s, j)

/-- The accesses that write a run of elements of a destination row, from element e0 on. -/
def DeCtx.writeTasks (c : DeCtx) (dst : Side) (j1 i2 i3 e0 : Nat) (es : List Nat) : List DeTask :=
  if es = [] then [] else
  let w := c.dstWidth
  let low : Bool := decide (w = 4) && decide (e0 % 2 = 1)
  let high : Bool := decide (w = 4) && decide ((e0 + es.length) % 2 = 1)
  let bytes := packElems w ((if low then [0] else []) ++ es ++ (if high then [0] else []))
  let first := e0 * w / 8
  match c.rowAt dst true j1 i2 i3 (first + bytes.length) with
  | .unmapped a => [.unmapped a j1 i2]
  | .own off =>
    let ps := pieces 256 (off + first) bytes.length
    ps.zipIdx.map (fun p => .writeOwn p.1.1 ((bytes.drop (p.1.1 - (off + first))).take p.1.2) (low && p.2 == 0) (high && p.2 + 1 == ps.length))
  | .outside a =>
    let ps := addrPieces (a + BitVec.ofNat 64 first) bytes.length
    ps.zipIdx.map (fun p => .writeOut p.1.1 ((bytes.drop (localOf p.1.1 - localOf (a + BitVec.ofNat 64 first))).take p.1.2)
      (low && p.2 == 0) (high && p.2 + 1 == ps.length) j1 i2)

/-- The accesses that write the elements of the source rows of one (i2, i3): row by row, or for dma.t2d the rows of their transpose; where destination rows of a transpose overlap, element by element in the order of the walk (R161). -/
def DeCtx.groupTasks (c : DeCtx) (dst : Side) (i2 i3 : Nat) (rows : List (List Nat)) : List DeTask :=
  if c.t2d = false then rows.zipIdx.flatMap (fun r => c.writeTasks dst r.2 i2 i3 0 r.1)
  else if 1 < c.dstCount0 ∧ dst.s1.natAbs < (rows.length * c.dstWidth + 7) / 8 then
    rows.zipIdx.flatMap (fun r => r.1.zipIdx.flatMap (fun e => c.writeTasks dst e.2 i2 i3 r.2 [e.1]))
  else (List.range c.dstCount0).flatMap (fun i0 => c.writeTasks dst i0 i2 i3 0 (rows.filterMap (fun r => r[i0]?)))

/-- Where a source row lies, as the global address that a fault of its bytes captures (R181). -/
def DeCtx.rowFaultAddr (c : DeCtx) (src : Side) (i1 i2 i3 : Nat) : Word64 :=
  match c.rowAt src false i1 i2 i3 1 with
  | .own off => selfAddr (scratchAddr c.core off)
  | .outside a | .unmapped a => a

/-- Once every read has returned, the elements are converted and the writes are due (R171, R173, R176); SCALE_MALFORMED in a block read stops the command before it writes. -/
def Chip.deWriteAll (s : Chip) (c : DeCtx) (j : DeJob) : Chip × DeJob :=
  let src := s.deSide c false
  let dst := s.deSide c true
  let n1 := descCount c.desc 1
  let groups := ((List.range (descCount c.desc 3)).flatMap (fun i3 => (List.range (descCount c.desc 2)).map (fun i2 => (i2, i3)))).zipIdx
  let es := groups.map (fun g => (g.1, g.2, (List.range n1).map (fun i1 => c.rowElems i1 (c.rowBytes j (g.2 * n1 + i1) i1))))
  let flags := es.foldl (fun f g => g.2.2.foldl (fun f e => f ||| e.2.1) f) 0
  let s := s.orFlags c.core flags
  let j := { j with writing := true }
  match es.find? (fun g => g.2.2.any (fun e => e.2.2)) with
  | some g =>
    let i1 := (g.2.2.findIdx? (fun e => e.2.2)).getD 0
    (s, j.fail Code.scaleMalformed (c.rowFaultAddr src i1 g.1.1 g.1.2) i1 g.1.1)
  | none =>
    es.foldl (fun (acc : Chip × DeJob) g =>
      let rows := g.2.2.map (fun e => e.1)
      let out := if c.t2d then (List.range c.dstCount0).map (fun i0 => rows.filterMap (fun r => r[i0]?)) else rows
      (acc.1, { acc.2 with kvEvents := if descKvc c.desc && g.2.1 = 0 then (out.filter (fun r => r ≠ [])).length else acc.2.kvEvents,
                           todo := acc.2.todo ++ c.groupTasks dst g.1.1 g.1.2 rows })) (s, j)

/-- Page addresses of a list side (R165, R244): entry by entry through the Slit path. -/
def Chip.dePages (s : Chip) (c : DeCtx) (x : Side) (j : DeJob) : Chip × DeJob :=
  (List.range (descCount c.desc 2)).foldl (fun (acc : Chip × DeJob) i2 =>
    if acc.2.fault.isSome then acc else
    let a := localOf (x.addr + BitVec.ofNat 64 (4 * i2))
    match acc.1.loadPieces (deWho c.core acc.2.cmd (descHint c.desc)) (pieces 64 a 4) with
    | (s, .error f) => (s, acc.2.fail f (selfAddr a) 0 i2)
    | (s, .ok bs) =>
      let e := leNat bs
      let t := e / 2 ^ 27
      let frame := e / 2 ^ 18 % 64
      let region := (List.range 2048).find? (fun r =>
        let v := Table.read 0 (s.die c.core.die).regions (clip 2048 r)
        regionMode v = 1 && regionStack v = t && regionFrame v = frame)
      match (if e / 2 ^ 24 % 8 = 0 then region else none) with
      | some r => (s, { acc.2 with pages := acc.2.pages ++ [r * 2 ^ 30 + e % 2 ^ 18 * 4096] })
      | none => (s.d2dErr c.core.die Code.pageUnmapped (pkTag c.packet) (selfAddr a), acc.2.fail Code.pageUnmapped (selfAddr a) 0 i2)) (s, j)

/-- The context of a job. -/
def DeJob.ctx (j : DeJob) (k : CoreId) : DeCtx :=
  { core := k, packet := j.cmd.packet, desc := j.desc, staging := j.cmd.b.toNat, idx := if pkAgm j.cmd.packet then some j.idx else none, pages := j.pages }

/-- Own-side bytes a command reads, indexes or stages, and those it writes (R177). [log 45 DEDUCED] -/
def Chip.deRanges (s : Chip) (c : DeCtx) (x : Nat) : List (Nat × Nat) × List (Nat × Nat) :=
  let range (side : Side) (dst : Bool) : List (Nat × Nat) :=
    if side.own then (let i := c.interval side dst; [((side.ownBase + i.1).toNat, (i.2 - i.1).toNat)]) else []
  let src := s.deSide c false
  let dst := s.deSide c true
  let d := range dst true
  let stage := if c.inPlace src dst then [(c.staging, c.stagingBytes)] else []
  (range src false ++ d ++ stage ++ (if pkAgm c.packet then [(x, descCount c.desc 1 * pkXw c.packet)] else []), d ++ stage)

/-- A fault of the DE on its page (R179, R181): its command is over, and the fault goes to its cluster. -/
def Chip.deFault (s : Chip) (k : CoreId) (cmd : EngineCmd) (c : FaultCode) (addr : Word64) (i1 i2 : Nat) : Chip × List EngineError :=
  let bit := if c >>> 8 = 0x12 then c.toNat - 0x1201 else if c >>> 12 = 5 then 16 else 17
  let s := s.err (.dataEngine k) { bit := bit, code := c, tag := pkTag cmd.packet, addr := addr, syn := BitVec.ofNat 32 (i2 % 65536 * 65536 + i1 % 65536) }
  (s.updCore k (fun x => { x with job := none, de := { x.de with running := none } }), [⟨c, cmd, addr⟩])

/-- Make bytes of one destination free, but for those a write has covered. -/
def Chip.deFree (s : Chip) (k : CoreId) (written : List (Nat × Nat)) (a : Nat) : Chip :=
  if inRanges written a then s else
  let f := s.freeBits 8
  let who := whoOf (.de k)
  match place a with
  | .mem m =>
    (match s.resolve who m true with
     | .ok _ => (f.2.writeMem who m [f.1] false).1
     | .error _ => s)
  | .scratch k' off => if (s.scratchRefusal who k' off 1).isSome then s else f.2.scratchWrite k' off [f.1]
  | _ => s

/-- After an access fault what has been written stays and the rest of the destination is undefined (R94, R179): free bytes wherever the command may write. -/
def Chip.deSpoil (s : Chip) (k : CoreId) (j : DeJob) : Chip :=
  let c := j.ctx k
  let dst := s.deSide c true
  let n1 := descCount c.desc 1
  let plate := if isScaled c.fd then plateBytes c.fd else 1
  let rowLen (i1 : Nat) : Nat := plate * (if descBound c.desc = 1 then c.dstCount0 else c.inBounds i1)
  let blank := (List.range n1).map (fun i1 => List.replicate (rowLen i1) 0)
  let groups := (List.range (descCount c.desc 3)).flatMap (fun i3 => (List.range (descCount c.desc 2)).map (fun i2 => (i2, i3)))
  groups.foldl (fun s g => (c.groupTasks dst g.1 g.2 blank).foldl (fun s t =>
    match t with
    | .writeOwn off bs _ _ => (List.range bs.length).foldl (fun s i => s.deFree k j.written (scratchAddr k off + i)) s
    | .writeOut a bs _ _ _ _ =>
      if s.isLocal a then (List.range bs.length).foldl (fun s i => s.deFree k j.written (localOf a + i)) s else s
    | _ => s) s) s

/-- Issue one access of a job. -/
def Chip.deIssue (s : Chip) (k : CoreId) (crowd : Bool) (j : DeJob) (t : DeTask) : Chip × DeJob :=
  let c := j.ctx k
  match t with
  | .readOwn piece off n =>
    let q := s.engineRead k crowd ((s.core k).veWrites) off n
    (q.1, { j with buf := Table.write j.buf piece q.2 })
  | .readOut piece a n i1 i2 => s.deReadPiece k j a n piece i1 i2
  | .writeOwn off bs low high =>
    let bs := keepHalves (s.scratchRead k off bs.length) bs low high
    (s.engineWrite k crowd (j.hazard ++ (s.core k).veWrites) off bs, { j with written := j.written ++ [(scratchAddr k off, bs.length)] })
  | .writeOut a bs low high i1 i2 =>
    match s.deMerge (deWho k j.cmd (descHint j.desc)) a bs low high with
    | (s, .ok bs) => s.deWritePiece k j c.fd a bs i1 i2
    | (s, .error e) => (s, { j with flight := j.flight ++ [a] }.fail e a i1 i2)
  | .unmapped a i1 i2 => (s.d2dErr c.core.die Code.pageUnmapped (pkTag c.packet) a, j.fail Code.pageUnmapped a i1 i2)

/-- The line of the own side that an access reads or writes. -/
def DeTask.ownLine : DeTask → Option Nat
  | .readOwn _ off _ => some (off / 256)
  | .writeOwn off _ _ _ => some (off / 256)
  | _ => none

/-- Lines in flight (R175, R181). -/
def Chip.deLines (s : Chip) (k : CoreId) (j : DeJob) : Nat :=
  let far := (s.die k.die).txns.filterMap (fun t => match t.waiter with
    | .deRead q _ _ _ | .deWrite q _ _ => if q = k then some t.addr else none
    | _ => none)
  ((j.flight ++ far).map (fun a => a.toNat / 256)).eraseDups.length

/-- Accesses outside are issued in order while fewer than 64 lines are in flight (R175). Fuel bounds their number. -/
def Chip.deOutside (s : Chip) (k : CoreId) (j : DeJob) : Nat → Chip × DeJob
  | 0 => (s, j)
  | f + 1 =>
    match j.todo with
    | [] => (s, j)
    | t :: rest =>
      if t.ownLine.isSome ∨ 64 ≤ s.deLines k j then (s, j) else
      let r := s.deIssue k false { j with todo := rest } t
      Chip.deOutside r.1 k r.2 f

/-- The accesses to one line of the own side that the next beat makes. -/
def DeJob.ownAccesses (j : DeJob) : List DeTask :=
  match (j.todo.head?).bind DeTask.ownLine with
  | none => []
  | some l => j.todo.takeWhile (fun t => t.ownLine = some l)

/-- What follows once an access has been made or answered: a fault ends the command when nothing is in flight, the writes follow the reads, and the accesses outside go on (R175, R176, R179). -/
def Chip.deAdvance (s : Chip) (k : CoreId) : Chip × List EngineError :=
  match (s.core k).job with
  | none => (s, [])
  | some j =>
    let keep (r : Chip × DeJob) : Chip :=
      let issued := r.2.flight.length + r.2.remote - j.flight.length - j.remote
      (if issued = 0 then r.1 else r.1.coreEvent k 8 issued).updCore k (fun x => { x with job := some r.2 })
    let o := s.deOutside k j j.todo.length
    let w : Chip × DeJob :=
      if o.2.writing = false ∧ o.2.fault.isNone ∧ o.2.todo = [] ∧ o.2.flight = [] ∧ o.2.remote = 0 then
        let q := o.1.deWriteAll (o.2.ctx k) o.2
        q.1.deOutside k q.2 q.2.todo.length
      else o
    match w.2.fault with
    | some (c, a, i1, i2) => if w.2.flight = [] ∧ w.2.remote = 0 then ((keep w).deSpoil k w.2).deFault k w.2.cmd c a i1 i2 else (keep w, [])
    | none => (keep w, [])

/-- Validate a command and start its walk: page lists, then the accesses in the order of the walk (R161, R165, R179). -/
def Chip.deStart (s : Chip) (k : CoreId) (j : DeJob) : Chip × List EngineError :=
  let c := j.ctx k
  match lowest (s.deFaults c j.cmd.x.toNat) with
  | some f => s.deFault k j.cmd f (selfAddr (scratchAddr k j.cmd.a.toNat)) 0 0
  | none =>
    let src := s.deSide c false
    let dst := s.deSide c true
    let rg := s.deRanges c j.cmd.x.toNat
    let ve := (s.core k).veWrites
    let j := { j with touch := rg.1, dst := rg.2, hazard := j.hazard ++ ve }
    let s := s.updCore k (fun x => { x with ve := { x.ve with running := x.ve.running.map (fun r => { r with hazard := r.hazard ++ rg.1 }) } })
    -- the staging area is undefined from the first beat (R171)
    let s := if c.inPlace src dst && s.sidesOverlap c src dst then s.freeFill k c.staging c.stagingBytes else s
    let touched := (List.range (descCount c.desc 1)).any (fun i1 => decide (0 < c.inBounds i1) || descBound c.desc = 1)
    let p := if src.list ∧ touched then s.dePages c src j else if dst.list ∧ touched then s.dePages c dst j else (s, j)
    let c := p.2.ctx k
    let reads := if p.2.fault.isSome then [] else c.rows.zipIdx.flatMap (fun e => c.readTasks src e.2 e.1.1 e.1.2.1 e.1.2.2)
    (p.1.updCore k (fun x => { x with job := some { p.2 with todo := reads } })).deAdvance k

/-- One beat of a DE command: the descriptor, then the index vector when AGM is set, then one line of its own side in every beat that has one (R157, R164, R175, R179). -/
def Chip.deRun (s : Chip) (k : CoreId) (crowd : Bool) (r : Running) : Chip × List EngineError :=
  let p := r.cmd.packet
  let addr := selfAddr (scratchAddr k r.cmd.a.toNat)
  if r.taken = 0 then
    if r.cmd.a.toNat % 64 ≠ 0 ∨ 0x6FFFC0 < r.cmd.a.toNat then s.deFault k r.cmd Code.descAlign addr 0 0 else
    let q := s.engineRead k crowd ((s.core k).veWrites) r.cmd.a.toNat 64
    let j : DeJob := { cmd := r.cmd, desc := BitVec.ofNat 512 (leNat q.2) }
    let s := q.1.updCore k (fun x => { x with job := some j, de := { x.de with running := some { r with taken := 1 } } })
    if pkAgm p then
      match lowest (s.deFaults { j.ctx k with idx := none } r.cmd.x.toNat) with
      | some f => s.deFault k r.cmd f addr 0 0
      | none => (s, [])
    else s.deStart k j
  else
    match (s.core k).job with
    | none => (s, [])
    | some j =>
      if r.taken = 1 ∧ pkAgm p then
        let n := descCount j.desc 1
        let q := s.engineRead k crowd ((s.core k).veWrites) r.cmd.x.toNat (n * pkXw p)
        let idx := (List.range n).map (fun i => leNat ((q.2.drop (i * pkXw p)).take (pkXw p)))
        let s := q.1.updCore k (fun x => { x with de := { x.de with running := some { r with taken := 2 } } })
        s.deStart k { j with idx := idx }
      else
        let now := j.ownAccesses
        if now = [] then (s, []) else
        let r := now.foldl (fun (acc : Chip × DeJob) t => acc.1.deIssue k crowd acc.2 t) (s, { j with todo := j.todo.drop now.length })
        (r.1.updCore k (fun x => { x with job := some r.2 })).deAdvance k

/-- A bad codeword of the own side ends the command as an access fault does (R179, R415). -/
def Chip.deBad (s : Chip) (k : CoreId) (r : Running) (c : FaultCode) : Chip × List EngineError :=
  match (s.core k).job with
  | none => s.deFault k r.cmd c (selfAddr (scratchAddr k r.cmd.a.toNat)) 0 0
  | some j =>
    let at_ : Nat := (((j.todo.head?).bind DeTask.ownLine).map (fun l => l * 256)).getD r.cmd.x.toNat
    (s.updCore k (fun x => { x with job := some (j.fail c (selfAddr (scratchAddr k at_)) 0 0) })).deAdvance k

/-- One beat of the running DE command. [log 177 DEDUCED] -/
def Chip.deStep (s : Chip) (k : CoreId) (crowd : Bool) : Chip × List EngineError :=
  match (s.core k).de.running with
  | none => (s, [])
  | some r => s.guarded k (fun s => s.deRun k crowd r) (fun c => s.deBad k r c)

/-- Bank accesses of the DE in its next beat: its descriptor, its indices, or a line of its own side (R175). -/
def Core.deAccesses (x : Core) : Nat :=
  match x.de.running with
  | none => 0
  | some r =>
    if r.taken = 0 ∨ (r.taken = 1 ∧ pkAgm r.cmd.packet) then 1 else
    match x.job with
    | some j => if j.ownAccesses = [] then 0 else 1
    | none => 0

/-- A response to the oldest local access of a DE command arrives (R179). -/
def Chip.deResponse (k : CoreId) (s : Chip) : Chip :=
  match (s.core k).job with
  | none => s
  | some j =>
    if j.flight = [] then s else
    let r := (s.updCore k (fun x => { x with job := some { j with flight := j.flight.drop 1 } })).deAdvance k
    r.1.report k r.2

/-- A response to a remote access of a DE command: read data, an acknowledgement, or a fault (R179). -/
def Chip.deRemote (s : Chip) (k : CoreId) (read : Option (Nat × List Byte)) (fault : FaultCode) (addr : Word64) (i1 i2 : Nat) : Chip :=
  match (s.core k).job with
  | none => s
  | some j =>
    let j := { j with remote := j.remote - 1 }
    let j := if fault ≠ 0 then j.fail fault addr i1 i2 else
      match read with
      | some (piece, bs) => { j with buf := Table.write j.buf piece bs }
      | none => j
    let r := (s.updCore k (fun x => { x with job := some j })).deAdvance k
    r.1.report k r.2

/-- The completion of a DE command (R176, R178, R118): its KV-commit events are presented, held while the tap's buffer is full; then it signals. -/
def Chip.deFinish (k : CoreId) (s : Chip) : Chip :=
  match (s.core k).job with
  | none => s
  | some j =>
    if j.todo ≠ [] ∨ j.flight ≠ [] ∨ j.remote ≠ 0 ∨ j.writing = false ∨ j.fault.isSome then s else
    let r := s.present k.die 1 (s.cluster (clusterOf k)).dome j.kvEvents
    if r.2 < j.kvEvents then r.1.updCore k (fun x => { x with job := some { j with kvEvents := j.kvEvents - r.2 } }) else
    let s := r.1.updCore k (fun x => { x with job := none, de := { x.de with running := none }, lastTag := pkTag j.cmd.packet })
    s.complete k (.de k) j.cmd

end Sys2Proof.Machine
end

