-- ==== Sys2Proof/Machine/Beat.lean ====
section
/-! DEFINITION. The beat (R30, R31): how queues start and end their commands, the order of a beat's changes, the end of a step (R120 to R123), the start of one (R96), and the commands that configure a cluster (R61, R126). -/

namespace Sys2Proof.Machine

open Host

/-! ## Ending commands (R104, R118) -/

def Core.idle (x : Core) (e : EngineKind) : Core := x.setQueue e { x.queue e with running := none }

/-- The end of a command: its completion signal, or its fault (R118, R121, R123). -/
def Chip.conclude (s : Chip) (k : CoreId) (e : EngineKind) (cmd : EngineCmd) (r : StepEnd) : Chip × List EngineError :=
  match r with
  | .going => (s, [])
  | .finished => ((s.updCore k (fun x => x.idle e)).complete k (.sequencer (clusterOf k)) cmd, [])
  | .faulted c => (s.updCore k (fun x => x.idle e), [{ code := c, cmd := cmd }])

/-- Run one step of the VE and end its command: a pop releases the latched tile (R140, R142). -/
def Chip.veBeat (s : Chip) (k : CoreId) (crowd : Bool) : Chip × List EngineError :=
  match (s.core k).ve.running with
  | none => (s, [])
  | some r =>
    match s.veStep k crowd with
    | (s, .going) => (s, [])
    | (s, .finished) => (s.updCore k (fun x => x.popLatched r.cmd.packet)).conclude k .ve r.cmd .finished
    | (s, .faulted c) => (s.updCore k (fun x => { x with latched := none })).conclude k .ve r.cmd (.faulted c)

/-- The tile queue command of a beat: tq.drop and tq.clear (R142). -/
def Core.tqStep (x : Core) (p : BitVec 128) : Core × StepEnd :=
  if pkOpcode p = 1 then
    (match x.tiles with
     | [] => (x, .faulted Code.tqEmpty)
     | _ :: rest =>
       match x.latched with
       | some (0, _) => (x, .faulted Code.tqBusy)
       | l => ({ x with tiles := rest, latched := l.map (fun e => (e.1 - 1, e.2)) }, .finished))
  else if x.latched.isSome then (x, .faulted Code.tqBusy) else ({ x with tiles := [] }, .finished)

def Chip.tqBeat (s : Chip) (k : CoreId) : Chip × List EngineError :=
  match (s.core k).tq.running with
  | none => (s, [])
  | some r => let q := (s.core k).tqStep r.cmd.packet; (s.updCore k (fun _ => q.1)).conclude k .tq r.cmd q.2

/-- The ME's command ends: it pushes its tile, or faults on a full queue (R139, R141). -/
def Chip.mePush (s : Chip) (k : CoreId) (r : Running) (tile : Option Tile) (e : StepEnd) : Chip × List EngineError :=
  match tile with
  | none => s.conclude k .me r.cmd e
  | some t =>
    if (s.core k).tiles.length < 4 then
      ((s.updCore k (fun x => { x with tiles := x.tiles ++ [t] })).coreEvent k 7 1).conclude k .me r.cmd e
    else (s.mmaSpoil k r.cmd.packet Code.tqOverrun).1.conclude k .me r.cmd (.faulted Code.tqOverrun)

/-- The next access of a gate in a porthole beat is a read (R62). -/
def Core.gateReads (x : Core) : Bool := match x.gate with
  | g :: _ => g.data.isNone
  | [] => false
def Core.gateWrites (x : Core) : Bool := match x.gate with
  | g :: _ => g.data.isSome
  | [] => false

/-- The bytes that the ME and VE commands of a beat and the DE write, as an access from outside meets them in that beat (R107, R128). -/
def Core.beatWrites (x : Core) : List (Nat × Nat) := x.veWrites ++ x.deWrites

/-- A write from outside in a beat: its bytes that a command of this beat writes too are free, although the command may have ended with the beat (R128). -/
def Chip.serveWrite (s : Chip) (k : CoreId) (before : List (Nat × Nat)) : Chip :=
  match (s.core k).gate with
  | { data := some bs, off := off, .. } :: _ =>
    let s := s.serveGate k
    (List.range bs.length).foldl (fun s i => if inRanges before (off + i) then s.freeFill k (off + i) 1 else s) s
  | _ => s.serveGate k

/-- The whole beat of a core, whose engines have begun what they begin in it: reads see the bytes before the beat, writes follow, then the tile queue's changes in their order (R30, R128, R140, R141). The porthole beat's slot of the gate counts whether or not an access waits (R62, R127). Answers the engine faults of the beat, recorded on the CORE page (R66, R155). -/
def Chip.coreBeat (s : Chip) (k : CoreId) (porthole : Bool) : Chip × List EngineError :=
  let x := s.core k
  let bank := x.meAccesses + x.veAccesses + x.deAccesses
  let crowd : Bool := decide (6 < bank + (if porthole then 1 else 0))
  let before := x.beatWrites
  let s := if x.me.running.isSome then s.coreEvent k 2 1 else s
  let s := if x.ve.running.isSome then s.coreEvent k 3 1 else s
  let s := if x.de.running.isSome then s.coreEvent k 4 1 else s
  let s := if bank = 0 then s else s.coreEvent k 5 bank
  -- flags set by the ME and the DE in this beat survive a clear by the VE (R153)
  let s := s.updCore k (fun y => { y with flags := 0 })
  let m := s.meStep k crowd
  let d := m.1.deStep k crowd
  let s := d.1
  let added := (s.core k).flags
  let s := s.updCore k (fun y => { y with flags := x.flags })
  let gateReads := porthole && (s.core k).gateReads
  let gateWrites := porthole && (s.core k).gateWrites
  let s := if gateReads then s.serveGate k else s
  let v := s.veBeat k crowd
  let s := v.1.updCore k (fun y => { y with flags := y.flags ||| added })
  let s := if gateWrites then s.serveWrite k before else s
  let q := s.tqBeat k
  let e : Chip × List EngineError := match x.me.running with
    | some r => q.1.mePush k r m.2.1 m.2.2
    | none => (q.1, [])
  let es := d.2 ++ v.2 ++ q.2 ++ e.2
  (e.1.coreErrors k es, es)

/-! ## The instruction of a beat -/

/-- Execute the instruction at PC when the beat's slot is free; an undefined opcode faults (R97, R99). -/
def Chip.runInstr (c : ClusterId) (s : Chip) : Chip :=
  let x := s.cluster c
  -- an ENTRY on a packet word faults in beat 0 (R101)
  if x.running ∧ x.stop.isNone ∧ x.phase = .badEntry then s.seqFault c Code.branchTarget 0 x.pc else
  if x.mayExecute = false then s else
  let opc := opcOf (s.word c x.pc)
  if opc = 0x00 then Chip.nopInstr c s
  else if opc = 0x01 then Chip.endInstr c s
  else if opc = 0x02 then Chip.traceInstr c s
  else if opc = 0x10 then Chip.binary c opc (· + ·) s
  else if opc = 0x11 then Chip.binary c opc (· - ·) s
  else if opc = 0x12 then Chip.binary c opc (· &&& ·) s
  else if opc = 0x13 then Chip.binary c opc (· ||| ·) s
  else if opc = 0x14 then Chip.binary c opc (· ^^^ ·) s
  else if opc = 0x15 then Chip.binary c opc opSll s
  else if opc = 0x16 then Chip.binary c opc opSrl s
  else if opc = 0x17 then Chip.binary c opc opSra s
  else if opc = 0x18 then Chip.binary c opc (· * ·) s
  else if opc = 0x19 then Chip.binary c opc opMulhu s
  else if opc = 0x1A then Chip.binary c opc opSlt s
  else if opc = 0x1B then Chip.binary c opc opSltu s
  else if opc = 0x1C then Chip.binary c opc opMin s
  else if opc = 0x1D then Chip.binary c opc opMax s
  else if opc = 0x1E then Chip.binary c opc opMinu s
  else if opc = 0x1F then Chip.binary c opc opMaxu s
  else if opc = 0x20 then Chip.immediate c opc (· + ·) s
  else if opc = 0x22 then Chip.immediate c opc (· &&& ·) s
  else if opc = 0x23 then Chip.immediate c opc (· ||| ·) s
  else if opc = 0x24 then Chip.immediate c opc (· ^^^ ·) s
  else if opc = 0x25 then Chip.immediate c opc opSll s
  else if opc = 0x26 then Chip.immediate c opc opSrl s
  else if opc = 0x27 then Chip.immediate c opc opSra s
  else if opc = 0x28 then Chip.loadImm c s
  else if opc = 0x29 then Chip.loadHigh c s
  else if opc = 0x30 then Chip.branchOn c opc (fun a b => a == b) s
  else if opc = 0x31 then Chip.branchOn c opc (fun a b => a != b) s
  else if opc = 0x32 then Chip.branchOn c opc (fun a b => a.slt b) s
  else if opc = 0x33 then Chip.branchOn c opc (fun a b => !a.slt b) s
  else if opc = 0x34 then Chip.branchOn c opc (fun a b => a.ult b) s
  else if opc = 0x35 then Chip.branchOn c opc (fun a b => !a.ult b) s
  else if opc = 0x36 then Chip.branch c opc (fun _ _ => true) s
  else if opc = 0x40 then Chip.setLc c s
  else if opc = 0x41 then Chip.loopEnter c s
  else if opc = 0x42 then Chip.readLc c s
  else if opc = 0x43 then Chip.readIt c s
  else if opc = 0x44 then Chip.setMask c s
  else if opc = 0x45 then Chip.readMask c s
  else if opc = 0x46 then Chip.readBeat c s
  else if opc = 0x48 then Chip.setAdr c s
  else if opc = 0x49 then Chip.readAdr c s
  else if opc = 0x50 then Chip.waitInstr c s
  else if opc = 0x51 then Chip.signalInstr c s
  else if opc = 0x60 then Chip.issueInstr c s
  else s.seqFault c Code.illegalOpcode 0 x.pc

/-! ## The cluster's beat -/

def EngineQueue.busy (q : EngineQueue) : Bool := q.running.isSome || q.waiting ≠ []
def Core.busy (x : Core) : Bool := x.me.busy || x.ve.busy || x.de.busy || x.tq.busy

/-- Every engine of a cluster is idle with an empty queue (R120). [log 28 DEDUCED] -/
def Chip.drained (s : Chip) (c : ClusterId) : Bool := (List.finRange 32).all (fun i => !(s.core (coreOf c i)).busy)

/-- The sequencer's part of the end of a beat: the program counter moves on, a nop counts down, a wait holds (R97, R109, R116). [log 47 DEDUCED] -/
def Chip.seqEnd (s : Chip) (c : ClusterId) : Chip :=
  let x := s.cluster c
  let moveOn (last : Nat) (target : Option Nat) : Chip :=
    let y := match target with
      | some t => { x with pc := t }
      | none => x.endRule last 4
    let s := s.updCluster c (fun _ => { y with phase := .ready })
    if 32768 ≤ y.pc then
      ((s.updCluster c (fun z => { z with pc := 32767 })).seqFault c Code.pcOverrun 0 32767).updCluster c (fun z => { z with phase := .ready })
    else s
  match x.phase with
  | .ready | .badEntry => s
  | .retire last target => moveOn last target
  | .hold last left => if left ≤ 1 then moveOn last none else s.updCluster c (fun y => { y with phase := .hold last (left - 1) })
  | .waiting last obj goal _ => (s.updCluster c (fun y => { y with phase := .waiting last obj goal false })).clusterEvent c 3 1

/-- The packets presented in this beat may begin in the next (R104). -/
def Core.settleFresh (x : Core) : Core :=
  let old (q : EngineQueue) : EngineQueue := { q with waiting := q.waiting.map (fun w => { w with fresh := false }) }
  { x with me := old x.me, ve := old x.ve, de := old x.de, tq := old x.tq }

/-- A wait of an earlier beat reads its object at step 1 (R116). -/
def Chip.waitAtStart (c : ClusterId) (s : Chip) : Chip :=
  match (s.cluster c).phase with
  | .waiting _ _ _ false => Chip.waitAgain c s
  | _ => s

/-! ## Slots (R451) -/

/-- The duty of the current group: a new duty takes effect at a group boundary. -/
def Cluster.dutyNow (x : Cluster) (duty : Nat) : Nat := if x.slotNo = 0 then duty else x.groupDuty.toNat

/-- The slots of a group in the order in which duties empty them. -/
def bitReverse3 (k : Nat) : Nat := [0, 4, 2, 6, 1, 5, 3, 7].getD (k % 8) 0

/-- Slot k of a group is empty at duty d when the bit-reversed k is less than d. -/
def Cluster.dueEmpty (x : Cluster) (duty : Nat) : Bool := bitReverse3 x.slotNo.toNat < x.dutyNow duty

/-- One slot of a cluster passes. -/
def Chip.slot (s : Chip) (c : ClusterId) : Chip :=
  let duty := (s.die c.die).guider.duty
  s.updCluster c (fun x => { x with slotNo := x.slotNo + 1, groupDuty := BitVec.ofNat 3 (x.dutyNow duty) })

/-- The Guider inserts the empty slots that are due before the next beat, at most n of them (R36, R451); a freeze that one of them starts takes effect at its end (R37). -/
def Chip.insertEmpty (s : Chip) (c : ClusterId) : Nat → Chip
  | 0 => s
  | n + 1 =>
    if s.frozen = false ∧ (s.cluster c).dueEmpty (s.die c.die).guider.duty then
      Chip.insertEmpty (s.uncut (fun s => (s.clusterEvent c 2 1).slot c)) c n
    else s

/-- A step runs or drains; its last instruction's beat, or a beat in which it stopped, still ends. -/
def Chip.stepping (s : Chip) (c : ClusterId) : Bool :=
  let x := s.cluster c
  x.running && (x.stop.isNone || x.phase != .ready || !s.drained c)

/-- A cluster beats while it steps, and between steps only for outside traffic (R35). -/
def Chip.beating (s : Chip) (c : ClusterId) : Bool :=
  s.stepping c || (List.finRange 32).any (fun i => (s.core (coreOf c i)).gate ≠ [])

/-- An instruction has been executed in the beat that a cluster stands in: a freeze takes effect at the end of that beat (R37). -/
def Cluster.midBeat (x : Cluster) : Bool :=
  x.running && (match x.phase with
    | .retire _ _ | .waiting _ _ _ true => true
    | _ => false)

/-- Whether the next beat of a cluster may pass. -/
def Chip.mayBeat (s : Chip) (c : ClusterId) : Bool :=
  s.beating c && (s.clusterLive c || ((s.die c.die).ringOn && (s.die c.die).coreOn && (s.cluster c).midBeat))

/-- The cores of a cluster in one beat; answers the engine faults with their cores. -/
def Chip.coreBeats (s : Chip) (c : ClusterId) (porthole : Bool) : Chip × List (CoreId × EngineError) :=
  (List.finRange 32).foldl (fun (acc : Chip × List (CoreId × EngineError)) i =>
    let r := acc.1.coreBeat (coreOf c i) porthole
    (r.1, acc.2 ++ r.2.map (fun e => (coreOf c i, e)))) (s, [])

/-- What one beat of a cluster does (R30, R31): the engines begin what is due and the sequencer executes, the cores work, an engine's fault stops the step from the next beat, and the sequencer's part of the beat ends. -/
def Chip.beatBody (c : ClusterId) (s : Chip) : Chip :=
  let stepping := s.stepping c
  let s := s.startQueues c
  let x := s.cluster c
  let s := if stepping then Chip.runInstr c (Chip.waitAtStart c s) else s
  let porthole : Bool := decide (x.beat.toNat % 8 = x.phPhase.toNat)
  let r := s.coreBeats c porthole
  let s := r.1
  let s := if stepping then s.seqEnd c else s
  let s := s.clusterErrors c r.2
  let s := (List.finRange 32).foldl (fun s i => s.updCore (coreOf c i) Core.settleFresh) s
  let s := if stepping then (List.finRange 32).foldl (fun s i => s.coreEvent (coreOf c i) 1 1) (s.clusterEvent c 1 1) else s
  s.updCluster c (fun y => { y with beat := y.beat + 1, stepBeats := if stepping then y.stepBeats + 1 else y.stepBeats })

/-- BEAT (R30, R31): the empty slots due before it pass first; a freeze that an empty slot or the beat starts takes effect at its end (R37). [log 26 DEDUCED] -/
def Chip.beat (c : ClusterId) (s : Chip) : Chip :=
  if s.mayBeat c = false then s else
  let t := s.insertEmpty c 7
  if t.frozen ∧ s.frozen = false then t else (t.slot c).uncut (Chip.beatBody c)

/-- EMPTY_SLOT (R36): in a slot that is empty at the duty in force, nothing steps (R451). -/
def Chip.emptySlot (c : ClusterId) (s : Chip) : Chip :=
  if s.clusterLive c = false ∨ s.beating c = false then s else s.insertEmpty c 1

/-- PORTHOLE_ACCESS (R63): an outside access joins a core's gate, line by line; the first eight entries are in the gate and the rest are held by credit. -/
def Chip.portholeAccess (k : CoreId) (a : Agent) (x : PortholeReq) (s : Chip) : Chip :=
  let w := whoOf a
  let off := x.off.toNat
  let len := match x.data with
    | some bs => bs.length
    | none => x.len
  match s.scratchRefusal w k off len with
  | some c => { (if c = Code.unreachable then s.d2dErr w.die c 0 (selfAddr (scratchAddr k off)) else s) with out := .fault c }
  | none =>
    (pieces 256 off len).foldl (fun s p =>
      s.updCore k (fun y => { y with gate := y.gate ++ [⟨a, p.1, p.2, x.data.map (fun bs => (bs.drop (p.1 - off)).take p.2)⟩] })) s

/-! ## The end of a step (R120 to R123) -/

/-- STEP_COMPLETION: every engine is idle after `end`, a fault or an abort; the step is reported. [log 29 DEDUCED] -/
def Chip.stepDone (c : ClusterId) (s : Chip) : Chip :=
  let x := s.cluster c
  match x.stop with
  | none => s
  | some how =>
    if s.stepping c ∨ x.running = false ∨ s.clusterLive c = false then s else
    let s := s.updCluster c (fun y =>
      { y with running := false, stop := none, phase := .ready, lastStepBeats := y.stepBeats,
               faultedFlag := how = .faulted, abortedFlag := how = .aborted })
    let s := (List.finRange 32).foldl (fun s i => s.updCore (coreOf c i) (fun k => { k with acc := none })) s
    let status : Nat := if how = .ended then 1 else 3
    let s := match x.domeOf with
      | some m => s.emit c.die m 1 (s.clusterRec c 4 0 (BitVec.ofNat 64 (status + x.stepBeats.toNat % 2 ^ 32 * 2 ^ 32)))
      | none => s
    let s := s.clusterEvent c 5 1
    if how = .faulted then
      s.log c.die 2 x.stepCode (match x.domeOf with
        | some m => BitVec.ofNat 8 m.val
        | none => 0xFF) x.stepTag (BitVec.ofNat 64 c.idx.val)
    else s

/-- A write of 1 to CTRL.GO (R96, R125): the step's number goes into its STEP_START record (R469). [log 174 DEDUCED] -/
def Chip.stepGo (c : ClusterId) (number : Nat) (s : Chip) : Chip :=
  if s.clusterLive c = false then s else
  let x := s.cluster c
  if x.running then s.configDropped c else
  let s := s.updCluster c (fun y =>
    { y with
      pc := y.entry.toNat, regs := (List.finRange 15).map (fun k => ((clip 32 (k.val + 1), Table.read 0 y.args k))),
      ads := [], lc := [], levels := [], bmask := 0xFFFFFFFF, beat := 0, running := true, stop := none,
      phase := if isPacketWord (s.word c) x.entry.toNat then .badEntry else .ready,
      faultedFlag := false, abortedFlag := false, stepBeats := 0, presented := none, stepCode := 0, stepTag := 0 })
  let s := (List.finRange 32).foldl (fun s i => s.updCore (coreOf c i) (fun k =>
    { k with acc := none, scaleA := 0x3F800000, scaleB := 0x3F800000, vm := [], flags := 0 })) s
  match x.domeOf with
  | some m => s.emit c.die m 1 (s.clusterRec c 3 0 (BitVec.ofNat 64 number))
  | none => s

/-- CTRL.ABORT (R122, R123): ignored while no step runs. -/
def Chip.abortStep (c : ClusterId) (s : Chip) : Chip :=
  if s.clusterLive c = false ∨ (s.cluster c).running = false then s else
  if (s.cluster c).stop = some .faulted then s else s.halt c .aborted

/-- OWNER (R61, R125). -/
def Chip.ownerWrite (c : ClusterId) (v : Word32) (s : Chip) : Chip :=
  if s.clusterLive c = false then s else
  if (s.cluster c).running then s.configDropped c
  else s.updCluster c (fun x =>
    { x with fabricOpen := v.getLsbD 31, assigned := v.getLsbD 12, dome := v.extractLsb' 8 4, phPhase := v.extractLsb' 0 3 })

/-- PSTORE_DATA (R126). -/
def Chip.pstoreWrite (c : ClusterId) (v : Word64) (s : Chip) : Chip :=
  if s.clusterLive c = false then s else
  if (s.cluster c).running then s.configDropped c
  else
    let s := { s with pstore := Table.write s.pstore (c, clip 32768 (s.cluster c).pstoreAddr.toNat) v }
    s.updCluster c (fun x => { x with pstoreAddr := x.pstoreAddr + 1 })

/-- OUTSTANDING (R125): something that left the cluster is unanswered. -/
def Chip.outstanding (s : Chip) (c : ClusterId) : Bool :=
  (s.die c.die).txns.any (fun t => match t.waiter with
    | .sequencer c' => decide (c' = c)
    | .engine k | .deRead k _ _ _ | .deWrite k _ _ => decide (clusterOf k = c)
    | _ => false) ||
  (List.finRange 32).any (fun i => (s.core (coreOf c i)).job.isSome) ||
  (match (s.cluster c).domeOf with
   | some m => (s.trace m).held.any (fun h => decide (h.cluster = c))
   | none => false)

/-! ## One engine command, whole -/

/-- Whether a core may work: no freeze, its core domain on. -/
def Chip.coreLive (s : Chip) (k : CoreId) : Bool := s.clusterLive (clusterOf k)

/-- An engine's running command, or the front command of its idle queue that may begin, when it has the opcode: one presented in the current beat may not yet (R104). [log 27 DEDUCED] -/
def Chip.takeUp (s : Chip) (k : CoreId) (e : EngineKind) (op : Nat) : Option Chip :=
  if s.coreLive k = false then none else
  let s := s.updCore k (fun x => x.start e)
  match ((s.core k).queue e).running with
  | some r => if pkOpcode r.cmd.packet = op then some s else none
  | none => none

/-- Steps of the ME until its command ends. -/
def Chip.meSteps (s : Chip) (k : CoreId) : Nat → Chip × List EngineError
  | 0 => (s, [])
  | n + 1 =>
    match (s.core k).me.running with
    | none => (s, [])
    | some r =>
      match s.meStep k false with
      | (s, _, .going) => Chip.meSteps s k n
      | (s, t, e) => s.mePush k r t e

/-- Steps of the VE until its command ends. -/
def Chip.veSteps (s : Chip) (k : CoreId) : Nat → Chip × List EngineError
  | 0 => (s, [])
  | n + 1 =>
    if (s.core k).ve.running.isNone then (s, []) else
    match s.veBeat k false with
    | (s, []) => Chip.veSteps s k n
    | r => r

/-- Steps of the DE's own side, while it has one to take. -/
def Chip.deSteps (s : Chip) (k : CoreId) : Nat → Chip × List EngineError
  | 0 => (s, [])
  | n + 1 =>
    match s.deStep k false with
    | (s, []) => Chip.deSteps s k n
    | r => r

/-- The accesses a DE command still has to issue. -/
def Core.deTodo (x : Core) : Nat := match x.job with
  | some j => j.todo.length
  | none => 0

/-- An ME command with an opcode, run to its end. -/
def Chip.meWhole (k : CoreId) (op : Nat) (s : Chip) : Chip :=
  match s.takeUp k .me op with
  | none => s
  | some s =>
    let r := s.meSteps k (match (s.core k).me.running with
      | some r => r.len
      | none => 0)
    r.1.report k r.2

def Chip.veWhole (k : CoreId) (op : Nat) (s : Chip) : Chip :=
  match s.takeUp k .ve op with
  | none => s
  | some s =>
    let r := s.veSteps k (match (s.core k).ve.running with
      | some r => r.len
      | none => 0)
    r.1.report k r.2

def Chip.tqWhole (k : CoreId) (op : Nat) (s : Chip) : Chip :=
  match s.takeUp k .tq op with
  | none => s
  | some s => let r := s.tqBeat k; r.1.report k r.2

/-- A DE command with an opcode: its descriptor and index beats, then the beats of its own side, those that read and, when nothing outside is left to answer, those that write. -/
def Chip.deWhole (k : CoreId) (op : Nat) (s : Chip) : Chip :=
  match s.takeUp k .de op with
  | none => s
  | some s =>
    let r := s.deSteps k (match (s.core k).de.running with
      | some r => if pkAgm r.cmd.packet then 2 - r.taken else 1 - r.taken
      | none => 0)
    if r.2 ≠ [] then r.1.report k r.2 else
    let r := r.1.deSteps k (r.1.core k).deTodo
    if r.2 ≠ [] then r.1.report k r.2 else
    let r := r.1.deSteps k (r.1.core k).deTodo
    r.1.report k r.2

/-! ## The meanings -/

def execBeat (c : ClusterId) : State → Outcome State Fault Refusal := onChip (Chip.beat c)
def execEmptySlot (c : ClusterId) : State → Outcome State Fault Refusal := onChip (Chip.emptySlot c)
def execPortholeAccess (k : CoreId) (a : Agent) (x : PortholeReq) : State → Outcome State Fault Refusal := onChip (Chip.live (Chip.portholeAccess k a x))
def execStepCompletion (c : ClusterId) : State → Outcome State Fault Refusal := onChip (Chip.stepDone c)
/-- STEP_GO by a register write: the step number of the dome's running step, 0 when firmware runs none. -/
def execStepGo (c : ClusterId) (s : State) : Outcome State Fault Refusal :=
  let number := match (s.chip.cluster c).domeOf with
    | none => 0
    | some m =>
      (match Table.read none s.fw.domes m with
       | none => 0
       | some d =>
         match d.step with
         | some r => r.number
         | none => 0)
  onChip (Chip.stepGo c number) s
def execAbort (c : ClusterId) : State → Outcome State Fault Refusal := onChip (Chip.abortStep c)
def execOwnerWrite (c : ClusterId) (v : BitVec 32) : State → Outcome State Fault Refusal := onChip (Chip.ownerWrite c v)
def execPstoreDataWrite (c : ClusterId) (v : BitVec 64) : State → Outcome State Fault Refusal := onChip (Chip.pstoreWrite c v)
def execMma (k : CoreId) : State → Outcome State Fault Refusal := onChip (Chip.meWhole k 1)
def execMscale (k : CoreId) : State → Outcome State Fault Refusal := onChip (Chip.meWhole k 2)
def execTqDrop (k : CoreId) : State → Outcome State Fault Refusal := onChip (Chip.tqWhole k 1)
def execTqClear (k : CoreId) : State → Outcome State Fault Refusal := onChip (Chip.tqWhole k 2)
def execVadd (k : CoreId) : State → Outcome State Fault Refusal := onChip (Chip.veWhole k 1)
def execVsub (k : CoreId) : State → Outcome State Fault Refusal := onChip (Chip.veWhole k 2)
def execVmul (k : CoreId) : State → Outcome State Fault Refusal := onChip (Chip.veWhole k 3)
def execVfma (k : CoreId) : State → Outcome State Fault Refusal := onChip (Chip.veWhole k 4)
def execVmax (k : CoreId) : State → Outcome State Fault Refusal := onChip (Chip.veWhole k 5)
def execVmin (k : CoreId) : State → Outcome State Fault Refusal := onChip (Chip.veWhole k 6)
def execVexp2 (k : CoreId) : State → Outcome State Fault Refusal := onChip (Chip.veWhole k 8)
def execVlog2 (k : CoreId) : State → Outcome State Fault Refusal := onChip (Chip.veWhole k 9)
def execVrcp (k : CoreId) : State → Outcome State Fault Refusal := onChip (Chip.veWhole k 0x0A)
def execVrsqrt (k : CoreId) : State → Outcome State Fault Refusal := onChip (Chip.veWhole k 0x0B)
def execVtanh (k : CoreId) : State → Outcome State Fault Refusal := onChip (Chip.veWhole k 0x0C)
def execVgelu (k : CoreId) : State → Outcome State Fault Refusal := onChip (Chip.veWhole k 0x0D)
def execVcvt (k : CoreId) : State → Outcome State Fault Refusal := onChip (Chip.veWhole k 0x10)
def execVredsum (k : CoreId) : State → Outcome State Fault Refusal := onChip (Chip.veWhole k 0x11)
def execVredmax (k : CoreId) : State → Outcome State Fault Refusal := onChip (Chip.veWhole k 0x12)
def execVmaskCmp (k : CoreId) : State → Outcome State Fault Refusal := onChip (Chip.veWhole k 0x19)
def execVmaskLd (k : CoreId) : State → Outcome State Fault Refusal := onChip (Chip.veWhole k 0x1A)
def execVseed (k : CoreId) : State → Outcome State Fault Refusal := onChip (Chip.veWhole k 0x1C)
def execVflags (k : CoreId) : State → Outcome State Fault Refusal := onChip (Chip.veWhole k 0x1D)
def execDmaLoad (k : CoreId) : State → Outcome State Fault Refusal := onChip (Chip.deWhole k 1)
def execDmaStore (k : CoreId) : State → Outcome State Fault Refusal := onChip (Chip.deWhole k 2)
def execDmaCopy (k : CoreId) : State → Outcome State Fault Refusal := onChip (Chip.deWhole k 3)
def execDmaT2d (k : CoreId) : State → Outcome State Fault Refusal := onChip (Chip.deWhole k 4)
def execDeAccessResponse (k : CoreId) : State → Outcome State Fault Refusal := onChip (Chip.live (Chip.deResponse k))
def execDeComplete (k : CoreId) : State → Outcome State Fault Refusal := onChip (Chip.live (Chip.deFinish k))

end Sys2Proof.Machine
end

