-- ==== Sys2Proof/Machine/Registers.lean ====
section
/-! DEFINITION. What every register access shares: who may make it (R68), how it reaches its page (R16, R19, R69), and register pairs (R67). -/

namespace Sys2Proof.Machine

open Host

/-- The die a requester's register access enters at (R56, R68): the physical function comes in on CD0. -/
def reqDie : Requester → DieId
  | .meridian d => d
  | .pf => 0
  | .other a => agentDie a

/-- Whether a block lies in a core domain (R17). -/
def Block.inCoreDomain : Block → Bool
  | .clusterSeq _ | .core _ | .dataEngine _ => true
  | .perf (.cluster _) => true
  | .sync (.die _) => true
  | _ => false

/-- The stack whose base die holds a block (R492). -/
def Block.baseDie : Block → Option StackId
  | .ulizen t | .slit t | .reducer t | .scrub t => some t
  | .perf (.stack t) => some t
  | .sync (.stack t) => some t
  | _ => none

/-- Why an access to a block's pages is refused, when it is (R19, R68, R69, R281, R459, R492): the lowest code. -/
def Chip.pageRefusal (s : Chip) (q : Requester) (b : Block) : Option FaultCode :=
  let denied : Bool := match q with
    | .other _ => true
    | _ => false
  let offline : Bool := match b with
    | .sync (.die d) => (s.die d).ringOn && !(s.die d).coreOn
    | _ => false
  if offline then some Code.syncOffline
  else if denied then some Code.regDenied
  else if s.route (reqDie q) b.die = false then some Code.unreachable
  else match b.baseDie with
    | some t => if (s.stack t).domainOn then none else some Code.unreachable
    | none =>
      if b.inCoreDomain ∧ (s.die b.die).coreOn = false then some Code.coreOff else none

/-- Record the refusal where a block detects it (R58, R281). -/
def Chip.pageErr (s : Chip) (q : Requester) (b : Block) (c : FaultCode) (addr : Word64) : Chip :=
  if c = Code.syncOffline then s.d2dErr b.die c 0 addr else s.d2dErr (reqDie q) c 0 addr

/-- Answer a refused register access. -/
def Chip.refusePage (s : Chip) (q : Requester) (b : Block) (c : FaultCode) (addr : Word64) : Chip :=
  { s.pageErr q b c addr with out := .fault c }

/-! ## Pairs (R67) -/

/-- Stage the low word of a pair; it replaces whatever low word the requester had staged. -/
def Chip.stageLow (s : Chip) (q : Requester) (pair : Nat) (v : Word32) : Chip :=
  { s with stagedLow := Table.write s.stagedLow q (pair, v) }

/-- The low word of a pair that a requester has staged. -/
def Chip.stagedFor (s : Chip) (q : Requester) (pair : Nat) : Option Word32 :=
  match s.stagedLow.find? (fun e => e.1 = q) with
  | some e => if e.2.1 = pair then some e.2.2 else none
  | none => none

def Chip.unstage (s : Chip) (q : Requester) : Chip := { s with stagedLow := s.stagedLow.filter (fun e => e.1 ≠ q) }

/-- The 64-bit value that a write of a pair's high word lands: the staged low word, or the low half as the register holds it. -/
def Chip.landHigh (s : Chip) (q : Requester) (pair : Nat) (current : Word64) (v : Word32) : Chip × Word64 :=
  match s.stagedFor q pair with
  | some lo => (s.unstage q, v ++ lo)
  | none => (s, v ++ current.extractLsb' 0 32)

/-- A write to a pair by the commands that name the pair and not one of its words: 64 bits land at once; a first 32-bit write stages the low word and the next lands with it. -/
def Chip.pairWrite (s : Chip) (q : Requester) (pair : Nat) (v : RegData) : Chip × Option Word64 :=
  match v with
  | .w64 x => (s, some x)
  | .w32 x =>
    match s.stagedFor q pair with
    | some lo => (s.unstage q, some (x ++ lo))
    | none => (s.stageLow q pair x, none)

/-- The local address of offset off of a die's or a stack's register space (R51). -/
def dieReg (d : DieId) (page off : Nat) : Nat := 0x200000000000 + d.val * 2 ^ 24 + page * 4096 + off
def stackReg (t : StackId) (page off : Nat) : Nat := 0x200100000000 + t.val * 2 ^ 24 + page * 4096 + off

end Sys2Proof.Machine
end

