-- ==== Sys2Proof/Machine/Stacks.lean ====
section
/-! DEFINITION. The commands of the stacks and their controllers: translate fences and region entries (R53 to R58), the paths into a stack (R182 to R195), range operations (R189, R203), controller modes (R199 to R202, R492), refresh (R196 to R198), scrubbing, poison and retirement (R417 to R420, R436, R493). -/

namespace Sys2Proof.Machine

open Host

/-! ## Regions (R53, R57, R58) -/

/-- TFENCE_GO: the fence covers every access the die has translated that is still outstanding, which are its queued reductions. -/
def Chip.tfenceGo (d : DieId) (s : Chip) : Chip :=
  if (s.die d).ringOn = false then s else
  let mark (q : List RedReq) : List RedReq := q.map (fun r => if r.die = d then { r with fenced := true } else r)
  let s := allStacks.foldl (fun s t =>
    if (s.stack t).redQueue = [] ∧ (s.stack t).redWait = [] then s else s.updStack t (fun x => { x with redQueue := mark x.redQueue, redWait := mark x.redWait })) s
  let any := allStacks.any (fun t => ((s.stack t).redQueue ++ (s.stack t).redWait).any (fun r => decide (r.die = d) && r.fenced))
  s.updDie d (fun x => { x with tfenceBusy := any })

/-- How many requests, from the front, must be performed until the last one that a fence of die d covers. -/
def fencedBefore (d : DieId) (q : List RedReq) : Nat :=
  (q.foldl (fun (acc : Nat × Nat) r => (acc.1 + 1, if r.die = d ∧ r.fenced then acc.1 + 1 else acc.2)) (0, 0)).2

/-- TFENCE_DONE: the fenced accesses complete at their stacks, and TFENCE_BUSY clears. -/
def Chip.tfenceDone (d : DieId) (s : Chip) : Chip :=
  if (s.die d).ringOn = false ∨ (s.die d).tfenceBusy = false then s else
  let s := allStacks.foldl (fun s t =>
    if (s.stack t).redWait.any (fun r => decide (r.die = d) && r.fenced) then s.drainAll t
    else (s.drain t (fencedBefore d (s.stack t).redQueue)).1) s
  s.updDie d (fun x => { x with tfenceBusy := false })

/-- A region entry takes a whole new value; its reserved bits stay 0 (R53). -/
def Chip.setRegion (s : Chip) (d : DieId) (r : Fin 2048) (v : Word64) : Chip :=
  s.updDie d (fun x => { x with regions := Table.write x.regions r (v &&& 0x3FFFFFFFFFFFF) })

/-- The address of region entry r of a die (R58). -/
def regionReg (d : DieId) (r : Fin 2048) : Nat := dieReg d (0x19 + r.val / 512) (r.val % 512 * 8)

/-- REGION_ENTRY_WRITE. -/
def Chip.regionWrite (q : Requester) (d : DieId) (r : Fin 2048) (v : RegData) (s : Chip) : Chip :=
  match s.pageRefusal q (.d2d d) with
  | some c => s.refusePage q (.d2d d) c (selfAddr (regionReg d r))
  | none =>
    match s.pairWrite q (regionReg d r) v with
    | (s, some x) => s.setRegion d r x
    | (s, none) => s

/-! ## Paths into a stack (R183 to R195) -/

/-- Whether an access is held by an engine that has a block open: one that reaches a block under retirement which that engine holds (R420), or a pseudo-channel that waits for refreshes (R198). -/
def Chip.heldOpen (s : Chip) (w : Who) (a n : Nat) (write : Bool) : Bool :=
  match s.resolve w a write with
  | .ok (t, x) =>
    let y := s.stack t
    (y.held x n && y.engines.any (fun e => decide (e.2.openBlock = some y.retireBlock.toNat))) ||
    (y.anyOpen && decide (4 ≤ Table.read 0 y.owed (pseudoChannel x)))
  | .error _ => false

/-- Read the pieces of a stack access in order. -/
def Chip.readStack (s : Chip) (w : Who) (slit : Bool) : List (Nat × Nat) → Chip × Except FaultCode (List Byte)
  | [] => (s, .ok [])
  | (a, n) :: rest =>
    if 2 ^ 41 ≤ a then (s, .error Code.unmapped) else
    match s.readMem w a n slit with
    | (s, .error c) => (s, .error c)
    | (s, .ok bs) =>
      match Chip.readStack s w slit rest with
      | (s, .error c) => (s, .error c)
      | (s, .ok more) => (s, .ok (bs ++ more))

/-- Write the pieces of a stack access in order; the first fault is answered. -/
def Chip.writeStack (s : Chip) (w : Who) (slit : Bool) (bs : List Byte) : List (Nat × Nat) → Chip × Option FaultCode
  | [] => (s, none)
  | (a, n) :: rest =>
    if 2 ^ 41 ≤ a then (s, some Code.unmapped) else
    let r := s.writeMem w a (bs.take n) slit
    let q := Chip.writeStack r.1 w slit (bs.drop n) rest
    (q.1, r.2.or q.2)

/-- What a request returns to its requester. -/
def Chip.answer (r : Chip × Except FaultCode (List Byte)) : Chip :=
  match r.2 with
  | .ok bs => { r.1 with out := .bytes bs }
  | .error c => { r.1 with out := .fault c }

/-- What a write returns to its requester. -/
def Chip.acknowledge (r : Chip × Option FaultCode) : Chip :=
  match r.2 with
  | none => { r.1 with out := .none }
  | some c => { r.1 with out := .fault c }

/-- The hint of an agent's access: a DE's descriptor and a remote module's packet carry one, every other access carries 0 (R187). -/
def hintOf (a : Agent) (h : BitVec 2) : BitVec 2 :=
  match a with
  | .de _ | .remote _ => h
  | _ => 0

/-- MAIN_PATH_ACCESS and SLIT_ACCESS: an access of one agent along one path, split as R183 says. -/
def Chip.stackAccess (a : Agent) (x : StackReq) (slit : Bool) (s : Chip) : Chip :=
  let w : Who := { whoOf a with hint := hintOf a x.hint }
  let at_ := x.addr.toNat
  let g := if slit then 64 else 256
  match x.data with
  | none =>
    let ps := pieces g at_ x.len
    if ps.any (fun p => s.heldOpen w p.1 p.2 false) then { s with out := .none } else Chip.answer (s.readStack w slit ps)
  | some bs =>
    let ps := pieces g at_ bs.length
    if ps.any (fun p => s.heldOpen w p.1 p.2 true) then { s with out := .none } else Chip.acknowledge (s.writeStack w slit bs ps)

/-- POSTED_REDUCTION. -/
def Chip.postReduction (a : Agent) (x : ReduceReq) (s : Chip) : Chip :=
  let r := s.reduceAt (whoOf a) x.addr.toNat x.op x.fmt x.data 0 false
  match r.2 with
  | .refused c => { r.1 with out := .fault c }
  | .held t q => { r.1.waitReduction t q with out := .none }
  | .taken _ => { r.1 with out := .none }

/-- FETCHING_ATOMIC: the element's old value returns. -/
def Chip.atomicAccess (a : Agent) (x : AtomicReq) (s : Chip) : Chip :=
  let n := elemBits x.fmt.toNat / 8
  Chip.answer (s.fetchAt (whoOf a) x.addr.toNat x.op x.fmt (leBytes n x.operand.toNat) x.newValue)

/-- REDUCTION_PERFORM. -/
def Chip.performOne (t : StackId) (s : Chip) : Chip := if (s.stack t).domainOn then (s.drain t 1).1 else s

/-! ## Range operations (R189, R203) -/

/-- A GO of STACK_CACHE.RANGE_CMD with an operation: refused while busy or with a bad range, else it acts on the lines present now. [log 49 DEDUCED, log 50 DEDUCED] -/
def Chip.rangeGo (d : DieId) (op : BitVec 3) (s : Chip) : Chip :=
  let x := s.die d
  if x.ringOn = false then s else
  let b := Block.stackCache d
  if x.rangeBusy then s.err b { bit := 1, code := 0 } else
  let base := x.rangeBase.toNat
  let size := x.rangeSize.toNat
  let bad : Bool := decide (base % 256 ≠ 0 ∨ size % 256 ≠ 0 ∨ size = 0 ∨ 2 ^ 41 < base + size)
  if op.toNat = 0 ∨ 5 ≤ op.toNat ∨ (op ≠ 4 ∧ bad) then (s.updDie d (fun y => { y with rangeOp := op })).err b { bit := 0, code := 0 } else
  let s := s.updDie d (fun y => { y with rangeOp := op, rangeBusy := true })
  if op = 4 then s.rangeOp d (fun _ => true) true true
  else s.rangeOp d (s.lineInRange d base size) (op = 1 || op = 3) (op = 2 || op = 3)

/-- RANGE_DONE. -/
def Chip.rangeDone (d : DieId) (s : Chip) : Chip :=
  if (s.die d).rangeBusy = false then s else
  (s.updDie d (fun x => { x with rangeBusy := false })).updHead (.stackCache d) (fun h => h.raise 1)

/-! ## The stack controller (R199 to R202, R492) -/

/-- A loop-back mode in force for a LOOPBACK value: 0 and 3 leave it off. -/
def lbMode (v : BitVec 2) : Nat := if v = 1 then 1 else if v = 2 then 2 else 0

/-- A write of STACK_CTRL.CTRL (R200, R492): a dropped write changes no field. -/
def Chip.stackCtrlWrite (t : StackId) (v : Word32) (s : Chip) : Chip :=
  if (s.die (stackDie t)).ringOn = false then s else
  let x := s.stack t
  let lb : BitVec 2 := v.extractLsb' 0 2
  let online := v.getLsbD 16
  let changes := lbMode lb ≠ lbMode x.loopback
  if (x.onlineAck ∧ changes) ∨ (online ∧ lbMode lb ≠ 0) ∨ (online ∧ x.domainOn = false) then
    s.err (.stackCtrl t) { bit := 0, code := 0 }
  else
    let ack := online && x.domainOn && x.filled
    s.updStack t (fun y =>
      { y with online := online, onlineAck := ack, lbRun := v.getLsbD 5, lbPattern := v.extractLsb' 2 3, loopback := lb,
               selfRefresh := if ack then false else y.selfRefresh || (lbMode lb ≠ 0 && y.domainOn) })

/-- LB_RUN: what the running pattern finds on one channel. [log 53 DEDUCED] -/
def Chip.lbRun (t : StackId) (r : LaneErrors) (s : Chip) : Chip :=
  let x := s.stack t
  if (s.die (stackDie t)).ringOn = false ∨ x.lbRun = false ∨ lbMode x.loopback = 0 ∨ r.count = 0 then s else
  let s := s.updStack t (fun y =>
    { y with lbErrCount := BitVec.ofNat 32 (Nat.min (y.lbErrCount.toNat + r.count.toNat) 0xFFFFFFFF),
             lbChanErr := y.lbChanErr ||| bitMask r.channel.val,
             lbData := Table.write y.lbData r.channel (Table.read 0 y.lbData r.channel ||| r.dataLanes),
             lbCheck := Table.write y.lbCheck r.channel (Table.read 0 y.lbCheck r.channel ||| r.checkLanes) })
  s.err (.stackCtrl t) { bit := 2, code := 0 }

/-- LB_ERR_COUNT_READ: the count is returned and cleared. -/
def Chip.lbCountRead (t : StackId) (s : Chip) : Chip :=
  if (s.die (stackDie t)).ringOn = false then { s with out := .fault Code.unreachable } else
  { s.updStack t (fun y => { y with lbErrCount := 0 }) with out := .word (s.stack t).lbErrCount.toNat }

/-- STACK_SELF_REFRESH: the stack has lost its controller (R20). -/
def Chip.enterSelfRefresh (t : StackId) (s : Chip) : Chip :=
  if (s.stack t).domainOn then s.updStack t (fun x => { x with selfRefresh := true, onlineAck := false }) else s

/-! ## The stack domain (R17, R484, R492) -/

/-- The pages of a stack's base die (R492). -/
def baseDieBlocks (t : StackId) : List Block := [.ulizen t, .slit t, .reducer t, .scrub t, .sync (.stack t), .perf (.stack t)]

/-- Clear every unit of a kind that a predicate picks. -/
def Table.drop {κ α : Type} (t : Table κ α) (p : κ → Bool) : Table κ α := t.filter (fun e => !p e.1)

/-- A stack domain switches off: the base die's state and the contents of the stack are lost; the die's stack cache drops its lines; the controller's page on the edge ring keeps its fields. [log 168 DESIGN CHOICE] -/
def Chip.stackOff (t : StackId) (s : Chip) : Chip :=
  let x := s.stack t
  if x.domainOn = false then s else
  let kept : Stack :=
    { domainOn := false, online := x.online, lbRun := x.lbRun, lbPattern := x.lbPattern, loopback := x.loopback, lbErrCount := x.lbErrCount,
      lbChanErr := x.lbChanErr, lbLaneSel := x.lbLaneSel, lbData := x.lbData, lbCheck := x.lbCheck,
      share0 := x.share0, share1 := x.share1, shareOther := x.shareOther }
  let mine (o : ObjId) : Bool := match o with
    | .stack u _ => decide (u = t)
    | _ => false
  { s with
    stk := Table.write s.stk t kept,
    cache := s.cache.filter (fun l => l.stack ≠ t),
    dram := s.dram.clear (dramKey t 0) (dramKey t 0 + 2 ^ 36),
    codeErrors := s.codeErrors.filter (fun e => e.1 < cwKey t 0 ∨ cwKey t 0 + 2 ^ 30 ≤ e.1),
    engineStore := s.engineStore.clear (t.val * 2 ^ 21) ((t.val + 1) * 2 ^ 21),
    objs := s.objs.drop mine,
    syncs := s.syncs.drop (fun u => decide (u = .stack t)),
    heads := s.heads.drop (fun b => decide (b ∈ baseDieBlocks t)) }

/-- STACK_FILL: a stack domain powers on and its base die writes every codeword as zero. [log 54 DEDUCED] -/
def Chip.stackFill (t : StackId) (s : Chip) : Chip :=
  let x := s.stack t
  if x.domainOn ∧ x.filled then s else
  { s with
    stk := Table.write s.stk t { x with domainOn := true, filled := true },
    dram := s.dram.clear (dramKey t 0) (dramKey t 0 + 2 ^ 36),
    codeErrors := s.codeErrors.filter (fun e => e.1 < cwKey t 0 ∨ cwKey t 0 + 2 ^ 30 ≤ e.1) }

/-! ## Refresh (R196 to R198) -/

/-- REFRESH_INTERVAL: one refresh more is owed to every pseudo-channel, up to 8. -/
def Chip.refreshInterval (t : StackId) (s : Chip) : Chip :=
  if (s.stack t).domainOn = false then s else
  s.updStack t (fun x => { x with owed := (List.finRange 64).map (fun p => (p, Nat.min 8 (Table.read 0 x.owed p + 1))) })

/-- Serve one owed refresh of a pseudo-channel. -/
def Chip.refreshOne (s : Chip) (t : StackId) (p : Fin 64) : Chip :=
  (s.updStack t (fun x => { x with owed := Table.write x.owed p (Table.read 0 x.owed p - 1) })).stackEvent t 5 16 1

/-- REFRESH_SERVE: the pseudo-channel is idle, or the engines stand at a yield point. -/
def Chip.refreshServe (t : StackId) (p : Fin 64) (s : Chip) : Chip :=
  let x := s.stack t
  if x.domainOn = false ∨ Table.read 0 x.owed p = 0 ∨ x.anyOpen then s
  else s.refreshOne t p

/-- FORCED_REFRESH: 8 refreshes are owed. -/
def Chip.forcedRefresh (t : StackId) (p : Fin 64) (s : Chip) : Chip :=
  let x := s.stack t
  if x.domainOn = false ∨ Table.read 0 x.owed p < 8 then s
  else
    -- the record of every active run says that a refresh was forced (R216)
    let s := s.updStack t (fun y => { y with slots := y.slots.map (fun e => (e.1, { e.2 with forced := e.2.forced || e.2.active.isSome })) })
    (s.refreshOne t p).err (.stackCtrl t) { bit := 1, code := 0 }

/-! ## Scrubbing (R417, R418) -/

/-- Bursts of one pseudo-channel. -/
def sweepBursts : Nat := 4194304

/-- The stack address of burst i of a pseudo-channel (R182): channel in the low five bits of p, pseudo-channel above. -/
def sweepAddr (p : Fin 64) (i : Nat) : Nat := i * 2 ^ 14 + p.val * 256

/-- Ticks of the base-die oscillator in one millisecond (R43). -/
def ticksPerMs : Nat := 10000

/-- The bursts scrubbed in the current lap. -/
def Stack.lapProgress (x : Stack) : Nat := (List.finRange 64).foldl (fun n p => n + Table.read 0 x.sweep p) 0

/-- The time since the current lap began, in milliseconds. -/
def Stack.lapAge (x : Stack) : Nat := (x.ticks - x.lapStart).toNat / ticksPerMs

/-- A lap ends when every pseudo-channel has finished its share. -/
def Chip.lapEnd (s : Chip) (t : StackId) : Chip :=
  let x := s.stack t
  if (List.finRange 64).any (fun p => Table.read 0 x.sweep p < sweepBursts) then s else
  s.updStack t (fun x =>
    { x with lapped := true, stalled := false, laps := x.laps + 1, lapMs := BitVec.ofNat 32 x.lapAge, lapStart := x.ticks, sweep := [] })

/-- SCRUB_BURST: the next burst of one sweep is read; a correctable codeword is rewritten corrected. -/
def Chip.scrubBurst (t : StackId) (p : Fin 64) (s : Chip) : Chip :=
  let x := s.stack t
  let i := Table.read 0 x.sweep p
  if x.domainOn = false ∨ x.filled = false ∨ x.scrubEn = false ∨ x.anyOpen ∨ sweepBursts ≤ i then s else
  let base := sweepAddr p i
  let s := (List.range 4).foldl (fun s j =>
    let a := base + j * 64
    let dirty : Bool := Table.read [] s.codeErrors (cwKey t ((s.stack t).phys a)) ≠ []
    match s.readCodeword t a .scrub with
    | (s, .ok bs) => if dirty then s.writeCodeword t a bs else s
    | (s, .error _) => s) s
  let s := s.stackEvent t 9 16 1
  (s.updStack t (fun y => { y with sweep := Table.write y.sweep p (i + 1) })).lapEnd t

/-- SCRUB_STALL: once LAP_AGE_MS has passed STALL_MS. [log 56 DEDUCED] -/
def Chip.scrubStall (t : StackId) (s : Chip) : Chip :=
  if (s.stack t).domainOn = false ∨ (s.stack t).lapAge ≤ (s.stack t).stallMs.toNat then s
  else (s.updStack t (fun x => { x with stalled := true })).err (.scrub t) { bit := 4, code := 0 }

/-! ## Poison (R493) and retirement (R420) -/

/-- A write of a base-die page while the stack's domain is off (R492). -/
def Chip.baseDieOff (s : Chip) : Chip := { s with out := .fault Code.unreachable }

/-- POISON_GO. -/
def Chip.poisonGo (t : StackId) (s : Chip) : Chip :=
  let x := s.stack t
  if x.domainOn = false then s.baseDieOff else
  let base := x.poisonBase.toNat
  let size := x.poisonSize.toNat
  if base % 4096 ≠ 0 ∨ size % 4096 ≠ 0 ∨ size = 0 ∨ 2 ^ 36 < base + size ∨ x.poisonBusy then s.err (.scrub t) { bit := 8, code := 0 } else
  let s := s.updStack t (fun y => { y with poisonBusy := true })
  (List.range (size / 64)).foldl (fun s i => s.poisonCodeword t (base + i * 64)) s

/-- POISON_DONE. -/
def Chip.poisonDone (t : StackId) (s : Chip) : Chip := s.updStack t (fun y => { y with poisonBusy := false })

/-- RETIRE_GO. A GO while a retirement runs is dropped. [log 57 DEDUCED] -/
def Chip.retireGo (t : StackId) (s : Chip) : Chip :=
  let x := s.stack t
  if x.domainOn = false then s.baseDieOff else
  if x.retireBusy then s else
  let b := x.retireBlock.toNat
  let r := x.retireRepl.toNat
  let named (n : Nat) : Bool := x.retireTable.any (fun e => e.1 = n || e.2 = n)
  let bad (bit : Nat) : ErrorInfo := { bit := bit, code := 0 }
  if 128 ≤ x.retireTable.length then s.updHead (.scrub t) (fun h => h.recordAll [bad 6, bad 7])
  else if b = r ∨ named b ∨ named r then s.err (.scrub t) (bad 6)
  else s.updStack t (fun y => { y with retireBusy := true })

/-- CE_LOG_READ: the low word of the oldest entry is returned and the entry leaves the queue. -/
def Chip.ceLogRead (t : StackId) (s : Chip) : Chip :=
  if (s.stack t).domainOn = false ∨ (s.die (stackDie t)).ringOn = false then { s with out := .fault Code.unreachable } else
  match (s.stack t).ceLog with
  | [] => { s.updStack t (fun x => { x with ceLast := none }) with out := .word 0 }
  | e :: rest => { s.updStack t (fun x => { x with ceLog := rest, ceLast := some e }) with out := .word (e.saddr % 2 ^ 32) }

/-! ## Meanings -/

def execTfenceGo (d : DieId) : State → Outcome State Fault Refusal := onChip (Chip.live (Chip.tfenceGo d))
def execTfenceDone (d : DieId) : State → Outcome State Fault Refusal := onChip (Chip.live (Chip.tfenceDone d))
def execRegionEntryWrite (q : Requester) (d : DieId) (r : Fin 2048) (v : RegData) : State → Outcome State Fault Refusal :=
  onChip (Chip.live (Chip.regionWrite q d r v))
def execMainPathAccess (a : Agent) (x : StackReq) : State → Outcome State Fault Refusal := onChip (Chip.live (Chip.stackAccess a x false))
def execSlitAccess (a : Agent) (x : StackReq) : State → Outcome State Fault Refusal := onChip (Chip.live (Chip.stackAccess a x true))
def execPostedReduction (a : Agent) (x : ReduceReq) : State → Outcome State Fault Refusal := onChip (Chip.live (Chip.postReduction a x))
def execFetchingAtomic (a : Agent) (x : AtomicReq) : State → Outcome State Fault Refusal := onChip (Chip.live (Chip.atomicAccess a x))
def execReductionPerform (t : StackId) : State → Outcome State Fault Refusal := onChip (Chip.live (Chip.performOne t))
def execStackCacheClean (d : DieId) : State → Outcome State Fault Refusal := onChip (Chip.live (Chip.rangeGo d 1))
def execStackCacheInval (d : DieId) : State → Outcome State Fault Refusal := onChip (Chip.live (Chip.rangeGo d 2))
def execStackCacheCleanInval (d : DieId) : State → Outcome State Fault Refusal := onChip (Chip.live (Chip.rangeGo d 3))
def execCleanInvalAll (d : DieId) : State → Outcome State Fault Refusal := onChip (Chip.live (Chip.rangeGo d 4))
def execRangeDone (d : DieId) : State → Outcome State Fault Refusal := onChip (Chip.live (Chip.rangeDone d))
def execStackOnlineWrite (t : StackId) (v : BitVec 32) : State → Outcome State Fault Refusal := onChip (Chip.live (Chip.stackCtrlWrite t v))
def execLoopbackWrite (t : StackId) (v : BitVec 32) : State → Outcome State Fault Refusal := onChip (Chip.live (Chip.stackCtrlWrite t v))
def execLbRun (t : StackId) (r : LaneErrors) : State → Outcome State Fault Refusal := onChip (Chip.live (Chip.lbRun t r))
def execLbErrCountRead (t : StackId) : State → Outcome State Fault Refusal := onChip (Chip.live (Chip.lbCountRead t))
def execStackSelfRefresh (t : StackId) : State → Outcome State Fault Refusal := onChip (Chip.enterSelfRefresh t)
def execStackDomainOff (t : StackId) : State → Outcome State Fault Refusal := onChip (Chip.stackOff t)
def execStackFill (t : StackId) : State → Outcome State Fault Refusal := onChip (Chip.stackFill t)
def execRefreshInterval (t : StackId) : State → Outcome State Fault Refusal := onChip (Chip.live (Chip.refreshInterval t))
def execRefreshServe (t : StackId) (p : Fin 64) : State → Outcome State Fault Refusal := onChip (Chip.live (Chip.refreshServe t p))
def execForcedRefresh (t : StackId) (p : Fin 64) : State → Outcome State Fault Refusal := onChip (Chip.live (Chip.forcedRefresh t p))
def execScrubStall (t : StackId) : State → Outcome State Fault Refusal := onChip (Chip.live (Chip.scrubStall t))
def execPoisonGo (t : StackId) : State → Outcome State Fault Refusal := onChip (Chip.live (Chip.poisonGo t))
def execPoisonDone (t : StackId) : State → Outcome State Fault Refusal := onChip (Chip.live (Chip.poisonDone t))
def execRetireGo (t : StackId) : State → Outcome State Fault Refusal := onChip (Chip.live (Chip.retireGo t))
def execRetireCopy (t : StackId) : State → Outcome State Fault Refusal := onChip (Chip.live (Chip.retireCopy t))
def execCeLogRead (t : StackId) : State → Outcome State Fault Refusal := onChip (Chip.live (Chip.ceLogRead t))

end Sys2Proof.Machine
end

