-- ==== Sys2Proof/Machine/Ulizen.lean ====
section
/-! DEFINITION. Ulizen command slots and runs (R210 to R217, R236, R237), the micro-program store's staging (R223), and the page walker (R224, R225, R243 to R247). -/

namespace Sys2Proof.Machine

open Host

/-! ## Units of a stack -/

def Stack.slot (x : Stack) (n : Fin 1024) : Slot := Table.read {} x.slots n
def Stack.engine (x : Stack) (e : Fin 32) : Engine := Table.read {} x.engines e
def Chip.slotOf (s : Chip) (t : StackId) (n : Fin 1024) : Slot := (s.stack t).slot n
def Chip.engineOf (s : Chip) (t : StackId) (e : Fin 32) : Engine := (s.stack t).engine e
def Chip.updSlot (s : Chip) (t : StackId) (n : Fin 1024) (f : Slot → Slot) : Chip :=
  s.updStack t (fun x => { x with slots := Table.write x.slots n (f (x.slot n)) })
def Chip.updEngine (s : Chip) (t : StackId) (e : Fin 32) (f : Engine → Engine) : Chip :=
  s.updStack t (fun x => { x with engines := Table.write x.engines e (f (x.engine e)) })

/-- A slot of a run keeps its fields: it is enabled or a run of it is active (R211). -/
def Slot.busy (x : Slot) : Bool := x.en || x.active.isSome

/-- An engine of a run still executes. -/
def Slot.executes (x : Slot) (e : Fin 32) : Bool :=
  x.active.isSome && x.engines.getLsbD e.val && !x.stopped.getLsbD e.val && !x.ended.getLsbD e.val

/-- Engine e takes part in a run (R239). -/
def Stack.engineBusy (x : Stack) (e : Fin 32) : Bool := (x.engine e).slot.isSome

/-- Key of a byte of an engine store. -/
def storeKey (t : StackId) (e : Fin 32) (off : Nat) : Nat := t.val * 2 ^ 21 + e.val * 2 ^ 16 + off
def Chip.storeRead (s : Chip) (t : StackId) (e : Fin 32) (off n : Nat) : List Byte := s.engineStore.bytes (storeKey t e off) n
def Chip.storeWrite (s : Chip) (t : StackId) (e : Fin 32) (off : Nat) (bs : List Byte) : Chip :=
  { s with engineStore := s.engineStore.putBytes (storeKey t e off) bs }
def Chip.storeClear (s : Chip) (t : StackId) (e : Fin 32) : Chip :=
  { s with engineStore := s.engineStore.clear (storeKey t e 0) (storeKey t e 0 + 65536) }

/-- Who makes a run's outside accesses (R215). -/
def Chip.runWho (s : Chip) (t : StackId) (n : Fin 1024) : Who := { agent := .run t n, die := stackDie t, tag := (s.slotOf t n).tag }

/-- The dome a run acts for. -/
def Slot.domeId (x : Slot) : DomeId := clip 16 x.dome.toNat

/-- The stack's domain is on. -/
def Chip.baseOn (s : Chip) (t : StackId) : Bool := (s.stack t).domainOn

/-! ## Slots (R210, R211) -/

/-- Record a slot error of the ULIZEN page. [log 63 DEDUCED] -/
def Chip.slotErrs (s : Chip) (t : StackId) (n : Fin 1024) (bits : List Nat) : Chip :=
  s.updHead (.ulizen t) (fun h => h.recordAll (bits.map (fun b => { bit := b, code := 0, syn := BitVec.ofNat 32 (n.val * 2 ^ 22) })))

/-- The fields of slot CTRL other than EN (R210). -/
def Slot.withCtrl (x : Slot) (v : Word32) : Slot :=
  { x with cplScope := v.extractLsb' 27 3, dbObj := v.extractLsb' 16 8, dome := v.extractLsb' 12 4, entry := v.extractLsb' 0 12 }

/-- Slot CTRL as it reads (R210). -/
def Slot.ctrl (x : Slot) : Word32 :=
  (if x.en then 1#1 else 0#1) ++ 0#1 ++ x.cplScope ++ 0#3 ++ x.dbObj ++ x.dome ++ x.entry

/-- A slot that may not be enabled (R211). -/
def Slot.malformed (x : Slot) : Bool :=
  decide (x.engines = 0) || decide (5 ≤ x.cplScope.toNat) || decide (128 < x.preLen.toNat) || decide (8 < x.cplDepth.toNat) ||
  decide (8 < x.argDepth.toNat) || decide (x.argBase.toNat % 64 ≠ 0) || decide (x.cplBase.toNat % 64 ≠ 0)

/-- Clearing EN: the slot's runs that have not started leave the queue (R211, R213). -/
def Chip.disableSlot (s : Chip) (t : StackId) (n : Fin 1024) : Chip :=
  (s.updSlot t n (fun y => { y with en := false })).updStack t (fun y => { y with runQueue := y.runQueue.filter (fun e => e.1 ≠ n) })

/-- SLOT_CTRL_WRITE. -/
def Chip.slotCtrlWrite (t : StackId) (n : Fin 1024) (v : Word32) (s : Chip) : Chip :=
  if s.baseOn t = false then s.baseDieOff else
  let x := s.slotOf t n
  let want := x.withCtrl v
  let same : Bool := decide (want.cplScope = x.cplScope) && decide (want.dbObj = x.dbObj) && decide (want.dome = x.dome) && decide (want.entry = x.entry)
  if v.getLsbD 31 = false then
    let s := s.disableSlot t n
    if x.busy then (if same then s else s.slotErrs t n [8])
    else s.updSlot t n (fun _ => { want with en := false })
  else if x.busy then s.slotErrs t n [8]
  else
    let conflict := (s.stack t).slots.any (fun e => decide (e.1 ≠ n) && e.2.en && decide (e.2.dbObj = want.dbObj))
    let bits := (if conflict then [9] else []) ++ (if want.malformed then [10] else [])
    if bits ≠ [] then s.slotErrs t n bits else
    let s := s.updSlot t n (fun _ => { want with en := true })
    let count := (s.obj (.stack t (clip 256 want.dbObj.toNat))).count.toNat
    s.updStack t (fun y => y.pend n count)

/-- Write a field of a slot that is not busy. -/
def Chip.slotFieldWrite (t : StackId) (n : Fin 1024) (f : Slot → Slot) (s : Chip) : Chip :=
  if s.baseOn t = false then s.baseDieOff else
  if (s.slotOf t n).busy then s.slotErrs t n [8] else s.updSlot t n f

/-! ## Faults and stops of a run (R236 to R238) -/

/-- The ULIZEN.ERR_STATUS bit of a run's fault (R239). -/
def ulzBit (c : FaultCode) : Nat :=
  if 0x1301 ≤ c.toNat ∧ c.toNat ≤ 0x1307 then c.toNat - 0x1301 else if c >>> 12 = 5 then 16 else 17

/-- Capture a fault of a run with its slot, engine and micro-PC. -/
def Chip.runErr (s : Chip) (t : StackId) (n : Fin 1024) (e : Nat) (upc : Nat) (c : FaultCode) (addr : Word64) : Chip :=
  let x := s.slotOf t n
  let s := s.emit (stackDie t) x.domeId 2 (s.stackRec t 5 x.tag (BitVec.ofNat 64 (c.toNat + upc % 65536 * 65536)))
  let s := s.err (.ulizen t)
    { bit := ulzBit c, code := c, tag := x.tag, addr := addr, syn := BitVec.ofNat 32 (n.val * 2 ^ 22 + e * 2 ^ 17 + upc % 4096) }
  s.log (stackDie t) 2 c (BitVec.ofNat 8 x.dome.toNat) x.tag addr

/-- Stop an engine that has not ended: it closes its block, and the event of an entry it has completed is still presented (R233, R236). -/
def Chip.stopEngine (s : Chip) (t : StackId) (x : Slot) (e : Fin 32) : Chip :=
  let owed := (s.engineOf t e).kvOwed
  let s := s.updEngine t e (fun g => { g with openBlock := none, rep := none, kvNext := 0, kvOwed := false })
  if owed then s.presentOwed (stackDie t) 1 x.dome else s

/-- Stop a slot's run: every engine that has not ended stops, and every engine of the run keeps its last completed burst for TORN_ROW (R236, R239). -/
def Chip.stopRun (s : Chip) (t : StackId) (n : Fin 1024) : Chip :=
  let x := s.slotOf t n
  let s := (List.finRange 32).foldl (fun s e => if x.executes e then s.stopEngine t x e else s) s
  let s := (List.finRange 32).foldl (fun s e =>
    if x.engines.getLsbD e.val then s.updEngine t e (fun g => { g with tornRow := g.lastRow }) else s) s
  s.updSlot t n (fun y => { y with stopped := y.stopped ||| (y.engines &&& ~~~y.ended) })

/-- An engine of a run faults: the run is FAULTED and every other engine of it stops. -/
def Chip.runFault (s : Chip) (t : StackId) (n : Fin 1024) (e : Fin 32) (upc : Nat) (c : FaultCode) (addr : Word64) : Chip :=
  let s := s.runErr t n e.val upc c addr
  let s := s.updSlot t n (fun x => { x with runFault := x.runFault.or (some (c, e, upc % 4096, addr)) })
  s.stopRun t n

/-! ## The start of a run (R206, R213, R214) -/

/-- Whether the next run of a slot may start: the slot is enabled, the run is queued, its engines are idle, and no run ahead of it uses one of them. -/
def Stack.mayStart (x : Stack) (n : Fin 1024) : Bool :=
  let mask := (x.slot n).engines
  let ahead := x.runQueue.takeWhile (fun e => e.1 ≠ n)
  (x.slot n).en && x.runQueue.any (fun e => decide (e.1 = n)) && !x.resetBusy && (x.slot n).active.isNone &&
    (List.finRange 32).all (fun e => !(mask.getLsbD e.val && x.engineBusy e)) &&
    ahead.all (fun e => (x.slot e.1).engines &&& mask = 0)

/-- A queue without the first run of a slot: each entry is a slot, its first run and how many follow on. -/
def dequeueFirst (n : Fin 1024) : List (Fin 1024 × Nat × Nat) → List (Fin 1024 × Nat × Nat)
  | [] => []
  | e :: t => if e.1 ≠ n then e :: dequeueFirst n t else if e.2.2 ≤ 1 then t else (e.1, e.2.1 + 1, e.2.2 - 1) :: t

/-- Take the slot's next run from the queue. -/
def Stack.dequeue (x : Stack) (n : Fin 1024) : Stack := { x with runQueue := dequeueFirst n x.runQueue }

/-- The first engine of a mask. -/
def firstEngine (mask : Word32) : Fin 32 := ((List.finRange 32).find? (fun e => mask.getLsbD e.val)).getD 0

/-- How many engines of a mask lie below e. -/
def rankOf (mask : Word32) (e : Fin 32) : Nat := ((List.finRange 32).filter (fun i => decide (i < e) && mask.getLsbD i.val)).length

/-- RUN_START. -/
def Chip.runStart (t : StackId) (n : Fin 1024) (s : Chip) : Chip :=
  if s.baseOn t = false ∨ (s.stack t).mayStart n = false then s else
  let x := s.slotOf t n
  let run := x.runSeq
  let mask := x.engines
  let mine := (List.finRange 32).filter (fun e => mask.getLsbD e.val)
  let s := s.updStack t (fun y => { y.dequeue n with bankReads := y.bankReads.filter (fun r => !mask.getLsbD r.1.val) })
  let s := s.updSlot t n (fun y =>
    { y with runSeq := run + 1, active := some run.toNat, runFault := none, torn := false, stopped := 0, ended := 0, corrected := false,
             forced := false, userA := 0, userB := 0, headers := [] })
  let s := mine.foldl (fun s e => if (s.engineOf t e).storeDome = some x.dome then s else s.storeClear t e) s
  let regs (e : Fin 32) : Table (Fin 32) Word64 :=
    [(1, BitVec.ofNat 64 e.val), (2, BitVec.ofNat 64 (rankOf mask e)), (3, BitVec.ofNat 64 mine.length), (4, run)]
  let s := mine.foldl (fun s e => s.updEngine t e (fun g =>
    { g with u := regs e, v := [], upc := x.entry.toNat, rep := none, openBlock := none, slot := some n, storeDome := some x.dome,
             bursts := 0, wrote := [], kvNext := 0, kvOwed := false, lastRow := 0xFFFFFFFFFFFFFFFF })) s
  let s := s.emit (stackDie t) x.domeId 3 (s.stackRec t 6 x.tag run)
  let w := s.runWho t n
  let argAt := x.argBase.toNat + run.toNat % 2 ^ x.argDepth.toNat * 64
  match s.load w argAt 64 with
  | (s, .error c) => s.runFault t n (firstEngine mask) x.entry.toNat c (selfAddr argAt)
  | (s, .ok args) =>
    let s := mine.foldl (fun s e => s.updEngine t e (fun g =>
      { g with u := g.u ++ (List.finRange 8).map (fun k => ((clip 32 (16 + k.val) : Fin 32), BitVec.ofNat 64 (leNat ((args.drop (8 * k.val)).take 8)))) })) s
    if x.preLen = 0 then s else
    let from_ := leNat (args.take 8)
    match s.load w from_ (x.preLen.toNat * 256) with
    | (s, .error c) => s.runFault t n (firstEngine mask) x.entry.toNat c (selfAddr from_)
    | (s, .ok bs) => mine.foldl (fun s e => s.storeWrite t e 0 bs) s

/-! ## The end of a run (R216, R217) -/

/-- Every engine of the run has ended, faulted or been stopped. -/
def Slot.finished (x : Slot) : Bool := x.active.isSome && decide (x.engines &&& ~~~(x.stopped ||| x.ended) = 0)

/-- The run's status: 1 COMPLETE, 3 FAULTED, 4 TORN. -/
def Slot.status (x : Slot) : Nat := if x.runFault.isSome then 3 else if x.torn then 4 else 1

/-- The engine a record reports; none for a COMPLETE run. -/
def Slot.reported (x : Slot) : Option (Fin 32) :=
  match x.runFault with
  | some f => some f.2.1
  | none => if x.torn then some (firstEngine x.stopped) else none

/-- The completion record of a run (R216); UPC and BURSTS, which tell of the reported engine, hold open values when there is none. [log 58 DESIGN CHOICE] -/
def Stack.record (y : Stack) (n : Fin 1024) (x : Slot) (run : Nat) (open_ : BitVec 48) : List Byte :=
  let g := match x.reported with
    | some e => y.engine e
    | none => { bursts := open_.extractLsb' 16 32 }
  let upc := match x.runFault with
    | some f => f.2.2.1
    | none => if x.reported.isSome then g.upc else (open_.extractLsb' 0 16).toNat
  let fault : Nat × Nat := match x.runFault with
    | some f => (f.1.toNat, f.2.2.2.toNat)
    | none => (0, 0)
  let eng : Nat := match x.reported with
    | some e => e.val
    | none => 0xFF
  leBytes 8 run ++ leBytes 2 n.val ++ leBytes 2 x.tag.toNat ++ leBytes 1 x.status ++
    leBytes 1 ((if x.corrected then 1 else 0) + (if x.forced then 2 else 0)) ++ leBytes 2 fault.1 ++ leBytes 4 x.engines.toNat ++
    leBytes 4 x.stopped.toNat ++ leBytes 2 upc ++ leBytes 1 eng ++ leBytes 1 0 ++ leBytes 4 g.bursts.toNat ++ leBytes 8 g.lastRow.toNat ++
    leBytes 8 fault.2 ++ leBytes 8 x.userA.toNat ++ leBytes 8 x.userB.toNat

/-- Doorbells that arrived during a reset pend once it ends (R236). -/
def Chip.pendAll (s : Chip) (t : StackId) : Chip :=
  let en := (s.stack t).slots.filter (fun e => e.2.en)
  ((List.finRange 1024).filter (fun n => en.any (fun e => decide (e.1 = n)))).foldl (fun s n =>
    let count := (s.obj (.stack t (clip 256 (s.slotOf t n).dbObj.toNat))).count.toNat
    s.updStack t (fun y => y.pend n count)) s

/-- A unit reset ends when its runs have ended. -/
def Chip.resetEnd (s : Chip) (t : StackId) : Chip :=
  if (s.stack t).resetBusy = false ∨ (s.stack t).slots.any (fun e => e.2.active.isSome) then s
  else (s.updStack t (fun y => { y with resetBusy := false })).pendAll t

/-- RUN_END: the record, then the signal; the engines become idle. [log 65 DEDUCED] -/
def Chip.runEnd (t : StackId) (n : Fin 1024) (s : Chip) : Chip :=
  let x := s.slotOf t n
  match x.active with
  | none => s
  | some run =>
    if s.baseOn t = false ∨ x.finished = false then s else
    let y := s.stack t
    let w := s.runWho t n
    let at_ := x.cplBase.toNat + run % 2 ^ x.cplDepth.toNat * 64
    let f := if x.reported.isSome then (0, s) else s.freeBits 48
    let r := f.2.store w at_ (y.record n x run f.1)
    let s := match r.2 with
      | none => r.1
      | some c => r.1.runErr t n 0 0 c (selfAddr at_)
    -- of a torn run with the ring down neither the record nor the signal is delivered (R236)
    let s := if x.status = 4 ∧ r.2 = some Code.unreachable then s else
      match s.release w x.cplSig 1 x.cplScope (.ulizen t n) with
      | (s, none) => s
      -- an address off the base of an object names none
      | (s, some c) => s.runErr t n 0 0 (if c = Code.misaligned then Code.syncTarget else c) x.cplSig
    let s := if x.status = 4 then s.updHead (.ulizen t) (fun h => h.raise 1) else s
    let s := if x.status = 1 then s else { s with badRuns := s.badRuns ||| BitVec.ofNat 16 (2 ^ x.dome.toNat) }
    let s := s.emit (stackDie t) x.domeId 3 (s.stackRec t 7 x.tag (BitVec.ofNat 64 (x.status + run % 2 ^ 56 * 256)))
    let s := s.stackEvent t 9 x.dome.toNat 1
    let s := s.updStack t (fun y => { y with engines := y.engines.map (fun e => (e.1, if e.2.slot = some n then { e.2 with slot := none } else e.2)) })
    (s.updSlot t n (fun z => { z with active := none })).resetEnd t

/-! ## Unit reset (R236) -/

/-- Every run of a stack of which an engine still executes is torn. -/
def Chip.tearRuns (s : Chip) (t : StackId) : Chip :=
  let runs := (s.stack t).slots.filter (fun e => e.2.active.isSome && !e.2.finished)
  runs.foldl (fun s e => (s.updSlot t e.1 (fun x => { x with torn := true })).stopRun t e.1) s

/-- A unit reset: the runs are torn, pending runs never start, and the look-aside buffer and the engine stores empty. -/
def Chip.unitReset (t : StackId) (s : Chip) : Chip :=
  if s.baseOn t = false then s else
  let s := s.tearRuns t
  let s := (List.finRange 1024).foldl (fun s n =>
    let x := s.slotOf t n
    let count := (s.obj (.stack t (clip 256 x.dbObj.toNat))).count
    if x.runSeq = count then s else s.updSlot t n (fun x => { x with runSeq := count })) s
  let s := (List.finRange 32).foldl (fun s e => s.storeClear t e) s
  (s.updStack t (fun y => { y with runQueue := [], lab := [], labBusy := false, resetBusy := true })).resetEnd t

/-- UNIT_RESET. -/
def Chip.unitResetGo (t : StackId) (s : Chip) : Chip := if s.baseOn t = false then s.baseDieOff else Chip.unitReset t s

/-! ## The look-aside buffer (R225) and the micro-program store (R223) -/

def uopOf (w : BitVec 128) : Nat := (field w 127 120).toNat
def Stack.uword (x : Stack) (pc : Nat) : BitVec 128 := Table.read 0 x.ustore (clip 4096 pc)

/-- An engine stands at a PAGE that may have begun. -/
def Stack.paging (x : Stack) : Bool :=
  (List.finRange 32).any (fun e => match (x.engine e).slot with
    | some n => (x.slot n).executes e && decide (uopOf (x.uword (x.engine e).upc) = 0x28)
    | none => false)

/-- An invalidation: LAB_BUSY stays 1 while a PAGE begun before it is unfinished. [log 34 DEDUCED] -/
def Chip.labInval (t : StackId) (pick : BitVec 32 → Bool) (s : Chip) : Chip :=
  if s.baseOn t = false then s.baseDieOff else
  s.updStack t (fun x => { x with lab := x.lab.filter (fun e => !pick e.1), labBusy := x.labBusy || x.paging })

/-- LAB_INVAL_COMPLETE. -/
def Chip.labDone (t : StackId) (s : Chip) : Chip := s.updStack t (fun x => { x with labBusy := false })

/-- One of the four 32-bit parts of a word is written (R223). -/
def Chip.uwordWrite (q : Requester) (t : StackId) (w : Fin 4096) (p : Fin 4) (v : Word32) (s : Chip) : Chip :=
  match s.pageRefusal q (.ulizen t) with
  | some c => s.refusePage q (.ulizen t) c (selfAddr (stackReg t (0x20 + w.val / 256) (w.val % 256 * 16 + p.val * 4)))
  | none =>
    s.updStack t (fun x =>
      let latch := Table.read (0, []) x.stage q
      let mine : Table (Fin 3) Word32 := if latch.1 = w.val then latch.2 else []
      if h : p.val < 3 then { x with stage := Table.write x.stage q (w.val, Table.write mine ⟨p.val, h⟩ v) }
      else
        let old := Table.read 0 x.ustore w
        let part (i : Fin 3) : Word32 := Table.read (old.extractLsb' (32 * i.val) 32) mine i
        { x with ustore := Table.write x.ustore w (v ++ part 2 ++ part 1 ++ part 0), stage := x.stage.filter (fun e => e.1 ≠ q) })

/-! ## The page walker (R224, R243 to R247) -/

/-- A read of the walker: as an agent of the slot's dome, through the Slit path. -/
def Chip.walkRead (s : Chip) (w : Who) (a n : Nat) : Chip × Except FaultCode (List Byte) :=
  if a < 2 ^ 41 then s.readMemVia w a n true .walker else s.load w a n

/-- A fault of the walker: its code and the local address of the access at fault; 0 where none is made. [log 160 DEDUCED] -/
abbrev WalkFault := FaultCode × Nat

/-- The header of a handle, read once per run: LIST, ENTRIES and the length. -/
def Chip.walkHeader (s : Chip) (t : StackId) (n : Fin 1024) (handle : Nat) : Chip × Except WalkFault (Nat × Nat × Nat) :=
  let x := s.slotOf t n
  match x.headers.find? (fun e => e.1.toNat = handle) with
  | some e => (s, .ok e.2)
  | none =>
    if handle = 0 ∨ 2 ^ 32 ≤ handle then (s, .error (Code.ulzPage, 0)) else
    let w := s.runWho t n
    let at_ := handle * 64
    match s.walkRead w at_ 64 with
    | (s, .error c) => (s, .error (c, at_))
    | (s, .ok h) =>
      let f (off size : Nat) : Nat := leNat ((h.drop off).take size)
      let list := f 0 8
      let lenAt := f 8 8
      let entries := f 0x10 4
      if f 0x14 4 ≠ 1 ∨ 65536 < entries ∨ list % 64 ≠ 0 ∨ lenAt % 4 ≠ 0 then (s, .error (Code.ulzPage, at_)) else
      match s.walkRead w lenAt 4 with
      | (s, .error c) => (s, .error (c, lenAt))
      | (s, .ok l) =>
        let len := leNat l
        if 256 * entries < len then (s, .error (Code.ulzPage, lenAt)) else
        (s.updSlot t n (fun y => { y with headers := (BitVec.ofNat 32 handle, list, entries, len) :: y.headers }), .ok (list, entries, len))

/-- Keep an entry in the look-aside buffer of 64; which one leaves a full buffer is a free choice (R225). -/
def Chip.labPut (s : Chip) (t : StackId) (handle ordinal : Nat) (page : Word32) : Chip :=
  let e := (BitVec.ofNat 32 handle, ordinal, page)
  let rest := (s.stack t).lab.filter (fun x => ¬ (x.1.toNat = handle ∧ x.2.1 = ordinal))
  if rest.length < 64 then s.updStack t (fun x => { x with lab := e :: rest })
  else
    let c := s.freeChoice 64
    c.2.updStack t (fun x => { x with lab := e :: rest.eraseIdx c.1 })

/-- Whether the look-aside buffer holds an ordinal of a handle. -/
def Stack.labHolds (x : Stack) (handle o : Nat) : Bool := x.lab.any (fun e => decide (e.1.toNat = handle) && decide (e.2.1 = o))

/-- The page number of an ordinal: from the look-aside buffer, or by a read of the 16 entries around it, of which those inside the list are kept (R225, R248). -/
def Chip.walkEntry (s : Chip) (t : StackId) (n : Fin 1024) (handle : Nat) (hd : Nat × Nat × Nat) (o : Nat) : Chip × Except WalkFault Word32 :=
  match (s.stack t).lab.find? (fun e => e.1.toNat = handle ∧ e.2.1 = o) with
  | some e => (s, .ok e.2.2)
  | none =>
    let block := hd.1 + o / 16 * 64
    match s.walkRead (s.runWho t n) block 64 with
    | (s, .error c) => (s, .error (c, block))
    | (s, .ok bs) =>
      let at_ (i : Nat) : Word32 := BitVec.ofNat 32 (leNat ((bs.drop (4 * i)).take 4))
      let s := (List.range 16).foldl (fun s i =>
        let k := o / 16 * 16 + i
        if 256 * k < hd.2.2 then s.labPut t handle k (at_ i) else s) s
      (s, .ok (at_ (o % 16)))

/-- Whether a page number is malformed (R243); its stack; its stack address. -/
def pageBad (p : Word32) : Bool := decide ((field p 26 24).toNat ≠ 0)
def pageStack (p : Word32) : Nat := (field p 31 27).toNat
def pageAddr (p : Word32) : Nat := (field p 23 0).toNat * 4096

/-- Resolve one ordinal to a page of this stack; a malformed entry faults at the entry's own address. -/
def Chip.walkPage (s : Chip) (t : StackId) (n : Fin 1024) (handle : Nat) (hd : Nat × Nat × Nat) (o : Nat) : Chip × Except WalkFault (Option Nat) :=
  match s.walkEntry t n handle hd o with
  | (s, .error c) => (s, .error c)
  | (s, .ok p) =>
    if pageBad p then (s, .error (Code.ulzPage, hd.1 + 4 * o)) else (s, .ok (if pageStack p = t.val then some (pageAddr p) else none))

/-- MODE 1: the lowest ordinal at or above o, inside the list, whose page lies in this stack. -/
def Chip.walkFirst (s : Chip) (t : StackId) (n : Fin 1024) (handle : Nat) (hd : Nat × Nat × Nat) : Nat → Nat → Chip × Except WalkFault (Option (Nat × Nat))
  | 0, _ => (s, .ok none)
  | fuel + 1, o =>
    if hd.2.2 ≤ 256 * o then (s, .ok none) else
    match s.walkPage t n handle hd o with
    | (s, .error c) => (s, .error c)
    | (s, .ok (some a)) => (s, .ok (some (a, o)))
    | (s, .ok none) => Chip.walkFirst s t n handle hd fuel (o + 1)

/-! ## Meanings -/

def execSlotCtrlWrite (t : StackId) (n : Fin 1024) (v : BitVec 32) : State → Outcome State Fault Refusal := onChip (Chip.live (Chip.slotCtrlWrite t n v))
def execSlotRunSeqWrite (t : StackId) (n : Fin 1024) (v : BitVec 64) : State → Outcome State Fault Refusal :=
  onChip (Chip.live (Chip.slotFieldWrite t n (fun x => { x with runSeq := v })))
def execRunStart (t : StackId) (n : Fin 1024) : State → Outcome State Fault Refusal := onChip (Chip.live (Chip.runStart t n))
def execRunEnd (t : StackId) (n : Fin 1024) : State → Outcome State Fault Refusal := onChip (Chip.live (Chip.runEnd t n))
def execUnitReset (t : StackId) : State → Outcome State Fault Refusal := onChip (Chip.live (Chip.unitResetGo t))
def execLabInvalAll (t : StackId) : State → Outcome State Fault Refusal := onChip (Chip.live (Chip.labInval t (fun _ => true)))
def execLabInval (t : StackId) (h : BitVec 32) : State → Outcome State Fault Refusal := onChip (Chip.live (Chip.labInval t (fun x => decide (x = h))))
def execLabInvalComplete (t : StackId) : State → Outcome State Fault Refusal := onChip (Chip.live (Chip.labDone t))
def execMicroprogramWordWrite (q : Requester) (t : StackId) (w : Fin 4096) (p : Fin 4) (v : BitVec 32) : State → Outcome State Fault Refusal :=
  onChip (Chip.live (Chip.uwordWrite q t w p v))

end Sys2Proof.Machine
end

