-- ==== Sys2Proof/Machine/MicroOps.lean ====
section
/-! DEFINITION. The micro-instructions of the Ulizen engines (R207, R208, R215, R218 to R222, R226 to R235). -/

namespace Sys2Proof.Machine

open Host

/-! ## Fields (R218) -/

def uD (w : BitVec 128) : Nat := (field w 119 115).toNat
def uA (w : BitVec 128) : Nat := (field w 114 110).toNat
def uB (w : BitVec 128) : Nat := (field w 109 105).toNat
def uC (w : BitVec 128) : Nat := (field w 104 100).toNat
def uFmt (w : BitVec 128) : Nat := (field w 99 96).toNat
def uSeg (w : BitVec 128) : Nat := (field w 95 92).toNat
def uMode (w : BitVec 128) : Nat := (field w 91 88).toNat
def uBfix (w : BitVec 128) : Bool := w.getLsbD 87
def uTile (w : BitVec 128) : Bool := w.getLsbD 86
def uInc (w : BitVec 128) : Bool := w.getLsbD 85
def uStr (w : BitVec 128) : Bool := w.getLsbD 84
def uH (w : BitVec 128) : Nat := (field w 83 80).toNat + 1
def uN (w : BitVec 128) : Nat := (field w 79 64).toNat
def uImm (w : BitVec 128) : Word64 := w.extractLsb' 0 64

/-- What an operation uses (R220): D, A, B, C, FMT, SEG, MODE up to a largest value, H, N, IMM; the flags BFIX and TILE, STR, INC. [log 35 DEDUCED] -/
structure UopUse where
  d : Bool := false
  a : Bool := false
  b : Bool := false
  c : Bool := false
  fmt : Bool := false
  seg : Bool := false
  mode : Nat := 0
  h : Bool := false
  n : Bool := false
  imm : Bool := false
  pattern : Bool := false
  str : Bool := false
  inc : Bool := false
  segMin : Nat := 0
  /-- Which operands are groups of H registers (R218). -/
  groupD : Bool := false
  groupA : Bool := false
  groupB : Bool := false

/-- The operations; none for an undefined UOP. -/
def uopUse (op : Nat) : Option UopUse :=
  match op with
  | 0x01 => some { d := true, imm := true }
  | 0x02 => some { d := true, a := true, b := true, mode := 10, imm := true }
  | 0x03 => some { a := true, b := true, mode := 4, imm := true }
  | 0x04 => some { d := true, a := true, mode := 3, imm := true }
  | 0x05 => some { a := true, b := true, mode := 3, imm := true }
  | 0x06 => some { a := true, n := true, imm := true }
  | 0x08 => some { d := true, c := true, fmt := true, seg := true, h := true, n := true, imm := true, groupD := true }
  | 0x09 => some { a := true, c := true, fmt := true, seg := true, h := true, n := true, imm := true, groupA := true }
  | 0x0A => some { d := true, a := true, b := true, c := true, seg := true, mode := 5, h := true, imm := true, pattern := true, inc := true, groupD := true, groupA := true, groupB := true }
  | 0x0B => some { d := true, a := true, b := true, c := true, seg := true, h := true, imm := true, pattern := true, inc := true, groupD := true, groupA := true, groupB := true }
  | 0x0C => some { d := true, a := true, b := true, c := true, seg := true, h := true, imm := true, str := true, inc := true, segMin := 4, groupD := true, groupB := true }
  | 0x0D => some { d := true, a := true, b := true, c := true, seg := true, h := true, imm := true, pattern := true, str := true, inc := true, groupD := true, groupB := true }
  | 0x0E => some { d := true, a := true, c := true, seg := true, h := true, imm := true, segMin := 1, groupA := true }
  | 0x0F => some { d := true, a := true, c := true, seg := true, h := true, imm := true, segMin := 1, groupA := true }
  | 0x10 => some { d := true, a := true, h := true, groupD := true, groupA := true }
  | 0x11 => some { d := true, c := true, mode := 1, h := true, imm := true, groupD := true }
  | 0x20 => some { a := true, imm := true }
  | 0x21 => some { d := true, c := true, fmt := true, imm := true, inc := true }
  | 0x22 => some { a := true, b := true, c := true, n := true, imm := true }
  | 0x23 => some { a := true, c := true, fmt := true, imm := true, inc := true }
  | 0x24 => some {}
  | 0x28 => some { d := true, a := true, b := true, mode := 1, imm := true }
  | 0x29 => some { a := true, c := true, n := true, imm := true }
  | 0x2A => some { a := true, c := true, n := true, imm := true }
  | 0x30 => some { a := true, b := true, c := true, fmt := true, mode := 1, n := true, imm := true }
  | 0x31 => some { d := true, b := true, c := true, fmt := true }
  | 0x3F => some { a := true, b := true }
  | _ => none

/-- A word that faults with ULZ_ILLEGAL: an undefined UOP or MODE, a field in use by no one that is not 0, a flag not allowed, a group beyond v31, a SEG out of range, BFIX with TILE, D above 29 in PAGE (R218, R219, R220, R221, R224, R238). N counts as used by a flag INC, and FMT by a flag STR. -/
def uopIllegal (w : BitVec 128) : Bool :=
  match uopUse (uopOf w) with
  | none => true
  | some u =>
    let fmtUsed := u.fmt || (u.str && uStr w)
    let nUsed := u.n || (u.inc && uInc w)
    (!u.d && uD w ≠ 0) || (!u.a && uA w ≠ 0) || (!u.b && uB w ≠ 0) || (!u.c && uC w ≠ 0) || (!fmtUsed && uFmt w ≠ 0) ||
    (!u.seg && uSeg w ≠ 0) || decide (u.mode < uMode w) || (!u.h && uH w ≠ 1) || (!nUsed && uN w ≠ 0) || (!u.imm && uImm w ≠ 0) ||
    (!u.pattern && (uBfix w || uTile w)) || (uBfix w && uTile w) || (!u.str && uStr w) || (!u.inc && uInc w) ||
    (u.seg && (decide (uSeg w < u.segMin) || decide (8 < uSeg w))) ||
    (u.groupD && decide (31 < uD w + uH w - 1)) || (u.groupA && decide (31 < uA w + uH w - 1)) ||
    (u.groupB && !uBfix w && decide (31 < uB w + uH w - 1)) ||
    ((uopOf w = 0x06 || uopOf w = 0x30) && decide (65536 ≤ (uImm w).toNat)) || (uopOf w = 0x28 && decide (29 < uD w))

/-! ## Registers of an engine (R205) -/

def Engine.reg (g : Engine) (r : Nat) : Word64 := Table.read 0 g.u (clip 32 r)
def Engine.setReg (g : Engine) (r : Nat) (v : Word64) : Engine := if r = 0 then g else { g with u := Table.write g.u (clip 32 r) v }
def zeroLanes : List Word32 := List.replicate 256 0
def Engine.vec (g : Engine) (r : Nat) : List Word32 := Table.read zeroLanes g.v (clip 32 r)
def Engine.setVec (g : Engine) (r : Nat) (v : List Word32) : Engine := { g with v := Table.write g.v (clip 32 r) v }
/-- Base of an operation: u[C] + IMM. -/
def Engine.base (g : Engine) (w : BitVec 128) : Nat := (g.reg (uC w) + uImm w).toNat
/-- INC (R221). -/
def Engine.inc (g : Engine) (w : BitVec 128) : Engine :=
  if uInc w then g.setReg (uC w) (g.reg (uC w) + BitVec.ofNat 64 (uN w)) else g

/-- What a micro-instruction does: it completes in a number of beats (0 for one without a length), perhaps at a target; it faults; it waits with part of its work done; it ends the engine's part of the run. -/
inductive UopEnd where
  | done (s : Chip) (g : Engine) (beats : Nat)
  | jump (s : Chip) (g : Engine) (target : Nat)
  | fault (s : Chip) (c : FaultCode) (addr : Word64)
  | wait (s : Chip) (g : Engine)
  | stop (s : Chip) (g : Engine)

/-- The engine, its slot and its word. -/
structure UopCtx where
  stack : StackId
  eng : Fin 32
  slot : Fin 1024
  x : Slot
  g : Engine
  w : BitVec 128

/-- The next word after one completes: the repeat level returns to its first word while it has turns left (R221). -/
def Engine.next (g : Engine) : Engine :=
  match g.rep with
  | some r =>
    if g.upc = r.last then
      (if 1 < r.count.toNat then { g with upc := r.first, rep := some { r with count := r.count - 1 } } else { g with upc := g.upc + 1, rep := none })
    else { g with upc := g.upc + 1 }
  | none => { g with upc := g.upc + 1 }

/-- Run one micro-instruction of an engine: the word at its micro-PC, when the command names that operation; an undefined word faults under any. -/
def Chip.uop (op : Nat) (f : Chip → UopCtx → UopEnd) (e : EngineId) (s : Chip) : Chip :=
  let t := e.stack
  let y := s.stack t
  let g := y.engine e.idx
  match g.slot with
  | none => s
  | some n =>
    let x := y.slot n
    if y.domainOn = false ∨ y.resetBusy ∨ x.executes e.idx = false then s else
    let w := y.uword g.upc
    if uopOf w ≠ op ∧ (uopUse (uopOf w)).isSome then s
    else if uopIllegal w then s.runFault t n e.idx g.upc Code.ulzIllegal 0
    else
      let put (s : Chip) (g : Engine) : Chip := s.updEngine t e.idx (fun _ => g)
      let beats (s : Chip) (k : Nat) : Chip := if k = 0 then s else s.stackEvent t 6 x.dome.toNat k
      -- execution beyond word 4,095 (R221)
      let go (s : Chip) (g : Engine) : Chip := if g.upc ≤ 4095 then put s g else (put s { g with upc := 4095 }).runFault t n e.idx 4095 Code.ulzPc 0
      match f s { stack := t, eng := e.idx, slot := n, x := x, g := g, w := w } with
      | .done s g k => go (beats s k) g.next
      | .jump s g target => go (beats s 1) { g with upc := target }
      | .fault s c a => s.runFault t n e.idx g.upc c a
      | .wait s g => put s g
      | .stop s g => put (s.updSlot t n (fun z => { z with ended := z.ended ||| bitMask e.idx.val })) g

/-- The lowest of the codes that hold (R238). -/
def lowestCode : List (Bool × FaultCode) → Option FaultCode
  | [] => none
  | (b, c) :: t =>
    match lowestCode t with
    | none => if b then some c else none
    | some d => if b ∧ c.toNat < d.toNat then some c else some d

/-- A store range that leaves the store or breaks its alignment (R220). -/
def storeBad (a n align : Nat) : Bool := decide (65536 < a + n) || decide (a % align ≠ 0)

/-! ## Scalars, branches and the repeat level -/

def uopSeti (s : Chip) (c : UopCtx) : UopEnd := .done s (c.g.setReg (uD c.w) (uImm c.w)) 1

/-- ALU operations by MODE. -/
def aluOp (mode : Nat) (a b : Word64) : Word64 :=
  match mode with
  | 0 => a + b
  | 1 => a - b
  | 2 => a &&& b
  | 3 => a ||| b
  | 4 => a ^^^ b
  | 5 => a <<< (b.toNat % 64)
  | 6 => a >>> (b.toNat % 64)
  | 7 => a * b
  | 8 => if b.toNat < a.toNat then b else a
  | 9 => if a.toNat < b.toNat then b else a
  | _ => if a.toNat < b.toNat then 1 else 0

def uopAlu (s : Chip) (c : UopCtx) : UopEnd :=
  .done s (c.g.setReg (uD c.w) (aluOp (uMode c.w) (c.g.reg (uA c.w)) (c.g.reg (uB c.w) + uImm c.w))) 1

/-- Whether a branch is taken. -/
def brTaken (mode : Nat) (a b : Word64) : Bool :=
  match mode with
  | 0 => true
  | 1 => a != 0
  | 2 => a == 0
  | 3 => decide (a.toNat < b.toNat)
  | _ => decide (b.toNat ≤ a.toNat)

/-- BR: a target outside the store or the active body faults (R221); a branch not taken goes on as any word does. -/
def uopBr (s : Chip) (c : UopCtx) : UopEnd :=
  if brTaken (uMode c.w) (c.g.reg (uA c.w)) (c.g.reg (uB c.w)) = false then .done s c.g 1 else
  let t : Int := (c.g.upc : Int) + (uImm c.w).toInt
  let out : Bool := match c.g.rep with
    | some r => decide (t < r.first) || decide ((r.last : Int) < t)
    | none => false
  if t < 0 ∨ 4095 < t ∨ out then .fault s Code.ulzPc 0 else .jump s c.g t.toNat

def uopLd (s : Chip) (c : UopCtx) : UopEnd :=
  let n := 2 ^ uMode c.w
  let a := (c.g.reg (uA c.w) + uImm c.w).toNat
  if storeBad a n n then .fault s Code.ulzStore 0
  else .done s (c.g.setReg (uD c.w) (BitVec.ofNat 64 (leNat (s.storeRead c.stack c.eng a n)))) 1

def uopSt (s : Chip) (c : UopCtx) : UopEnd :=
  let n := 2 ^ uMode c.w
  let a := (c.g.reg (uA c.w) + uImm c.w).toNat
  if storeBad a n n then .fault s Code.ulzStore 0
  else .done (s.storeWrite c.stack c.eng a (leBytes n (c.g.reg (uB c.w)).toNat)) c.g 1

/-- REP (R221). -/
def uopRep (s : Chip) (c : UopCtx) : UopEnd :=
  let body := (uImm c.w).toNat % 65536
  let last := c.g.upc + body
  let count := c.g.reg (uA c.w) + BitVec.ofNat 64 (uN c.w)
  match lowestCode [(c.g.rep.isSome, Code.ulzIllegal), (body = 0 ∨ 64 < body, Code.ulzIllegal), (4095 < last, Code.ulzPc)] with
  | some f => .fault s f 0
  | none =>
    if count = 0 then .jump s c.g (last + 1)
    else .jump s { c.g with rep := some { count := count, first := c.g.upc + 1, last := last } } (c.g.upc + 1)

/-! ## Vectors (R219, R220, R222) -/

/-- The formats of LDV, STV, WRITE and KV_COMPACT: FP32, BF16, FP16 and either FP8. -/
def vecFmt (c : Nat) : Bool := decide (c < 5)
/-- FMT_INVALID for an undefined code, FORMAT_PAIR for a format an operation does not take. -/
def fmtCodes (c : Nat) (ok : Bool) : List (Bool × FaultCode) := [(!fmtValid c, Code.fmtInvalid), (fmtValid c && !ok, Code.formatPair)]

/-- An FP32 lane of a value; a NaN is canonical (R77). -/
def lane (x : Num) : Word32 := toF32 x
/-- Elements of a format as FP32 lanes. -/
def widen (fmt : Nat) (bs : List Byte) (n : Nat) : List Word32 :=
  let w := elemBits fmt / 8
  tabulate n (fun i => lane (elemValue fmt (leNat ((bs.drop (i * w)).take w))))
/-- Lanes converted to a format by R83. -/
def narrowLanes (fmt : Nat) (l : List Word32) : List Byte :=
  l.flatMap (fun v => leBytes (elemBits fmt / 8) (narrowTo fmt .nearest (f32 v) .one).1)

/-- The members of a group. -/
def members (w : BitVec 128) : List Nat := List.range (uH w)

def uopLdv (s : Chip) (c : UopCtx) : UopEnd :=
  let fmt := uFmt c.w
  let m := 2 ^ uSeg c.w
  let sz := if vecFmt fmt then elemBits fmt / 8 else 1
  let at_ (h : Nat) := c.g.base c.w + h * uN c.w
  match lowestCode (((members c.w).any (fun h => storeBad (at_ h) (m * sz) sz), Code.ulzStore) :: fmtCodes fmt (vecFmt fmt)) with
  | some f => .fault s f 0
  | none =>
    let g := (members c.w).foldl (fun g h =>
      g.setVec (uD c.w + h) (widen fmt (s.storeRead c.stack c.eng (at_ h) (m * sz)) m ++ (g.vec (uD c.w + h)).drop m)) c.g
    .done s g (uH c.w)

def uopStv (s : Chip) (c : UopCtx) : UopEnd :=
  let fmt := uFmt c.w
  let m := 2 ^ uSeg c.w
  let sz := if vecFmt fmt then elemBits fmt / 8 else 1
  let at_ (h : Nat) := c.g.base c.w + h * uN c.w
  match lowestCode (((members c.w).any (fun h => storeBad (at_ h) (m * sz) sz), Code.ulzStore) :: fmtCodes fmt (vecFmt fmt)) with
  | some f => .fault s f 0
  | none =>
    .done ((members c.w).foldl (fun s h => s.storeWrite c.stack c.eng (at_ h) (narrowLanes fmt ((c.g.vec (uA c.w + h)).take m))) s) c.g (uH c.w)

/-- The lane of B that lane l of group member h reads (R219). -/
def bLane (w : BitVec 128) (base h l : Nat) : Nat :=
  let k := 2 ^ uSeg w
  if uBfix w then base + l / k + h * 2 ^ (8 - uSeg w) else if uTile w then base + l % k else base + l / k
/-- The largest lane of B that a group reads. -/
def bTop (w : BitVec 128) (base : Nat) : Nat :=
  if uBfix w then bLane w base (uH w - 1) 255 else if uTile w then base + 2 ^ uSeg w - 1 else bLane w base 0 255
/-- The B operand of lane l of member h. -/
def Engine.bOperand (g : Engine) (w : BitVec 128) (base h l : Nat) : Word32 :=
  (g.vec (if uBfix w then uB w else uB w + h)).getD (bLane w base h l) 0

/-- Replace a group of registers at once: every result is computed from the registers as they were. -/
def Engine.setGroup (g : Engine) (w : BitVec 128) (f : Nat → List Word32) : Engine :=
  (members w).foldl (fun acc h => acc.setVec (uD w + h) (f h)) g

/-- One lane of VOP by MODE. -/
def vopLane (mode : Nat) (a y : Word32) : Word32 :=
  match mode with
  | 0 => lane (Num.add (f32 a) (f32 y))
  | 1 => lane (Num.add (f32 a) (f32 y).negate)
  | 2 => lane (Num.mul (f32 a) (f32 y))
  | 3 => lane (Num.max (f32 a) (f32 y))
  | 4 => lane (Num.min (f32 a) (f32 y))
  | _ => lane (f32 y)

/-- VOP and EXP2 on every lane of a group. -/
def laneWise (f : Word32 → Word32 → Word32) (perMember : Nat) (s : Chip) (c : UopCtx) : UopEnd :=
  let base := c.g.base c.w
  if 255 < bTop c.w base then .fault s Code.ulzLane 0 else
  let g := c.g.setGroup c.w (fun h => tabulate 256 (fun l => f ((c.g.vec (uA c.w + h)).getD l 0) (c.g.bOperand c.w base h l)))
  .done s (g.inc c.w) (perMember * uH c.w)

def uopVop (s : Chip) (c : UopCtx) : UopEnd := laneWise (vopLane (uMode c.w)) 1 s c
def uopExp2 (s : Chip) (c : UopCtx) : UopEnd := laneWise (fun a y => ulzExp2Of (lane (Num.add (f32 a) (f32 y).negate))) 2 s c

/-- One level of the fixed pairwise tree: neighbours in lane order. -/
def pairUp (f : Num → Num → Num) : List Num → List Num
  | a :: b :: t => f a b :: pairUp f t
  | l => l
/-- The fixed pairwise tree of a segment (R222). -/
def treeOf (f : Num → Num → Num) : Nat → List Num → Num
  | 0, l => l.headD .zero
  | n + 1, l => treeOf f n (pairUp f l)
/-- An addition rounded to FP32. -/
def addR (a b : Num) : Num := f32 (lane (Num.add a b))
/-- A multiplier input rounded to BF16, as every narrowing conversion (R83, R222). [log 60 DEDUCED] -/
def mulIn (v : Word32) : Num := bf16.value (bf16.narrow .nearest (f32 v) .one).1

/-! ## In-bank data (R208, R215, R229 to R231) -/

/-- Whether a block operation's range lies in the open block. -/
def Engine.rowBad (g : Engine) (off n : Nat) : Bool := g.openBlock.isNone || decide (65536 < off + n)

/-- The frame of a stack address is granted (R215). -/
def frameDenied (mask : Word64) (a : Nat) : Bool := decide (64 ≤ a / 2 ^ 30) || !mask.getLsbD (a / 2 ^ 30)

/-- The engines of active runs other than e: nothing orders their in-bank accesses with its own (R207, R229). -/
def Stack.others (y : Stack) (e : Fin 32) : List (Fin 32) := (List.finRange 32).filter (fun i => decide (i ≠ e) && y.engineBusy i)

/-- The bytes that the other engines have written in their runs: undefined to a reader (R229). -/
def Stack.foreign (y : Stack) (e : Fin 32) : List (Nat × Nat) := (y.others e).flatMap (fun i => (y.engine i).wrote)

/-- The bytes that the other engines have read in their runs: undefined once e writes them (R229). -/
def Stack.foreignReads (y : Stack) (e : Fin 32) : List (Nat × Nat) :=
  (y.bankReads.filter (fun r => decide (r.1 ≠ e) && y.engineBusy r.1)).map (fun r => r.2)

/-- Bytes with those of some ranges replaced by free values. -/
def Chip.freed (s : Chip) (l : List (Nat × Nat)) (a : Nat) (bs : List Byte) : Chip × List Byte :=
  if l = [] then (s, bs) else
  ({ s with free := s.free + bs.length }, bs.mapIdx (fun i b => if inRanges l (a + i) then Config.freeBits 8 (s.free + i) else b))

/-- Whether a read of a range meets a codeword that is corrected. -/
def Chip.anyCorrected (s : Chip) (t : StackId) (a n : Nat) : Bool :=
  (pieces 64 a n).any (fun p =>
    match decodePattern (Table.read [] s.codeErrors (cwKey t ((s.stack t).phys (p.1 / 64 * 64)))) with
    | .corrected _ _ => true
    | _ => false)

/-- Read a range in-bank, in whole bursts of 256 bytes; a bad codeword of a burst faults (R231). -/
def Chip.bankRead (s : Chip) (c : UopCtx) (a n : Nat) : Chip × Except FaultCode (List Byte) :=
  let t := c.stack
  let lo := a / 256 * 256
  let hi := (a + n + 255) / 256 * 256
  let s := s.stackEvent t 7 c.x.dome.toNat ((hi - lo) / 256)
  let s := if s.anyCorrected t lo (hi - lo) then s.updSlot t c.slot (fun x => { x with corrected := true }) else s
  match s.readDram t .ulizen (pieces 64 lo (hi - lo)) with
  | (s, .error f) => (s, .error f)
  | (s, .ok bs) =>
    let s := s.updStack t (fun y => { y with bankReads := y.bankReads ++ [(c.eng, a, n)] })
    let r := s.freed ((s.stack t).foreign c.eng) a ((bs.drop (a - lo)).take n); (r.1, .ok r.2)

/-- Write a range in-bank burst by burst: each lands whole or not at all, and a fault stops the rest (R230, R231). -/
def Chip.bankWrite (s : Chip) (c : UopCtx) (g : Engine) (data : List Byte) (at_ : Nat) : List (Nat × Nat) → Chip × Engine × Option FaultCode
  | [] => (s, g, none)
  | (a, n) :: rest =>
    let t := c.stack
    let mine := s.freed ((s.stack t).foreign c.eng ++ (s.stack t).foreignReads c.eng) a ((data.drop (a - at_)).take n)
    let s := mine.1
    let r := s.writeDram t mine.2 (pieces 64 a n)
    match r.2 with
    | some f => ({ r.1 with dram := s.dram, codeErrors := s.codeErrors }, g, some f)
    | none =>
      let g := { g with bursts := g.bursts + 1, lastRow := BitVec.ofNat 64 (a / 256 * 256), wrote := g.wrote ++ [(a, n)] }
      Chip.bankWrite (r.1.stackEvent t 7 c.x.dome.toNat 1) c g data at_ rest

/-- One block of a scaled pair of stripes as FP32 lanes; none when its scale byte is malformed (R74, R222). -/
def scaledBlock (fmt : Nat) (bs : List Byte) (k : Nat) : Option (List Word32) :=
  let stripe := k / 8 * stripeBytes fmt
  let data := (bs.drop (stripe + 8 + k % 8 * blockBytes fmt)).take (blockBytes fmt)
  (scaleValue (bs.getD (stripe + k % 8) 0).toNat).map (fun v =>
    tabulate 16 (fun i => match v with
      | .nan => lane .nan
      | v => lane (Num.mul (elemValue fmt (packedElem (elemBits fmt) data i)) v)))

/-- A streamed operand: 256 elements at an offset of the open block, and the bytes they take; a malformed block scale faults (R74, R222, R238). -/
def Chip.streamRead (s : Chip) (c : UopCtx) (fmt off : Nat) : Chip × Except FaultCode (List Word32 × Nat) :=
  let scaled := isScaled fmt
  let ok := scaled || (decide (0 < fmt) && decide (fmt < 5))
  let n := if scaled then 2 * stripeBytes fmt else 256 * (elemBits fmt / 8)
  let badStripe := scaled && (decide (off % n ≠ 0) || decide (65536 / plateBytes fmt * plateBytes fmt ≤ off))
  match lowestCode ((c.g.rowBad off (if ok then n else 0) || badStripe, Code.ulzRow) :: fmtCodes fmt ok) with
  | some f => (s, .error f)
  | none =>
    match s.bankRead c (c.g.openBlock.getD 0 * 65536 + off) n with
    | (s, .error f) => (s, .error f)
    | (s, .ok bs) =>
      if scaled = false then (s, .ok (widen fmt bs 256, n)) else
      match (List.range 16).mapM (scaledBlock fmt bs) with
      | none => (s, .error Code.scaleMalformed)
      | some l => (s, .ok (l.flatten, n))

/-- The address a fault of an in-bank access reports. -/
def UopCtx.bankAddr (c : UopCtx) (off : Nat) : Word64 := BitVec.ofNat 64 (c.g.openBlock.getD 0 * 65536 + off)

/-- The A operand of DOT and ACC: v[A], or streamed, with u[A] moved on (R220, R221). -/
def Chip.macInput (s : Chip) (c : UopCtx) : Chip × Except FaultCode (List Word32 × Engine) :=
  if uStr c.w = false then (s, .ok (c.g.vec (uA c.w), c.g)) else
  let off := (c.g.reg (uA c.w)).toNat
  match s.streamRead c (uFmt c.w) off with
  | (s, .error f) => (s, .error f)
  | (s, .ok (l, n)) => (s, .ok (l, c.g.setReg (uA c.w) (c.g.reg (uA c.w) + BitVec.ofNat 64 n)))

def uopDot (s : Chip) (c : UopCtx) : UopEnd :=
  let base := c.g.base c.w
  let size := 2 ^ uSeg c.w
  let segs := 256 / size
  match s.macInput c with
  | (s, .error f) => .fault s (if 255 < base + segs - 1 ∧ Code.ulzLane.toNat < f.toNat then Code.ulzLane else f) (c.bankAddr (c.g.reg (uA c.w)).toNat)
  | (s', .ok (l, g)) =>
    if 255 < base + segs - 1 then .fault s Code.ulzLane 0 else
    let a := l.map mulIn
    let out (h : Nat) : List Word32 :=
      let p := tabulate 256 (fun i => Num.mul (a.getD i .zero) (mulIn ((c.g.vec (uB c.w + h)).getD i 0)))
      let sums := tabulate segs (fun k => lane (treeOf addR (uSeg c.w) ((p.drop (k * size)).take size)))
      let old := c.g.vec (uD c.w + h)
      old.take base ++ sums ++ old.drop (base + segs)
    .done s' ((g.setGroup c.w out).inc c.w) (uH c.w)

def uopAcc (s : Chip) (c : UopCtx) : UopEnd :=
  let base := c.g.base c.w
  match s.macInput c with
  | (s, .error f) => .fault s (if 255 < bTop c.w base ∧ Code.ulzLane.toNat < f.toNat then Code.ulzLane else f) (c.bankAddr (c.g.reg (uA c.w)).toNat)
  | (s', .ok (l, g)) =>
    if 255 < bTop c.w base then .fault s Code.ulzLane 0 else
    let a := l.map mulIn
    let out (h : Nat) : List Word32 :=
      tabulate 256 (fun i => lane (Num.add (f32 ((c.g.vec (uD c.w + h)).getD i 0)) (Num.mul (a.getD i .zero) (mulIn (c.g.bOperand c.w base h i)))))
    .done s' ((g.setGroup c.w out).inc c.w) (uH c.w)

/-- MAXRED and SUMRED (R220). -/
def uopReduce (f : Num → Num → Num) (s : Chip) (c : UopCtx) : UopEnd :=
  let base := c.g.base c.w
  let size := 2 ^ uSeg c.w
  let segs := 256 / size
  let n := uH c.w * segs
  if 255 < base + n - 1 then .fault s Code.ulzLane 0 else
  let out := (members c.w).flatMap (fun h => tabulate segs (fun k =>
    lane (treeOf f (uSeg c.w) ((((c.g.vec (uA c.w + h)).drop (k * size)).take size).map f32))))
  let old := c.g.vec (uD c.w)
  .done s (c.g.setVec (uD c.w) (old.take base ++ out ++ old.drop (base + n))) (2 * uH c.w)

def uopFold (s : Chip) (c : UopCtx) : UopEnd :=
  let out (h : Nat) : List Word32 :=
    let a := c.g.vec (uA c.w + h)
    tabulate 256 (fun l => if l < 128 then lane (Num.add (f32 (a.getD l 0)) (f32 (a.getD (l + 128) 0))) else 0)
  .done s (c.g.setGroup c.w out) (uH c.w)

def uopFill (s : Chip) (c : UopCtx) : UopEnd :=
  let base := c.g.base c.w
  if 256 < base then .fault s Code.ulzLane 0 else
  let v : Word32 := if uMode c.w = 0 then 0xFF800000 else 0
  .done s (c.g.setGroup c.w (fun h => (c.g.vec (uD c.w + h)).take base ++ List.replicate (256 - base) v)) (uH c.w)

/-! ## Blocks -/

/-- Serve every owed refresh (R227). [log 62 DEDUCED] -/
def Chip.serveRefresh (s : Chip) (t : StackId) : Chip :=
  let n := (List.finRange 64).foldl (fun n p => n + Table.read 0 (s.stack t).owed p) 0
  if n = 0 then s else (s.updStack t (fun x => { x with owed := [] })).stackEvent t 5 16 n

/-- Whether the base die grants an engine without an open block the blocks that hold some stack addresses: the owed refreshes are served once no engine holds a block open, and neither a refresh nor a retirement holds a grant back (R208, R227, R420). -/
def Chip.grantBlocks (s : Chip) (t : StackId) (l : List Nat) : Chip × Bool :=
  let s := if (s.stack t).anyOpen then s else s.serveRefresh t
  let s := l.foldl (fun s a => s.settleRetire t a 1) s
  (s, !(List.finRange 64).any (fun p => decide (0 < Table.read 0 (s.stack t).owed p)) && !l.any (fun a => (s.stack t).held a 1))

/-- ROW_OPEN: the engine's block closes, and the next opens once it is granted (R208, R215). [log 59 DEDUCED] -/
def uopRowOpen (s : Chip) (c : UopCtx) : UopEnd :=
  let a := (c.g.reg (uA c.w) + uImm c.w).toNat
  if frameDenied c.x.rdFrames a then .fault s Code.frameDenied (BitVec.ofNat 64 a) else
  let closed := { c.g with openBlock := none }
  let s := s.updEngine c.stack c.eng (fun _ => closed)
  match s.grantBlocks c.stack [a] with
  | (s, false) => .wait s closed
  | (s, true) => .done s { closed with openBlock := some (a / 65536) } 0

def uopStream (s : Chip) (c : UopCtx) : UopEnd :=
  let off := c.g.base c.w
  match s.streamRead c (uFmt c.w) off with
  | (s, .error f) => .fault s f (c.bankAddr off)
  | (s, .ok (l, _)) => .done s ((c.g.setVec (uD c.w) l).inc c.w) 0

/-- STASH; a length that is no multiple of 32 breaks the store range's alignment. [log 14 DESIGN CHOICE] -/
def uopStash (s : Chip) (c : UopCtx) : UopEnd :=
  let n := (c.g.reg (uB c.w) + BitVec.ofNat 64 (uN c.w)).toNat
  let off := c.g.base c.w
  let dst := (c.g.reg (uA c.w)).toNat
  match lowestCode [(c.g.rowBad off n, Code.ulzRow), (storeBad dst n 1 || decide (n % 32 ≠ 0), Code.ulzStore)] with
  | some f => .fault s f (c.bankAddr off)
  | none =>
    match s.bankRead c (c.g.openBlock.getD 0 * 65536 + off) n with
    | (s, .error f) => .fault s f (c.bankAddr off)
    | (s, .ok bs) => .done (s.storeWrite c.stack c.eng dst bs) c.g 0

def uopWrite (s : Chip) (c : UopCtx) : UopEnd :=
  let fmt := uFmt c.w
  let off := c.g.base c.w
  let n := if vecFmt fmt then 256 * (elemBits fmt / 8) else 0
  let a := c.g.openBlock.getD 0 * 65536 + off
  match lowestCode ((c.g.rowBad off n, Code.ulzRow) :: (c.g.openBlock.isSome && frameDenied c.x.wrFrames a, Code.frameDenied) :: fmtCodes fmt (vecFmt fmt)) with
  | some f => .fault s f (BitVec.ofNat 64 a)
  | none =>
    match s.bankWrite c c.g (narrowLanes fmt (c.g.vec (uA c.w))) a (pieces 256 a n) with
    | (s, g, some f) => .fault (s.updEngine c.stack c.eng (fun _ => g)) f (BitVec.ofNat 64 a)
    | (s, g, none) => .done s (g.inc c.w) 0

def uopYield (s : Chip) (c : UopCtx) : UopEnd := .done s { c.g with openBlock := none } 1

/-! ## The walker's PAGE (R224) -/

/-- The global address a walker's fault reports. -/
def walkAddr (f : WalkFault) : Word64 := if f.2 = 0 then 0 else selfAddr f.2

/-- PAGE takes 1 beat when the look-aside buffer held what it named, and has no length in beats otherwise (R207, R220). -/
def uopPage (s : Chip) (c : UopCtx) : UopEnd :=
  let handle := (c.g.reg (uA c.w)).toNat
  let o := (c.g.reg (uB c.w) + uImm c.w).toNat
  let d := uD c.w
  let known := c.x.headers.any (fun e => decide (e.1.toNat = handle))
  match s.walkHeader c.stack c.slot handle with
  | (s, .error f) => .fault s f.1 (walkAddr f)
  | (s, .ok hd) =>
    let valid (k : Nat) : Word64 := BitVec.ofNat 64 (Nat.min 256 (hd.2.2 - 256 * k))
    let beats (upto : Nat) : Nat := if known && (List.range (upto - o)).all (fun i => (s.stack c.stack).labHolds handle (o + i)) then 1 else 0
    if uMode c.w = 0 then
      if hd.2.2 ≤ 256 * o then .fault s Code.ulzPage 0 else
      let k := beats (o + 1)
      match s.walkPage c.stack c.slot handle hd o with
      | (s, .error f) => .fault s f.1 (walkAddr f)
      | (s, .ok none) => .fault s Code.ulzPage (selfAddr (hd.1 + 4 * o))
      | (s, .ok (some a)) => .done s ((c.g.setReg d (BitVec.ofNat 64 a)).setReg (d + 1) (valid o)) k
    else
      match s.walkFirst c.stack c.slot handle hd (hd.2.2 / 256 + 1) o with
      | (s, .error f) => .fault s f.1 (walkAddr f)
      | (s, .ok none) => .done s (((c.g.setReg d 0).setReg (d + 1) 0).setReg (d + 2) 0xFFFFFFFFFFFFFFFF) (beats ((hd.2.2 + 255) / 256))
      | (s, .ok (some (a, k))) =>
        .done s (((c.g.setReg d (BitVec.ofNat 64 a)).setReg (d + 1) (valid k)).setReg (d + 2) (BitVec.ofNat 64 k)) (beats (k + 1))

/-! ## Traffic outside (R215, R220) -/

def uopFetch (s : Chip) (c : UopCtx) : UopEnd :=
  let a := (c.g.reg (uA c.w) + uImm c.w).toNat
  let st := (c.g.reg (uC c.w)).toNat
  if storeBad st (uN c.w) 1 ∨ uN c.w % 32 ≠ 0 then .fault s Code.ulzStore 0 else
  match s.load (s.runWho c.stack c.slot) a (uN c.w) with
  | (s, .error f) => .fault s f (selfAddr a)
  | (s, .ok bs) => .done (s.storeWrite c.stack c.eng st bs) c.g 0

def uopSend (s : Chip) (c : UopCtx) : UopEnd :=
  let a := (c.g.reg (uA c.w) + uImm c.w).toNat
  let st := (c.g.reg (uC c.w)).toNat
  if storeBad st (uN c.w) 1 then .fault s Code.ulzStore 0 else
  match s.store (s.runWho c.stack c.slot) a (s.storeRead c.stack c.eng st (uN c.w)) with
  | (s, some f) => .fault s f (selfAddr a)
  | (s, none) => .done s c.g 0

/-! ## KV_COMPACT (R232, R233) -/

/-- Resolve the pages of the positions of a compaction, by the list's entries: the pages found, and every fault met on the way. -/
def Chip.kvcPages (s : Chip) (c : UopCtx) (handle : Nat) (hd : Nat × Nat × Nat) : List Nat → Chip × Table Nat Nat × List WalkFault
  | [] => (s, [], [])
  | o :: rest =>
    let r : Chip × Except WalkFault Nat :=
      if hd.2.1 ≤ o then (s, .error (Code.ulzPage, 0)) else
      match s.walkPage c.stack c.slot handle hd o with
      | (s, .error f) => (s, .error f)
      | (s, .ok none) => (s, .error (Code.ulzPage, hd.1 + 4 * o))
      | (s, .ok (some a)) => (s, .ok a)
    let t := Chip.kvcPages r.1 c handle hd rest
    match r.2 with
    | .error f => (t.1, t.2.1, f :: t.2.2)
    | .ok a => (t.1, (o, a) :: t.2.1, t.2.2)

/-- The fault with the lowest code, the first of equals (R238). -/
def lowestFault : List (FaultCode × Word64) → Option (FaultCode × Word64)
  | [] => none
  | a :: t =>
    match lowestFault t with
    | none => some a
    | some b => if b.1.toNat < a.1.toNat then some b else some a

/-- Present the event owed by the entry last moved; false while the tap has no room (R233, R395). -/
def Chip.kvcEvent (s : Chip) (c : UopCtx) (g : Engine) : Chip × Engine × Bool :=
  if g.kvOwed = false then (s, g, true) else
  let r := s.present (stackDie c.stack) 1 c.x.dome 1
  if r.2 = 0 then (s, g, false) else (r.1, { g with kvOwed := false }, true)

/-- Move the entries from the next one on. Every change of block is a yield point: before an entry no block is open, and its four ranges wait until their blocks are granted. -/
def Chip.kvcMove (s : Chip) (c : UopCtx) (g : Engine) (pages : Table Nat Nat) (ent : Nat) (src : List Nat) (dst : Nat) : Nat → UopEnd
  | 0 => .wait s g
  | fuel + 1 =>
    match s.kvcEvent c g with
    | (s, g, false) => .wait s g
    | (s, g, true) =>
      match src[g.kvNext]? with
      | none => .done s { g with kvNext := 0 } 0
      | some p =>
        let q := dst + g.kvNext
        let ps := Table.read 0 pages (p / 256)
        let pd := Table.read 0 pages (q / 256)
        let at_ (page half k : Nat) := page + half * 256 * ent + k % 256 * ent
        match s.grantBlocks c.stack [at_ ps 0 p, at_ ps 1 p, at_ pd 0 q, at_ pd 1 q] with
        | (s, false) => .wait s g
        | (s, true) =>
        let bad (s : Chip) (g : Engine) (f : FaultCode) (a : Nat) : UopEnd := .fault (s.updEngine c.stack c.eng (fun _ => { g with kvNext := 0 })) f (BitVec.ofNat 64 a)
        match s.bankRead c (at_ ps 0 p) ent with
        | (s, .error f) => bad s g f (at_ ps 0 p)
        | (s, .ok k) =>
          match s.bankRead c (at_ ps 1 p) ent with
          | (s, .error f) => bad s g f (at_ ps 1 p)
          | (s, .ok v) =>
            match s.bankWrite c g k (at_ pd 0 q) (pieces 256 (at_ pd 0 q) ent) with
            | (s, g, some f) => bad s g f (at_ pd 0 q)
            | (s, g, none) =>
              match s.bankWrite c g v (at_ pd 1 q) (pieces 256 (at_ pd 1 q) ent) with
              | (s, g, some f) => bad s g f (at_ pd 1 q)
              | (s, g, none) => Chip.kvcMove s c { g with kvNext := g.kvNext + 1, kvOwed := uMode c.w = 1 } pages ent src dst fuel

/-- The sources strictly increase and none lies below its destination. -/
def kvcOrdered (dst : Nat) : List Nat → Bool
  | [] => true
  | [a] => decide (dst ≤ a)
  | a :: b :: t => decide (dst ≤ a) && decide (a < b) && kvcOrdered (dst + 1) (b :: t)

/-- KV_COMPACT; a count or a d_head outside its range is refused as an illegal word. Of all the conditions that hold before the first move the lowest code is reported (R232, R238). [log 14 DESIGN CHOICE] [log 64 DEDUCED] -/
def uopKvCompact (s : Chip) (c : UopCtx) : UopEnd :=
  let g := { c.g with openBlock := none }
  let s := s.updEngine c.stack c.eng (fun _ => g)
  let n := uN c.w
  let d := (uImm c.w).toNat
  let fmt := uFmt c.w
  if n = 0 ∨ 16 < n ∨ d % 16 ≠ 0 ∨ d < 16 ∨ 512 < d then .fault s Code.ulzIllegal 0 else
  let at_ := (c.g.reg (uB c.w)).toNat
  if storeBad at_ (4 * n) 4 then .fault s Code.ulzStore 0 else
  let src := tabulate n (fun i => leNat (s.storeRead c.stack c.eng (at_ + 4 * i) 4))
  let dst := (c.g.reg (uC c.w)).toNat
  let handle := (c.g.reg (uA c.w)).toNat
  let word : List (FaultCode × Word64) := ((!kvcOrdered dst src, Code.kvcOrder) :: fmtCodes fmt (vecFmt fmt)).filterMap (fun e => if e.1 then some (e.2, 0) else none)
  let shown (f : WalkFault) : FaultCode × Word64 := (f.1, walkAddr f)
  match s.walkHeader c.stack c.slot handle with
  | (s, .error f) => let w := (lowestFault (word ++ [shown f])).getD (shown f); .fault s w.1 w.2
  | (s, .ok hd) =>
    let r := s.kvcPages c handle hd ((src.map (fun p => p / 256) ++ tabulate n (fun i => (dst + i) / 256)).dedup)
    let denied := (r.2.1.filter (fun p => frameDenied c.x.rdFrames p.2 || frameDenied c.x.wrFrames p.2)).map (fun p => (Code.frameDenied, BitVec.ofNat 64 p.2))
    match lowestFault (word ++ r.2.2.map shown ++ denied) with
    | some f => .fault r.1 f.1 f.2
    | none => r.1.kvcMove c g r.2.1 (d * (elemBits fmt / 8)) src dst (n + 1)

/-! ## DELTA and END -/

/-- DELTA (R234). -/
def uopDelta (s : Chip) (c : UopCtx) : UopEnd :=
  let fmt := uFmt c.w
  let cur := c.g.reg (uC c.w)
  let set := (c.g.reg (uB c.w)).getLsbD 0
  match lowestCode ((set && storeBad cur.toNat 256 1, Code.ulzStore) :: fmtCodes fmt (fmt = 3 || fmt = 4)) with
  | some f => .fault s f 0
  | none =>
    let g := if set then
        let dl := widen fmt (s.storeRead c.stack c.eng cur.toNat 256) 256
        let old := c.g.vec (uD c.w)
        (c.g.setVec (uD c.w) (tabulate 256 (fun l => lane (Num.add (f32 (old.getD l 0)) (f32 (dl.getD l 0)))))).setReg (uC c.w) (cur + 256)
      else c.g
    .done s (g.setReg (uB c.w) (g.reg (uB c.w) >>> 1)) 1

/-- END: the block closes and the engine's part of the run ends; the rank-0 engine gives USER (R216). -/
def uopEnd (s : Chip) (c : UopCtx) : UopEnd :=
  let s := if rankOf c.x.engines c.eng = 0 then
      s.updSlot c.stack c.slot (fun x => { x with userA := c.g.reg (uA c.w), userB := c.g.reg (uB c.w) })
    else s
  .stop s { c.g with openBlock := none }

/-! ## Meanings -/

def onUop (op : Nat) (f : Chip → UopCtx → UopEnd) (e : EngineId) : State → Outcome State Fault Refusal := onChip (Chip.live (Chip.uop op f e))

def execSeti (e : EngineId) : State → Outcome State Fault Refusal := onUop 0x01 uopSeti e
def execAlu (e : EngineId) : State → Outcome State Fault Refusal := onUop 0x02 uopAlu e
def execBr (e : EngineId) : State → Outcome State Fault Refusal := onUop 0x03 uopBr e
def execLd (e : EngineId) : State → Outcome State Fault Refusal := onUop 0x04 uopLd e
def execSt (e : EngineId) : State → Outcome State Fault Refusal := onUop 0x05 uopSt e
def execRep (e : EngineId) : State → Outcome State Fault Refusal := onUop 0x06 uopRep e
def execLdv (e : EngineId) : State → Outcome State Fault Refusal := onUop 0x08 uopLdv e
def execStv (e : EngineId) : State → Outcome State Fault Refusal := onUop 0x09 uopStv e
def execVop (e : EngineId) : State → Outcome State Fault Refusal := onUop 0x0A uopVop e
def execExp2 (e : EngineId) : State → Outcome State Fault Refusal := onUop 0x0B uopExp2 e
def execDot (e : EngineId) : State → Outcome State Fault Refusal := onUop 0x0C uopDot e
def execAcc (e : EngineId) : State → Outcome State Fault Refusal := onUop 0x0D uopAcc e
def execMaxred (e : EngineId) : State → Outcome State Fault Refusal := onUop 0x0E (uopReduce Num.max) e
def execSumred (e : EngineId) : State → Outcome State Fault Refusal := onUop 0x0F (uopReduce addR) e
def execFold (e : EngineId) : State → Outcome State Fault Refusal := onUop 0x10 uopFold e
def execFill (e : EngineId) : State → Outcome State Fault Refusal := onUop 0x11 uopFill e
def execRowOpen (e : EngineId) : State → Outcome State Fault Refusal := onUop 0x20 uopRowOpen e
def execStream (e : EngineId) : State → Outcome State Fault Refusal := onUop 0x21 uopStream e
def execStash (e : EngineId) : State → Outcome State Fault Refusal := onUop 0x22 uopStash e
def execWrite (e : EngineId) : State → Outcome State Fault Refusal := onUop 0x23 uopWrite e
def execYield (e : EngineId) : State → Outcome State Fault Refusal := onUop 0x24 uopYield e
def execPage (e : EngineId) : State → Outcome State Fault Refusal := onUop 0x28 uopPage e
def execFetch (e : EngineId) : State → Outcome State Fault Refusal := onUop 0x29 uopFetch e
def execSend (e : EngineId) : State → Outcome State Fault Refusal := onUop 0x2A uopSend e
def execKvCompact (e : EngineId) : State → Outcome State Fault Refusal := onUop 0x30 uopKvCompact e
def execDelta (e : EngineId) : State → Outcome State Fault Refusal := onUop 0x31 uopDelta e
def execUlzEnd (e : EngineId) : State → Outcome State Fault Refusal := onUop 0x3F uopEnd e

end Sys2Proof.Machine
end

