-- ==== Sys2Proof/Machine/Domains.lean ====
section
/-! DEFINITION. Supply domains switching on and off (R17 to R21, R281, R453, R455) and the night log's level. -/

namespace Sys2Proof.Machine

open Host

/-- A core of a die. -/
def coreRange (d : DieId) : Nat × Nat := (scratchKey ⟨d, 0⟩ 0, scratchKey ⟨d, 0⟩ 0 + 2 ^ 32)

/-- A block of a die's core domain. -/
def Block.coreOfDie (d : DieId) (b : Block) : Bool := b.inCoreDomain && decide (b.die = d)

/-- A block of a die's edge ring: every block of the die but those of its core domain and of its stacks' base dies. -/
def Block.ringOfDie (d : DieId) (b : Block) : Bool := decide (b.die = d) && !b.inCoreDomain && b.baseDie.isNone

/-- A waiter of a core domain. -/
def Waiter.inCore : Waiter → Bool
  | .sequencer _ | .engine _ | .deRead _ _ _ _ | .deWrite _ _ _ => true
  | _ => false

/-- A die's core domain switches off: scratchpads, program stores, sequencer and engine state and the die's objects are lost (R17, R281); its responses are dropped (R453); the clusters that ran a step are noted for firmware. -/
def Chip.coreOffDomain (d : DieId) (s : Chip) : Chip :=
  if (s.die d).coreOn = false then s else
  let lost : BitVec 16 := (clustersOf d).foldl (fun w c => if (s.cluster c).running then w ||| BitVec.ofNat 16 (2 ^ c.idx.val) else w) 0
  let r := coreRange d
  let mine (o : ObjId) : Bool := match o with
    | .die e _ => decide (e = d)
    | _ => false
  let s := s.updDie d (fun x =>
    { x with coreOn := false, lostSteps := x.lostSteps ||| lost, objLosses := x.objLosses + 1,
             txns := x.txns.map (fun t => if t.waiter.inCore then { t with waiter := .dropped } else t) })
  { s with
    clusters := s.clusters.drop (fun c => decide (c.die = d)),
    cores := s.cores.drop (fun k => decide (k.die = d)),
    pstore := s.pstore.drop (fun k => decide (k.1.die = d)),
    scratch := s.scratch.clear r.1 r.2,
    scratchErrors := s.scratchErrors.filter (fun e => e.1 * 64 < r.1 || r.2 ≤ e.1 * 64),
    objs := s.objs.drop mine,
    syncs := s.syncs.drop (fun u => decide (u = .die d)),
    heads := s.heads.drop (fun b => b.coreOfDie d),
    traces := s.traces.map (fun e => (e.1, { e.2 with held := e.2.held.filter (fun h => h.cluster.die ≠ d) })) }

/-- A die's core domain powers on: its scratchpads are empty and its objects are at power-on (R19, R281). -/
def Chip.coreOnDomain (d : DieId) (s : Chip) : Chip :=
  if (s.die d).ringOn then s.updDie d (fun x => { x with coreOn := true }) else s

/-- A stack's controller on an edge ring that is off: its fields are at reset and it is offline (R17, R20). -/
def Stack.noController (x : Stack) : Stack :=
  { x with online := false, onlineAck := false, lbRun := false, lbPattern := 0, loopback := 0, lbErrCount := 0, lbChanErr := 0, lbLaneSel := 0,
           lbData := [], lbCheck := [], share0 := 0, share1 := 0, shareOther := 0, active := [], deficit := [] }

/-- A die's edge ring switches off: the die is unreachable, the lines of its caches are lost, its controllers, ports and host link go down (R17, R20, R21, R190); its core domain goes with it. [log 140 DEDUCED] -/
def Chip.ringOffDomain (d : DieId) (s : Chip) : Chip :=
  if (s.die d).ringOn = false then s else
  let s := s.coreOffDomain d
  let s := (stacksOf d).foldl (fun s t => s.updStack t Stack.noController) s
  { s with
    dies := Table.write s.dies d { ringOn := false, ringReturned := true, lostSteps := (s.die d).lostSteps, objLosses := (s.die d).objLosses, log := [], logSeq := 0, pointActive := 1 },
    cache := s.cache.filter (fun l => stackDie l.stack ≠ d),
    recency := s.recency.drop (fun k => decide (k.1 = d)),
    hostCache := s.hostCache.filter (fun l => l.die ≠ d),
    harts := s.harts.drop (fun h => decide (h.die = d)),
    ports := s.ports.drop (fun p => decide (portDie p = d)),
    link := if d = 0 then { s.link with link0Up := false, link1Up := false, width := 0, speed := 0 } else s.link,
    ready := if d = 0 then false else s.ready,
    heads := s.heads.drop (fun b => b.ringOfDie d) }

/-- A die's edge ring powers on: the timer starts at 0 (R45), the night log with LOG_START (R473), the tap asks for a resynchronisation (R394), the Coelostat has a new NONCE, the mask ROM runs. -/
def Chip.ringOnDomain (d : DieId) (s : Chip) : Chip :=
  if (s.die d).ringOn then s else
  { s.updDie d (fun x => { ringReturned := x.ringReturned, lostSteps := x.lostSteps, objLosses := x.objLosses, coel := { attempts := s.free } }) with free := s.free + 1 }

/-- A log entry of no dome. -/
def Chip.note (s : Chip) (d : DieId) (level : Nat) (code : FaultCode) (detail : Nat) : Chip := s.log d level code 0xFF 0 (BitVec.ofNat 64 detail)

/-- Firmware runs on a die (R70): verified and not parked. -/
def Chip.running (s : Chip) (d : DieId) : Bool := (s.die d).ringOn && decide ((s.die d).fwState = 1) && !s.frozen

end Sys2Proof.Machine
end

