-- ==== Sys2Proof/Machine/Thermal.lean ====
section
/-! DEFINITION. Sensors, limits and pauses (R445 to R456), the 52 V input's alerts (R443), the power envelope (R442, R444), operating points (R38) and latched events (R458). Readings are in 1/16 degree C. -/

namespace Sys2Proof.Machine

open Host

/-! ## Sensors (R446, R447) -/

/-- Insert in rising order. -/
def insertInt (a : Int) : List Int → List Int
  | [] => [a]
  | b :: t => if a ≤ b then a :: b :: t else b :: insertInt a t
def sortInts : List Int → List Int
  | [] => []
  | a :: t => insertInt a (sortInts t)

/-- Twice the median; the middle two of an even number are averaged. -/
def median2 (l : List Int) : Int :=
  let s := sortInts l
  let n := s.length
  if n % 2 = 1 then 2 * s.getD (n / 2) 0 else s.getD (n / 2 - 1) 0 + s.getD (n / 2) 0

/-- The largest of a list. -/
def maxInt : List Int → Int
  | [] => -32768
  | a :: t => let m := maxInt t; if m < a then a else m

/-- One sample of a block of n sensors: the marks, then the readings in use and the history of the latest of them, newest first; which sensors have become broken. [log 135 DEDUCED] -/
def sampleSensors (n : Nat) (near : Nat → List Nat) (keep : Nat) (old : Nat → Sensor) (r : List (BitVec 16)) : List (Sensor × Bool) :=
  let raw (i : Nat) : Int := (r.getD i 0).toInt
  let unbroken (i : Nat) : List Nat := ((near i).filter (fun j => decide (j < n) && !(old j).broken))
  let marked := tabulate n (fun i =>
    let x := old i
    let l := unbroken i
    if x.broken then (x, false)
    else if l = [] then ({ x with deviations := 0 }, false)
    else
      let off := 2 * raw i - median2 (l.map raw)
      let dev := if 256 < off.natAbs then x.deviations + 1 else 0
      ({ x with deviations := dev, broken := decide (16 ≤ dev) }, decide (16 ≤ dev)))
  let now (i : Nat) : Sensor := (marked.getD i ({}, false)).1
  let good := (List.range n).filter (fun i => !(now i).broken)
  marked.mapIdx (fun i e =>
    let l := (near i).filter (fun j => decide (j < n) && !(now j).broken)
    let v : Int := if e.1.broken then (if l.length < 3 then maxInt (good.map raw) else (median2 (l.map raw)) / 2) else raw i
    ({ e.1 with reading := BitVec.ofInt 16 v, history := (BitVec.ofInt 16 v :: e.1.history).take (keep + 1) }, e.2))

/-- The hottest reading in use of some sensors. -/
def hottestOf (l : List Sensor) : Int := maxInt (l.map (fun x => x.reading.toInt))
/-- The rate of rise of a sensor: its reading minus the reading `keep` samples back, from the sample on that has one (R447, R449). -/
def Sensor.rate (x : Sensor) (keep : Nat) : Option Int :=
  if x.history.length ≤ keep then none else some (x.reading.toInt - ((x.history.getD keep 0).toInt))
/-- The highest valid rate of some sensors. -/
def rateOf (l : List Sensor) (keep : Nat) : Option Int :=
  match l.filterMap (fun x => x.rate keep) with
  | [] => none
  | rs => some (maxInt rs)
def atLeast (r : Option Int) (n : Int) : Bool := match r with
  | some v => decide (n ≤ v)
  | none => false

/-! ## The Guider (R450) -/

/-- One sample of a Guider; n samples make 1 ms: 20 on a compute die (R450), 10 on a base die (R447, R456). -/
def Guider.sample (g : Guider) (n : Nat) (tMax : Int) (rate : Option Int) (alert : Bool) : Guider :=
  let g := if 1600 ≤ tMax then { g with dThermal := Nat.min 7 (g.dThermal + 1), cool := 0 }
    else if tMax < 1568 then
      (if g.cool + 1 = n then { g with dThermal := g.dThermal - 1, cool := 0 } else { g with cool := g.cool + 1 })
    else { g with cool := 0 }
  let hold := if atLeast rate 32 then n else g.pauseHold - 1
  let dRor := if 0 < hold then 4 else 0
  let dAlert := if alert then 4 else 0
  { g with pauseHold := hold, samples := g.samples + 1,
           duty := Nat.max (Nat.max g.dThermal dRor) (Nat.max dAlert g.ctrlDuty.toNat) }

/-- The duty again from what the Guider holds, when the alert changes. -/
def Guider.recompute (g : Guider) (alert : Bool) : Guider :=
  { g with duty := Nat.max (Nat.max g.dThermal (if 0 < g.pauseHold then 4 else 0)) (Nat.max (if alert then 4 else 0) g.ctrlDuty.toNat) }

/-! ## Compute dies (R448, R453 to R455) -/

/-- The array trips: the core domain switches off and the die is fenced (R453). -/
def Chip.coreTrip (s : Chip) (d : DieId) : Chip :=
  if (s.die d).coreOn = false then s else
  (s.coreOffDomain d).updDie d (fun x => { x with tripped := true, fenced := true })

/-- CORE_RESTART: every reading of the die is below 85 degrees C. -/
def Chip.coreRestart (d : DieId) (s : Chip) : Chip :=
  let x := s.die d
  if x.ringOn = false ∨ x.tripped = false ∨ x.sensors.any (fun e => decide (1360 ≤ e.2.reading.toInt)) then s else
  let s := s.coreOnDomain d
  let s := s.updDie d (fun y => { y with tripped := false, retest := true, guider := { y.guider with dThermal := 7 }.recompute y.alert })
  s.err (.guider d) { bit := 1, code := Code.coreOff }

/-- The standby controller's clock: 10 ns units in one hour. -/
def standbyHour : Nat := 360000000000

/-- Trips, the latest first, that lie within one hour before the latest. -/
def recentTrips (l : List Nat) : List Nat := l.filter (fun t => l.headD 0 < t + standbyHour)

/-- RING_RESTART: not after the third trip of the die within one hour, until a module reset (R455). -/
def Chip.ringRestart (d : DieId) (s : Chip) : Chip :=
  let trips := Table.read [] s.power.ringTrips d
  if (s.die d).ringOn ∨ (s.die d).ringReturned = false ∨ s.power.lockout ∨ trips = [] ∨ 3 ≤ (recentTrips trips).length then s else s.ringOnDomain d

/-! ## Stacks (R196, R197, R448, R456) -/

/-- The refresh interval the hottest DRAM reading asks for: 0 nominal, 1 halved, 2 quartered. -/
def refreshLevel (t : Int) : Nat := if t ≤ 1360 then 0 else if t ≤ 1520 then 1 else 2

/-- The refresh interval after a sample: it shortens at once and lengthens one step after 16 cool samples. [log 137 DEDUCED] -/
def Stack.rateStep (x : Stack) (hot : Int) : Stack :=
  let want := refreshLevel hot
  if x.refreshRate < want then { x with refreshRate := want, coolSamples := 0 }
  else if x.refreshRate = 0 then { x with coolSamples := 0 }
  else
    let cool : Bool := if x.refreshRate = 2 then decide (hot ≤ 1472) else decide (hot ≤ 1312)
    if cool = false then { x with coolSamples := 0 }
    else if x.coolSamples + 1 = 16 then { x with refreshRate := x.refreshRate - 1, coolSamples := 0 }
    else { x with coolSamples := x.coolSamples + 1 }

/-- A stack trips: its runs end TORN, its controller goes offline, its DRAM dies enter self-refresh at the quartered interval. [log 139 DEDUCED] -/
def Chip.stackTrip (s : Chip) (t : StackId) : Chip :=
  if (s.stack t).tripped then s else
  let s := s.tearRuns t
  let s := s.updStack t (fun x => { x with tripped := true, online := false, onlineAck := false, selfRefresh := true, quarteredSelf := true })
  s.note (stackDie t) 2 Code.stackTrip t.val

/-- STACK_SENSOR_SAMPLE: sensors 0 to 7 are the base die's, 8 to 23 the DRAM dies'. [log 138 DEDUCED] -/
def Chip.stackSample (t : StackId) (r : List (BitVec 16)) (s : Chip) : Chip :=
  let x := s.stack t
  if x.domainOn = false then s else
  let out := sampleSensors 24 (fun i => Config.neighbours (64 + i)) 10 (fun i => Table.read {} x.sensors (clip 24 i)) r
  let all := out.map (fun e => e.1)
  let base := all.take 8
  let dram := all.drop 8
  let hot := hottestOf dram
  let rate := rateOf all 10
  let warn := atLeast rate 16
  let s := s.updStack t (fun y =>
    { y.rateStep hot with
      sensors := out.mapIdx (fun i e => (clip 24 i, e.1)), hottest := BitVec.ofInt 16 hot,
      guider := { y.guider.sample 10 (hottestOf all) rate false with rorWarn := warn } })
  let broke := (List.range 24).filter (fun i => (out.getD i ({}, false)).2)
  let s := broke.foldl (fun s i => s.note (stackDie t) 2 Code.sensorBroken (t.val * 256 + i)) s
  -- the warning has a log entry, whose code the manual does not give
  let s := if warn ∧ x.guider.rorWarn = false then let f := s.freeCode; f.2.note (stackDie t) 1 f.1 t.val else s
  if 1760 ≤ hottestOf base ∨ 1680 ≤ hot ∨ atLeast rate 128 then s.stackTrip t else s

/-- STACK_TRIP_CLEARED: firmware sets ONLINE again. -/
def Chip.stackTripCleared (t : StackId) (s : Chip) : Chip :=
  let x := s.stack t
  if x.domainOn = false ∨ x.tripped = false ∨ x.sensors.any (fun e => decide (1360 ≤ e.2.reading.toInt)) then s else
  let s := s.updStack t (fun y => { y with tripped := false, quarteredSelf := false })
  if s.running (stackDie t) = false ∨ lbMode x.loopback ≠ 0 then s
  else s.updStack t (fun y => { y with online := true, onlineAck := true, selfRefresh := false })

/-! ## The input and the power envelope (R442 to R444, R458) -/

/-- PWR_ALERT. -/
def Chip.pwrAlertOn (s : Chip) : Chip :=
  let s := { s with power := { s.power with pwrAlert := true, lastAlert := some s.power.standby } }
  allDies.foldl (fun s d =>
    if (s.die d).ringOn = false then s else
    (s.updDie d (fun x => { x with alert := true, guider := x.guider.recompute true })).err (.power d) { bit := 0, code := 0 }) s

/-- PWR_ALERT_CLEAR. -/
def Chip.pwrAlertOff (s : Chip) : Chip :=
  let s := { s with power := { s.power with pwrAlert := false, lastAlert := if s.power.pwrAlert then some s.power.standby else s.power.lastAlert } }
  allDies.foldl (fun s d => if (s.die d).ringOn then s.updDie d (fun x => { x with alert := false, guider := x.guider.recompute false }) else s) s

/-- The point a value of POINT names: 3 acts as 1 (R458). -/
def pointOf (p : BitVec 2) : BitVec 2 := if p = 3 then 1 else p

/-- A write of POWER.CTRL.POINT: the supply slews to the selected point (R38, R458). -/
def Chip.pointWrite (d : DieId) (p : BitVec 2) (s : Chip) : Chip :=
  if (s.die d).ringOn = false then s else
  s.updDie d (fun x => { x with point := p, slewing := decide (pointOf p ≠ x.pointActive) })

/-- SUPPLY_SLEW_DONE. -/
def Chip.slewDone (d : DieId) (s : Chip) : Chip :=
  let x := s.die d
  if x.ringOn = false ∨ x.slewing = false then s else s.updDie d (fun y => { y with slewing := false, pointActive := pointOf y.point })

/-- P_LIMIT in force: larger values act as 5,200 (R458). -/
def Power.limit (p : Power) : Nat := Nat.min 5200 p.pLimit.toNat

/-- Whether firmware may select Peak (R444). -/
def Power.peakAllowed (p : Power) (avg : Nat) : Bool :=
  decide (avg ≤ p.peakGate.toNat) && !p.pwrAlert && (match p.lastAlert with
    | some t => decide (t + 100000000 ≤ p.standby)
    | none => true)

/-- Dies whose ring is on and which a predicate picks. -/
def Chip.diesWith (s : Chip) (f : Die → Bool) : List DieId := allDies.filter (fun d => (s.die d).ringOn && f (s.die d))

/-- Firmware changes its duty floor on some dies. -/
def Chip.dutyBy (s : Chip) (ds : List DieId) (f : Nat → Nat) : Chip :=
  ds.foldl (fun s d => s.updDie d (fun x => { x with guider := { x.guider with ctrlDuty := BitVec.ofNat 3 (f x.guider.ctrlDuty.toNat) }.recompute x.alert })) s

/-- One step against an average above the limit, in R442's order. -/
def Chip.throttle (s : Chip) : Chip :=
  let push (s : Chip) (n : Nat) (ds : List DieId) : Chip := { s with power := { s.power with throttleSteps := (n, ds) :: s.power.throttleSteps } }
  let peak := s.diesWith (fun x => pointOf x.point = 2)
  let ref := s.diesWith (fun x => pointOf x.point = 1)
  if peak ≠ [] then push (peak.foldl (fun s d => Chip.pointWrite d 1 s) s) 1 peak
  else if ref ≠ [] then push (ref.foldl (fun s d => Chip.pointWrite d 0 s) s) 2 ref
  else if s.power.dutyWait ≠ 0 then { s with power := { s.power with dutyWait := s.power.dutyWait - 1 } }
  else
    let ds := s.diesWith (fun x => decide (x.guider.ctrlDuty.toNat < 7))
    if ds = [] then s else
    let s := push (s.dutyBy ds (fun n => n + 1)) 3 ds
    { s with power := { s.power with dutyWait := 9 } }

/-- Undo the last step taken. -/
def Chip.relax (s : Chip) (avg : Nat) : Chip :=
  match s.power.throttleSteps with
  | [] => s
  | (n, ds) :: rest =>
    let on := ds.filter (fun d => (s.die d).ringOn)
    let pop (s : Chip) : Chip := { s with power := { s.power with throttleSteps := rest } }
    if n = 3 then pop (s.dutyBy on (fun k => k - 1))
    else if n = 2 then pop (on.foldl (fun s d => Chip.pointWrite d 1 s) s)
    else if s.power.peakAllowed avg then pop (on.foldl (fun s d => Chip.pointWrite d 2 s) s)
    else s

/-- ENVELOPE_CHECK: CD0's firmware judges the average every 1 ms; after 1,000 calm checks it undoes one step, and one more every 100. [log 142 DEDUCED] -/
def Chip.envelopeCheck (avg : Word32) (s : Chip) : Chip :=
  if s.running 0 = false then s else
  let s := { s with power := { s.power with inputAvg := avg } }
  let limit := s.power.limit
  if limit < avg.toNat then ({ s with power := { s.power with calmChecks := 0 } }).throttle
  else if 20 * avg.toNat ≤ 19 * limit then
    let n := s.power.calmChecks + 1
    let s := { s with power := { s.power with calmChecks := if n = 1100 then 1000 else n, dutyWait := 0 } }
    if n = 1000 ∨ n = 1100 then s.relax avg.toNat else s
  else { s with power := { s.power with calmChecks := 0 } }

/-- EVENTS_READ: the latched events are returned and cleared. -/
def Chip.eventsRead (s : Chip) : Chip :=
  if (s.die 0).ringOn = false then { s with out := .fault Code.unreachable } else
  let p := s.power
  { s with power := { p with ringTripEv := 0, ovloEv := false, uvloEv := false },
           out := .word (p.ringTripEv.toNat * 256 + (if p.ovloEv then 2 else 0) + (if p.uvloEv then 1 else 0)) }

/-! ## Meanings -/

def execStackSensorSample (t : StackId) (r : List (BitVec 16)) : State → Outcome State Fault Refusal := onChip (Chip.stackSample t r)
def execCoreRestart (d : DieId) : State → Outcome State Fault Refusal := onChip (Chip.coreRestart d)
def execRingRestart (d : DieId) : State → Outcome State Fault Refusal := onChip (Chip.live (Chip.ringRestart d))
def execStackTripCleared (t : StackId) : State → Outcome State Fault Refusal := onChip (Chip.stackTripCleared t)
def execPwrAlert : State → Outcome State Fault Refusal := onChip Chip.pwrAlertOn
def execPwrAlertClear : State → Outcome State Fault Refusal := onChip Chip.pwrAlertOff
def execEnvelopeCheck (avg : BitVec 32) : State → Outcome State Fault Refusal := onChip (Chip.envelopeCheck avg)
def execSupplySlewDone (d : DieId) : State → Outcome State Fault Refusal := onChip (Chip.slewDone d)
def execEventsRead : State → Outcome State Fault Refusal := onChip (Chip.live Chip.eventsRead)

end Sys2Proof.Machine
end

