-- ==== Sys2Proof/Machine/SyncCmds.lean ====
section
/-! DEFINITION. The commands on synchronisation objects and the SYNC page (R275 to R284), and the forwarding of notifications (R337). -/

namespace Sys2Proof.Machine

open Host

/-! ## Operations by requester (R277) -/

/-- The operations of R277. -/
inductive ObjKind where
  | read | signal | set | arm | disarm
  deriving DecidableEq, Repr

/-- Whether a requester issues an operation at all (R277). -/
def mayIssue (a : Agent) (k : ObjKind) : Bool :=
  match k, a with
  | .read, .sequencer _ | .read, .hart _ | .read, .host _ | .read, .meridian _ => true
  | .signal, .sequencer _ | .signal, .de _ | .signal, .run _ _ | .signal, .hart _ | .signal, .host _ | .signal, .remote _ => true
  | .set, .hart _ | .set, .meridian _ | .set, .host .pf => true
  | .arm, .hart _ | .arm, .meridian _ | .arm, .host .pf => true
  | .disarm, .meridian _ | .disarm, .host .pf => true
  | _, _ => false

/-- A fault of an object reaches its requester (R71, R282). -/
def Chip.deliver (s : Chip) (a : Agent) (o : ObjId) (read : Bool) (c : FaultCode) : Chip :=
  let addr := selfAddr (objAddr o)
  let s := { s with out := .fault c }
  match a with
  | .sequencer q => if (s.cluster q).running then s.engineFault q c 0 (s.cluster q).pc 0 addr else s
  | .run t n => if (s.slotOf t n).active.isSome then s.runErr t n 0 0 c addr else s
  | .hart h => s.updHart h (fun x => { x with exception := some (if read then 5 else 7) })
  | .host _ => { s with out := if read then .completerAbort else .fault c }
  | _ => s

/-- An operation the requester does not issue: SYNC_OP, unless the object is offline or out of reach (R277, R284). -/
def Chip.notOperation (s : Chip) (w : Who) (o : ObjId) (read : Bool) (scope : Option (BitVec 3)) : Chip :=
  let c := s.notOpRefusal w o 0
  (s.objErr w o c scope).deliver w.agent o read c

/-- What an operation returns to its requester: COUNT and the word at 0x8 for a READ, the old COUNT for a SIGNAL or an ARM, else 0. -/
def ObjOp.result (op : ObjOp) (r : ObjAnswer) : Nat :=
  match op with
  | .read => r.count.toNat + r.notify.toNat * 2 ^ 64
  | .signal _ _ | .arm _ => r.count.toNat
  | _ => 0

/-- READ: COUNT and the word at 0x8 (R276). -/
def Chip.objReadCmd (a : Agent) (o : ObjId) (s : Chip) : Chip :=
  let w := whoOf a
  if mayIssue a .read = false then s.notOperation w o true none else
  let r := s.objReadOp w o
  match r.2.fault with
  | some c => r.1.deliver a o true c
  | none =>
    if r.2.held then { r.1.holdOp a o .read with out := .none }
    else { r.1 with out := .word (ObjOp.result .read r.2) }

/-- SIGNAL, SET, ARM or DISARM by a requester (R276); the old COUNT goes to a fetching requester. -/
def Chip.objChange (a : Agent) (o : ObjId) (k : ObjKind) (op : ObjOp) (scope : Option (BitVec 3)) (s : Chip) : Chip :=
  let w := whoOf a
  if mayIssue a k = false then s.notOperation w o false scope else
  let r := s.objOp w o op
  match r.2.fault with
  | some c => r.1.deliver a o false c
  | none => { r.1 with out := if r.2.held = false ∧ (k = .signal ∨ k = .arm) then .word (op.result r.2) else .none }

/-! ## The SYNC page (R281, R282) -/

/-- CLEAR_ALL: every object is as at power-on, the notification queue is empty, and operations wait until it is done. [log 66 DEDUCED] -/
def Chip.clearAll (u : SyncUnit) (s : Chip) : Chip :=
  let q : Requester := .meridian (syncDie u)
  match s.pageRefusal q (.sync u) with
  | some c => s.refusePage q (.sync u) c 0
  | none =>
    if (s.sync u).clearBusy then s else
    let s := { s with objs := s.objs.drop (fun o => decide (unitOf o = u)) }
    let s := s.updSync u (fun x => { x with notes := [], clearBusy := true })
    match u with
    | .stack t => s.updStack t (fun x => { x with runQueue := [] })
    | .die _ => s

/-- An operation that was held proceeds; its fault reaches the requester (R71, R282). -/
def Chip.proceedHeld (s : Chip) (h : Agent × ObjId × ObjOp) : Chip × (Agent × BitVec 16 × Nat) :=
  let w := whoOf h.1
  let r := match h.2.2 with
    | .read => s.objReadOp w h.2.1
    | op => s.objOp w h.2.1 op
  match r.2.fault with
  | some c => (r.1.deliver h.1 h.2.1 (h.2.2 = .read) c, (h.1, c, 0))
  | none => (r.1, (h.1, 0, h.2.2.result r.2))

/-- CLEAR_ALL_DONE: the operations held meanwhile proceed in the order they arrived, and their answers return. -/
def Chip.clearAllDone (u : SyncUnit) (s : Chip) : Chip :=
  let x := s.sync u
  if x.clearBusy = false then s else
  let s := s.updSync u (fun y => { y with clearBusy := false, held := [] })
  let r := x.held.foldl (fun (acc : Chip × List (Agent × BitVec 16 × Nat)) h => let q := acc.1.proceedHeld h; (q.1, acc.2 ++ [q.2])) (s, [])
  { r.1 with out := .answers r.2 }

/-- The object of a SYNC block by its number. -/
def objIn (u : SyncUnit) (n : Nat) : ObjId :=
  match u with
  | .die d => .die d (clip 4096 n)
  | .stack t => .stack t (clip 256 n)

/-- The lowest-numbered object of a block with a pending notification (R280). -/
def Chip.lowestPending (s : Chip) (u : SyncUnit) : Option Nat :=
  s.objs.foldl (fun (acc : Option Nat) e =>
    if unitOf e.1 = u ∧ 0 < e.2.notesPending then some (match acc with
      | some m => Nat.min m (numOf e.1)
      | none => numOf e.1)
    else acc) none

/-- Take the oldest notification; an object's pending one follows into the queue (R280). -/
def Chip.takeNote (s : Chip) (u : SyncUnit) : Chip × Option Nat :=
  match (s.sync u).notes with
  | [] => (s, none)
  | n :: rest =>
    let s := s.updSync u (fun x => { x with notes := rest })
    match s.lowestPending u with
    | none => (s, some n)
    | some m => ((s.updObj (objIn u m) (fun x => { x with notesPending := x.notesPending - 1 })).updSync u (fun x => { x with notes := x.notes ++ [m] }), some n)

/-- NOTE_READ: VALID and the object's number; the read removes the entry. [log 159 DESIGN CHOICE] -/
def Chip.noteRead (u : SyncUnit) (s : Chip) : Chip :=
  let q : Requester := .meridian (syncDie u)
  match s.pageRefusal q (.sync u) with
  | some c => s.refusePage q (.sync u) c 0
  | none =>
    match s.takeNote u with
    | (s, none) => { s with out := .word 0 }
    | (s, some n) => { s with out := .word (2 ^ 31 + n) }

/-! ## Forwarding (R337) -/

/-- The function a number names: 0 the physical function, 1 to 64 a virtual function (R367, R368). -/
def fnOfNumber (n : Nat) : Option HostFn :=
  if n = 0 then some .pf else if n ≤ 64 then some (.vf (clip 64 (n - 1))) else none

/-- NOTIFICATION_FORWARD: firmware takes a notification and sends one message to its object's target, or discards it. -/
def forwardNote (u : SyncUnit) (r : Reach) : Reach :=
  let s := r.chip
  if s.running (syncDie u) = false ∨ (s.pageRefusal (.meridian (syncDie u)) (.sync u)).isSome then r else
  match s.takeNote u with
  | (s, none) => { r with chip := s }
  | (s, some n) =>
    match Table.read none r.fw.routes (objIn u n) with
    | none => { r with chip := s }
    | some t =>
      if t.getLsbD 31 then
        { r with chip := s, fw := { r.fw with imsicSent := r.fw.imsicSent ++ [(⟨clip 8 ((field t 23 16).toNat / 16), clip 16 (field t 23 16).toNat⟩, t.extractLsb' 0 16)] } }
      else match fnOfNumber (field t 23 16).toNat with
        | some f => { r with chip := s.msix f (field t 15 0).toNat }
        | none => { r with chip := s }

/-! ## Meanings -/

def execObjRead (a : Agent) (o : ObjId) : State → Outcome State Fault Refusal := onChip (Chip.live (Chip.objReadCmd a o))
def execObjSignal (a : Agent) (o : ObjId) (v : BitVec 64) (sc : Option (BitVec 3)) : State → Outcome State Fault Refusal :=
  onChip (Chip.live (Chip.objChange a o .signal (.signal v sc) sc))
def execObjSet (a : Agent) (o : ObjId) (v : BitVec 64) : State → Outcome State Fault Refusal := onChip (Chip.live (Chip.objChange a o .set (.set v) none))
def execObjArm (a : Agent) (o : ObjId) (t : BitVec 48) : State → Outcome State Fault Refusal := onChip (Chip.live (Chip.objChange a o .arm (.arm t) none))
def execObjDisarm (a : Agent) (o : ObjId) : State → Outcome State Fault Refusal := onChip (Chip.live (Chip.objChange a o .disarm .disarm none))
def execClearAll (u : SyncUnit) : State → Outcome State Fault Refusal := onChip (Chip.live (Chip.clearAll u))
def execClearAllDone (u : SyncUnit) : State → Outcome State Fault Refusal := onChip (Chip.live (Chip.clearAllDone u))
def execNoteRead (u : SyncUnit) : State → Outcome State Fault Refusal := onChip (Chip.live (Chip.noteRead u))
def execNotificationForward (u : SyncUnit) : State → Outcome State Fault Refusal := onReach (forwardNote u)

end Sys2Proof.Machine
end

