-- ==== Sys2Proof/Machine/Heads.lean ====
section
/-! DEFINITION. The head every block's page carries: the words at offsets 0x000 to 0x0FF (R64 to R66, R460). -/

namespace Sys2Proof.Machine

open Host

/-- Block type codes (R69). -/
def Block.typeCode : Block → Nat
  | .meridian _ => 0x0140 | .security _ => 0x0410 | .power _ => 0x0700 | .guider _ => 0x0160 | .coelostat _ => 0x0600
  | .photometerIf _ => 0x0500 | .d2d _ => 0x0180 | .stackCache _ => 0x0120 | .sync _ => 0x0130 | .hostlink => 0x0400
  | .kuzopaPort _ => 0x0300 | .fabricRoute _ => 0x0310 | .clusterSeq _ => 0x0101 | .perf _ => 0x0170 | .core _ => 0x0102
  | .dataEngine _ => 0x0110 | .hostcore _ => 0x0150 | .stackCtrl _ => 0x0200 | .ulizen _ => 0x0210 | .slit _ => 0x0220
  | .reducer _ => 0x0230 | .scrub _ => 0x0240

/-- A block's index on its die, or its global port or stack number (R65). -/
def Block.index : Block → Nat
  | .clusterSeq c => c.idx.val
  | .perf (.cluster c) => c.idx.val
  | .perf (.stack t) => t.val
  | .core k => k.idx.val
  | .dataEngine k => k.idx.val
  | .hostcore h => h.idx.val
  | .kuzopaPort p => p.val
  | .stackCtrl t | .ulizen t | .slit t | .reducer t | .scrub t => t.val
  | .sync (.stack t) => t.val
  | _ => 0

/-- ID: the block type over the die and the local index (R65). -/
def Block.id (b : Block) : Word32 := BitVec.ofNat 32 (b.typeCode * 65536 + b.die.val * 8192 + b.index)

/-- A word from a Bool at a bit. -/
def bitIf (b : Bool) (n : Nat) : Word32 := if b then bitMask n else 0

/-- The words of a head that do not belong to the block: CAPS, CTRL, STATUS and the events computed on reading. -/
structure HeadView where
  caps : Word32 := 0
  ctrl : Word32 := 0
  status : Word32 := 0
  events : Word32 := 0

/-- A word of the head (R64); offsets below 0x100. -/
def Head.word (h : Head) (b : Block) (v : HeadView) (off : Nat) : Word32 :=
  let raw := h.irqRaw ||| v.events
  match off / 4 with
  | 0 => b.id
  | 1 => 0x01000000
  | 2 => v.caps
  | 4 => v.ctrl
  | 5 => v.status
  | 6 => h.errStatus
  | 7 => h.errMask
  | 8 => raw
  | 9 => h.irqEnable
  | 10 => raw &&& h.irqEnable
  | 12 => h.errAddr.extractLsb' 0 32
  | 13 => h.errAddr.extractLsb' 32 32
  | 14 => h.errTag
  | 15 => h.errSyndrome
  | n => if 16 ≤ n ∧ n < 64 then Table.read 0 h.counters (n - 16) else 0

/-- A write of a word of the head other than CTRL: ERR_STATUS and the events clear bits written 1; live counter words are taken where the block's counters are programmable (R64, R460). -/
def Head.put (h : Head) (off : Nat) (v : Word32) (live : Nat) : Head :=
  match off / 4 with
  | 6 => { h with errStatus := h.errStatus &&& ~~~v }
  | 7 => { h with errMask := v }
  | 8 => { h with irqEvents := h.irqEvents &&& ~~~(v &&& ~~~1#32) }
  | 9 => { h with irqEnable := v }
  | n => if 16 ≤ n ∧ n < 16 + live then { h with counters := Table.write h.counters (n - 16) v } else h

end Sys2Proof.Machine
end

