-- ==== Sys2Proof/Machine/Fabric.lean ====
section
/-! DEFINITION. Kuzopa ports: training, width and retry (R339 to R346), Finder frames (R347), the packets in transit and at their target (R353 to R361), and the egress arbiter (R354, R362). Messages are carried one to a flit. -/

namespace Sys2Proof.Machine

open Host

/-! ## Faults and responses -/

/-- A fabric fault recorded on a FABRIC_ROUTE page, whose ERR_STATUS bits the manual does not name (R363): which bit is a free choice. [log 105 DEDUCED] -/
def Chip.fabricErr (s : Chip) (d : DieId) (c : FaultCode) (tag : BitVec 16) (addr : Word64) : Chip :=
  let f := s.freeChoice 32
  f.2.err (.fabricRoute d) { bit := f.1, code := c, tag := tag, addr := addr }

/-- A packet's length in bytes (R358). -/
def msgLength : FabricMsg → Nat
  | .req m =>
    let data := if m.op = 2 ∨ m.op = 3 then m.data.length else if m.op = 4 ∧ m.aop = 10 then 8 else 0
    32 + (data + 15) / 16 * 16
  | .rsp m => 16 + (m.data.length + 15) / 16 * 16
  | .mgmt _ => 48

/-- The channel a packet arrived on, by the DOWN bit it carries: requests on VC0 or VC1, responses on VC2 or VC3 (R354, R355). -/
def arrivedOn : FabricMsg → Fin 4
  | .req m => if m.down then 1 else 0
  | .rsp m => if m.down then 3 else 2
  | .mgmt _ => 0

/-- A packet's bytes leave the buffer of the port it arrived at: its credits are owed (R354). [log 184 DEDUCED] -/
def Chip.freeBuffer (s : Chip) (input : Nat) (m : FabricMsg) : Chip :=
  if input < 16 then
    s.updPort (clip 16 input) (fun x => { x with creditOwed := Table.write x.creditOwed (arrivedOn m) (Table.read 0 x.creditOwed (arrivedOn m) + msgLength m / 16) })
  else s

/-- Whether a packet from an input reaches a port's die in this module: one that entered at a port crosses from that port's die (R16, R353); one of the module itself has been judged at its issuing die. -/
def Chip.crosses (s : Chip) (input : Nat) (p : PortId) : Bool :=
  if input < 16 then s.route (portDie (clip 16 input)) (portDie p) else true

/-- A response leaves: it has no address, so which of several usable ports it takes is free (R353, R358); one that cannot be routed, or that the module's gap holds back, is dropped silently (R360). -/
def Chip.routeRsp (s : Chip) (input : Nat) (m : FabricRsp) : Chip :=
  let f := s.freeBits 64
  match f.2.choose (input = 16) m.src m.dst f.1 m.down with
  | .error _ => f.2.freeBuffer input (.rsp m)
  | .ok (p, d) => if f.2.crosses input p then f.2.enqueue p input d (.rsp m) else f.2.freeBuffer input (.rsp m)

/-- The response to a request (R357, R358). -/
def Chip.respond (s : Chip) (m : FabricReq) (fault : FaultCode) (data : List Byte) : Chip :=
  let op : BitVec 6 := if m.op = 1 then 0x21 else if m.op = 4 then 0x24 else 0x22
  s.routeRsp 16 { op := op, down := false, hops := s.fabric.hopInit, dst := m.src, src := m.dst, txn := m.txn, die := m.die,
                  tag := m.tag, fault := fault, data := data }

/-- A response reaches the waiter of its request (R359, R361). -/
def Chip.answerTxn (s : Chip) (t : Txn) (fault : FaultCode) (data : List Byte) : Chip :=
  let stop (c : ClusterId) (lane : Nat) : Chip :=
    if fault = 0 ∨ (s.cluster c).running = false then s else s.engineFault c fault t.tag (s.cluster c).pc lane t.addr
  match t.waiter with
  | .sequencer c => stop c 0
  | .engine k => stop (clusterOf k) (laneOf k).val
  | .deRead k piece i1 i2 => s.deRemote k (some (piece, data)) fault t.addr i1 i2
  | .deWrite k i1 i2 => s.deRemote k none fault t.addr i1 i2
  | .ulizen u n => if fault = 0 then s else s.runErr u n 0 0 fault t.addr
  | .doorbell d => if fault = 0 then { s with out := .bytes data } else { s.fabricErr d fault t.tag t.addr with out := .fault fault }
  | .dropped => s

/-- The outstanding request of a number, taken off a die's list. -/
def Chip.takeTxn (s : Chip) (d : DieId) (n : BitVec 16) : Chip × Option Txn :=
  (s.updDie d (fun x => { x with txns := x.txns.filter (fun t => t.num ≠ n) }), (s.die d).txns.find? (fun t => t.num = n))

/-- A request is routed towards its destination; a module that drops it sends the response with the fault, or faults its own requester (R353, R359); so does one that would cross the gap between the halves (R16). -/
def Chip.routeReq (s : Chip) (input : Nat) (m : FabricReq) : Chip :=
  match s.choose (input = 16) m.src m.dst m.addr m.down with
  | .ok (p, d) =>
    if s.crosses input p then s.enqueue p input d (.req m)
    else ((s.freeBuffer input (.req m)).fabricErr (portDie (clip 16 input)) Code.unreachable m.tag m.addr).respond m Code.unreachable []
  | .error c =>
    if input = 16 then
      let r := s.takeTxn (clip 8 m.die.toNat) m.txn
      match r.2 with
      | some t => r.1.answerTxn t c []
      | none => r.1
    else ((s.freeBuffer input (.req m)).fabricErr (portDie (clip 16 input)) c m.tag m.addr).respond m c []

/-! ## Links (R341 to R346) -/

/-- The lanes and the width a mask of locked lanes gives (R343 step 4); width 1 x1, 2 x2, 3 x4. -/
def widthOf (m : BitVec 4) : BitVec 4 × BitVec 2 :=
  if m = 0xF then (0xF, 3)
  else if m &&& 0x3 = 0x3 then (0x3, 2)
  else if m &&& 0xC = 0xC then (0xC, 2)
  else if m.getLsbD 0 then (1, 1) else if m.getLsbD 1 then (2, 1) else if m.getLsbD 2 then (4, 1) else if m.getLsbD 3 then (8, 1)
  else (0, 0)

def laneBit (l : Fin 4) : BitVec 4 := BitVec.ofNat 4 (2 ^ l.val)

/-- The port's die is powered and no freeze holds it. -/
def Chip.portLive (s : Chip) (p : PortId) : Bool := (s.die (portDie p)).ringOn && !s.frozen

/-- Packets that waited to enter a port are routed again (R346). -/
def Chip.routeAgain (s : Chip) (l : List (Fin 4 × Nat × FabricMsg)) : Chip :=
  l.foldl (fun s e =>
    match e.2.2 with
    | .req m => s.routeReq e.2.1 m
    | .rsp m => s.routeRsp e.2.1 m
    | .mgmt _ => s) s

/-- A link goes down (R346): LINK_DOWN is recorded when it was ACTIVE, and what waited to enter the port is routed again. -/
def Chip.linkDown (p : PortId) (s : Chip) : Chip :=
  let x := s.port p
  let s := s.updPort p (fun y => { Port.down y with queue := [] })
  let s := if x.state = 6 then s.err (.kuzopaPort p) { bit := 1, code := 0 } else s
  s.routeAgain x.queue

/-- PORT_ENABLE: training begins at step 1 (R343). -/
def Chip.portEnable (p : PortId) (s : Chip) : Chip :=
  if s.portLive p = false then s else s.updPort p (fun x => if x.enable then x else { x with enable := true, state := 1 })

/-- ENABLE cleared: the link goes down and the port is disabled (R364). -/
def Chip.portDisable (p : PortId) (s : Chip) : Chip :=
  if s.portLive p = false then s else (s.updPort p (fun x => { x with enable := false })).linkDown p

/-- RETRAIN and WIDEN: an enabled port trains again from step 1 with every lane of LANE_MASK (R345). -/
def Chip.retrain (p : PortId) (s : Chip) : Chip :=
  if s.portLive p = false ∨ (s.port p).enable = false then s else s.linkDown p

/-- Training falls back to step 1 (R343). -/
def Port.restart (x : Port) : Port := { x with state := 1, lanes := 0, width := 0, candidate := 0, locks := [] }

/-- DETECT_PROBE (step 1). -/
def Chip.detectProbe (p : PortId) (present : BitVec 4) (s : Chip) : Chip :=
  if s.portLive p = false then s else
  s.updPort p (fun x => if x.state ≠ 1 ∨ present &&& x.laneMask = 0 then x else { x with state := 2, candidate := present &&& x.laneMask })

/-- Step 2 ends with the lanes that met their margin. -/
def Chip.equalised (p : PortId) (met : BitVec 4) (s : Chip) : Chip :=
  if s.portLive p = false then s else
  s.updPort p (fun x =>
    if x.state ≠ 2 then x
    else if x.candidate &&& met = 0 then x.restart
    else { x with state := 3, candidate := x.candidate &&& met, locks := [] })

/-- TRAINING_TIMEOUT: 100 ms at one step; at step 6 while no credits are held. -/
def Chip.trainingTimeout (p : PortId) (s : Chip) : Chip :=
  if s.portLive p = false then s else
  let x := s.port p
  if x.state = 6 ∧ x.credits = [] then s.linkDown p
  else if x.state = 0 ∨ x.state = 6 then s
  else s.updPort p Port.restart

/-- Counter words of a port: per lane the corrected and the uncorrectable codewords, then the resent flits (R364). [log 106 DEDUCED] -/
def Chip.portCount (s : Chip) (p : PortId) (word n : Nat) : Chip := s.updHead (.kuzopaPort p) (fun h => h.bump word n)

/-- Unacknowledged flits before a number. -/
def ackedCount (retry : List RetryFlit) (next ack : BitVec 12) : Nat :=
  let before := (retry.takeWhile (fun r => r.seq ≠ ack)).length
  if ack = next then retry.length else if before < retry.length then before else 0

/-- The unacknowledged flits of a port are sent again and counted (R342, R344); after the sixteenth time in a row RETRY_LIMIT is set and the link goes down. -/
def Chip.resend (p : PortId) (s : Chip) : Chip :=
  let x := s.port p
  if x.retry = [] then s else
  let s := (s.updPort p (fun y => { y with resends := y.resends + 1 })).portCount p 8 x.retry.length
  if x.resends + 1 < 16 then s
  else (s.err (.kuzopaPort p) { bit := 2, code := 0 }).linkDown p

/-- Word 0 of a received flit: credits return, acknowledged flits leave the retry buffer, and a NAK resends the others (R342, R354). -/
def Chip.flitHead (p : PortId) (f : FlitHead) (s : Chip) : Chip :=
  let x := s.port p
  let vc : Fin 4 := ⟨f.crVc.toNat, f.crVc.isLt⟩
  let x := if f.crUnits = 0 then x else { x with credits := Table.write x.credits vc (Nat.min 2048 (Table.read 0 x.credits vc + f.crUnits.toNat)) }
  let acked := ackedCount x.retry x.txSeq f.ack
  let x := if acked = 0 then x else { x with retry := x.retry.drop acked, resends := 0 }
  let s := s.updPort p (fun _ => x)
  if f.nak then s.resend p else s

/-- A link keeps the lanes of a mask: it narrows and resends what is unacknowledged, or goes down when no lane remains (R344). [log 99 DEDUCED] -/
def Chip.narrow (p : PortId) (keep : BitVec 4) (s : Chip) : Chip :=
  let x := s.port p
  let left := x.candidate &&& keep
  let r := widthOf left
  if r.1 = x.lanes then s.updPort p (fun y => { y with candidate := left }) else
  let s := s.err (.kuzopaPort p) { bit := 0, code := 0 }
  if r.1 = 0 then s.linkDown p else
  let s := s.updHead (.kuzopaPort p) (fun h => h.raise 2)
  (s.updPort p (fun y => { y with candidate := left, lanes := r.1, width := r.2, uncorr := [] })).resend p

/-- A codeword that decodes badly on an active lane is counted; too many within 1 ms narrow the link (R344). -/
def Chip.badCodeword (p : PortId) (lane : Fin 4) (w : Codeword) (s : Chip) : Chip :=
  if w ≠ .uncorrectable then s else
  let n := Table.read 0 (s.port p).uncorr lane + 1
  let s := (s.updPort p (fun x => { x with uncorr := Table.write x.uncorr lane n })).portCount p (2 * lane.val + 1) 1
  if (s.port p).uncorrMax.toNat < n then s.narrow p (~~~(laneBit lane)) else s

def goodWord (w : Codeword) : Bool := decide (w = .clean) || decide (w = .corrected)

/-- IDLE_FLIT: at LOCK it counts towards 64 good codewords in a row on its lane; on a running link its word 0 counts (R343, R341). -/
def Chip.idleFlit (p : PortId) (lane : Fin 4) (w : Codeword) (f : FlitHead) (s : Chip) : Chip :=
  if s.portLive p = false then s else
  let x := s.port p
  let s := if w = .corrected then s.portCount p (2 * lane.val) 1 else s
  if x.state = 3 ∧ x.candidate.getLsbD lane.val then
    s.updPort p (fun y =>
      let locks := Table.write y.locks lane (if goodWord w then Nat.min 64 (Table.read 0 y.locks lane + 1) else 0)
      let all := (List.finRange 4).all (fun l => !y.candidate.getLsbD l.val || decide (Table.read 0 locks l = 64))
      { y with locks := locks, state := if all then 4 else 3 })
  else if x.state = 6 ∧ x.lanes.getLsbD lane.val then (if goodWord w then s.flitHead p f else s.badCodeword p lane w)
  else s

/-- LANE_LOCK_LOST: an active link narrows or goes down; a port in training starts the lane, or the training, again. -/
def Chip.laneLost (p : PortId) (lane : Fin 4) (s : Chip) : Chip :=
  if s.portLive p = false then s else
  let x := s.port p
  if x.state = 6 then s.narrow p (~~~(laneBit lane))
  else if x.state = 3 then s.updPort p (fun y => { y with locks := Table.write y.locks lane 0 })
  else if (x.state = 4 ∧ x.candidate.getLsbD lane.val) ∨ (x.state = 5 ∧ x.lanes.getLsbD lane.val) then s.updPort p Port.restart
  else s

/-- CTRL_FLIT: at WIDTH both ends take the intersection of their masks; on a running link the neighbour's mask narrows it (R343, R344). [log 98 DEDUCED] -/
def Chip.ctrlFlit (p : PortId) (f : FlitHead) (lanes : BitVec 4) (s : Chip) : Chip :=
  if s.portLive p = false then s else
  let x := s.port p
  if x.state = 4 then
    let both := x.candidate &&& lanes
    let r := widthOf both
    let s := if r.1 = 0 then s else s.updHead (.kuzopaPort p) (fun h => h.raise 2)
    s.updPort p (fun y => if r.1 = 0 then y.restart else { y with state := 5, candidate := both, lanes := r.1, width := r.2 })
  else if x.state = 6 then
    let s := s.narrow p lanes
    if (s.port p).state = 6 then s.flitHead p f else s
  else s

/-! ## Finder frames (R347) -/

/-- What the NBR registers hold of a frame. -/
def finderStored (f : Finder) : BitVec 96 × BitVec 2 × BitVec 4 × BitVec 12 × Bool × Bool := (f.uid, f.direction, f.port, f.moduleId, f.idValid, f.mgmt)

/-- A direction that is unset, or the neighbour's own, is a mismatch (R355). -/
def Chip.orientCheck (p : PortId) (s : Chip) : Chip :=
  let x := s.port p
  match x.nbr with
  | none => s
  | some n =>
    let unset : Bool := x.direction = 0 || x.direction = 3
    if x.nbrValid ∧ (unset ∨ x.direction = n.direction) then s.err (.kuzopaPort p) { bit := 3, code := 0 } else s

/-- A port that becomes ACTIVE advertises its buffers: 2,048 credits of each channel, but for the packets that still lie in them (R354). -/
def Chip.advertised (s : Chip) (p : PortId) : Table (Fin 4) Nat :=
  (List.finRange 4).map (fun vc => (vc, 2048 - (allPorts.flatMap (fun q => (s.port q).queue.map (fun e =>
    if e.2.1 = p.val ∧ arrivedOn e.2.2 = vc then msgLength e.2.2 / 16 else 0))).sum))

/-- FINDER_FRAME: the frame is stored; at step 5 the port becomes ACTIVE. -/
def Chip.finderFrame (p : PortId) (f : Finder) (s : Chip) : Chip :=
  if s.portLive p = false then s else
  let x := s.port p
  if x.state ≠ 5 ∧ x.state ≠ 6 then s else
  let changed : Bool := match x.nbr with
    | some n => finderStored n != finderStored f
    | none => true
  let owed := if x.state = 5 then s.advertised p else x.creditOwed
  let s := s.updPort p (fun y => { y with nbr := some f, nbrValid := true, state := 6, creditOwed := owed })
  let s := if changed then s.updHead (.kuzopaPort p) (fun h => h.raise 1) else s
  s.orientCheck p

/-- The frame a port sends. -/
def Chip.ownFrame (s : Chip) (p : PortId) : Finder :=
  let x := s.port p
  { uid := Config.uid, port := BitVec.ofNat 4 p.val, lanes := x.lanes, width := x.width, moduleId := s.fabric.moduleId, idValid := s.fabric.idValid,
    direction := x.direction, mgmt := !s.fabric.mgmtLock, mgrUid := if s.fabric.mgrClaimed then s.fabric.mgrUid else 0 }

/-- Word 0 of the flit that a port sends next: what it expects, the NAK it owes, and the credits of one channel (R341, R342, R354). -/
def Port.head (x : Port) : FlitHead :=
  let vc := ((List.finRange 4).find? (fun v => 0 < Table.read 0 x.creditOwed v)).getD 0
  { seq := x.txSeq, ack := x.rxSeq, nak := x.nakOwed, crVc := BitVec.ofNat 2 vc.val, crUnits := BitVec.ofNat 12 (Nat.min 4095 (Table.read 0 x.creditOwed vc)) }

/-- A flit leaves with its word 0: what it tells is owed no more. -/
def Port.sendHead (x : Port) : Port :=
  let h := x.head
  let vc : Fin 4 := ⟨h.crVc.toNat, h.crVc.isLt⟩
  { x with sent := some h, nakOwed := false,
           creditOwed := if h.crUnits = 0 then x.creditOwed else Table.write x.creditOwed vc (Table.read 0 x.creditOwed vc - h.crUnits.toNat) }

/-- FINDER_SEND. -/
def Chip.finderSend (p : PortId) (s : Chip) : Chip :=
  if s.portLive p = false then s else
  let x := s.port p
  if x.state ≠ 5 ∧ x.state ≠ 6 then s else s.updPort p (fun y => { y.sendHead with finderSent := some (s.ownFrame p) })

/-- FINDER_LOST: 10 ms without a frame while ACTIVE; the link stays up. -/
def Chip.finderLost (p : PortId) (s : Chip) : Chip :=
  if s.portLive p = false ∨ (s.port p).state ≠ 6 then s else s.err (.kuzopaPort p) { bit := 4, code := 0 }

/-! ## Egress (R354, R362) -/

/-- The packet at the head of an input on a channel. -/
def Port.headOf (x : Port) (vc : Fin 4) (input : Nat) : Option FabricMsg :=
  (x.queue.find? (fun e => e.1 = vc ∧ e.2.1 = input)).map (fun e => e.2.2)

/-- ACTIVE_in of an input: the latest packet received there; 1 for the module's own. -/
def Chip.activeOf (s : Chip) (input : Nat) : Nat := if input < 16 then (s.port (clip 16 input)).activeIn else 1

/-- Deficit round robin over the 17 inputs of a channel: the input that stands first whose deficit covers its packet, receiving its quantum on each visit. [log 96 DEDUCED] -/
def Chip.drr (s : Chip) (x : Port) (vc : Fin 4) : Nat → Nat → Table (Nat × Fin 4) Nat → Option (Nat × Table (Nat × Fin 4) Nat)
  | 0, _, _ => none
  | fuel + 1, input, deficit =>
    match x.headOf vc input with
    | none => Chip.drr s x vc fuel ((input + 1) % 17) (Table.write deficit (input, vc) 0)
    | some m =>
      let d := Table.read 0 deficit (input, vc)
      if msgLength m ≤ d then some (input, Table.write deficit (input, vc) (d - msgLength m))
      else
        let d' := d + s.activeOf input * 256
        if msgLength m ≤ d' then some (input, Table.write deficit (input, vc) (d' - msgLength m))
        else Chip.drr s x vc fuel ((input + 1) % 17) (Table.write deficit (input, vc) d')

/-- The packet as it leaves: its DOWN bit by its channel, ACTIVE the saturating sum over the inputs with a packet pending on the channel. -/
def Chip.leaving (s : Chip) (x : Port) (vc : Fin 4) (m : FabricMsg) : FabricMsg :=
  match m with
  | .req r =>
    let sum := ((List.range 17).filter (fun i => (x.headOf vc i).isSome)).foldl (fun a i => a + s.activeOf i) 0
    .req { r with down := decide (vc = 1), active := BitVec.ofNat 12 (Nat.min 4095 sum) }
  | .rsp r => .rsp { r with down := decide (vc = 3) }
  | .mgmt r => .mgmt r

/-- Drop the head packet of an input on a channel. -/
def dropHead (vc : Fin 4) (input : Nat) : List (Fin 4 × Nat × FabricMsg) → List (Fin 4 × Nat × FabricMsg)
  | [] => []
  | e :: t => if e.1 = vc ∧ e.2.1 = input then t else e :: dropHead vc input t

/-- Put a message on the line in a flit of its own, kept for resending. -/
def Port.transmit (x : Port) (m : FabricMsg) : Port := { x.sendHead with retry := x.retry ++ [⟨x.txSeq, [m]⟩], txSeq := x.txSeq + 1 }

/-- Whether a port may send a DATA or MGMT flit. -/
def Port.room (x : Port) : Bool := decide (x.state = 6) && decide (x.retry.length < 256)

/-- A waiting management packet goes first (R354). -/
def Port.sendMgmt (x : Port) : Port :=
  match x.mgmtBuf with
  | some m => if x.room then { x.transmit (.mgmt m) with mgmtBuf := none } else x
  | none => x

/-- Credits cover a packet of a channel. -/
def Port.covers (x : Port) (vc : Fin 4) (m : FabricMsg) : Bool := decide (msgLength m ≤ 16 * Table.read 0 x.credits vc)

/-- Whether some response could leave: it goes ahead of requests. -/
def Port.responseReady (x : Port) : Bool := x.queue.any (fun e => (e.1 = 2 || e.1 = 3) && x.covers e.1 e.2.2)

/-- EGRESS_GRANT: the arbiter of a channel grants one packet. -/
def Chip.egressGrant (p : PortId) (vc : Fin 4) (s : Chip) : Chip :=
  if s.portLive p = false then s else
  let s := s.updPort p Port.sendMgmt
  let x := s.port p
  if x.room = false ∨ x.orientOk = false ∨ ((vc = 0 ∨ vc = 1) ∧ x.responseReady) then s else
  match s.drr x vc 68 (Table.read 16 x.turn vc) x.deficit with
  | none => s
  | some (input, deficit) =>
    match x.headOf vc input with
    | none => s
    | some m =>
      if x.covers vc m = false then s else
      let y := { x with queue := dropHead vc input x.queue, deficit := deficit, turn := Table.write x.turn vc input,
                        credits := Table.write x.credits vc (Table.read 0 x.credits vc - msgLength m / 16) }
      (s.updPort p (fun _ => y.transmit (s.leaving x vc m))).freeBuffer input m

/-! ## Packets that arrive (R350, R351, R357 to R361) -/

/-- A reduction from the fabric: while the queue holds the FABRIC input the stack performs what is queued, and the request goes on (R194, R361). [log 107 DEDUCED] -/
def Chip.remoteReduce (s : Chip) (w : Who) (m : FabricReq) : Chip × Option FaultCode :=
  let go (s : Chip) := s.reduceAt w (localOf m.addr) m.aop m.fmt m.data 0 false
  let first := go s
  let r := match first.2 with
    | .held t _ => go (first.1.drainAll t)
    | _ => first
  match r with
  | (s, .refused c) => (s, some c)
  | (s, _) => (s, none)

/-- A doorbell joins the 16 of a die's DB_RX, or faults with DB_FULL (R365). -/
def Chip.doorbellIn (s : Chip) (d : DieId) (src : BitVec 12) (v : Word32) (tag : BitVec 16) (addr : Word64) : Chip × Option FaultCode :=
  if (s.die d).dbRx.length < 16 then (s.updDie d (fun x => { x with dbRx := x.dbRx ++ [(src, v)] }), none)
  else (s.fabricErr d Code.dbFull tag addr, some Code.dbFull)

/-- Serve a request addressed to this module as an access of a remote module, decoded at the receiving port's die (R56, R359). -/
def Chip.serveRemote (s : Chip) (p : PortId) (m : FabricReq) : Chip :=
  let d := portDie p
  let w : Who := { agent := .remote m.src, die := d, tag := m.tag, hint := m.hint, active := m.active.toNat }
  let a := localOf m.addr
  let n := m.lenM1.toNat + 1
  let ackWith (r : Chip × Option FaultCode) : Chip := r.1.respond m (r.2.getD 0) []
  if s.fabric.ingressEn = false then (s.fabricErr d Code.ingressClosed m.tag m.addr).respond m Code.ingressClosed []
  else if m.op = 1 then
    match s.load w a n with
    | (s, .ok bs) => s.respond m 0 bs
    | (s, .error c) => s.respond m c []
  else if m.op = 2 then ackWith (s.store w a m.data)
  else if m.op = 3 then ackWith (s.remoteReduce w m)
  else if m.op = 4 then
    let width := elemBits m.fmt.toNat / 8
    match s.fetchAt w a m.aop m.fmt (leBytes width m.operand.toNat) m.operand2 with
    | (s, .ok bs) => s.respond m 0 bs
    | (s, .error c) => s.respond m c []
  else if m.op = 5 then
    match place a with
    | .obj o off =>
      if off ≠ 0 then s.respond m (if s.objOffline o then Code.syncOffline else Code.misaligned) []
      else let r := s.objOp w o (.signal m.operand none); ackWith (r.1, r.2.fault)
    | .mem _ => s.respond m Code.syncTarget []
    | .none => s.respond m Code.unmapped []
    | .scratch _ _ | .diePage _ _ | .stackPage _ _ => s.respond m Code.opTarget []
  else if m.op = 6 then ackWith (s.doorbellIn d m.src (m.operand.extractLsb' 0 32) m.tag m.addr)
  else s

/-- A request arrives at a port: it is served here, refused, or forwarded (R350, R351, R360). [log 104 DEDUCED] -/
def Chip.arriveReq (p : PortId) (m : FabricReq) (s : Chip) : Chip :=
  if s.portLive p = false ∨ (s.port p).state ≠ 6 then s else
  let s := s.updPort p (fun x => { x with activeIn := Nat.max 1 m.active.toNat })
  let f := s.fabric
  let here := s.freeBuffer p.val (.req m)
  if f.idValid ∧ m.src = f.moduleId then here.err (.kuzopaPort p) { bit := 5, code := 0, tag := m.tag, addr := m.addr }
  else if f.idValid ∧ m.dst = f.moduleId then here.serveRemote p m
  else if f.idValid = false ∧ (Table.read 0 f.routes (clip 4096 m.dst.toNat)).getLsbD 31 = false then
    (here.fabricErr (portDie p) Code.idUnassigned m.tag m.addr).respond m Code.idUnassigned []
  else if m.hops = 0 then (here.fabricErr (portDie p) Code.hopLimit m.tag m.addr).respond m Code.hopLimit []
  else s.routeReq p.val { m with hops := m.hops - 1 }

/-- A response arrives at a port: it ends its request, or is forwarded; out of hops, unroutable or late it is dropped (R360, R361). -/
def Chip.arriveRsp (p : PortId) (m : FabricRsp) (s : Chip) : Chip :=
  if s.portLive p = false ∨ (s.port p).state ≠ 6 then s else
  let f := s.fabric
  let here := s.freeBuffer p.val (.rsp m)
  if f.idValid ∧ m.src = f.moduleId then here.err (.kuzopaPort p) { bit := 5, code := 0, tag := m.tag }
  else if f.idValid ∧ m.dst = f.moduleId then
    let d : DieId := clip 8 m.die.toNat
    if s.route (portDie p) d = false then here else
    let r := here.takeTxn d m.txn
    match r.2 with
    | some t => r.1.answerTxn t m.fault m.data
    | none => here
  else if m.hops = 0 then here
  else s.routeRsp p.val { m with hops := m.hops - 1 }

/-- RESP_TIMEOUT: the requester receives the fault and the number is set aside; a second time-out frees it (R361). [log 103 DEDUCED] -/
def Chip.respTimeout (d : DieId) (n : BitVec 16) (s : Chip) : Chip :=
  if (s.die d).ringOn = false ∨ s.frozen then s else
  let r := s.takeTxn d n
  match r.2 with
  | some t => (r.1.updDie d (fun x => { x with retired := x.retired ++ [n] })).answerTxn t Code.respTimeout []
  | none => s.updDie d (fun x => { x with retired := x.retired.filter (fun k => k ≠ n) })

end Sys2Proof.Machine
end

