-- ==== Sys2Proof/Machine/Rings.lean ====
section
/-! DEFINITION. The temperature sample of a die and the trips it causes (R447 to R455): a trip of the core domain, and one of the edge ring, whose waiting packets are routed again (R346). -/

namespace Sys2Proof.Machine

open Host

/-- The packets that wait to enter a die's ports and that another die can route again: not those whose own die is the one that goes (R346). [log 182 DEDUCED] -/
def Chip.displaced (s : Chip) (d : DieId) : List (Fin 4 × Nat × FabricMsg) :=
  (allPorts.filter (fun p => portDie p = d)).flatMap (fun p => (s.port p).queue.filter (fun e =>
    if e.2.1 < 16 then decide (portDie (clip 16 e.2.1) ≠ d) else match e.2.2 with
      | .req m => decide (m.die.toNat ≠ d.val)
      | _ => true))

/-- The edge ring trips: the ring switches off, packets that wait to enter its ports are routed again (R346), and the standby controller records it (R455). -/
def Chip.ringTrip (s : Chip) (d : DieId) : Chip :=
  if (s.die d).ringOn = false then s else
  let s := (s.ringOffDomain d).routeAgain (s.displaced d)
  let p := s.power
  { s with
    power := { p with ringTripEv := p.ringTripEv ||| BitVec.ofNat 8 (2 ^ d.val),
                      ringTrips := Table.write p.ringTrips d (p.standby :: Table.read [] p.ringTrips d) } }

/-- THERMAL_SAMPLE. [log 141 DEDUCED] -/
def Chip.thermalSample (d : DieId) (r : List (BitVec 16)) (s : Chip) : Chip :=
  let x := s.die d
  if x.ringOn = false then s else
  let out := sampleSensors 64 Config.neighbours 20 (fun i => Table.read {} x.sensors (clip 64 i)) r
  let all := out.map (fun e => e.1)
  let array := all.take 48
  let ring := all.drop 48
  let tMax := hottestOf array
  let rate := rateOf array 20
  let g := x.guider.sample 20 tMax rate x.alert
  let warn := atLeast rate 16 || atLeast (rateOf ring 20) 16
  let onset (bit : Nat) (now before : Bool) (h : Head) : Head := if now ∧ before = false then h.raise bit else h
  let s := s.updDie d (fun y => { y with sensors := out.mapIdx (fun i e => (clip 64 i, e.1)), guider := { g with rorWarn := warn, throttling := decide (1600 ≤ tMax) } })
  let s := s.updHead (.guider d) (fun h =>
    onset 3 (decide (1600 ≤ tMax)) x.guider.throttling (onset 2 (decide (0 < g.pauseHold)) (decide (0 < x.guider.pauseHold)) (onset 1 warn x.guider.rorWarn h)))
  let broke := (List.range 64).filter (fun i => (out.getD i ({}, false)).2)
  let s := broke.foldl (fun s i => (s.err (.guider d) { bit := 0, code := Code.sensorBroken, syn := BitVec.ofNat 32 i }).note d 2 Code.sensorBroken i) s
  let s := if 1760 ≤ tMax ∨ atLeast rate 128 then s.coreTrip d else s
  if 1760 ≤ hottestOf ring ∨ atLeast (rateOf ring 20) 128 then s.ringTrip d else s

end Sys2Proof.Machine
end

