-- ==== Sys2Proof/Machine/Management.lean ====
section
/-! DEFINITION. The KUZOPA_PORT and FABRIC_ROUTE pages (R352, R364, R365), doorbells, and management packets (R348, R349). -/

namespace Sys2Proof.Machine

open Host

/-! ## The KUZOPA_PORT page (R364) -/

def Chip.portView (s : Chip) (p : PortId) : HeadView :=
  let x := s.port p
  { caps := 0x47,
    ctrl := bitIf x.enable 31 ||| (x.laneMask.setWidth 32 <<< 16) ||| (x.direction.setWidth 32 <<< 8) ||| x.uncorrMax.setWidth 32,
    status := (BitVec.ofNat 32 x.state <<< 28) ||| (x.lanes.setWidth 32 <<< 24) ||| (x.width.setWidth 32 <<< 22) |||
      bitIf (decide (x.state = 6) && x.orientOk) 21 ||| bitIf x.nbrValid 20 }

/-- A word of the page. -/
def Chip.portWord (s : Chip) (p : PortId) (off : Nat) : Word32 :=
  let x := s.port p
  if off < 0x100 then (s.head (.kuzopaPort p)).word (.kuzopaPort p) (s.portView p) off else
  match x.nbr with
  | none => 0
  | some n =>
    if off = 0x100 then n.uid.extractLsb' 0 32
    else if off = 0x104 then n.uid.extractLsb' 32 32
    else if off = 0x108 then n.uid.extractLsb' 64 32
    else if off = 0x10C then (n.direction.setWidth 32 <<< 28) ||| (n.port.setWidth 32 <<< 24) ||| (n.moduleId.setWidth 32 <<< 12) ||| bitIf n.idValid 11 ||| bitIf n.mgmt 10
    else 0

/-- A write of a word of the page. -/
def Chip.portPut (s : Chip) (p : PortId) (off : Nat) (v : Word32) : Chip :=
  if off ≠ 0x10 then (if off < 0x100 then s.updHead (.kuzopaPort p) (fun h => h.put off v 0) else s) else
  let s := s.updPort p (fun x => { x with laneMask := v.extractLsb' 16 4, direction := v.extractLsb' 8 2, uncorrMax := v.extractLsb' 0 8 })
  let s := s.orientCheck p
  let s := if v.getLsbD 31 then s.portEnable p else if (s.port p).enable then s.portDisable p else s
  if v.getLsbD 30 ∨ v.getLsbD 29 then s.retrain p else s

/-! ## FABRIC_ROUTE (R350 to R352, R365) -/

/-- The port dies (R15). -/
def portDies : List DieId := [1, 2, 5, 6]

/-- RELEASE_MGR: the claim is cleared (R349). -/
def Chip.releaseMgr (s : Chip) : Chip := { s with fabric := { s.fabric with mgrClaimed := false, mgrUid := 0 } }

/-- MODULE_ID_WRITE: an ID of 0xFFF is ignored (R350, R365). -/
def Chip.moduleIdWrite (v : Word32) (s : Chip) : Chip :=
  if v.extractLsb' 0 12 = 0xFFF#12 then s else { s with fabric := { s.fabric with idValid := v.getLsbD 12, moduleId := v.extractLsb' 0 12 } }

/-- ROUTE_ENTRY_WRITE: in all four copies at once; reserved bits stay 0 (R352). -/
def Chip.routeWrite (n : Fin 4096) (v : Word32) (s : Chip) : Chip :=
  { s with fabric := { s.fabric with routes := Table.write s.fabric.routes n (v &&& 0x8003FFFF) } }

/-- DB_TX_DATA_WRITE: a DOORBELL to DB_TX.DST (R357, R365). -/
def Chip.dbSend (d : DieId) (v : Word32) (s : Chip) : Chip :=
  if d ∉ portDies ∨ (s.die d).ringOn = false then s else
  let addr : Word64 := (s.die d).dbTxDst ++ 0#52
  if s.isLocal addr then
    -- the module's own: it never enters the fabric (R49)
    match s.doorbellIn d (if s.fabric.idValid then s.fabric.moduleId else 0xFFF) v 0 addr with
    | (s, none) => { s with out := .none }
    | (s, some c) => { s with out := .fault c }
  else match s.send d { requestOf 6 addr 0 [] 1 0 with operand := v.setWidth 64 } (.doorbell d) with
  | (s, none) => { s with out := .none }
  | (s, some c) => { s.fabricErr d c 0 addr with out := .fault c }

/-- DB_RX_SRC_READ: the oldest doorbell's source, and its message goes to DB_RX_DATA (R365). -/
def Chip.dbReceive (d : DieId) (s : Chip) : Chip × Word32 :=
  match (s.die d).dbRx with
  | [] => (s, 0)
  | e :: rest => (s.updDie d (fun x => { x with dbRx := rest, dbRxData := e.2 }), bitMask 31 ||| e.1.setWidth 32)

/-- The 48 bytes of MGMT_BUF as a packet (R348). -/
def mgmtOf (b : BitVec 384) : MgmtPacket :=
  { op := b.extractLsb' 0 8, hops := b.extractLsb' 8 4, ptr := b.extractLsb' 12 4, fault := b.extractLsb' 16 16, target := b.extractLsb' 32 8,
    flags := b.extractLsb' 40 8, offset := b.extractLsb' 48 16, fwd := b.extractLsb' 64 64, rev := b.extractLsb' 128 64, data := b.extractLsb' 192 32,
    srcUid := b.extractLsb' 256 96 }

/-- A packet as MGMT_BUF holds it. -/
def mgmtBits (m : MgmtPacket) : BitVec 384 :=
  0#32 ++ m.srcUid ++ 0#32 ++ m.data ++ m.rev ++ m.fwd ++ m.offset ++ m.flags ++ m.target ++ m.fault ++ m.ptr ++ m.hops ++ m.op

/-- The port a list of hops names at a place. [log 102 DEDUCED] -/
def hopPort (l : BitVec 64) (i : Nat) : PortId := clip 16 (l.extractLsb' (4 * i) 4).toNat

/-- Record an ingress port at a place of REV. -/
def setHop (l : BitVec 64) (i : Nat) (p : PortId) : BitVec 64 :=
  (l &&& ~~~(0xF#64 <<< (4 * i))) ||| (BitVec.ofNat 64 p.val <<< (4 * i))

/-- A management packet leaves by a port, or waits in its buffer; a second one that cannot move on is discarded (R348). -/
def Chip.mgmtOut (p : PortId) (m : MgmtPacket) (s : Chip) : Chip :=
  if (s.die (portDie p)).ringOn = false then s else
  s.updPort p (fun x => if x.room then x.transmit (.mgmt m) else if x.mgmtBuf.isNone then { x with mgmtBuf := some m } else x)

/-- A response reaches the manager's module: it replaces MGMT_BUF, and a fault it carries is recorded (R348, R363, R365). -/
def Chip.mgmtHome (m : MgmtPacket) (s : Chip) : Chip :=
  if s.fabric.mgmtBusy = false then s else
  let s := { s with fabric := { s.fabric with mgmtBuf := mgmtBits m, mgmtBusy := false } }
  let s := if m.fault = 0 then s else portDies.foldl (fun s d => if (s.die d).ringOn then s.fabricErr d m.fault 0 0 else s) s
  portDies.foldl (fun s d => s.updHead (.fabricRoute d) (fun h => h.raise 2)) s

/-- A response on its way back: out of the port it came in by, or home when the pointer is 0. -/
def Chip.mgmtBack (m : MgmtPacket) (s : Chip) : Chip :=
  if m.ptr = 0 then s.mgmtHome m else s.mgmtOut (hopPort m.rev m.ptr.toNat) { m with ptr := m.ptr - 1 }

/-- The FABRIC_ROUTE page of a port die. -/
def Chip.fabricView (s : Chip) (d : DieId) : HeadView :=
  let f := s.fabric
  { ctrl := bitIf f.mgmtLock 3 ||| bitIf f.ingressEn 1 ||| bitIf f.forwardEn 0,
    status := bitIf f.mgmtBusy 1 ||| bitIf f.mgrClaimed 0,
    events := bitIf ((s.die d).dbRx ≠ []) 1 }

/-- A read of a word of the page; DB_RX_SRC takes its entry. -/
def Chip.fabricWord (s : Chip) (d : DieId) (off : Nat) : Chip × Word32 :=
  let f := s.fabric
  let mgr : BitVec 96 := if f.mgrClaimed then f.mgrUid else 0
  if off < 0x100 then (s, (s.head (.fabricRoute d)).word (.fabricRoute d) (s.fabricView d) off)
  else if off = 0x178 then s.dbReceive d
  else (s,
    if off = 0x100 then bitIf f.idValid 12 ||| f.moduleId.setWidth 32
    else if 0x104 ≤ off ∧ off < 0x110 then Config.uid.extractLsb' ((off - 0x104) * 8) 32
    else if 0x110 ≤ off ∧ off < 0x11C then mgr.extractLsb' ((off - 0x110) * 8) 32
    else if off = 0x120 then f.timeout
    else if off = 0x124 then f.hopInit.setWidth 32
    else if 0x130 ≤ off ∧ off < 0x160 then f.mgmtBuf.extractLsb' ((off - 0x130) * 8) 32
    else if off = 0x170 then (s.die d).dbTxDst.setWidth 32
    else if off = 0x17C then (s.die d).dbRxData
    else 0)

/-- Replace a 32-bit word of a wide register. -/
def setWord {w : Nat} (b : BitVec w) (i : Nat) (v : Word32) : BitVec w :=
  (b &&& ~~~((0xFFFFFFFF#32).setWidth w <<< (32 * i))) ||| (v.setWidth w <<< (32 * i))

/-- The fault a management packet meets (R349). -/
def Chip.mgmtRefused (s : Chip) (m : MgmtPacket) : Bool :=
  let f := s.fabric
  f.mgmtLock || (m.op = 0x31 && ((f.mgrClaimed && m.srcUid ≠ f.mgrUid) || (!f.mgrClaimed && !m.flags.getLsbD 0)))

/-- A write of a word of the page other than MGMT_CMD, in all four copies; only firmware and the physical function release the claim (R349, R365). -/
def Chip.fabricPut (s : Chip) (d : DieId) (off : Nat) (v : Word32) (own : Bool) : Chip :=
  let f := s.fabric
  if off = 0x10 then
    let s := { s with fabric := { f with mgmtLock := v.getLsbD 3, ingressEn := v.getLsbD 1, forwardEn := v.getLsbD 0 } }
    if own ∧ v.getLsbD 2 then s.releaseMgr else s
  else if off < 0x100 then portDies.foldl (fun s e => s.updHead (.fabricRoute e) (fun h => h.put off v 0)) s
  else if off = 0x100 then s.moduleIdWrite v
  else if off = 0x120 then { s with fabric := { f with timeout := v } }
  else if off = 0x124 then { s with fabric := { f with hopInit := v.extractLsb' 0 6 } }
  else if 0x130 ≤ off ∧ off < 0x160 then { s with fabric := { f with mgmtBuf := setWord f.mgmtBuf ((off - 0x130) / 4) v } }
  else if off = 0x170 then portDies.foldl (fun s e => s.updDie e (fun x => { x with dbTxDst := v.extractLsb' 0 12 })) s
  else if off = 0x174 then s.dbSend d v
  else s

/-- The arrived packet is applied, under R349's checks, to FABRIC_ROUTE, the route table or a port's page: the response. A write that sets GO of MGMT_CMD does what is given. -/
def Chip.mgmtServe (go : Chip → Chip) (p : PortId) (m : MgmtPacket) (s : Chip) : Chip × MgmtPacket :=
  let d := portDie p
  let off := m.offset.toNat / 4 * 4
  let target := (m.target.extractLsb' 0 2).toNat
  let q : PortId := clip 16 (m.target.extractLsb' 4 4).toNat
  let r : MgmtPacket := { m with op := 0x38, fault := 0 }
  if s.mgmtRefused m then (s.fabricErr d Code.mgmtDenied 0 0, { r with fault := Code.mgmtDenied }) else
  let inPage : Bool := decide (off < 4096)
  if m.op = 0x30 then
    if target = 0 ∧ inPage then let g := s.fabricWord d off; (g.1, { r with data := g.2 })
    else if target = 1 then (s, { r with data := Table.read 0 s.fabric.routes (clip 4096 (off / 4)) })
    else if target = 2 ∧ inPage then (s, { r with data := s.portWord q off })
    else (s, { r with data := 0 })
  -- an OP that R348 does not give writes nothing
  else if m.op ≠ 0x31 then (s, { r with data := 0 })
  else
    let s := if s.fabric.mgrClaimed = false then { s with fabric := { s.fabric with mgrClaimed := true, mgrUid := m.srcUid } } else s
    if target = 0 ∧ off = 0x160 then (if m.data.getLsbD 31 then go s else s, r)
    else if target = 0 ∧ inPage then (s.fabricPut d off m.data false, r)
    else if target = 1 then (s.routeWrite (clip 4096 (off / 4)) m.data, r)
    else if target = 2 ∧ inPage then (s.portPut q off m.data, r)
    else (s, r)

/-- MGMT_RESPONSE. -/
def Chip.mgmtReturn (p : PortId) (m : MgmtPacket) (s : Chip) : Chip :=
  if s.portLive p = false ∨ (s.port p).state ≠ 6 then s else s.mgmtBack m

/-- MGMT_GO: one packet at a time leaves the manager's module by the first port of its list; with no hops it is applied here (R348, R365), where another GO meets MGMT_BUSY. -/
def Chip.mgmtGo (s : Chip) : Chip :=
  if s.fabric.mgmtBusy then s else
  let s := { s with fabric := { s.fabric with mgmtBusy := true } }
  let m := mgmtOf s.fabric.mgmtBuf
  let k := m.ptr.toNat
  if k < m.hops.toNat then s.mgmtOut (hopPort m.fwd k) { m with ptr := m.ptr + 1 }
  else let r := s.mgmtServe id 0 m; r.1.mgmtHome r.2

/-- A READ or WRITE arrives at a port: recorded in REV, it travels on, or it is applied and its response travels back (R348). [log 101 DEDUCED] -/
def Chip.mgmtArrive (p : PortId) (m : MgmtPacket) (s : Chip) : Chip :=
  if s.portLive p = false ∨ (s.port p).state ≠ 6 then s else
  let k := m.ptr.toNat
  let m := { m with rev := setHop m.rev k p }
  if k < m.hops.toNat then s.mgmtOut (hopPort m.fwd k) { m with ptr := m.ptr + 1 } else
  let r := s.mgmtServe Chip.mgmtGo p m
  r.1.mgmtBack r.2

/-- MGMT_DISCARD: a packet that could not move on for 1 ms. -/
def Chip.mgmtDiscard (p : PortId) (s : Chip) : Chip := if s.portLive p = false then s else s.updPort p (fun x => { x with mgmtBuf := none })

/-- MGMT_TIMEOUT: no response within TIMEOUT. -/
def Chip.mgmtLate (s : Chip) : Chip :=
  if s.fabric.mgmtBusy = false then s else
  let s := { s with fabric := { s.fabric with mgmtBusy := false } }
  portDies.foldl (fun s d => if (s.die d).ringOn then s.fabricErr d Code.mgmtTimeout 0 0 else s) s

/-- A write of a word of a FABRIC_ROUTE page by firmware or the physical function. -/
def Chip.fabricStore (s : Chip) (d : DieId) (off : Nat) (v : Word32) : Chip :=
  if off = 0x160 then (if v.getLsbD 31 then s.mgmtGo else s) else s.fabricPut d off v true

/-! ## DATA flits (R342) -/

/-- A packet comes out of a flit. -/
def Chip.arrive (p : PortId) (s : Chip) : FabricMsg → Chip
  | .req m => s.arriveReq p m
  | .rsp m => s.arriveRsp p m
  | .mgmt m => if m.op = 0x38 then s.mgmtReturn p m else s.mgmtArrive p m

/-- DATA_FLIT: a bad one is discarded and a NAK is owed; the next in order delivers its packets; any other number is discarded. -/
def Chip.dataFlit (p : PortId) (lane : Fin 4) (w : Codeword) (f : FlitHead) (ms : List FabricMsg) (s : Chip) : Chip :=
  if s.portLive p = false ∨ (s.port p).state ≠ 6 ∨ (s.port p).lanes.getLsbD lane.val = false then s else
  if goodWord w = false then (s.updPort p (fun x => { x with nakOwed := true })).badCodeword p lane w else
  let s := if w = .corrected then s.portCount p (2 * lane.val) 1 else s
  let s := s.flitHead p f
  if (s.port p).state ≠ 6 ∨ f.seq ≠ (s.port p).rxSeq then s else
  let s := s.updPort p (fun x => { x with rxSeq := x.rxSeq + 1, nakOwed := false })
  ms.foldl (Chip.arrive p) s

/-! ## Meanings -/

def fabricCmd (f : Chip → Chip) : State → Outcome State Fault Refusal := onChip (Chip.live f)

def execPortEnable (p : PortId) : State → Outcome State Fault Refusal := fabricCmd (Chip.portEnable p)
def execRetrain (p : PortId) : State → Outcome State Fault Refusal := fabricCmd (Chip.retrain p)
def execWiden (p : PortId) : State → Outcome State Fault Refusal := fabricCmd (Chip.retrain p)
def execDetectProbe (p : PortId) (present : BitVec 4) : State → Outcome State Fault Refusal := fabricCmd (Chip.detectProbe p present)
def execEqualiseTimeout (p : PortId) (met : BitVec 4) : State → Outcome State Fault Refusal := fabricCmd (Chip.equalised p met)
def execReceiveMarginMet (p : PortId) : State → Outcome State Fault Refusal := fabricCmd (Chip.equalised p 0xF)
def execTrainingTimeout (p : PortId) : State → Outcome State Fault Refusal := fabricCmd (Chip.trainingTimeout p)
def execIdleFlit (p : PortId) (lane : Fin 4) (w : Codeword) (f : FlitHead) : State → Outcome State Fault Refusal := fabricCmd (Chip.idleFlit p lane w f)
def execDataFlit (p : PortId) (lane : Fin 4) (w : Codeword) (f : FlitHead) (ms : List FabricMsg) : State → Outcome State Fault Refusal :=
  fabricCmd (Chip.dataFlit p lane w f ms)
def execCtrlFlit (p : PortId) (f : FlitHead) (lanes : BitVec 4) : State → Outcome State Fault Refusal := fabricCmd (Chip.ctrlFlit p f lanes)
def execLaneLockLost (p : PortId) (lane : Fin 4) : State → Outcome State Fault Refusal := fabricCmd (Chip.laneLost p lane)
def execFinderFrame (p : PortId) (f : Finder) : State → Outcome State Fault Refusal := fabricCmd (Chip.finderFrame p f)
def execFinderSend (p : PortId) : State → Outcome State Fault Refusal := fabricCmd (Chip.finderSend p)
def execFinderLost (p : PortId) : State → Outcome State Fault Refusal := fabricCmd (Chip.finderLost p)
def execMgmtGo : State → Outcome State Fault Refusal := fabricCmd Chip.mgmtGo
def execMgmtRead (p : PortId) (m : MgmtPacket) : State → Outcome State Fault Refusal := fabricCmd (Chip.mgmtArrive p { m with op := 0x30 })
def execMgmtWrite (p : PortId) (m : MgmtPacket) : State → Outcome State Fault Refusal := fabricCmd (Chip.mgmtArrive p { m with op := 0x31 })
def execMgmtResponse (p : PortId) (m : MgmtPacket) : State → Outcome State Fault Refusal := fabricCmd (Chip.mgmtReturn p { m with op := 0x38 })
def execMgmtDiscard (p : PortId) : State → Outcome State Fault Refusal := fabricCmd (Chip.mgmtDiscard p)
def execMgmtTimeout : State → Outcome State Fault Refusal := fabricCmd Chip.mgmtLate
def execReleaseMgr : State → Outcome State Fault Refusal := fabricCmd Chip.releaseMgr
def execModuleIdWrite (v : BitVec 32) : State → Outcome State Fault Refusal := fabricCmd (Chip.moduleIdWrite v)
def execRouteEntryWrite (n : Fin 4096) (v : BitVec 32) : State → Outcome State Fault Refusal := fabricCmd (Chip.routeWrite n v)
def execEgressGrant (p : PortId) (vc : Fin 4) : State → Outcome State Fault Refusal := fabricCmd (Chip.egressGrant p vc)
def execRemoteLoad (p : PortId) (m : FabricReq) : State → Outcome State Fault Refusal := fabricCmd (Chip.arriveReq p { m with op := 1 })
def execRemoteStore (p : PortId) (m : FabricReq) : State → Outcome State Fault Refusal := fabricCmd (Chip.arriveReq p { m with op := 2 })
def execRemoteReduce (p : PortId) (m : FabricReq) : State → Outcome State Fault Refusal := fabricCmd (Chip.arriveReq p { m with op := 3 })
def execRemoteAtomic (p : PortId) (m : FabricReq) : State → Outcome State Fault Refusal := fabricCmd (Chip.arriveReq p { m with op := 4 })
def execRemoteSignal (p : PortId) (m : FabricReq) : State → Outcome State Fault Refusal := fabricCmd (Chip.arriveReq p { m with op := 5 })
def execRemoteDoorbell (p : PortId) (m : FabricReq) : State → Outcome State Fault Refusal := fabricCmd (Chip.arriveReq p { m with op := 6 })
def execLoadRsp (p : PortId) (m : FabricRsp) : State → Outcome State Fault Refusal := fabricCmd (Chip.arriveRsp p { m with op := 0x21 })
def execAck (p : PortId) (m : FabricRsp) : State → Outcome State Fault Refusal := fabricCmd (Chip.arriveRsp p { m with op := 0x22 })
def execAtomicRsp (p : PortId) (m : FabricRsp) : State → Outcome State Fault Refusal := fabricCmd (Chip.arriveRsp p { m with op := 0x24 })
def execRespTimeout (d : DieId) (txn : BitVec 16) : State → Outcome State Fault Refusal := fabricCmd (Chip.respTimeout d txn)
def execDbTxDataWrite (d : DieId) (v : BitVec 32) : State → Outcome State Fault Refusal := fabricCmd (Chip.dbSend d v)
def execDbRxSrcRead (d : DieId) : State → Outcome State Fault Refusal :=
  fabricCmd (fun s => let r := s.dbReceive d; { r.1 with out := .word r.2.toNat })

end Sys2Proof.Machine
end

