-- ==== Sys2Proof/Machine/Photometer.lean ====
section
/-! DEFINITION. The Photometer: sampling (R387, R388), tap frames and the die's end of its tap (R392 to R395), records, events and the clock (R398 to R405), test operation (R406), the readout port (R407) and the record channels (R408). -/

namespace Sys2Proof.Machine

open Host

/-! ## Tap frames (R392) -/

/-- CRC-8 with polynomial 0x07. -/
def crc8Bits (c : Byte) : Nat → Byte
  | 0 => c
  | n + 1 => crc8Bits (if c.getLsbD 7 then (c <<< 1) ^^^ 0x07 else c <<< 1) n
def crc8 (l : List Byte) : Byte := l.foldl (fun c b => crc8Bits (c ^^^ b) 8) 0

/-- The CRC of a frame, over bits [31:8]. -/
def frameCrc (f : BitVec 32) : Byte := crc8 [f.extractLsb' 24 8, f.extractLsb' 16 8, f.extractLsb' 8 8]
def frameKind (f : BitVec 32) : Nat := (f.extractLsb' 30 2).toNat
def frameDome (f : BitVec 32) : Nat := (f.extractLsb' 26 4).toNat
def frameCount (f : BitVec 32) : Nat := (f.extractLsb' 16 10).toNat
def frameToggle (f : BitVec 32) : Bool := f.getLsbD 15

/-- A frame's word. -/
def frameOf (kind : BitVec 2) (dome : BitVec 4) (count : Nat) (toggle : Bool) : BitVec 32 :=
  let top : BitVec 24 := kind ++ dome ++ BitVec.ofNat 10 count ++ (if toggle then 1#1 else 0#1) ++ 0#7
  top ++ frameCrc (top ++ 0#8)

/-- Whether the fields of a frame are well formed. -/
def frameFormed (f : BitVec 32) : Bool :=
  f.extractLsb' 8 7 = 0 &&
    (if frameKind f = 3 then decide (frameDome f = 0) && decide (frameCount f = 0) && !frameToggle f
     else (decide (frameKind f = 1) || decide (frameKind f = 2)) && decide (1 ≤ frameCount f))

/-! ## Records (R398 to R400) -/

/-- The counts of a set of accumulators as a record lists them. -/
def countList (t : Table DomeId (Nat × Nat)) : List (Nat × Nat) := (List.finRange 16).map (fun m => Table.read (0, 0) t m)

/-- One of a second of the crystal. -/
def crystalHz : Nat := 32768

/-- STATUS of a record: flags 0 to 3 as they are, 4 to 7 over the span since the previous stored record. [log 125 DESIGN CHOICE] -/
def Photometer.status (p : Photometer) : Word32 :=
  bitIf p.sealOpen 0 ||| bitIf p.testing 1 ||| bitIf p.service 2 ||| bitIf p.clockUnset 3 ||| bitIf p.vOut 4 ||| bitIf p.iOver 5 |||
    bitIf p.tapFault 6 ||| bitIf p.nvRecovered 7

/-- Make a record: it takes the next SEQ; a stored one joins the latest 8,192, ends the span and writes a checkpoint (R398, R400, R405). A mean over no sample is a free value. [log 121 DEDUCED] -/
def Photometer.make (s : Chip) (p : Photometer) (kind event : Nat) (nonce : BitVec 128) : Chip × Photometer × MeterRecord :=
  let test : Bool := decide (kind = 4)
  let stored : Bool := decide (kind = 1) || decide (kind = 3)
  let f := if p.spanSamples = 0 then s.freeBits 64 else (0, s)
  let mean (sum : Nat) (i : Nat) : Nat := if p.spanSamples = 0 then (f.1.extractLsb' i 32).toNat else sum / p.spanSamples / 1000
  let r : MeterRecord :=
    { kind := kind, seq := p.nextSeq, prev := p.lastStored, event := event, time := p.time, mono := p.mono,
      energy := (if test then p.testEnergy else p.energy) / (crystalHz * 1000000000), vAvg := mean p.vSum 0, iAvg := mean p.iSum 32,
      eventCount := p.eventCount, powerCycles := p.powerCycles, status := p.status, period := p.period, nonce := nonce,
      counts := countList (if test then p.testCounts else p.counts) }
  let q := { p with nextSeq := p.nextSeq + 1 }
  if stored then
    (f.2, { q with lastStored := r.seq, stored := (p.stored ++ [r]).drop (p.stored.length + 1 - 8192), vSum := 0, iSum := 0, spanSamples := 0,
                   vOut := false, iOver := false, tapFault := false, nvRecovered := false,
                   checkpoint := some (Checkpoint.mk r.seq (countList p.counts) p.energy p.toggles) }, r)
  else (f.2, q, r)

/-- Log an event: it counts when its row says so, makes an EVENT record and an entry of the log of 1,024 (R404). -/
def Photometer.event (s : Chip) (p : Photometer) (event : Nat) (time : Word64) (detail : Word64) : Chip × Photometer × MeterRecord :=
  let p := if 3 ≤ event then { p with eventCount := p.eventCount + 1 } else p
  let p := { p with events := (p.events ++ [MeterEvent.mk event time p.mono p.eventCount detail]).drop (p.events.length + 1 - 1024) }
  Photometer.make s p 3 event 0

/-- The bytes of a record but its signature. -/
def MeterRecord.body (r : MeterRecord) : List Byte :=
  leBytes 4 0x50485431 ++ leBytes 2 1 ++ leBytes 2 r.kind ++ leBytes 8 r.seq ++ leBytes 8 r.prev ++ leBytes 12 Config.uid.toNat ++
  leBytes 1 0x80 ++ leBytes 1 0 ++ leBytes 2 r.event ++ leBytes 8 r.time.toNat ++ leBytes 8 r.mono.toNat ++ leBytes 8 r.energy ++
  leBytes 4 r.vAvg ++ leBytes 4 r.iAvg ++ leBytes 4 r.eventCount ++ leBytes 4 r.powerCycles ++ leBytes 4 r.status.toNat ++
  leBytes 4 r.period.toNat ++ leBytes 16 r.nonce.toNat ++ leBytes 8 0 ++ r.counts.flatMap (fun c => leBytes 8 c.1 ++ leBytes 8 c.2)

/-- The 464 bytes of a record: the signature is the outside algorithm's (R400, log entry 10). -/
def MeterRecord.bytes (r : MeterRecord) : List Byte := r.body ++ (Config.meterSign r.body).take 96

/-! ## Frames at the Photometer (R389, R393, R394) -/

/-- Add events of a kind to a dome. -/
def addCount (t : Table DomeId (Nat × Nat)) (kind : Nat) (m : DomeId) (n : Nat) : Table DomeId (Nat × Nat) :=
  let c := Table.read (0, 0) t m
  Table.write t m (if kind = 1 then (c.1 + n, c.2) else (c.1, c.2 + n))

/-- A bad frame: sixteen in a row from one die set TAP_FAULT. -/
def Photometer.bad (s : Chip) (p : Photometer) (d : DieId) : Chip × Photometer :=
  let n := Table.read 0 p.badRun d + 1
  let p := { p with badRun := Table.write p.badRun d n }
  if n = 16 then
    let r := Photometer.event s { p with tapFault := true } 9 p.time (BitVec.ofNat 64 d.val)
    (r.1, r.2.1)
  else (s, p)

/-- Apply a good frame of a die. -/
def Photometer.apply (p : Photometer) (d : DieId) (f : BitVec 32) : Photometer :=
  let p := { p with badRun := Table.write p.badRun d 0 }
  if frameKind f = 3 then { p with toggles := Table.write p.toggles d false, acceptAny := p.acceptAny.filter (fun e => e ≠ d) }
  else if frameToggle f = Table.read false p.toggles d ∧ d ∉ p.acceptAny then p
  else
    let m : DomeId := clip 16 (frameDome f)
    { p with counts := addCount p.counts (frameKind f) m (frameCount f),
             testCounts := if p.testing then addCount p.testCounts (frameKind f) m (frameCount f) else p.testCounts,
             toggles := Table.write p.toggles d (frameToggle f), acceptAny := p.acceptAny.filter (fun e => e ≠ d) }

/-- The frame a die has to send: the resynchronisation frame first, then the oldest of its buffer with the alternating TOGGLE (R393, R394). -/
def Tap.current (t : Tap) : Option (BitVec 32) :=
  if t.resync then some (frameOf 3 0 0 false) else
  match t.buffer with
  | [] => none
  | f :: _ => some (frameOf f.kind f.dome f.count (!t.toggle))

/-- A frame arrives from a die: acknowledged when its CRC is good, and applied once (R393); at the die it is the frame outstanding. -/
def tapFrame (d : DieId) (f : BitVec 32) (s : Chip) (p : Photometer) : Chip × Photometer :=
  let s := s.updDie d (fun x => if x.ringOn ∧ x.tap.current = some f then { x with tap := { x.tap with outstanding := true } } else x)
  if p.on = false then (s, p)
  else if f.extractLsb' 0 8 ≠ frameCrc f then Photometer.bad s p d
  else
    let p := { p with acks := (d, frameToggle f) :: p.acks.filter (fun e => e.1 ≠ d) }
    if frameFormed f then (s, p.apply d f) else Photometer.bad s p d

/-! ## The die's end (R393 to R395) -/

/-- TAP_ACK: the outstanding frame has been acknowledged. -/
def Chip.tapAck (d : DieId) (toggle : Bool) (s : Chip) : Chip :=
  s.updDie d (fun x =>
    let t := x.tap
    if x.ringOn = false ∨ t.outstanding = false then x
    else if t.resync then (if toggle then x else { x with tap := { t with resync := false, toggle := false, outstanding := false } })
    else if toggle ≠ !t.toggle then x
    else Die.reportFrozen { x with tap := { t with buffer := t.buffer.tail, toggle := !t.toggle, outstanding := false }.settle })

/-- TAP_RESEND: 10 microseconds without acknowledgement. -/
def Chip.tapResend (d : DieId) (s : Chip) : Chip :=
  s.updDie d (fun x => if x.ringOn ∧ x.tap.outstanding then { x with tap := { x.tap with sends := x.tap.sends + 1 } } else x)

/-- Frames given up: they are never counted, and the night log says how many (R395). -/
def Chip.tapGiveUp (d : DieId) (s : Chip) : Chip :=
  let n := (s.die d).tap.buffer.length
  if n = 0 then s else
  let s := (s.updDie d (fun x => Die.reportFrozen { x with tap := { x.tap with buffer := [], owed := [], outstanding := false } })).note d 2 Code.tapStall n
  s.err (.photometerIf d) { bit := 2, code := Code.tapStall }

/-- TAP_STALL: 100 ms without acknowledgement of what the die holds; a freeze then gives the frames up (R395, R478). -/
def Chip.tapStall (d : DieId) (s : Chip) : Chip :=
  let x := s.die d
  if x.ringOn = false ∨ (x.tap.resync = false ∧ x.tap.buffer = []) then s
  else if x.coel.freezing then s.tapGiveUp d
  else (s.err (.photometerIf d) { bit := 2, code := Code.tapStall }).note d 2 Code.tapStall 0

/-- Drain a die's buffer to the Photometer, or give it up when the Photometer does not answer (R487). -/
def tapDrain (s : Chip) (p : Photometer) (d : DieId) : Chip × Photometer :=
  if (s.die d).ringOn = false then (s, p) else
  if p.on = false then (s.tapGiveUp d, p) else
  let t := (s.die d).tap
  let frames := if t.resync then [] else t.buffer
  let q := (frames.foldl (fun (acc : Photometer × Bool) f => (acc.1.apply d (frameOf f.kind f.dome f.count (!acc.2)), !acc.2))
    ((if t.resync then p.apply d (frameOf 3 0 0 false) else p), t.toggle)).1
  let q := if t.resync then (t.buffer.foldl (fun (acc : Photometer × Bool) f => (acc.1.apply d (frameOf f.kind f.dome f.count (!acc.2)), !acc.2)) (q, false)).1 else q
  (s.updDie d (fun x => { x with tap := { x.tap with buffer := [], outstanding := false } }), q)

/-! ## Requests (R407, R408) -/

/-- The command codes of the port. -/
def MeterCmd.code : MeterCmd → Byte
  | .getRecord _ => 1 | .demand _ => 2 | .getCert _ => 3 | .getEvents _ => 4 | .setTime _ => 5
  | .setPeriod _ => 6 | .testEnter => 7 | .testExit => 8 | .testInject _ _ _ => 9 | .testRecord _ => 10

/-- An entry of the event log as a reply carries it; the manual gives its size, 32 bytes, and its fields, to which the source code of its clock belongs (R44, R404, R407). [log 122 DEDUCED] -/
def MeterEvent.bytes (e : MeterEvent) : List Byte :=
  leBytes 2 e.event ++ leBytes 1 0x80 ++ leBytes 1 0 ++ leBytes 4 e.eventCount ++ leBytes 8 e.time.toNat ++ leBytes 8 e.mono.toNat ++ leBytes 8 e.detail.toNat

/-- An event whose reply is its own record. -/
def eventReply (r : Chip × Photometer × MeterRecord) : Chip × Photometer × Byte × List Byte := (r.1, r.2.1, 0, r.2.2.bytes)

/-- Serve one request: STATUS 0 OK, 3 NEED_SERVICE, 4 UNAVAILABLE, 5 BAD_ARG, 6 NOT_IN_TEST. [log 124 DEDUCED] -/
def Photometer.serve (s : Chip) (p : Photometer) : MeterCmd → Chip × Photometer × Byte × List Byte
  | .getRecord seq =>
    let want := if seq = 0 then p.lastStored else seq.toNat
    match p.stored.find? (fun r => decide (r.seq = want)) with
    | some r => (s, p, 0, r.bytes)
    | none => (s, p, 4, [])
  | .demand nonce =>
    let r := Photometer.make s p 2 0 nonce
    (r.1, { r.2.1 with lastDemand := some p.mono }, 0, r.2.2.bytes)
  | .getCert off =>
    let l := Config.meterCerts
    if l.length < off.toNat then (s, p, 4, []) else (s, p, 0, (l.drop off.toNat).take 464 ++ leBytes 4 l.length)
  | .getEvents i =>
    if p.events.length ≤ i.toNat then (s, p, 4, []) else (s, p, 0, ((p.events.drop i.toNat).take 16).flatMap MeterEvent.bytes)
  | .setTime t =>
    if p.service = false then (s, p, 3, []) else
    eventReply (Photometer.event s { p with time := t, clockUnset := false } 3 t p.time)
  | .setPeriod sec =>
    if p.service = false then (s, p, 3, [])
    else if sec.toNat < 60 ∨ 3600 < sec.toNat then (s, p, 5, [])
    else eventReply (Photometer.event s { p with period := sec } 8 p.time (p.period.setWidth 64))
  | .testEnter =>
    if p.service = false then (s, p, 3, []) else
    eventReply (Photometer.event s { p with testing := true, testCounts := [], testEnergy := 0, testStart := p.mono, pulses := 0 } 6 p.time 0)
  | .testExit =>
    if p.testing = false then (s, p, 6, []) else eventReply (Photometer.event s { p with testing := false } 7 p.time 0)
  | .testInject dome kind n =>
    if p.testing = false then (s, p, 6, [])
    else if 16 ≤ dome.toNat ∨ (kind ≠ 1 ∧ kind ≠ 2) then (s, p, 5, [])
    else (s, { p with testCounts := addCount p.testCounts kind.toNat (clip 16 dome.toNat) n.toNat }, 0, [])
  | .testRecord _ =>
    if p.testing = false then (s, p, 6, []) else
    let r := Photometer.make s p 4 0 0
    (r.1, r.2.1, 0, r.2.2.bytes)

/-- A DEMAND waits until 250 ms of MONO have passed since the last (R398). -/
def Photometer.mustWait (p : Photometer) : MeterCmd → Bool
  | .demand _ => match p.lastDemand with
    | some t => decide (p.mono.toNat < t.toNat + crystalHz / 4)
    | none => false
  | _ => false

/-- A reply reaches the port, or a die's record channel (R408, R409). -/
def meterReply (s : Chip) (p : Photometer) (dest : Option DieId) (cmd : MeterCmd) (st : Byte) (data : List Byte) : Chip × Photometer :=
  match dest with
  | none => (s, { p with reply := some (cmd.code ||| 0x80, st, data) })
  | some d =>
    if (s.die d).ringOn = false ∨ (s.die d).chan.busy = false then (s, p) else
    let s := s.updDie d (fun x => { x with chan := { x.chan with busy := false, done := true, len := data.length, buf := data } })
    let s := s.updHead (.photometerIf d) (fun h => h.raise 1)
    (if st = 0 then s else (s.err (.photometerIf d) { bit := 0, code := Code.recUnavailable }).note d 2 Code.recUnavailable 0, p)

/-- Serve the waiting requests one at a time, in order of arrival. [log 127 DEDUCED] -/
def Photometer.pump : Nat → Chip → Photometer → Chip × Photometer
  | 0, s, p => (s, p)
  | n + 1, s, p =>
    match p.requests with
    | [] => (s, p)
    | (dest, cmd) :: rest =>
      if p.on = false ∨ p.mustWait cmd then (s, p) else
      let r := Photometer.serve s { p with requests := rest } cmd
      let q := meterReply r.1 r.2.1 dest cmd r.2.2.1 r.2.2.2
      Photometer.pump n q.1 q.2

/-- A request arrives. -/
def meterRequest (dest : Option DieId) (cmd : MeterCmd) (s : Chip) (p : Photometer) : Chip × Photometer :=
  if p.on = false then (s, p) else
  let p := { p with requests := p.requests ++ [(dest, cmd)] }
  Photometer.pump p.requests.length s p

/-- A write of 1 to REQ.GO on a die's PHOTOMETER_IF page (R408). [log 123 DEDUCED] -/
def channelGo (d : DieId) (kind : BitVec 2) (s : Chip) (p : Photometer) : Chip × Photometer :=
  let x := s.die d
  if x.ringOn = false ∨ s.frozen then (s, p)
  else if x.chan.busy then ((s.err (.photometerIf d) { bit := 1, code := Code.pmBusy }).note d 2 Code.pmBusy 0, p)
  else
    let s := s.updDie d (fun y => { y with chan := { y.chan with kind := kind, busy := true, done := false, len := 0, buf := [] } })
    let arg := x.chan.arg
    let cmd : MeterCmd :=
      if kind = 0 then .getRecord arg else if kind = 1 then .demand x.chan.nonce
      else if kind = 2 then .getCert (arg.extractLsb' 0 32) else .getEvents (arg.extractLsb' 0 32)
    meterRequest (some d) cmd s p

/-! ## Sampling, the clock and power (R387, R402, R405, R406) -/

/-- Measured energy of one pulse: 36 J. [log 128 DEDUCED] -/
def pulseEnergy : Nat := 36 * 1000000000000 * crystalHz

/-- PHOTOMETER_SAMPLE: one tick of the crystal; voltage and current in microvolts and microamperes. -/
def meterSample (uv ua : Nat) (s : Chip) (p : Photometer) : Chip × Photometer :=
  if p.on = false then (s, p) else
  let i := Nat.min ua 140000000
  let sub := p.subTick + 1000
  let testE := if p.testing then p.testEnergy + uv * i else p.testEnergy
  let p := { p with
    energy := p.energy + uv * i, mono := p.mono + 1, time := if crystalHz ≤ sub then p.time + 1 else p.time, subTick := sub % crystalHz,
    vSum := p.vSum + uv, iSum := p.iSum + i, spanSamples := p.spanSamples + 1,
    vOut := p.vOut || decide (uv < 40000000) || decide (60000000 < uv), iOver := p.iOver || decide (140000000 < ua),
    testEnergy := testE, pulses := if p.testing then testE / pulseEnergy else p.pulses }
  Photometer.pump p.requests.length s p

/-- PERIODIC_RECORD. -/
def periodic (s : Chip) (p : Photometer) : Chip × Photometer :=
  if p.on = false then (s, p) else let r := Photometer.make s p 1 0 0; (r.1, r.2.1)

/-- TEST_TIMEOUT: 3,600 s of MONO since the entry. -/
def testTimeout (s : Chip) (p : Photometer) : Chip × Photometer :=
  if p.on = false ∨ p.testing = false ∨ p.mono.toNat < p.testStart.toNat + 3600 * crystalHz then (s, p) else
  let r := Photometer.event s { p with testing := false } 7 p.time 0
  (r.1, r.2.1)

/-- SEAL_BROKEN: while the Photometer is off the break is logged at power-up (R403, R405). -/
def sealBroken (s : Chip) (p : Photometer) : Chip × Photometer :=
  if p.on = false then (s, { p with sealOpen := true, breakOwed := true }) else
  let r := Photometer.event s { p with sealOpen := true } 4 p.time 0
  (r.1, r.2.1)

/-- SEAL_RESTORED. -/
def sealRestored (s : Chip) (p : Photometer) : Chip × Photometer :=
  if p.on = false then (s, { p with sealOpen := false }) else
  let r := Photometer.event s { p with sealOpen := false } 5 p.time 0
  (r.1, r.2.1)

/-- PHOTOMETER_POWER_DOWN: the input falls below 30 V; whether the write of the store completes is the hold-up store's. -/
def meterDown (complete : Bool) (s : Chip) (p : Photometer) : Chip × Photometer :=
  if p.on = false then (s, p) else
  let r := if complete then (let r := Photometer.event s p 2 p.time 0; (r.1, r.2.1)) else (s, p)
  (r.1, { r.2 with on := false, powerDownOk := complete, testing := false, requests := [], reply := none, lastDemand := none })

/-- What an incomplete power-down restores: the last checkpoint (R405). -/
def Photometer.recover (p : Photometer) : Photometer × Word64 :=
  match p.checkpoint with
  | some c => ({ p with counts := c.counts.mapIdx (fun i n => (clip 16 i, n)), energy := c.energy, toggles := c.toggles }, BitVec.ofNat 64 c.seq)
  | none => ({ p with counts := [], energy := 0, toggles := [] }, 0)

/-- PHOTOMETER_POWER_UP: broken says that the tamper loop broke during the outage, clockKept what the calendar clock then reads. [log 126 DEDUCED] -/
def meterUp (broken : Bool) (clockKept : Option Word64) (s : Chip) (p : Photometer) : Chip × Photometer :=
  if p.on then (s, p) else
  let owed := broken || p.breakOwed
  let p := { p with on := true, mono := 0, subTick := 0, powerCycles := p.powerCycles + 1, breakOwed := false, badRun := [],
                    time := clockKept.getD 0, clockUnset := p.clockUnset || clockKept.isNone, sealOpen := p.sealOpen || broken,
                    vSum := 0, iSum := 0, spanSamples := 0 }
  let back := if p.powerDownOk then (p, 0) else let r := p.recover; ({ r.1 with nvRecovered := true, acceptAny := allDies }, r.2)
  let up := Photometer.event s { back.1 with powerDownOk := true } 1 p.time 0
  let sealLog := if owed then (let f := up.1.freeBits 64; let r := Photometer.event f.2 up.2.1 4 f.1 0; (r.1, r.2.1)) else (up.1, up.2.1)
  if p.powerDownOk then sealLog else let r := Photometer.event sealLog.1 sealLog.2 10 p.time back.2; (r.1, r.2.1)

/-! ## Meanings -/

def execPhotometerSample (uv : Nat) (ua : Nat) : State → Outcome State Fault Refusal := onPhot (meterSample uv ua)
def execTapKvCommit (d : DieId) (f : BitVec 32) : State → Outcome State Fault Refusal := onPhot (tapFrame d f)
def execTapEmission (d : DieId) (f : BitVec 32) : State → Outcome State Fault Refusal := onPhot (tapFrame d f)
def execTapResync (d : DieId) (f : BitVec 32) : State → Outcome State Fault Refusal := onPhot (tapFrame d f)
def execTapBadFrame (d : DieId) : State → Outcome State Fault Refusal := onPhot (fun s p => if p.on then Photometer.bad s p d else (s, p))
def execTapAck (d : DieId) (toggle : Bool) : State → Outcome State Fault Refusal := onChip (Chip.tapAck d toggle)
def execTapResend (d : DieId) : State → Outcome State Fault Refusal := onChip (Chip.tapResend d)
def execTapStall (d : DieId) : State → Outcome State Fault Refusal := onChip (Chip.tapStall d)
def execPeriodicRecord : State → Outcome State Fault Refusal := onPhot periodic
def execGetRecord (seq : BitVec 64) : State → Outcome State Fault Refusal := onPhot (meterRequest none (.getRecord seq))
def execDemand (nonce : BitVec 128) : State → Outcome State Fault Refusal := onPhot (meterRequest none (.demand nonce))
def execGetCert (off : BitVec 32) : State → Outcome State Fault Refusal := onPhot (meterRequest none (.getCert off))
def execGetEvents (index : BitVec 32) : State → Outcome State Fault Refusal := onPhot (meterRequest none (.getEvents index))
def execSetTime (t : BitVec 64) : State → Outcome State Fault Refusal := onPhot (meterRequest none (.setTime t))
def execSetPeriod (sec : BitVec 32) : State → Outcome State Fault Refusal := onPhot (meterRequest none (.setPeriod sec))
def execTestEnter : State → Outcome State Fault Refusal := onPhot (meterRequest none .testEnter)
def execTestExit : State → Outcome State Fault Refusal := onPhot (meterRequest none .testExit)
def execTestInject (dome : Byte) (kind : Byte) (count : BitVec 32) : State → Outcome State Fault Refusal :=
  onPhot (meterRequest none (.testInject dome kind count))
def execTestRecord (nonce : BitVec 128) : State → Outcome State Fault Refusal := onPhot (meterRequest none (.testRecord nonce))
def execTestTimeout : State → Outcome State Fault Refusal := onPhot testTimeout
def execSealBroken : State → Outcome State Fault Refusal := onPhot sealBroken
def execSealRestored : State → Outcome State Fault Refusal := onPhot sealRestored
def execPhotometerPowerDown (complete : Bool) : State → Outcome State Fault Refusal := onPhot (meterDown complete)
def execPhotometerPowerUp (broken : Bool) (clockKept : Option (BitVec 64)) : State → Outcome State Fault Refusal := onPhot (meterUp broken clockKept)
def execReqGetRecord (d : DieId) : State → Outcome State Fault Refusal := onPhot (channelGo d 0)
def execReqDemand (d : DieId) : State → Outcome State Fault Refusal := onPhot (channelGo d 1)
def execReqGetCert (d : DieId) : State → Outcome State Fault Refusal := onPhot (channelGo d 2)
def execReqGetEvents (d : DieId) : State → Outcome State Fault Refusal := onPhot (channelGo d 3)

end Sys2Proof.Machine
end

