-- ==== Sys2Proof/Machine/Emission.lean ====
section
/-! DEFINITION. The copy channels' writes of server host memory (R375), and the emission port of a host-class core (R396, R397). -/

namespace Sys2Proof.Machine

open Host

/-! ## The host link's functions (R367, R368, R375) -/

/-- The link that carries a function (R367). -/
def Chip.fnLink (s : Chip) : HostFn → Fin 2
  | .pf => 0
  | .pf1 => 1
  | .vf n => if s.link.bifurcated ∧ 32 ≤ n.val then 1 else 0

/-- Whether a function exists (R366, R367). -/
def Chip.fnExists (s : Chip) : HostFn → Bool
  | .pf => true
  | .pf1 => s.link.bifurcated
  | .vf _ => s.link.vfEnable

/-- Whether a function's link is up and CD0's edge ring runs. -/
def Chip.fnUp (s : Chip) (f : HostFn) : Bool :=
  (s.die 0).ringOn && s.fnExists f && (if s.fnLink f = 0 then s.link.link0Up else s.link.link1Up)

/-- A write of a copy channel to a bus address (R375): dropped while the function's link is down (R376). [log 85 DEDUCED] -/
def copyWrite (s : Chip) (host : Memory) (f : HostFn) (op : CopyOp) (a : Nat) (bs : List Byte) : Chip × Memory :=
  if s.fnUp f = false then (s, host) else
  ({ s with link := { s.link with copyPending := s.link.copyPending ++ [(f, op)] } }, host.putBytes a bs)

/-! ## The emission port (R396, R397) -/

/-- A hart that executes instructions. -/
def Chip.hartRuns (s : Chip) (h : HartId) : Bool := (s.die h.die).ringOn && (s.hart h).fetching && !s.frozen

/-- The time CSR of a host-class core: its own die's Meridian timer, in units of 10 ns (R46). -/
def Chip.hartTime (s : Chip) (h : HartId) : Word64 := (s.die h.die).timer

/-- The time a guest reads on a core: the time CSR and the core's htimedelta, which its hypervisor sets (R46). -/
def Chip.guestTime (s : Chip) (h : HartId) : Word64 := s.hartTime h + (s.hart h).htimedelta

/-- An exception of the hart. [log 51 DEDUCED] -/
def Chip.hartTrap (s : Chip) (h : HartId) (cause : Nat) : Chip := s.updHart h (fun x => { x with exception := some cause })

/-- The instruction retires without an exception. [log 69 DEDUCED] -/
def Chip.hartDone (s : Chip) (h : HartId) : Chip := s.updHart h (fun x => { x with exception := none })

/-- The function EMITCFG names, when it is the PF or a VF mapped to the hart's dome. -/
def Chip.emitFunction (s : Chip) (x : Hart) : Option HostFn :=
  match fnOfNumber x.emitFn.toNat with
  | some .pf => some .pf
  | some f => if s.domeOf (.host f) = some (clip 16 x.dome.toNat) then some f else none
  | none => none

/-- EMIT: the token is accepted and its emission event presented; while the tap takes no event the write does not retire (R395). -/
def Chip.emitWrite (h : HartId) (v : Word64) (s : Chip) : Chip :=
  if s.hartRuns h = false then s else
  let x := s.hart h
  if x.assigned = false ∨ v.extractLsb' 32 32 ≠ 0 ∨ (s.emitFunction x).isNone then s.hartTrap h 2 else
  let r := s.present h.die 2 x.dome 1
  if r.2 = 0 then s
  else (r.1.updHart h (fun y => { y with tokens := y.tokens ++ [v.extractLsb' 0 32] })).hartDone h

/-- EMITDST: a multiple of 4; the spec does not say what other low bits leave behind. [log 71 DEDUCED] -/
def Chip.emitDstWrite (h : HartId) (v : Word64) (s : Chip) : Chip :=
  if s.hartRuns h = false then s else
  if (s.hart h).assigned = false then s.hartTrap h 2 else
  let r : Word64 × Chip := if v.extractLsb' 0 2 = 0 then (v, s) else
    let f := s.freeBits 2
    (v.extractLsb' 2 62 ++ f.1, f.2)
  (r.2.updHart h (fun y => { y with emitDst := r.1 })).hartDone h

/-- EMITCFG: HOST, FUNCTION, and DFAULT cleared by a write of 0. -/
def Chip.emitCfgWrite (h : HartId) (v : Word64) (s : Chip) : Chip :=
  if s.hartRuns h = false then s else
  if (s.hart h).assigned = false then s.hartTrap h 2 else
  (s.updHart h (fun y => { y with emitHost := v.getLsbD 0, emitFn := v.extractLsb' 8 7, dfault := y.dfault && v.getLsbD 63 })).hartDone h

/-- Write a hart's oldest accepted token to EMITDST: a local address as an agent of the hart's dome, or a bus address through the copy channels. -/
def writeToken (h : HartId) (s : Chip) (host : Memory) : Chip × Memory :=
  let x := s.hart h
  match x.tokens with
  | [] => (s, host)
  | tok :: rest =>
    let s := s.updHart h (fun y => { y with tokens := rest, emitDst := y.emitDst + 4 })
    let bytes := leBytes 4 tok.toNat
    if x.emitHost then
      match s.emitFunction x with
      -- the copy channels are CD0's: a gap in the grid cuts them off (R16)
      | some f =>
        if s.route h.die 0 = false then (s.updHart h (fun y => { y with dfault := true }), host)
        else copyWrite s host f (.token h) x.emitDst.toNat bytes
      | none => (s.updHart h (fun y => { y with dfault := true }), host)
    else
      let r : Chip × Option FaultCode :=
        if x.emitDst.toNat < 2 ^ 52 then s.store (whoOf (.hart h)) x.emitDst.toNat bytes else (s, some Code.unmapped)
      (if r.2.isSome then r.1.updHart h (fun y => { y with dfault := true }) else r.1, host)

/-- Every accepted token of a hart, in order. -/
def writeTokens (h : HartId) : Nat → Chip → Memory → Chip × Memory
  | 0, s, host => (s, host)
  | n + 1, s, host => let r := writeToken h s host; writeTokens h n r.1 r.2

/-- EMIT_TOKEN_WRITE. -/
def emitToken (h : HartId) (s : Chip) (host : Memory) : Chip × Memory :=
  if (s.die h.die).ringOn = false ∨ s.frozen then (s, host) else writeToken h s host

/-! ## Meanings -/

def execEmit (h : HartId) (v : BitVec 64) : State → Outcome State Fault Refusal := onChip (Chip.emitWrite h v)
def execEmitdstWrite (h : HartId) (v : BitVec 64) : State → Outcome State Fault Refusal := onChip (Chip.emitDstWrite h v)
def execEmitcfgWrite (h : HartId) (v : BitVec 64) : State → Outcome State Fault Refusal := onChip (Chip.emitCfgWrite h v)
def execEmitTokenWrite (h : HartId) : State → Outcome State Fault Refusal := onBus (emitToken h)

end Sys2Proof.Machine
end

