-- ==== Sys2Proof/Machine/Harts.lean ====
section
/-! DEFINITION. The accesses of host-class cores (R269 to R271, R277): cached and uncached loads and stores, AMOs, fences, the Zicbom operations, LR and SC; and the RUN and RESET bits of a hart (R70). -/

namespace Sys2Proof.Machine

open Host

/-! ## The host caches of a die (R269) -/

def HostLine.is (l : HostLine) (d : DieId) (b : Nat) : Bool := decide (l.die = d) && decide (l.block = b)

/-- The block of 64 bytes of stack memory that a die's host caches hold. -/
def Chip.hostLine (s : Chip) (d : DieId) (b : Nat) : Option HostLine := s.hostCache.find? (fun l => l.is d b)
def Chip.dropHostLine (s : Chip) (d : DieId) (b : Nat) : Chip := { s with hostCache := s.hostCache.filter (fun l => !l.is d b) }

/-- Replace a block in place. -/
def Chip.setHostLine (s : Chip) (n : HostLine) : Chip := { s with hostCache := s.hostCache.map (fun l => if l.is n.die n.block then n else l) }

/-- Write a dirty block to its stack cache with hint 0. -/
def Chip.cleanHostLine (s : Chip) (l : HostLine) : Chip × Option FaultCode :=
  if l.dirty = false then (s, none) else
  let r := s.store (firmwareOf l.die) (l.block * 64) l.data
  (r.1.setHostLine { l with dirty := false }, r.2)

/-- The caches' room is not stated: before a fill, a free choice names a block of the die that leaves, or none. [log 67 DEDUCED] -/
def Chip.evictHostLine (s : Chip) (d : DieId) : Chip :=
  let mine := s.hostCache.filter (fun l => decide (l.die = d))
  if mine = [] then s else
  let c := s.freeChoice (mine.length + 1)
  match mine[c.1]? with
  | none => c.2
  | some l => (c.2.cleanHostLine l).1.dropHostLine d l.block

/-- Why a cached access is refused by the region table (R53, R54). [log 68 DEDUCED] -/
def Chip.cachedRefusal (s : Chip) (w : Who) (a : Nat) (write : Bool) : Option FaultCode :=
  let e := Table.read 0 (s.die w.die).regions (clip 2048 (a / 2 ^ 30))
  if regionUsable e = false then some Code.regionInvalid
  else if s.regionGrants e w.agent write = false then some Code.regionDenied
  else none

/-- Bring a block into a die's host caches for an access. -/
def Chip.fillHostLine (s : Chip) (w : Who) (b : Nat) (write : Bool) : Chip × Except FaultCode HostLine :=
  match s.cachedRefusal w (b * 64) write with
  | some c => (s.d2dErr w.die c w.tag (selfAddr (b * 64)), .error c)
  | none =>
    match s.hostLine w.die b with
    | some l => (s, .ok l)
    | none =>
      let s := s.evictHostLine w.die
      match s.load w (b * 64) 64 with
      | (s, .error c) => (s, .error c)
      | (s, .ok bs) => let l : HostLine := ⟨w.die, b, bs, false⟩; ({ s with hostCache := s.hostCache ++ [l] }, .ok l)

/-- Reservations of the die's other harts on a block are cleared. -/
def Chip.breakReservations (s : Chip) (h : HartId) (b : Nat) : Chip :=
  { s with harts := s.harts.map (fun e => if e.1.die = h.die ∧ e.1 ≠ h ∧ e.2.reservation = some b then (e.1, { e.2 with reservation := none }) else e) }

/-- Cached load, by pieces of 64 bytes. -/
def Chip.cachedLoad (s : Chip) (w : Who) : List (Nat × Nat) → Chip × Except FaultCode (List Byte)
  | [] => (s, .ok [])
  | (a, n) :: rest =>
    match s.fillHostLine w (a / 64) false with
    | (s, .error c) => (s, .error c)
    | (s, .ok l) =>
      match Chip.cachedLoad s w rest with
      | (s, .error c) => (s, .error c)
      | (s, .ok more) => (s, .ok ((l.data.drop (a % 64)).take n ++ more))

/-- Cached store, by pieces of 64 bytes. -/
def Chip.cachedStore (s : Chip) (h : HartId) (bs : List Byte) : List (Nat × Nat) → Chip × Option FaultCode
  | [] => (s, none)
  | (a, n) :: rest =>
    match s.fillHostLine (whoOf (.hart h)) (a / 64) true with
    | (s, .error c) => (s, some c)
    | (s, .ok l) =>
      let s := (s.setHostLine { l with data := splice l.data (a % 64) (bs.take n), dirty := true }).breakReservations h (a / 64)
      Chip.cachedStore s h (bs.drop n) rest

/-! ## Loads and stores (R270, R277) -/

/-- Uncached load, by pieces of 64 bytes (R183). -/
def Chip.uncachedLoad (s : Chip) (w : Who) (a n : Nat) : Chip × Except FaultCode (List Byte) := s.loadPieces w (pieces 64 a n)

/-- Uncached store. -/
def Chip.uncachedStore (s : Chip) (w : Who) (a : Nat) (bs : List Byte) : Chip × Option FaultCode := s.storePieces w bs (pieces 64 a bs.length)

/-- Whether an access at an object's base waits for a CLEAR_ALL: a hart stands at its load or AMO until it is done (R282). -/
def Chip.objHolds (s : Chip) (a : Agent) (addr : Nat) : Bool :=
  match place addr with
  | .obj o 0 => (s.sync (unitOf o)).clearBusy && (s.objRefusal (whoOf a) o false none).isNone
  | _ => false

/-- A load of 8 bytes at an object's base is a READ (R277). -/
def Chip.hartLoad (s : Chip) (h : HartId) (cached : Bool) (a n : Nat) : Chip × Except FaultCode (List Byte) :=
  let w := whoOf (.hart h)
  match place a with
  | .mem _ => if cached then s.cachedLoad w (pieces 64 a n) else s.uncachedLoad w a n
  | .obj o off =>
    if off = 0 ∧ n = 8 then
      let r := s.objReadOp w o
      (r.1, match r.2.fault with
        | some c => .error c
        | none => .ok (leBytes 8 r.2.count.toNat))
    else let r := s.placeRefusal w (.obj o off); (r.1, .error r.2)
  | _ => s.uncachedLoad w a n

/-- A store of 8 bytes at an object's base is a SET (R277). -/
def Chip.hartStore (s : Chip) (h : HartId) (cached : Bool) (a : Nat) (bs : List Byte) : Chip × Option FaultCode :=
  let w := whoOf (.hart h)
  match place a with
  | .mem _ => if cached then s.cachedStore h bs (pieces 64 a bs.length) else s.uncachedStore w a bs
  | .obj o off =>
    if off = 0 ∧ bs.length = 8 then let r := s.objOp w o (.set (BitVec.ofNat 64 (leNat bs))); (r.1, r.2.fault)
    else let r := s.placeRefusal w (.obj o off); (r.1, some r.2)
  | _ => s.uncachedStore w a bs

/-- HART_MEMORY_ACCESS: a refused load raises cause 5, a refused store cause 7; a load's bytes go to the destination register. -/
def Chip.hartAccess (h : HartId) (x : HartReq) (s : Chip) : Chip :=
  if s.hartRuns h = false then s else
  let n := 2 ^ x.size.val
  match x.data with
  | none =>
    if 2 ^ 52 ≤ x.addr.toNat then s.hartTrap h 5 else
    if n = 8 && s.objHolds (.hart h) x.addr.toNat then s else
    let r := s.hartLoad h x.cached x.addr.toNat n
    (match r.2 with
     | .error _ => r.1.hartTrap h 5
     | .ok bs => (r.1.updHart h (fun y => { y with rd := BitVec.ofNat 64 (leNat bs) })).hartDone h)
  | some v =>
    if 2 ^ 52 ≤ x.addr.toNat then s.hartTrap h 7 else
    let r := s.hartStore h x.cached x.addr.toNat (leBytes n v.toNat)
    if r.2.isSome then r.1.hartTrap h 7 else r.1.hartDone h

/-! ## AMOs (R191, R270, R277) -/

/-- The die's host caches write back and drop the block that holds an element. -/
def Chip.flushHostLine (s : Chip) (d : DieId) (b : Nat) : Chip :=
  match s.hostLine d b with
  | none => s
  | some l => (s.cleanHostLine l).1.dropHostLine d b

/-- An AMO on an object: amoadd.d is a SIGNAL, amoswap.d an ARM; every other one faults with SYNC_OP. -/
def Chip.amoObject (s : Chip) (h : HartId) (o : ObjId) (off : Nat) (x : AmoReq) : Chip × Except FaultCode Nat :=
  let w := whoOf (.hart h)
  let done (r : Chip × ObjAnswer) : Chip × Except FaultCode Nat := (r.1, match r.2.fault with
    | some c => .error c
    | none => .ok r.2.count.toNat)
  if off ≠ 0 ∨ x.dbl = false then let r := s.placeRefusal w (.obj o off); (r.1, .error r.2)
  else if x.op = 1 then done (s.objOp w o (.signal x.operand none))
  else if x.op = 9 ∧ x.operand.extractLsb' 48 16 = 0 then done (s.objOp w o (.arm (x.operand.extractLsb' 0 48)))
  else let r := s.placeRefusal w (.obj o off); (r.1, .error r.2)

/-- HART_AMO: the old value goes to the destination register, sign-extended from 32 bits for the word forms. -/
def Chip.hartAmo (h : HartId) (x : AmoReq) (s : Chip) : Chip :=
  if s.hartRuns h = false then s else
  let a := x.addr.toNat
  if 2 ^ 52 ≤ a then s.hartTrap h 7 else
  if x.dbl && s.objHolds (.hart h) a then s else
  let w := whoOf (.hart h)
  let n := if x.dbl then 8 else 4
  let r : Chip × Except FaultCode Nat := match place a with
    | .obj o off => s.amoObject h o off x
    | _ =>
      let q := (s.flushHostLine h.die (a / 64)).fetchAt w a x.op (if x.dbl then 12 else 11) (leBytes n x.operand.toNat) 0
      (q.1, q.2.map leNat)
  match r.2 with
  | .error _ => r.1.hartTrap h 7
  | .ok v => (r.1.updHart h (fun y => { y with rd := if x.dbl then BitVec.ofNat 64 v else (BitVec.ofNat 32 v).signExtend 64 })).hartDone h

/-! ## Fences and cache operations (R269, R270, R397) -/

/-- HART_FENCE: a model that performs each access as it comes holds none back; a FENCE iorw,iorw first has every accepted token written. [log 72 DEDUCED] -/
def hartFence (h : HartId) (pred succ : BitVec 4) (s : Chip) (host : Memory) : Chip × Memory :=
  if s.hartRuns h = false then (s, host) else
  let r := if pred = 15 ∧ succ = 15 then writeTokens h (s.hart h).tokens.length s host else (s, host)
  (r.1.hartDone h, r.2)

/-- What the envcfg controls make of a Zicbom operation at a hart's privilege: none where it is illegal there, else whether it writes back; an inval may be turned into a flush (R269). [log 165 PRESUMED] -/
def Hart.cboAllowed (x : Hart) (write drop : Bool) : Option Bool :=
  let regs : List Word64 := if x.priv = 3 then [] else if x.priv = 0 then [x.menvcfg, x.senvcfg] else [x.menvcfg]
  if write then (if regs.all (fun w => w.getLsbD 6) then some true else none)
  else if regs.any (fun w => w.extractLsb' 4 2 = 0) then none
  else some (drop && regs.any (fun w => w.extractLsb' 4 2 = 1))

/-- A Zicbom operation on the block of an address: written back when `write`, dropped when `drop`. A grant to read or to write the block suffices. -/
def Chip.cbo (h : HartId) (addr : BitVec 56) (write drop : Bool) (s : Chip) : Chip :=
  if s.hartRuns h = false then s else
  match (s.hart h).cboAllowed write drop with
  | none => s.hartTrap h 2
  | some write =>
  if 2 ^ 52 ≤ addr.toNat then s.hartTrap h 7 else
  let b := addr.toNat / 64
  match place addr.toNat with
  | .mem _ =>
    (match (s.cachedRefusal (whoOf (.hart h)) (b * 64) false).bind (fun _ => s.cachedRefusal (whoOf (.hart h)) (b * 64) true) with
     | some c => (s.d2dErr h.die c 0 (selfAddr (b * 64))).hartTrap h 7
     | none =>
       match s.hostLine h.die b with
       | none => s.hartDone h
       | some l =>
         let r := if write then s.cleanHostLine l else (s, none)
         let s := if drop then r.1.dropHostLine h.die b else r.1
         if r.2.isSome then s.hartTrap h 7 else s.hartDone h)
  | p => let r := s.placeRefusal (whoOf (.hart h)) p; r.1.hartTrap h 7

/-! ## LR and SC (R271) -/

/-- LR or SC of an address that is not cached stack memory, or not aligned, raises a store/AMO access fault. -/
def reservable (addr : BitVec 56) (dbl cached : Bool) : Bool :=
  cached && decide (addr.toNat < 2 ^ 41) && decide (addr.toNat % (if dbl then 8 else 4) = 0)

/-- LR: a load that reserves its block of 64 bytes among the harts of the die. -/
def Chip.loadReserved (h : HartId) (addr : BitVec 56) (dbl cached : Bool) (s : Chip) : Chip :=
  if s.hartRuns h = false then s else
  if reservable addr dbl cached = false then s.hartTrap h 7 else
  let a := addr.toNat
  let r := s.cachedLoad (whoOf (.hart h)) [(a, if dbl then 8 else 4)]
  match r.2 with
  | .error _ => r.1.hartTrap h 5
  | .ok bs =>
    let v := leNat bs
    (r.1.updHart h (fun y => { y with reservation := some (a / 64), rd := if dbl then BitVec.ofNat 64 v else (BitVec.ofNat 32 v).signExtend 64 })).hartDone h

/-- SC: it stores and answers 0 while the reservation holds, else answers 1; either way the reservation ends. -/
def Chip.storeConditional (h : HartId) (addr : BitVec 56) (dbl cached : Bool) (v : Word64) (s : Chip) : Chip :=
  if s.hartRuns h = false then s else
  if reservable addr dbl cached = false then s.hartTrap h 7 else
  let a := addr.toNat
  let held : Bool := decide ((s.hart h).reservation = some (a / 64))
  let s := s.updHart h (fun y => { y with reservation := none })
  if held = false then (s.updHart h (fun y => { y with rd := 1 })).hartDone h else
  let n := if dbl then 8 else 4
  let r := s.cachedStore h (leBytes n v.toNat) [(a, n)]
  if r.2.isSome then r.1.hartTrap h 7 else (r.1.updHart h (fun y => { y with rd := 0 })).hartDone h

/-! ## RUN and RESET (R70) -/

/-- Privilege level M. -/
def machineMode : BitVec 2 := 3

/-- A hart in reset: its reservation and exception are gone; its control registers, the emission port's CSRs and tokens and an outstanding call stay. -/
def Hart.stopped (x : Hart) : Hart :=
  { x with inReset := true, fetching := false, wfi := false, priv := 0, pc := 0, reservation := none, exception := none, rd := 0 }

/-- HOSTCORE_RESET: held in reset, or released to start at RESET_PC. [log 70 DEDUCED] -/
def Chip.hartReset (h : HartId) (v : Bool) (s : Chip) : Chip :=
  if (s.die h.die).ringOn = false then s else
  s.updHart h (fun x =>
    if v then x.stopped
    else if x.inReset then { x with inReset := false, pc := x.resetPc, priv := machineMode, fetching := x.run }
    else x)

/-- HOSTCORE_RUN: the hart fetches while RUN is 1 and it is not in reset. -/
def Chip.hartRun (h : HartId) (v : Bool) (s : Chip) : Chip :=
  if (s.die h.die).ringOn = false then s else
  s.updHart h (fun x => { x with run := v, fetching := v && !x.inReset })

/-! ## Meanings -/

def execHartMemoryAccess (h : HartId) (x : HartReq) : State → Outcome State Fault Refusal := onChip (Chip.hartAccess h x)
def execHartFence (h : HartId) (pred : BitVec 4) (succ : BitVec 4) : State → Outcome State Fault Refusal := onBus (hartFence h pred succ)
def execCboClean (h : HartId) (addr : BitVec 56) : State → Outcome State Fault Refusal := onChip (Chip.cbo h addr true false)
def execCboFlush (h : HartId) (addr : BitVec 56) : State → Outcome State Fault Refusal := onChip (Chip.cbo h addr true true)
def execCboInval (h : HartId) (addr : BitVec 56) : State → Outcome State Fault Refusal := onChip (Chip.cbo h addr false true)
def execLr (h : HartId) (addr : BitVec 56) (dbl : Bool) (cached : Bool) : State → Outcome State Fault Refusal := onChip (Chip.loadReserved h addr dbl cached)
def execSc (h : HartId) (addr : BitVec 56) (dbl : Bool) (cached : Bool) (v : BitVec 64) : State → Outcome State Fault Refusal :=
  onChip (Chip.storeConditional h addr dbl cached v)
def execHostcoreRun (h : HartId) (v : Bool) : State → Outcome State Fault Refusal := onChip (Chip.live (Chip.hartRun h v))
def execHostcoreReset (h : HartId) (v : Bool) : State → Outcome State Fault Refusal := onChip (Chip.live (Chip.hartReset h v))

end Sys2Proof.Machine
end

