-- ==== Sys2Proof/Machine/Calls.lean ====
section
/-! DEFINITION. Firmware calls (R311 to R313): the call block, who may call, the reply, and firmware's accesses of module and server host memory. -/

namespace Sys2Proof.Machine

open Host

/-! ## Memory as firmware reaches it -/

/-- Read bytes at a local address, or at a bus address of the server host through a copy channel of a function, which a gap in the grid cuts off (R16, R313, R375). [log 84 DEDUCED] -/
def Reach.readAt (r : Reach) (d : DieId) (host : Option HostFn) (a n : Nat) : Reach × Option (List Byte) :=
  match host with
  | some f => (r, if r.chip.fnUp f ∧ r.chip.route d 0 then some (r.host.bytes a n) else none)
  | none =>
    let q := r.chip.load (firmwareOf d) a n
    ({ r with chip := q.1 }, match q.2 with
      | .ok bs => some bs
      | .error _ => none)

/-- Write bytes likewise; the answer says whether they were written. -/
def Reach.writeAt (r : Reach) (d : DieId) (host : Option HostFn) (a : Nat) (bs : List Byte) : Reach × Bool :=
  match host with
  | some f => if r.chip.fnUp f ∧ r.chip.route d 0 then ({ r with host := r.host.putBytes a bs }, true) else (r, false)
  | none => let q := r.chip.store (firmwareOf d) a bs; ({ r with chip := q.1 }, q.2.isNone)

/-! ## The call block (R311, R312) -/

/-- A call as firmware reads it. -/
structure Call where
  caller : Caller
  bytes : List Byte

/-- A little-endian number of some bytes. -/
def bytesAt (l : List Byte) (off n : Nat) : Nat := leNat ((l.drop off).take n)
def Call.arg (c : Call) (off n : Nat) : Nat := bytesAt c.bytes off n
def Call.code (c : Call) : Nat := c.arg 0 2
def Call.hostAddr (c : Call) : Bool := c.arg 2 2 % 2 = 1

/-- The die whose firmware takes the call: CD0 for a function, the hart's own die for a hart. -/
def Call.die (c : Call) : DieId := match c.caller with
  | .fn _ => 0
  | .hart h => h.die

/-- The space of the call's addresses (R313). -/
def Call.space (c : Call) : Option HostFn := match c.caller with
  | .fn f => if c.hostAddr then some f else none
  | .hart _ => none

/-- Whether every argument byte outside the named ones is 0 (R312). -/
def Call.clean (c : Call) (used : List (Nat × Nat)) : Bool :=
  (List.range 56).all (fun i => let o := 8 + i; used.any (fun u => decide (u.1 ≤ o) && decide (o < u.1 + u.2)) || c.bytes.getD o 0 = 0)

/-- What firmware answers: RESULT, LOCATOR, DATA, and the log entry's die, dome and detail. -/
structure Answer where
  code : FaultCode := 0
  locator : Word64 := 0
  data : List Byte := []
  die : DieId := 0
  dome : Byte := 0xFF

/-- The reply block (R312). -/
def replyBytes (c : Call) (a : Answer) : List Byte :=
  let data := a.data.take 48
  leBytes 2 c.code ++ leBytes 2 a.code.toNat ++ leBytes 4 (c.arg 4 4) ++ leBytes 8 a.locator.toNat ++ data ++ List.replicate (48 - data.length) 0

/-! ## Callers (R313) -/

/-- Which callers a call allows. -/
structure May where
  vf : Bool := false
  hart : Bool := false
  pf : Bool := true

/-- The dome a caller speaks for; the PF speaks for every dome. -/
def Chip.callerDome (s : Chip) : Caller → Option DomeId
  | .fn f => s.domeOf (.host f)
  | .hart h => s.domeOf (.hart h)

/-- Whether a caller may make a call at all. -/
def Chip.mayCall (s : Chip) (m : May) (c : Caller) : Bool :=
  match c with
  | .fn .pf => m.pf
  | .fn .pf1 => false
  | .fn (.vf _) => m.vf && (s.callerDome c).isSome
  | .hart _ => m.hart && (s.callerDome c).isSome

/-- Whether a call may name a dome (R313). -/
def Chip.mayName (s : Chip) (c : Caller) (m : DomeId) : Bool :=
  match c with
  | .fn .pf => true
  | _ => decide (s.callerDome c = some m)

/-! ## Outstanding calls -/

/-- SBI_ERR_INVALID_ADDRESS. -/
def sbiInvalidAddress : Int := -5

/-- The call a caller has outstanding, once firmware runs it (R311, R482). -/
def Reach.outstanding (r : Reach) (c : Caller) : Reach × Option Call :=
  match c with
  | .fn f =>
    let x := r.chip.fn f
    (r, if x.busy ∧ r.chip.ready ∧ r.chip.running 0 then some ⟨c, leBytes 64 x.block.toNat⟩ else none)
  | .hart h =>
    match (r.chip.hart h).call with
    | none => (r, none)
    | some a =>
      if r.chip.running h.die = false then (r, none) else
      let q := r.readAt h.die none a.toNat 64
      match q.2 with
      | some bs => (q.1, some ⟨c, bs⟩)
      | none => ({ q.1 with chip := q.1.chip.updHart h (fun y => { y with call := none, sbiResult := some sbiInvalidAddress }) }, none)

/-- Deliver a reply (R311, R312): a discarded one of a reset function goes nowhere (R376). [log 86 DEDUCED] -/
def Reach.finish (r : Reach) (c : Call) (a : Answer) : Reach :=
  let r := if a.code = 0 then r else { r with chip := r.chip.log a.die 1 a.code a.dome 0 a.locator }
  match c.caller with
  | .fn f =>
    let x := r.chip.fn f
    if x.busy = false then r
    else if x.discardReply then { r with chip := r.chip.updFn f (fun y => { y with busy := false, discardReply := false }) }
    else
      let chip := r.chip.updFn f (fun y => { y with busy := false, done := true, block := BitVec.ofNat 512 (leNat (replyBytes c a)) })
      { r with chip := chip.msix f 0 }
  | .hart h =>
    match (r.chip.hart h).call with
    | none => r
    | some at_ =>
      let q := r.writeAt h.die none at_.toNat (replyBytes c a)
      { q.1 with chip := q.1.chip.updHart h (fun y => { y with call := none, sbiResult := some (if q.2 then 0 else sbiInvalidAddress) }) }

/-- An answer that only carries a code. -/
def refuse (c : FaultCode) : Answer := { code := c }

/-- Run a caller's outstanding call of one code: the caller's right, HOST_ADDR and FLAGS, the unnamed bytes, then the call itself. A caller whose outstanding call is another one is not served. [log 83 DEDUCED] -/
def runCall (code : Nat) (may : May) (used : List (Nat × Nat)) (body : Call → Reach → Reach × Answer) (caller : Caller) (r : Reach) : Reach :=
  match r.outstanding caller with
  | (r, none) => r
  | (r, some c) =>
    if c.code ≠ code then r else
    let isHart : Bool := match caller with
      | .hart _ => true
      | .fn _ => false
    if r.chip.mayCall may caller = false ∨ (isHart ∧ c.hostAddr) then r.finish c (refuse Code.callDenied)
    else if c.arg 2 2 / 2 ≠ 0 ∨ c.clean used = false then r.finish c (refuse Code.callMalformed)
    else let q := body c r; q.1.finish c q.2

/-- The call codes of R313. -/
def callCodes : List Nat :=
  [0x01, 0x02, 0x03, 0x04, 0x05, 0x06, 0x10, 0x11, 0x20, 0x30, 0x31, 0x40, 0x41, 0x50, 0x51, 0x52, 0x53, 0x54, 0x60, 0x61, 0x62, 0x63]

/-- A call code that no row names fails at once (R313). -/
def unknownCall (caller : Caller) (r : Reach) : Reach :=
  match r.outstanding caller with
  | (r, none) => r
  | (r, some c) => if callCodes.contains c.code then r else r.finish c (refuse Code.callMalformed)

end Sys2Proof.Machine
end

