-- ==== Sys2Proof/Machine/Domes.lean ====
section
/-! DEFINITION. Domes (R285 to R292, R309): the descriptor, its admission, what DOME_DEFINE sets up and DOME_RELEASE returns, and the shared-weight set. -/

namespace Sys2Proof.Machine

open Host

/-! ## The descriptor (R286, R292) -/

/-- A little-endian field of a descriptor. -/
def descF (b : BitVec 2048) (off n : Nat) : Nat := (b.extractLsb' (8 * off) (8 * n)).toNat

def Dome.u (m : Dome) (off n : Nat) : Nat := descF m.desc off n
def descClusters (b : BitVec 2048) : List ClusterId :=
  allDies.flatMap (fun d => (clustersOf d).filter (fun c => b.getLsbD (0x40 + 16 * d.val + c.idx.val)))
def Dome.clusters (m : Dome) : List ClusterId := descClusters m.desc
def descHarts (b : BitVec 2048) : List HartId :=
  allDies.flatMap (fun d => (hartsOf d).filter (fun h => b.getLsbD (0x100 + 16 * d.val + h.idx.val)))
def Dome.harts (m : Dome) : List HartId := descHarts m.desc
def Dome.privateStacks (m : Dome) : List StackId := allStacks.filter (fun t => m.desc.getLsbD (0xC0 + t.val))
def Dome.sharedStacks (m : Dome) : List StackId := allStacks.filter (fun t => m.desc.getLsbD (0xE0 + t.val))
/-- Dome stack j (R298): private stacks, then shared ones, each in increasing number. -/
def Dome.stackList (m : Dome) : List StackId := m.privateStacks ++ m.sharedStacks
/-- Image die i (R298). -/
def Dome.dies (m : Dome) : List DieId := allDies.filter (fun d => m.clusters.any (fun c => decide (c.die = d)))
def Dome.queueCount (m : Dome) : Nat := m.u 0x06 2 % 1024
def Dome.dieObjects (m : Dome) (d : DieId) : Nat := m.u (0x30 + 2 * d.val) 2
def Dome.watchdog (m : Dome) : Nat := m.u 0x44 4
def Dome.frameLen (m : Dome) : Nat := m.u 0x48 8
/-- Beats per microsecond of the floor point at 100 degrees C (R303). -/
def Dome.floorRate (m : Dome) : Nat := [1160, 1550, 1890].getD (m.u 0x04 1 % 4) 1550

/-- An allotment entry. -/
structure Allotment where
  stack : StackId
  engines : Nat
  exclusive : Bool
  objects : Nat

/-- Entry i of ULZ, when valid. -/
def descAllot (b : BitVec 2048) (i : Nat) : Option Allotment :=
  let w : Word32 := BitVec.ofNat 32 (descF b (0x50 + 4 * i) 4)
  if w.getLsbD 31 = false then none
  else some ⟨clip 32 (field w 20 16).toNat, (field w 29 24).toNat, w.getLsbD 30, (field w 8 0).toNat⟩
def descAllots (b : BitVec 2048) : List Allotment := (List.range 32).filterMap (descAllot b)
def Dome.allot (m : Dome) (t : StackId) : Option Allotment := (descAllots m.desc).find? (fun a => a.stack = t)

/-- DOME_MALFORMED (R287). [log 73 DEDUCED] -/
def descMalformed (b : BitVec 2048) (shared : Word32) : Bool :=
  let id := descF b 0 4
  let mode : Word32 := BitVec.ofNat 32 (descF b 4 4)
  let queues := (field mode 25 16).toNat
  let entry (i : Nat) : Word32 := BitVec.ofNat 32 (descF b (0x50 + 4 * i) 4)
  let stacksShared : Word32 := BitVec.ofNat 32 (descF b 0x1C 4)
  decide (16 ≤ id) || mode.extractLsb' 0 2 == 3 || mode.extractLsb' 2 14 != 0 || mode.extractLsb' 26 6 != 0 || queues = 0 || decide (256 < queues) ||
  descF b 0x08 16 = 0 || (stacksShared &&& ~~~shared) != 0 ||
  allDies.any (fun d => decide (4096 < descF b (0x30 + 2 * d.val) 2)) || decide (16 ≤ descF b 0x40 4) ||
  decide (descF b 0x44 4 < 1000) || decide (10000000 < descF b 0x44 4) || decide (descF b 0x48 8 < 10000) || decide (100000000 < descF b 0x48 8) ||
  (List.range 32).any (fun i =>
    let w := entry i
    if w.getLsbD 31 then
      w.extractLsb' 21 3 != 0 || w.extractLsb' 9 7 != 0 || (field w 29 24).toNat = 0 || decide (32 < (field w 29 24).toNat) ||
      (field w 8 0).toNat = 0 || decide (256 < (field w 8 0).toNat)
    else w != 0) ||
  descF b 0xD0 48 != 0

/-- Every dome but one. -/
def Firmware.others (fw : Firmware) (id : DomeId) : List (DomeId × Dome) :=
  fw.domes.filterMap (fun e => if e.1 = id then none else e.2.map (fun m => (e.1, m)))
def Firmware.dome (fw : Firmware) (id : DomeId) : Option Dome := Table.read none fw.domes id
def Firmware.setDome (fw : Firmware) (id : DomeId) (m : Option Dome) : Firmware := { fw with domes := Table.write fw.domes id m }
def Firmware.updDome (fw : Firmware) (id : DomeId) (f : Dome → Dome) : Firmware := match fw.dome id with
  | some m => fw.setDome id (some (f m))
  | none => fw
def Firmware.queue (fw : Firmware) (q : Nat) : Option Queue := Table.read none fw.queues q
def Firmware.updQueue (fw : Firmware) (q : Nat) (f : Queue → Queue) : Firmware := match fw.queue q with
  | some x => { fw with queues := Table.write fw.queues q (some (f x)) }
  | none => fw

/-- Round up to a multiple. -/
def roundUp (n k : Nat) : Nat := (n + k - 1) / k * k

/-- The sum of a list. -/
def sumNat : List Nat → Nat
  | [] => 0
  | a :: t => a + sumNat t

/-- DOME_CONFLICT (R287, R292). -/
def Firmware.conflict (fw : Firmware) (id : DomeId) (b : BitVec 2048) : Bool :=
  let old := fw.others id
  let allots := descAllots b
  let meets (off n : Nat) : Bool := old.any (fun e => (descF b off n) &&& (e.2.u off n) ≠ 0)
  let allotsOn (t : StackId) : List Allotment := (allots ++ old.flatMap (fun e => descAllots e.2.desc)).filter (fun a => a.stack = t)
  meets 0x08 16 || meets 0x18 4 || meets 0x20 16 ||
  (descF b 0x18 4) &&& fw.sharedSet.toNat ≠ 0 ||
  allots.any (fun a => decide (1 < (allots.filter (fun x => x.stack = a.stack)).length) || (descF b 0x1C 4).testBit a.stack.val = false) ||
  allDies.any (fun d => decide (4096 < descF b (0x30 + 2 * d.val) 2 + sumNat (old.map (fun e => e.2.dieObjects d)))) ||
  decide (1024 < descF b 0x06 2 % 1024 + sumNat (old.map (fun e => e.2.queueCount))) ||
  allStacks.any (fun t =>
    let l := allotsOn t
    let excl := sumNat ((l.filter (fun a => a.exclusive)).map (fun a => a.engines))
    let top := (l.filter (fun a => !a.exclusive)).foldl (fun n a => Nat.max n a.engines) 0
    decide (32 < excl + top) || decide (256 < sumNat (l.map (fun a => a.objects))))

/-- The engines of a dome on a stack: all of a private stack's, and on a shared one those placed at its definition (R291, R292). -/
def Dome.engineMask (m : Dome) (t : StackId) : Word32 :=
  if m.privateStacks.contains t then 0xFFFFFFFF else ((m.engines.find? (fun e => e.1 = t)).map (fun e => e.2)).getD 0

/-- The engines of a stack that domes hold by allotments, exclusive or shared. -/
def Firmware.enginesOn (fw : Firmware) (t : StackId) (exclusive : Bool) : Word32 :=
  fw.domes.foldl (fun w e => match e.2 with
    | some m => if (m.allot t).any (fun a => a.exclusive == exclusive) then w ||| m.engineMask t else w
    | none => w) 0

/-- The first n engines of an order that a mask does not hold. -/
def pickEngines (order : List (Fin 32)) (busy : Word32) (n : Nat) : Word32 :=
  ((order.filter (fun e => !busy.getLsbD e.val)).take n).foldl (fun w e => w ||| bitMask e.val) 0

/-- Place an allotment beside those of the domes present: an exclusive one from engine 31 downwards, a shared one from engine 0 upwards in the engines no exclusive one holds; a placed allotment does not move again (R292, R309). [log 161 DEDUCED] -/
def Firmware.placeAllot (fw : Firmware) (a : Allotment) : Word32 :=
  let held := fw.enginesOn a.stack true
  if a.exclusive = false then pickEngines (List.finRange 32) held a.engines
  else
    let clear := pickEngines (List.finRange 32).reverse (held ||| fw.enginesOn a.stack false) a.engines
    if (((List.finRange 32).filter (fun e => clear.getLsbD e.val)).length) = a.engines then clear
    else pickEngines (List.finRange 32).reverse held a.engines

/-! ## Objects and queues of a dome -/

/-- The first n numbers of a list. -/
def firstFree (n : Nat) (l : List Nat) : List Nat := l.take n

/-- The objects that are a dome's, of one block, in increasing number. -/
def Chip.objectsOf (s : Chip) (id : DomeId) (u : SyncUnit) : List Nat :=
  let n := match u with
    | .die _ => 4096
    | .stack _ => 256
  (List.range n).filter (fun i => let o := s.obj (objIn u i); o.assigned && decide (o.dome.toNat = id.val))

/-- Assign the lowest unassigned objects of a block to a dome, with COUNT and NOTIFY 0 (R289). [log 74 DESIGN CHOICE] -/
def Chip.assignObjects (s : Chip) (id : DomeId) (u : SyncUnit) (n : Nat) : Chip :=
  let size := match u with
    | .die _ => 4096
    | .stack _ => 256
  let free := (List.range size).filter (fun i => (s.obj (objIn u i)).assigned = false)
  (firstFree n free).foldl (fun s i => s.updObj (objIn u i) (fun _ => { assigned := true, dome := BitVec.ofNat 4 id.val })) s

/-- Objects of a block return unassigned with COUNT 0 (R309). -/
def Chip.returnObjects (s : Chip) (id : DomeId) : Chip :=
  { s with objs := s.objs.map (fun e => if e.2.assigned ∧ e.2.dome.toNat = id.val then (e.1, {}) else e) }

/-- The object at a position counted from the top of a dome's objects on its home die: firmware keeps its own there. -/
def Chip.topObject (s : Chip) (id : DomeId) (home : DieId) (k : Nat) : ObjId :=
  let l := s.objectsOf id (.die home)
  .die home (clip 4096 (l.getD (l.length - 1 - k) 0))

/-- An OBJ_COUNT write by firmware (R276). -/
def Chip.setCount (s : Chip) (d : DieId) (o : ObjId) (v : Word64) : Chip := (s.objOp (firmwareOf d) o (.set v)).1

/-! ## Regions of a dome (R53, R57, R289, R309) -/

/-- The stacks an entry reaches. -/
def regionStacks (e : Word64) : List StackId :=
  if regionUsable e = false then [] else
  let k := if regionMode e = 1 then 1 else spreadWidth (regionWidth e)
  (List.range k).map (fun i => clip 32 (regionStack e + i))

/-- Change every region entry of every die's table. -/
def Chip.mapRegions (s : Chip) (f : Word64 → Word64) : Chip :=
  { s with dies := s.dies.map (fun e => (e.1, { e.2 with regions := e.2.regions.map (fun r => (r.1, f r.2)) })) }

def grantBits (id : DomeId) (read write : Bool) : Word64 :=
  BitVec.ofNat 64 ((if read then 2 ^ (16 + id.val) else 0) + (if write then 2 ^ (32 + id.val) else 0))

/-! ## DOME_DEFINE (R287 to R289) -/

/-- OWNER of a cluster on a die whose core domain is on; a running cluster drops the write (R23). -/
def Chip.ownCluster (s : Chip) (c : ClusterId) (id : Option DomeId) : Chip :=
  if (s.die c.die).coreOn = false then s
  else if (s.cluster c).running then s.configDropped c else
  s.updCluster c (fun x => match id with
    | some m => { x with assigned := true, dome := BitVec.ofNat 4 m.val, fabricOpen := false }
    | none => { x with assigned := false, dome := 0, fabricOpen := false, phPhase := 0 })

def Chip.ownHart (s : Chip) (h : HartId) (id : Option DomeId) : Chip :=
  s.updHart h (fun x => { x with assigned := id.isSome, dome := match id with
    | some m => BitVec.ofNat 4 m.val
    | none => 0 })

/-- A dome's nibble of SHARE0 or SHARE1 on every stack (R202). -/
def Chip.setShare (s : Chip) (id : DomeId) (v : Nat) : Chip :=
  let put (w : Word32) (i : Nat) : Word32 := (w &&& ~~~(BitVec.ofNat 32 (15 * 16 ^ i))) ||| BitVec.ofNat 32 (v % 16 * 16 ^ i)
  allStacks.foldl (fun s t => s.updStack t (fun x => if id.val < 8 then { x with share0 := put x.share0 id.val } else { x with share1 := put x.share1 (id.val - 8) })) s

/-- An entry that pins one frame of a private stack for its dome (R53). -/
def privateEntry (id : DomeId) (t : StackId) (frame : Nat) : Word64 := BitVec.ofNat 64 (1 + t.val * 16 + frame * 512) ||| grantBits id true true

/-- The frame of a dome's first private stack where firmware keeps what the dome reads and does not write, and the one where the dome's own agents write for firmware. [log 163 DESIGN CHOICE] -/
def tablesFrame : Nat := 63
def cellsFrame : Nat := 62

/-- The regions firmware creates on private stacks: one for each frame that no PINNED entry names yet, firmware's own two first, at the lowest INVALID entries (R289). [log 75 DESIGN CHOICE] -/
def Chip.createRegions (s : Chip) (id : DomeId) (home : DieId) (ts : List StackId) : Chip :=
  let table := (s.die home).regions
  let named (t : StackId) (f : Nat) : Bool := table.any (fun e => decide (regionMode e.2 = 1) && (regionStacks e.2).contains t && decide (regionFrame e.2 = f))
  let all := ts.flatMap (fun t => (List.range 64).reverse.map (fun f => (t, f)))
  let want := all.filter (fun e => !named e.1 e.2)
  let invalid := (List.finRange 2048).filter (fun n => decide (regionMode (Table.read 0 table n) = 0))
  let new : List (Fin 2048 × Word64) := (invalid.zip want).map (fun e => (e.1, privateEntry id e.2.1 e.2.2))
  allDies.foldl (fun s d => if (s.die d).ringOn then new.foldl (fun s e => s.setRegion d e.1 e.2) s else s) s

/-- The two counters of a shared-weight stack that a dome is given: numbers 2d and 2d + 1 count its class only (R465). [log 181 DESIGN CHOICE] -/
def Chip.assignCounters (s : Chip) (id : DomeId) (t : StackId) : Chip :=
  let mark : Word32 := BitVec.ofNat 32 (0x2000 + id.val * 256)
  s.updStack t (fun x => { x with sels := Table.write (Table.write x.sels (clip 32 (2 * id.val)) mark) (clip 32 (2 * id.val + 1)) mark })

/-- The set-up of R289, and of the dome's counters on shared-weight stacks (R465). -/
def defineDome (id : DomeId) (b : BitVec 2048) (r : Reach) : Reach :=
  let home : DieId := ((descClusters b).head?.map (fun c => c.die)).getD 0
  let m0 : Dome := { desc := b, home := home }
  let s := m0.clusters.foldl (fun s c => s.ownCluster c (some id)) r.chip
  let s := allDies.foldl (fun s d => s.assignObjects id (.die d) (m0.dieObjects d)) s
  let s := m0.privateStacks.foldl (fun s t => s.assignObjects id (.stack t) 256) s
  let s := (descAllots b).foldl (fun s a => s.assignObjects id (.stack a.stack) a.objects) s
  let s := m0.harts.foldl (fun s h => s.ownHart h (some id)) s
  let s := s.setShare id (m0.u 0x40 1)
  let s := m0.sharedStacks.foldl (fun s t => s.assignCounters id t) s
  let s := s.mapRegions (fun e =>
    let l := regionStacks e
    if l = [] then e
    else if l.all (fun t => m0.privateStacks.contains t) then e ||| grantBits id true true
    else if l.any (fun t => m0.sharedStacks.contains t) then e ||| grantBits id true false
    else e)
  let s := s.createRegions id home m0.privateStacks
  -- the dome reads firmware's tables and does not write them (R300)
  let s := s.mapRegions (fun e => if decide (regionFrame e = tablesFrame) && m0.privateStacks.head?.any (fun t => (regionStacks e).contains t)
    then e &&& ~~~grantBits id false true else e)
  let queues := firstFree m0.queueCount ((List.range 1024).filter (fun q => (r.fw.queue q).isNone))
  let m : Dome := { m0 with queues := queues, stepObj := s.topObject id home 0, reportObj := s.topObject id home 1,
                            engines := (descAllots b).map (fun a => (a.stack, r.fw.placeAllot a)) }
  let fw := queues.foldl (fun fw q => { fw with queues := Table.write fw.queues q (some { dome := id, next := q }) }) r.fw
  { r with chip := s, fw := fw.setDome id (some m) }

/-- The bitmap of a dome's module queues: 128 bytes (R313). -/
def queueMap (m : Dome) : List Byte := leBytes 128 (m.queues.foldl (fun n q => n ||| 2 ^ q) 0)

/-- DOME_DEFINE. -/
def callDefine (c : Call) (r : Reach) : Reach × Answer :=
  let q := r.readAt 0 c.space (c.arg 8 8) 256
  match q.2 with
  | none => (q.1, refuse (if c.space.isSome then Code.hostAccess else Code.callMalformed))
  | some bs =>
    let b : BitVec 2048 := BitVec.ofNat 2048 (leNat bs)
    let id : DomeId := clip 16 (descF b 0 1)
    if descMalformed b q.1.fw.sharedSet then (q.1, refuse Code.domeMalformed)
    else if q.1.fw.conflict id b then (q.1, refuse Code.domeConflict)
    else if (q.1.fw.dome id).isSome then (q.1, refuse Code.domeBusy)
    else
      let done := defineDome id b q.1
      match done.fw.dome id with
      | none => (done, {})
      | some m =>
        let w := done.writeAt 0 c.space (c.arg 0x10 8) (queueMap m)
        (w.1, if w.2 then {} else refuse (if c.space.isSome then Code.hostAccess else Code.callMalformed))

/-! ## DOME_RELEASE, SHARED_SET (R290, R309) -/

/-- The dome a call names at an offset: it must exist, and the caller must be allowed it. -/
def namedDome (c : Call) (off n : Nat) (r : Reach) : Except FaultCode (DomeId × Dome) :=
  let v := c.arg off n
  if 16 ≤ v then .error Code.callMalformed else
  let id : DomeId := clip 16 v
  if r.chip.mayName c.caller id = false then .error Code.callDenied else
  match r.fw.dome id with
  | some m => .ok (id, m)
  | none => .error Code.callMalformed

/-- Sequences of a dome whose record is not written. -/
def Firmware.tracked (fw : Firmware) (id : DomeId) : List Sequence := fw.seqs.filter (fun q => q.dome = id)

/-- A dome's step runs or waits for its reports. -/
def Dome.busyStep (m : Dome) : Bool := m.step.isSome || m.reporting.isSome

/-- Disable every slot of a dome: its pending runs leave the queues (R211, R213). -/
def Chip.disableSlots (s : Chip) (id : DomeId) : Chip :=
  allStacks.foldl (fun s t =>
    (((s.stack t).slots.filter (fun e => e.2.en && decide (e.2.dome.toNat = id.val))).map (fun e => e.1)).foldl (fun s n => s.disableSlot t n) s) s

/-- The regions of some stacks become INVALID as R58 asks: the caches lose their lines, the entries change on every die, and a translate fence of every die completes. -/
def Chip.dropRegions (s : Chip) (ts : List StackId) : Chip :=
  if ts = [] then s else
  let s := allDies.foldl (fun s d => if (s.die d).ringOn then s.rangeOp d (fun l => ts.contains l.stack) true true else s) s
  let s := s.mapRegions (fun e => if (regionStacks e).any (fun t => ts.contains t) then 0 else e)
  allDies.foldl (fun s d => Chip.tfenceDone d (Chip.tfenceGo d s)) s

/-- What DOME_RELEASE undoes. [log 76 DEDUCED] -/
def releaseDome (id : DomeId) (m : Dome) (r : Reach) : Reach :=
  let s := r.chip.disableSlots id
  let s := m.clusters.foldl (fun s c => s.ownCluster c none) s
  let s := m.harts.foldl (fun s h => s.ownHart h none) s
  let gone (o : ObjId) : Bool := let x := s.obj o; x.assigned && decide (x.dome.toNat = id.val)
  let routes := r.fw.routes.filter (fun e => !gone e.1)
  let s := s.returnObjects id
  let s := (s.dropRegions m.privateStacks).mapRegions (fun e => e &&& ~~~grantBits id true true)
  let s := s.updTrace id (fun u => { u with sizeLog2 := 0, queue := [], held := [] })
  -- the dome's counters and selectors are cleared before its units are freed (R465)
  let s := m.clusters.foldl (fun s c =>
    (List.finRange 32).foldl (fun s i => s.updHead (.core (coreOf c i)) (fun h => { h with counters := [] }))
      ((s.updHead (.perf (.cluster c)) (fun h => { h with counters := [] })).updCluster c (fun x => { x with sels := [], coreSels := [] }))) s
  let s := m.privateStacks.foldl (fun s t => (s.updHead (.perf (.stack t)) (fun h => { h with counters := [] })).updStack t (fun x => { x with sels := [] })) s
  let s := m.sharedStacks.foldl (fun s t =>
    let mine (i : Nat) : Bool := let w := Table.read 0 (s.stack t).sels (clip 32 i); w.getLsbD 13 && decide ((field w 12 8).toNat = id.val)
    (s.updHead (.perf (.stack t)) (fun h => { h with counters := h.counters.filter (fun e => !mine e.1) })).updStack t
      (fun x => { x with sels := x.sels.filter (fun e => !mine e.1.val) })) s
  let fw := m.queues.foldl (fun fw q => { fw with queues := Table.write fw.queues q none }) r.fw
  { r with chip := s, fw := { fw.setDome id none with routes := routes, adapters := fw.adapters.filter (fun e => e.1.1 ≠ id) } }

/-- DOME_RELEASE. -/
def callRelease (c : Call) (r : Reach) : Reach × Answer :=
  match namedDome c 8 1 r with
  | .error e => (r, refuse e)
  | .ok (id, m) =>
    if m.busyStep ∨ r.fw.tracked id ≠ [] then (r, { code := Code.domeBusy, die := m.home, dome := BitVec.ofNat 8 id.val })
    else (releaseDome id m r, {})

/-- SHARED_SET. -/
def callShared (c : Call) (r : Reach) : Reach × Answer :=
  let set : Word32 := BitVec.ofNat 32 (c.arg 8 4)
  let moved := set ^^^ r.fw.sharedSet
  let named := r.fw.domes.any (fun e => match e.2 with
    | some m => (m.privateStacks ++ m.sharedStacks).any (fun t => moved.getLsbD t.val)
    | none => false)
  if named then (r, refuse Code.domeBusy) else ({ r with fw := { r.fw with sharedSet := set } }, {})

/-! ## The operating point (R38, R303, R444) -/

/-- Firmware selects Peak only while the power envelope allows it, and no point below the floor of a dome of the die. -/
def Reach.maySelect (r : Reach) (d : DieId) (p : BitVec 2) : Bool :=
  (decide (pointOf p ≠ 2) || r.chip.power.peakAllowed r.chip.power.inputAvg.toNat) &&
    r.fw.domes.all (fun e => match e.2 with
      | some m => !m.dies.contains d || decide (m.u 0x04 1 % 4 ≤ (pointOf p).toNat)
      | none => true)

/-- POINT_WRITE: firmware's selection; what it may not select it leaves as it is. [log 162 DEDUCED] -/
def pointSelect (d : DieId) (p : BitVec 2) (r : Reach) : Reach :=
  if r.chip.frozen ∨ r.maySelect d p = false then r else { r with chip := Chip.pointWrite d p r.chip }

/-! ## Meanings -/

def execPointWrite (d : DieId) (p : BitVec 2) : State → Outcome State Fault Refusal := onReach (pointSelect d p)
def execDomeDefine (c : Caller) : State → Outcome State Fault Refusal := onReach (runCall 0x0001 {} [(8, 8), (0x10, 8)] callDefine c)
def execDomeRelease (c : Caller) : State → Outcome State Fault Refusal := onReach (runCall 0x0002 {} [(8, 1)] callRelease c)
def execSharedSet (c : Caller) : State → Outcome State Fault Refusal := onReach (runCall 0x0004 {} [(8, 4)] callShared c)

end Sys2Proof.Machine
end

