-- ==== Sys2Proof/Machine/Plan.lean ====
section
/-! DEFINITION. Where firmware keeps what it writes into a dome's memory, which the spec leaves to it: the binding table and the rings (R300), the page slots of KV (R242, R243, R319), the request area, the batch and expert tables and the dome's own cells (R318 to R324, R327, R330). The places are one choice, that of log entry 163. -/

namespace Sys2Proof.Machine

open Host

/-! ## Local addresses of a stack's bytes -/

/-- The lowest PINNED region that names a frame of a stack. -/
def Chip.pinnedAt (s : Chip) (t : StackId) (f : Nat) : Option Nat :=
  ((List.finRange 2048).find? (fun n =>
    let e := Table.read 0 (s.die (stackDie t)).regions n
    decide (regionMode e = 1) && decide (regionStack e = t.val) && decide (regionFrame e = f))).map (fun n => n.val)

/-- The local address of a stack's byte through its PINNED region. -/
def Chip.localOf (s : Chip) (t : StackId) (a : Nat) : Option Nat := (s.pinnedAt t (a / 2 ^ 30)).map (fun r => r * 2 ^ 30 + a % 2 ^ 30)

/-- The base of what firmware writes for a dome: headers need one of the regions 0 to 255 (R246). -/
def Chip.tablesBase (s : Chip) (m : Dome) : Option Nat :=
  m.privateStacks.head?.bind (fun t => (s.localOf t (tablesFrame * 2 ^ 30)).bind (fun a => if a < 2 ^ 38 then some a else none))
/-- The base of what the dome's own agents write for firmware. -/
def Chip.cellsBase (s : Chip) (m : Dome) : Option Nat := m.privateStacks.head?.bind (fun t => s.localOf t (cellsFrame * 2 ^ 30))

/-! ## Offsets in the two frames -/

def batchOff : Nat := 0x10000000
def expertOff : Nat := 0x11000000
def requestsOff : Nat := 0x22000000
def cellsOff : Nat := 0x20000000
/-- The cell of a sequence index: its tree block (R327), its row report (R324) and its next input token. -/
def cellBytes : Nat := 2048
def reportOff : Nat := 0x400
def tokenOff : Nat := 0x440

/-! ## Page slots (R242, R243, R259, R319) -/

/-- How a private stack is divided into pages: bytes of a K entry and of a page, of the blocks that pages are laid in, pages per block, and pages per frame. -/
structure PageGrid where
  entry : Nat
  page : Nat
  block : Nat
  perBlock : Nat
  perFrame : Nat

/-- The grid of an image: a page of 64 KiB or more starts at a 64 KiB boundary, and a smaller one lies in one 64 KiB block. -/
def gridOf (image : BitVec 384) : PageGrid :=
  let entry := Nat.max 8 (roundUp (Config.kvHeadDim image * (elemBits (Config.kvFormat image) / 8)) 8)
  let page := 512 * entry
  let block := if page ≤ 65536 then 65536 else roundUp page 65536
  let per := if page ≤ 65536 then 65536 / page else 1
  ⟨entry, page, block, per, 2 ^ 30 / block * per⟩

/-- The stack address of page slot n. -/
def PageGrid.slotAt (g : PageGrid) (n : Nat) : Nat :=
  let m := n % g.perFrame
  n / g.perFrame * 2 ^ 30 + m / g.perBlock * g.block + m % g.perBlock * g.page

/-- The page number of page slot n of a stack (R243). -/
def PageGrid.pageNo (g : PageGrid) (t : StackId) (n : Nat) : Nat := t.val * 2 ^ 27 + g.slotAt n / 4096

/-- Bytes of a slot's argument ring, and of its completion ring behind it, at their greatest depth (R210). -/
def ringBytes : Nat := 16384

/-- Where the rings of a private stack begin: behind its private area; and where its pages may begin: behind the rings of n binding entries. -/
def ringsAt (area : Nat) : Nat := roundUp area 65536
def pagesAt (area bindings : Nat) : Nat := ringsAt area + 2 * ringBytes * bindings

/-- The frames of private stack j that pages may use: firmware keeps two of the first one's. -/
def pageFrames (j : Nat) : Nat := if j = 0 then cellsFrame else 64

/-- The first page slot of private stack j, and the end of its slots. -/
def PageGrid.slots (g : PageGrid) (area bindings j : Nat) : Nat × Nat :=
  let k := pagesAt area bindings
  (k / 2 ^ 30 * g.perFrame + Nat.min g.perFrame (roundUp (k % 2 ^ 30) g.block / g.block * g.perBlock), pageFrames j * g.perFrame)

/-- The space of adapter versions that a dome holds: private stack, address and bytes. -/
def Firmware.adapterSpace (fw : Firmware) (id : DomeId) : List (Nat × Nat × Nat) :=
  (fw.adapters.filter (fun e => e.1.1 = id)).flatMap (fun e => e.2.versions.map (fun v => v.place))

/-- Whether page slot n of private stack j meets the space of an adapter version. -/
def PageGrid.inAdapters (g : PageGrid) (space : List (Nat × Nat × Nat)) (j n : Nat) : Bool :=
  space.any (fun p => decide (p.1 = j) && decide (g.slotAt n < p.2.1 + p.2.2) && decide (p.2.1 < g.slotAt n + g.page))

/-- Page slots of private stack j that the space of one version, which lies in one frame, takes from a range. -/
def PageGrid.lostTo (g : PageGrid) (r : Nat × Nat) (j : Nat) (p : Nat × Nat × Nat) : Nat :=
  if p.1 ≠ j then 0 else
  let f := p.2.1 / 2 ^ 30 * g.perFrame
  let low := f + p.2.1 % 2 ^ 30 / g.block * g.perBlock
  let high := f + Nat.min g.perFrame (roundUp (p.2.1 % 2 ^ 30 + p.2.2) g.block / g.block * g.perBlock)
  Nat.min high r.2 - Nat.max low r.1

/-- Pages that private stack j has for KV beside the dome's adapters. -/
def Firmware.pageRoom (fw : Firmware) (id : DomeId) (g : PageGrid) (area bindings j : Nat) : Nat :=
  let r := g.slots area bindings j
  r.2 - r.1 - sumNat ((fw.adapterSpace id).map (g.lostTo r j))

/-- The lowest n page slots from one on that are free. -/
def takeSlots (free : Nat → Bool) : Nat → Nat → Nat → List Nat
  | 0, _, _ => []
  | _ + 1, 0, _ => []
  | fuel + 1, n + 1, k => if free k then k :: takeSlots free fuel n (k + 1) else takeSlots free fuel (n + 1) (k + 1)

/-- The lowest free page slots of private stack j for a number of pages. -/
def Firmware.pick (fw : Firmware) (id : DomeId) (i : Image) (j n : Nat) : List Nat :=
  let g := gridOf i.digest
  let r := g.slots (i.area.getD j 0) i.table.length j
  let used := (fw.tracked id).flatMap (fun q => (q.slots.filter (fun e => e.1 = j)).map (fun e => e.2))
  let space := fw.adapterSpace id
  takeSlots (fun k => !used.contains k && !g.inAdapters space j k) (r.2 - r.1) n r.1

/-! ## The request area (R318, R320, R322) -/

/-- Offsets in a request's block: the entry at 0, the prompt, the length word, the headers and the arrays of its lists, and the block's length. -/
def promptOff : Nat := 64
def lengthOff (prompt : Nat) : Nat := roundUp (promptOff + 4 * prompt) 64
def headerOff (prompt j : Nat) : Nat := lengthOff prompt + 64 + 64 * j
def arrayOff (prompt lists per j : Nat) : Nat := headerOff prompt lists + roundUp (4 * per) 64 * j
def requestBytes (prompt lists per : Nat) : Nat := arrayOff prompt lists per lists

/-- The lowest place of a block beside others: at the area's start or behind one of them. -/
def placeBlock (used : List (Nat × Nat)) (n : Nat) : Option Nat :=
  let clear (a : Nat) : Bool := decide (a + n ≤ 2 ^ 30) && used.all (fun u => decide (a + n ≤ u.1) || decide (u.1 + u.2 ≤ a))
  ((requestsOff :: used.map (fun u => u.1 + u.2)).filter clear).foldl (fun (b : Option Nat) a => match b with
    | some x => some (Nat.min x a)
    | none => some a) none

/-- The blocks of a dome's tracked requests. -/
def Firmware.blocks (fw : Firmware) (id : DomeId) : List (Nat × Nat) := (fw.tracked id).map (fun q => (q.block, q.blockLen))

/-- Write at an address that a dome's memory may not have: nothing is written then. -/
def Reach.put (r : Reach) (home : DieId) (a : Option Nat) (bs : List Byte) : Reach :=
  match a with
  | some a => (r.writeAt home none a bs).1
  | none => r

/-- The length word of a sequence (R320). -/
def Reach.setLength (r : Reach) (m : Dome) (q : Sequence) (n : Nat) : Reach :=
  r.put m.home ((r.chip.tablesBase m).map (fun a => a + q.block + lengthOff q.promptLen)) (leBytes 4 n)

/-- The header of a list (R246). -/
def headerBytes (list length entries : Nat) : List Byte := leBytes 8 list ++ leBytes 8 length ++ leBytes 4 entries ++ leBytes 4 1 ++ leBytes 40 0

/-- What firmware writes for an admitted request: the copy of its entry and prompt, a length of 0, the headers and every entry of its lists (R318 to R320). The look-aside buffers lose the handles first (R225). -/
def Reach.writeRequest (r : Reach) (m : Dome) (i : Image) (q : Sequence) (entry prompt : List Byte) : Reach :=
  match r.chip.tablesBase m with
  | none => r
  | some base =>
    let a := base + q.block
    let per := q.slots.length / q.lists
    let g := gridOf i.digest
    let h0 := q.handle0
    let mine (h : Word32) : Bool := decide (h0 ≤ h.toNat) && decide (h.toNat < h0 + q.lists)
    let r := { r with chip := m.privateStacks.foldl (fun s t => Chip.labInval t mine s) r.chip }
    let r := r.put m.home (some a) (entry ++ prompt)
    let r := r.put m.home (some (a + lengthOff q.promptLen)) (leBytes 4 0)
    (List.range q.lists).foldl (fun (r : Reach) j =>
      let list := a + arrayOff q.promptLen q.lists per j
      let pages := (q.slots.drop (per * j)).take per
      let words := pages.flatMap (fun e => leBytes 4 (((m.privateStacks[e.1]?).map (fun t => g.pageNo t e.2)).getD 0xFFFFFFFF))
      let r := r.put m.home (some list) words
      r.put m.home (some (a + headerOff q.promptLen j)) (headerBytes list (a + lengthOff q.promptLen) per)) r

/-! ## Cells -/

/-- The cell of a sequence index. -/
def Chip.cellOf (s : Chip) (m : Dome) (index : Nat) : Option Nat := (s.cellsBase m).map (fun a => a + cellsOff + cellBytes * index)

/-- Read some bytes at an address that a dome's memory may not have. -/
def Reach.get (r : Reach) (home : DieId) (a : Option Nat) (n : Nat) : Reach × Option (List Byte) :=
  match a with
  | some a => r.readAt home none a n
  | none => (r, none)

end Sys2Proof.Machine
end

