-- ==== Sys2Proof/Machine/Admission.lean ====
section
/-! DEFINITION. The load-time checker that follows a program's beats (R130, R143, R175, R301, R302): each kind of step is followed from its entry on a machine of its own, up to its beat bound or to the first place that depends on what a step brings with it. -/

namespace Sys2Proof.Machine

open Host

/-- What the checker finds: the locator of the first static operand beyond SCRATCH_TOP, of the first crowded porthole beat and of the first overfull tile queue, and whether it could follow every path. -/
structure Findings where
  scratch : Option Word64 := none
  porthole : Option Word64 := none
  tiles : Option Word64 := none
  whole : Bool := true

/-- What the checker does not know of a step: scalar registers, loop counts, fields of address registers, and BMASK, as far as they come from step arguments. And the DE commands whose completion no `wait` has observed, by core and object. -/
structure Blur where
  regs : List (Fin 32)
  lc : List (Fin 4) := []
  ads : List ((Fin 3 × Fin 8) × Nat) := []
  mask : Bool := false
  open_ : List (Fin 32 × Option (Fin 4096)) := []

/-- The locator of a finding (R302). -/
def coreLocator (c : ClusterId) (core : Fin 32) (pc detail : Nat) : Word64 :=
  BitVec.ofNat 64 (c.die.val * 2 ^ 61 + c.idx.val * 2 ^ 57 + core.val * 2 ^ 52 + pc * 2 ^ 37 + detail % 2 ^ 32)

/-- A register's value is known or not from now on. -/
def Blur.set (b : Blur) (r : Fin 32) (unknown : Bool) : Blur :=
  { b with regs := if unknown then r :: b.regs else b.regs.filter (fun x => x ≠ r) }
def Blur.s (b : Blur) (r : Fin 32) : Bool := b.regs.contains r

/-- Whether an operand's address register is unknown. -/
def Blur.sel (b : Blur) (k : Fin 3 × Fin 8) : Bool := b.ads.any (fun e => e.1 = k)

/-- What is unknown after the instruction at PC (R99); none where the path itself depends on what is unknown: a branch, a loop's count, or the object that a `wait` observes. -/
def Blur.after (b : Blur) (x : Cluster) (w : Word64) (p : BitVec 128) : Option Blur :=
  let op := opcOf w
  let n : Fin 4 := clip 4 (fnOf w)
  if 0x10 ≤ op ∧ op ≤ 0x1F then some (b.set (rdOf w) (b.s (rs1Of w) || b.s (rs2Of w)))
  else if op = 0x20 ∨ (0x22 ≤ op ∧ op ≤ 0x27) then some (b.set (rdOf w) (b.s (rs1Of w)))
  else if op = 0x28 ∨ op = 0x43 ∨ op = 0x46 then some (b.set (rdOf w) false)
  else if 0x30 ≤ op ∧ op ≤ 0x35 then (if b.s (rs1Of w) || b.s (rs2Of w) then none else some b)
  else if op = 0x40 then some { b with lc := if b.s (rs1Of w) then n :: b.lc else b.lc.filter (fun i => i ≠ n) }
  else if op = 0x41 then (if b.lc.contains n then none else some b)
  else if op = 0x42 then some (b.set (rdOf w) (b.lc.contains n))
  else if op = 0x44 then some { b with mask := b.s (rs1Of w) }
  else if op = 0x45 then some (b.set (rdOf w) b.mask)
  else if op = 0x48 then
    let rest := b.ads.filter (fun e => e ≠ (adName w, adField w))
    some { b with ads := if b.s (rs1Of w) then (adName w, adField w) :: rest else rest }
  else if op = 0x49 then some (b.set (rdOf w) (b.sel (adName w)))
  else if op = 0x50 then
    (if b.s (rs1Of w) then none else
     let o := (x.s (rs1Of w) + immZ w).toNat
     some { b with open_ := b.open_.filter (fun e => !(e.2.any (fun i => i.val = o))) })
  else if op = 0x60 ∧ pkEngine p = .de then
    let cores := selectedCores x (fnOf w % 2 = 1)
    let obj : Option (Fin 4096) := if pkSigEn p then some (pkSigObj p) else none
    some { b with open_ := b.open_ ++ cores.map (fun i => (i, obj)) }
  else some b

/-- The highest byte, plus 1, of what a packet names with known addresses: operands, a descriptor, a staging area, an index vector (R302). -/
def staticTop (b : Blur) (x : Cluster) (p : BitVec 128) : Nat :=
  let known (slot : Nat) : Bool := (usedSels p).any (fun e => e.1 = slot && !b.sel (engineSet (pkEngine p), e.2.reg))
  let low (slot : Nat) : Nat := (x.slotAddr p slot).toNat
  let direct : List Nat := match pkEngine p with
    | .de => (if known 0 then [low 0 + 64] else []) ++ (if pkOpcode p = 4 ∧ known 1 then [low 1 + 2048 * elemBits (pkFmtD p) / 8] else [])
    | .tq => []
    | _ => [0, 1, 2].flatMap (fun slot => if known slot then
        -- an operand's bytes: the difference it makes to put its address at 0
        ((operands p (if slot = 0 then low 0 else 0) (if slot = 1 then low 1 else 0) (if slot = 2 then low 2 else 0)).filter (fun o => o.1 ≠ 0)).map (fun o => o.1 + o.2.1)
      else [])
  let index : List Nat := if pkAgm p ∧ known 3 ∧ pkEngine p ≠ .de then [low 3 + gatherRows p * pkXw p] else []
  (direct ++ index).foldl Nat.max 0

/-- A program's words on the checker's machine: what reaches outside the cluster is a NOP of one beat, and no packet signals. -/
def quiet (word : Nat → Word64) (n : Nat) : Word64 :=
  let w := word n
  if isPacketWord word n then
    -- the upper word of a packet holds SIG_EN, bit 116 of 128
    (if 2 ≤ n ∧ opcOf (word (n - 2)) = 0x60 ∧ isPacketWord word (n - 1) then w &&& ~~~(BitVec.ofNat 64 (2 ^ 52)) else w)
  else if opcOf w = 0x50 ∨ opcOf w = 0x51 ∨ opcOf w = 0x02 then 0 else w

/-- The checker's machine before a step of a kind: the program, the constants that are known, every other argument 0. -/
def followStart (c : ClusterId) (phase : BitVec 3) (words : List Word64) (entry : BitVec 15) (args : Table (Fin 15) Word64) : Chip :=
  let word (n : Nat) : Word64 := words.getD n 0
  let s : Chip := { dies := [(c.die, { coreOn := true })], pstore := words.mapIdx (fun i _ => ((c, clip 32768 i), quiet word i)),
                    clusters := [(c, { assigned := true, phPhase := phase, entry := entry, args := args })] }
  Chip.stepGo c 0 s

/-- The first core whose engines make more than five accesses in a porthole beat, a DE command counting from its first beat until its `wait` (R62, R130, R175). -/
def crowdedCore (s : Chip) (c : ClusterId) (b : Blur) : Option (Fin 32) :=
  let x := s.cluster c
  if x.beat.toNat % 8 ≠ x.phPhase.toNat then none else
  let s := s.startQueues c
  (List.finRange 32).find? (fun i =>
    let k := s.core (coreOf c i)
    decide (5 < k.meAccesses + k.veAccesses + (if b.open_.any (fun e => e.1 = i) then 1 else 0)))

/-- The DE commands of a cluster leave the checker's machine: their beats depend on traffic outside (R175). -/
def dropDe (s : Chip) (c : ClusterId) : Chip :=
  (List.finRange 32).foldl (fun s i => s.updCore (coreOf c i) (fun k => { k with de := { running := none, waiting := [] } })) s

/-- Follow a step for up to n beats. -/
def followBeats (c : ClusterId) (word : Nat → Word64) (top : Nat) : Nat → Chip → Blur → Findings → Findings
  | 0, _, _, f => f
  | n + 1, s, b, f =>
    let x := s.cluster c
    if s.stepping c = false then f else
    let at_ (d : Nat) (i : Fin 32) : Word64 := coreLocator c i x.pc d
    let acts := x.mayExecute
    let w := word x.pc
    let p : BitVec 128 := word (x.pc + 2) ++ word (x.pc + 1)
    let reach := if acts ∧ opcOf w = 0x60 then staticTop b x p else 0
    let f := if f.scratch.isNone ∧ top < reach then { f with scratch := some (at_ (reach - 1) 0) } else f
    let f := match (if f.porthole.isNone then crowdedCore s c b else none) with
      | some i => { f with porthole := some (at_ x.beat.toNat i) }
      | none => f
    match (if acts then b.after x w p else some b) with
    | none => { f with whole := false }
    | some b =>
      let s := if b.mask then s.updCluster c (fun y => { y with bmask := 0xFFFFFFFF }) else s
      let s := dropDe (Chip.beatBody c s) c
      let f := match (if f.tiles.isNone then (List.finRange 32).find? (fun i => (s.head (.core (coreOf c i))).errStatus.getLsbD 0) else none) with
        | some i => { f with tiles := some (at_ x.beat.toNat i) }
        | none => f
      followBeats c word top n s b f

/-- Keep the first of each finding. -/
def Findings.join (a b : Findings) : Findings :=
  { scratch := a.scratch.or b.scratch, porthole := a.porthole.or b.porthole, tiles := a.tiles.or b.tiles, whole := a.whole && b.whole }

/-- Follow every kind of step of one cluster's program, each up to its bound in beats (R299, R303). [log 80 DESIGN CHOICE] -/
def followProgram (c : ClusterId) (p : BitVec 3 × List (BitVec 15) × List Word64) (kinds : List StepKind) (top : Nat) : Findings :=
  (kinds.zip p.2.1).foldl (fun f e =>
    let consts : List (Fin 15 × (Word32 × Word64)) := e.1.consts.mapIdx (fun j k => (clip 15 (9 + j), k))
    let args : Table (Fin 15) Word64 := consts.filterMap (fun k => if k.2.1 = 0 then some (k.1, k.2.2) else none)
    let unknown : List (Fin 32) := (List.finRange 15).filterMap (fun i =>
      if consts.any (fun k => k.1 = i && k.2.1 = 0) then none else some (clip 32 (i.val + 1)))
    f.join (followBeats c (fun n => p.2.2.getD n 0) top e.1.bound.toNat (followStart c p.1 p.2.2 e.2 args) { regs := unknown } {})) {}

end Sys2Proof.Machine
end

