-- ==== Sys2Proof/Machine/Images.lean ====
section
/-! DEFINITION. Program images (R293 to R302): layout, admission, what IMAGE_LOAD writes, and the Ephemeris table's admission (R303 to R305). -/

namespace Sys2Proof.Machine

open Host

/-! ## Layout (R294 to R300) -/

/-- Whether a range of an image's bytes is all 0. -/
def zeros (img : List Byte) (off n : Nat) : Bool := ((img.drop off).take n).all (fun b => b = 0)

/-- The check that n bytes from an offset are 0, with the byte at fault; they lie `base` bytes into the image (R295). -/
def zeroCheck (b : List Byte) (base off n : Nat) : Bool × Nat :=
  match (List.range n).find? (fun i => b.getD (off + i) 0 ≠ 0) with
  | some i => (true, base + off + i)
  | none => (false, base + off)

/-- A section. -/
structure Section where
  kind : Nat
  index : Nat
  len : Nat
  off : Nat

def imageSections (img : List Byte) : List Section :=
  (List.range (bytesAt img 6 2)).map (fun i =>
    let o := 0x80 + 16 * i
    ⟨bytesAt img o 2, bytesAt img (o + 2) 2, bytesAt img (o + 4) 4, bytesAt img (o + 8) 8⟩)

/-- The bytes of the section of a kind and index. -/
def sectionOf (img : List Byte) (kind index : Nat) : Option (List Byte) :=
  ((imageSections img).find? (fun x => x.kind = kind ∧ x.index = index)).map (fun x => (img.drop x.off).take x.len)

/-- The offset of a section, for a locator's detail. -/
def sectionOff (img : List Byte) (kind index : Nat) : Nat :=
  (((imageSections img).find? (fun x => x.kind = kind ∧ x.index = index)).map (fun x => x.off)).getD 0

/-- The first of some checks that fails. -/
def firstBad : List (Bool × Nat) → Option Nat
  | [] => none
  | (true, d) :: _ => some d
  | (false, _) :: t => firstBad t

/-- The dome an image is checked against. -/
structure Target where
  id : DomeId
  m : Dome
  /-- Objects of the dome by die and by dome stack. -/
  dieObjs : List Nat
  stackObjs : List Nat

def targetOf (r : Reach) (id : DomeId) (m : Dome) : Target :=
  ⟨id, m, m.dies.map (fun d => (r.chip.objectsOf id (.die d)).length), m.stackList.map (fun t => (r.chip.objectsOf id (.stack t)).length)⟩

/-- The digest an image states, and the bytes it covers (R294). -/
def imageDigest (img : List Byte) : BitVec 384 := BitVec.ofNat 384 (bytesAt img 0x20 48)
def digestMeets (img : List Byte) : Bool := Config.sha384 (img.take 0x20 ++ img.drop 0x50) = imageDigest img

def kindsCount (img : List Byte) : Nat := match sectionOf img 4 0 with
  | some b => bytesAt b 0 4
  | none => 0

/-- Header and section table. -/
def headerChecks (img : List Byte) (clusters : Nat) : List (Bool × Nat) :=
  let n := bytesAt img 6 2
  let l := imageSections img
  let count (k : Nat) : Nat := (l.filter (fun x => x.kind = k)).length
  let table := 0x80 + 16 * n
  [(img.length < 0x80 || bytesAt img 0 4 ≠ 0x4C5A4831, 0), (bytesAt img 4 2 ≠ 1, 4), (n = 0 || decide (1024 < n), 6),
   (bytesAt img 8 4 = 0 || decide (128 < bytesAt img 8 4) || bytesAt img 8 4 ≠ clusters, 8), zeroCheck img 0 0xC 4,
   (bytesAt img 0x10 8 ≠ img.length || decide (2 ^ 30 < img.length), 0x10), zeroCheck img 0 0x50 48, (!digestMeets img, 0x20)] ++
  (l.mapIdx (fun i x =>
    let o := 0x80 + 16 * i
    [(x.kind = 0 || decide (8 < x.kind) || (l.take i).any (fun y => y.kind = x.kind && y.index = x.index), o),
     (decide (3 ≤ x.kind) && x.index ≠ 0, o + 2), (decide (img.length < x.off + x.len), o + 4),
     (x.off % 64 ≠ 0 || decide (x.off < table) || (l.take i).any (fun y => decide (x.off < y.off + y.len) && decide (y.off < x.off + x.len)), o + 8)])).flatten ++
  [(count 1 ≠ bytesAt img 8 4 || (List.range (bytesAt img 8 4)).any (fun k => (sectionOf img 1 k).isNone), 0x80),
   (decide (256 < count 2) || (List.range (count 2)).any (fun k => (sectionOf img 2 k).isNone), 0x80),
   (count 3 ≠ 1 || count 4 ≠ 1, 0x80)] ++
  -- every byte outside the header, the table and the sections is 0
  (match (List.range img.length).find? (fun o => decide (table ≤ o) && img.getD o 0 ≠ 0 && !(l.any (fun x => decide (x.off ≤ o) && decide (o < x.off + x.len)))) with
   | some o => [(true, o)]
   | none => [])

/-- PROGRAM sections (R296). -/
def programChecks (img : List Byte) : List (Bool × Nat) :=
  (List.range (bytesAt img 8 4)).flatMap (fun k => match sectionOf img 1 k with
    | none => [(true, 0x80)]
    | some b =>
      let at_ := sectionOff img 1 k
      let words := bytesAt b 0 4
      let kinds := bytesAt b 5 1
      let code := roundUp (0x10 + 2 * kinds) 64
      [(words = 0 || decide (32768 < words) || b.length ≠ code + 8 * words, at_), (decide (7 < bytesAt b 4 1), at_ + 4), (kinds ≠ kindsCount img, at_ + 5),
       zeroCheck b at_ 6 10] ++
      (List.range kinds).map (fun j => (decide (words ≤ bytesAt b (0x10 + 2 * j) 2), at_ + 0x10 + 2 * j)) ++
      [zeroCheck b at_ (0x10 + 2 * kinds) (code - (0x10 + 2 * kinds))])

def microCount (img : List Byte) : Nat := ((imageSections img).filter (fun x => x.kind = 2)).length

/-- MICROPROGRAM sections (R297). -/
def microChecks (img : List Byte) (x : Target) : List (Bool × Nat) :=
  (List.range (microCount img)).flatMap (fun k => match sectionOf img 2 k with
    | none => [(true, 0x80)]
    | some b =>
      let at_ := sectionOff img 2 k
      let words := bytesAt b 0 2
      [(words = 0 || decide (4096 < words) || b.length ≠ 0x40 + 16 * words, at_), zeroCheck b at_ 2 2,
       (decide (2 ^ x.m.stackList.length ≤ bytesAt b 4 4), at_ + 4), zeroCheck b at_ 8 56])

/-- DECLARE (R298). -/
def declareChecks (img : List Byte) (x : Target) : List (Bool × Nat) :=
  match sectionOf img 3 0 with
  | none => [(true, 0x80)]
  | some b =>
    let at_ := sectionOff img 3 0
    let n := bytesAt b 4 2
    let priv := x.m.privateStacks.length
    let all := x.m.stackList.length
    let beyond (first size off : Nat) (count : Nat) : List (Bool × Nat) := ((List.range count).filter (fun i => decide (first ≤ i))).map (fun i => zeroCheck b at_ (off + size * i) size)
    [(decide (4095 < n) || b.length ≠ 0x218 + 2 * n, at_ + 4), zeroCheck b at_ 6 2] ++
    beyond x.m.dies.length 2 8 8 ++ beyond all 4 0x18 32 ++ beyond priv 8 0x98 32 ++ beyond priv 4 0x198 32 ++
    (List.range n).map (fun i => (decide (0x1000 ≤ bytesAt b (0x218 + 2 * i) 2), at_ + 0x218 + 2 * i))

/-- A field of DECLARE. -/
def declareU (img : List Byte) (off n : Nat) : Nat := ((sectionOf img 3 0).map (fun b => bytesAt b off n)).getD 0

/-- A step kind (R299). -/
def kindOf (b : List Byte) (k : Nat) : StepKind :=
  let o := 16 + 128 * k
  ⟨BitVec.ofNat 64 (bytesAt b o 8), BitVec.ofNat 32 (bytesAt b (o + 8) 4), BitVec.ofNat 32 (bytesAt b (o + 0xC) 4),
   (List.range 6).map (fun i => (BitVec.ofNat 32 (bytesAt b (o + 0x20 + 16 * i) 4), BitVec.ofNat 64 (bytesAt b (o + 0x28 + 16 * i) 8)))⟩

/-- KINDS (R299): a PLACEMENT bit names a dome stack that is private or allotted to the dome. -/
def kindChecks (img : List Byte) (x : Target) : List (Bool × Nat) :=
  match sectionOf img 4 0 with
  | none => [(true, 0x80)]
  | some b =>
    let at_ := sectionOff img 4 0
    let n := bytesAt b 0 4
    [(n = 0 || decide (64 < n) || b.length ≠ 16 + 128 * n, at_), zeroCheck b at_ 4 12] ++
    (List.range n).flatMap (fun k =>
      let o := 16 + 128 * k
      [zeroCheck b at_ (o + 0x10) 16] ++
      (List.range 6).flatMap (fun i =>
        let c := o + 0x20 + 16 * i
        [(decide (1 < bytesAt b c 4), at_ + c), zeroCheck b at_ (c + 4) 4, if bytesAt b c 4 = 1 then zeroCheck b at_ (c + 8) 8 else (false, 0)]) ++
      (List.range 32).map (fun j =>
        let bad : Bool := match x.m.stackList[j]? with
          | none => true
          | some t => !(x.m.privateStacks.contains t) && (x.m.allot t).isNone
        ((bytesAt b (o + 0xC) 4).testBit j && bad, ((x.m.stackList[j]?).map (fun t => t.val)).getD j)))

/-- COUNTERS (R300). -/
def counterSize (kinds : Nat) : Nat := roundUp (16 + 4 * kinds) 16
def counterChecks (img : List Byte) (x : Target) : List (Bool × Nat) :=
  match sectionOf img 5 0 with
  | none => []
  | some b =>
    let at_ := sectionOff img 5 0
    let n := bytesAt b 0 4
    let sz := counterSize (kindsCount img)
    [(decide (16 < n) || b.length ≠ 16 + sz * n, at_), zeroCheck b at_ 4 12] ++
    (List.range n).flatMap (fun i =>
      let o := 16 + sz * i
      [(decide (x.m.dies.length ≤ bytesAt b o 1), at_ + o), zeroCheck b at_ (o + 1) 1,
       (decide (x.dieObjs.getD (bytesAt b o 1) 0 ≤ bytesAt b (o + 2) 2), at_ + o + 2), zeroCheck b at_ (o + 4) 12,
       zeroCheck b at_ (o + 16 + 4 * kindsCount img) (sz - 16 - 4 * kindsCount img)])

/-- A binding entry (R300). -/
structure Binding where
  kind : Nat
  a : Nat
  b : Nat
  c : Nat
def bindingsOf (img : List Byte) : List Binding :=
  match sectionOf img 6 0 with
  | none => []
  | some s => (List.range (s.length / 16)).map (fun i => ⟨bytesAt s (16 * i) 2, bytesAt s (16 * i + 2) 2, bytesAt s (16 * i + 4) 4, bytesAt s (16 * i + 8) 8⟩)

def bindingBad (img : List Byte) (x : Target) (l : List Binding) (e : Binding) : Bool :=
  let isKind (i : Nat) (p : Nat → Bool) : Bool := ((l[i]?).map (fun y => p y.kind)).getD false
  match e.kind with
  | 0 => e.a ≠ 0 || e.b ≠ 0 || e.c ≠ 0
  | 1 => decide (8 ≤ e.a) || decide (declareU img (8 + 2 * e.a) 2 ≤ e.b) || e.c ≠ 0
  | 2 => decide (32 ≤ e.a) || decide (declareU img (0x18 + 4 * e.a) 2 ≤ e.b) || e.c ≠ 0
  | 3 =>
    let prog := e.b % 2 ^ 16
    let engines := e.c % 64 + 1
    let held := match x.m.stackList[e.a]? with
      | some t => ((List.range 32).filter (fun i => (x.m.engineMask t).getLsbD i)).length
      | none => 0
    (x.m.stackList[e.a]?).isNone || decide (microCount img ≤ prog) ||
      !(((sectionOf img 2 prog).map (fun b => (bytesAt b 4 4).testBit e.a)).getD false) ||
      decide (held < engines) || decide (128 < e.c / 2 ^ 6 % 256) || decide (8 < e.c / 2 ^ 14 % 16) || decide (8 < e.c / 2 ^ 18 % 16) ||
      decide (4 < e.c / 2 ^ 22 % 8) || e.c / 2 ^ 25 % 128 ≠ 0 || !isKind (e.c / 2 ^ 32 % 2 ^ 16) (fun k => k = 1 || k = 2) || e.c / 2 ^ 48 ≠ 0
  | 4 => !isKind e.a (fun k => k = 3) || e.b ≠ 0 || e.c ≠ 0
  | 5 => !isKind e.a (fun k => k = 3) || e.b ≠ 0 || e.c ≠ 0
  | 6 =>
    decide (x.m.privateStacks.length ≤ e.a) || e.b ≠ 0 || decide (declareU img (0x98 + 8 * e.a) 8 ≤ e.c)
  | _ => true

def bindingChecks (img : List Byte) (x : Target) : List (Bool × Nat) :=
  let at_ := sectionOff img 6 0
  let l := bindingsOf img
  [((((sectionOf img 6 0).map (fun s => s.length)).getD 0) % 16 != 0, at_)] ++ l.mapIdx (fun i e => (bindingBad img x l e, at_ + 16 * i))

/-- TAGS (R300): only the layout is checked. -/
def tagChecks (img : List Byte) : List (Bool × Nat) :=
  match sectionOf img 7 0 with
  | none => []
  | some b =>
    let names := ((sectionOf img 8 0).map (fun s => s.length)).getD 0
    let at_ := sectionOff img 7 0
    (b.length % 16 ≠ 0, at_) ::
    (List.range (b.length / 16)).flatMap (fun i =>
      let o := 16 * i
      [(decide (2 < bytesAt b (o + 2) 1), at_ + o + 2), zeroCheck b at_ (o + 3) 1,
       (decide (names ≤ bytesAt b (o + 8) 4 ∧ names ≠ 0), at_ + o + 8), zeroCheck b at_ (o + 12) 4])

/-- IMAGE_MISMATCH, with its detail. -/
def imageMismatch (img : List Byte) (x : Target) : Option Nat :=
  match firstBad (headerChecks img x.m.clusters.length) with
  | some d => some d
  | none => firstBad (declareChecks img x ++ kindChecks img x ++ programChecks img ++ microChecks img x ++ counterChecks img x ++ bindingChecks img x ++ tagChecks img)

/-! ## The other checks (R302) -/

/-- A program's words. -/
def programOf (img : List Byte) (k : Nat) : BitVec 3 × List (BitVec 15) × List Word64 :=
  let b := (sectionOf img 1 k).getD []
  let kinds := bytesAt b 5 1
  let code := roundUp (0x10 + 2 * kinds) 64
  (BitVec.ofNat 3 (bytesAt b 4 1), (List.range kinds).map (fun j => BitVec.ofNat 15 (bytesAt b (0x10 + 2 * j) 2)),
   (List.range (bytesAt b 0 4)).map (fun i => BitVec.ofNat 64 (bytesAt b (code + 8 * i) 8)))

/-- The locator of a check that names a cluster and a word (R302). -/
def locator (c : ClusterId) (pc detail : Nat) : Word64 :=
  BitVec.ofNat 64 (c.die.val * 2 ^ 61 + c.idx.val * 2 ^ 57 + pc * 2 ^ 37 + detail % 2 ^ 32)

/-- The format faults that a packet's own fields reveal: those of class 0x5 at issue, and those that the data engine meets at validation whatever its descriptor holds (R106, R169, R172, R302). -/
def packetFormats (p : BitVec 128) : List FaultCode :=
  (packetChecks p).filter (fun (c : FaultCode) => decide (c >>> 12 = 5)) ++
  (if pkEngine p = .de then
     let fa := pkFmtA p
     let fd := pkFmtD p
     whenC (!fmtValid fa || !fmtValid fd) Code.fmtInvalid ++ whenC (!dePair fa fd false && !dePair fa fd true) Code.formatPair ++
     whenC (pkOpcode p = 4 && isScaled fa) Code.plateTranspose
   else [])

/-- The format fault of the first packet of a program that has one, from word n on; `skip` words belong to a packet already read. -/
def packetFault : List Word64 → Nat → Nat → Option (Nat × FaultCode)
  | [], _, _ => none
  | w :: t, n, skip =>
    if 0 < skip then packetFault t (n + 1) (skip - 1)
    else if opcOf w = 0x60 then
      match t with
      | lo :: hi :: _ =>
        (match lowest (packetFormats (hi ++ lo)) with
         | some c => some (n, c)
         | none => packetFault t (n + 1) 2)
      | _ => none
    else packetFault t (n + 1) 0

/-- FORMAT_UNSUPPORTED. An image carries no descriptor of its own: what a descriptor adds is judged at run time (R179). -/
def formatFault (img : List Byte) (clusters : List ClusterId) : Option Word64 :=
  (clusters.mapIdx (fun k c => (packetFault (programOf img k).2.2 0 0).map (fun e => locator c e.1 e.2.toNat))).findSome? (fun x => x)

/-- What the checker finds in an image's programs. -/
def imageFindings (img : List Byte) (clusters : List ClusterId) : Findings :=
  let kinds := (List.range (kindsCount img)).map (kindOf ((sectionOf img 4 0).getD []))
  (clusters.mapIdx (fun k c => (k, c))).foldl (fun f e => f.join (followProgram e.2 (programOf img e.1) kinds (declareU img 0 4))) {}

/-- The places micro-programs occupy in a stack's store: start and length. -/
def storeUse (fw : Firmware) (t : StackId) : List (Nat × Nat) :=
  fw.domes.flatMap (fun e => match e.2 with
    | none => []
    | some m => match m.image with
      | none => []
      | some i => match m.stackList.idxOf? t with
        | none => []
        | some j => i.placements.filterMap (fun p => let a := p.2.getD j 4096; if a < 4096 then some (a, p.1) else none))

/-- The lowest place of some words in a store. [log 78 DEDUCED] -/
def placeWords (used : List (Nat × Nat)) (n : Nat) : Option Nat :=
  (List.range (4097 - n)).find? (fun a => used.all (fun u => decide (a + n ≤ u.1) || decide (u.1 + u.2 ≤ a)))

/-- Place an image's micro-programs on one stack, in their order; none when one does not fit. -/
def placeAll : List (Nat × Bool) → List (Nat × Nat) → Option (List Nat)
  | [], _ => some []
  | (n, here) :: rest, used =>
    if here = false then (placeAll rest used).map (fun l => 4096 :: l) else
    match placeWords used n with
    | none => none
    | some a => (placeAll rest ((a, n) :: used)).map (fun l => a :: l)

/-- The micro-programs an image places on dome stack j: words, and whether it names the stack. -/
def microOn (img : List Byte) (j : Nat) : List (Nat × Bool) :=
  (List.range (microCount img)).map (fun k => let b := (sectionOf img 2 k).getD []; (bytesAt b 0 2, (bytesAt b 4 4).testBit j))

/-- SYNC_EXHAUSTED: the count needed. -/
def syncExhausted (img : List Byte) (r : Reach) (fw : Firmware) (x : Target) : Option Nat :=
  let dieBad := (List.range x.m.dies.length).find? (fun i => decide (x.dieObjs.getD i 0 < declareU img (8 + 2 * i) 2))
  let stackBad := (List.range x.m.stackList.length).find? (fun j => decide (x.stackObjs.getD j 0 < declareU img (0x18 + 4 * j) 2))
  let slotBad := (List.range x.m.stackList.length).find? (fun j => match x.m.stackList[j]? with
    | some t => decide (256 - ((r.chip.stack t).slots.filter (fun e => e.2.busy)).length < declareU img (0x1A + 4 * j) 2)
    | none => false)
  let wordBad := (List.range x.m.stackList.length).find? (fun j => match x.m.stackList[j]? with
    | some t => (placeAll (microOn img j) (storeUse fw t)).isNone
    | none => false)
  match dieBad, stackBad, slotBad, wordBad with
  | some i, _, _, _ => some (declareU img (8 + 2 * i) 2)
  | none, some j, _, _ => some (declareU img (0x18 + 4 * j) 2)
  | none, none, some j, _ => some (declareU img (0x1A + 4 * j) 2)
  | none, none, none, some j => some (sumNat ((microOn img j).map (fun p => if p.2 then p.1 else 0)))
  | none, none, none, none => none

/-- A place on a path through a micro-program (R226): the word, the REP whose body is active, and whether a ROW_OPEN has executed since the last yield point. -/
structure YieldNode where
  pc : Nat
  rep : Option Nat
  opened : Bool
  deriving DecidableEq, Repr

/-- Where a path goes from a word: a REP's body runs at least twice, so its last word leads to its first and beyond; a branch goes either way; END ends the path. -/
def yieldNext (code : List (BitVec 128)) (x : YieldNode) : List YieldNode :=
  let w := code.getD x.pc 0
  let op := uopOf w
  let opened : Bool := if op = 0x20 then true else if op = 0x24 ∨ op = 0x30 then false else x.opened
  let fall : List (Nat × Option Nat) := match x.rep with
    | some r =>
      let last := r + (uImm (code.getD r 0)).toNat % 65536
      if x.pc = last then [(r + 1, some r), (x.pc + 1, none)] else [(x.pc + 1, some r)]
    | none => [(x.pc + 1, if op = 0x06 then some x.pc else none)]
  let t : Int := (x.pc : Int) + (uImm w).toInt
  let jump : List (Nat × Option Nat) := if op = 0x03 ∧ 0 ≤ t then [(t.toNat, x.rep)] else []
  if op = 0x3F then [] else (fall ++ jump).map (fun e => ⟨e.1, e.2, opened⟩)

/-- Follow every path from the waiting places: the word of a ROW_OPEN that executes while another one's yield point is still to come. -/
def yieldSearch (code : List (BitVec 128)) : Nat → List YieldNode → List YieldNode → Option Nat
  | 0, _, _ => none
  | _ + 1, [], _ => none
  | n + 1, x :: rest, seen =>
    if code.length ≤ x.pc ∨ x ∈ seen then yieldSearch code n rest seen
    else if x.opened ∧ uopOf (code.getD x.pc 0) = 0x20 then some x.pc
    else yieldSearch code n (yieldNext code x ++ rest) (x :: seen)

/-- The words of micro-program k of an image (R297). -/
def microCode (img : List Byte) (k : Nat) : List (BitVec 128) :=
  let b := (sectionOf img 2 k).getD []
  (List.range (bytesAt b 0 2)).map (fun i => BitVec.ofNat 128 (bytesAt b (0x40 + 16 * i) 16))

/-- ULIZEN_YIELD_DISTANCE: the micro-PC of an offending ROW_OPEN. Each word is met at most with each of the 64 REPs whose body holds it and with none, opened or not, and once more for each way into it. [log 61 DESIGN CHOICE] -/
def yieldDistance (img : List Byte) : Option Nat :=
  (List.range (microCount img)).findSome? (fun k => let c := microCode img k; yieldSearch c (3 * 2 * 65 * c.length + 1) [⟨0, none, false⟩] [])

/-- ROUTE_MISSING: a module without a route entry, or a die or stack of the dome that cannot be reached from its home die. -/
def routeMissing (img : List Byte) (s : Chip) (x : Target) : Option Nat :=
  let ids := (List.range (declareU img 4 2)).map (fun i => declareU img (0x218 + 2 * i) 2)
  match ids.find? (fun i => (Table.read 0 s.fabric.routes (clip 4096 i)).getLsbD 31 = false) with
  | some i => some i
  | none => ((x.m.dies ++ x.m.stackList.map stackDie).find? (fun d => s.route x.m.home d = false)).map (fun d => d.val)

/-! ## Planned step time and the Ephemeris (R303 to R305) -/

/-- The plan of a kind in beats of the floor rate: B + (T_OUT + 1 us) beats. -/
def planBeats (rate : Nat) (k : StepKind) : Nat := k.bound.toNat + (k.tOut.toNat + 1) * rate

/-- An Ephemeris slot (R304). -/
def slotQueue (w : Word64) : Nat := (field w 9 0).toNat
def slotClass (w : Word64) : Nat := (field w 23 22).toNat
def slotQuantum (w : Word64) : Nat := (field w 31 24).toNat
def slotBudget (w : Word64) : Nat := (field w 47 32).toNat

/-- A malformed slot (R304). -/
def slotMalformed (m : Dome) (w : Word64) : Bool :=
  w.extractLsb' 48 16 != 0 || w.extractLsb' 10 12 != 0 || slotQuantum w = 0 || slotClass w = 0 || slotClass w = 3 || !(m.queues.contains (slotQueue w))

/-- Whether a kind uses an allotment shared with other domes. -/
def kindShares (m : Dome) (k : StepKind) : Bool :=
  m.stackList.mapIdx (fun j t => (j, t)) |>.any (fun e => k.placement.getLsbD e.1 && (match m.allot e.2 with
    | some a => !a.exclusive
    | none => false))

/-- The slot of a table that fails R305, when one does. -/
def slotOverrun (fw : Firmware) (m : Dome) (kinds : List StepKind) (table : List Word64) : Option Nat :=
  let real := table.filter (fun w => slotClass w = 1)
  let rate := m.floorRate
  let kindOfQueue (w : Word64) : Option StepKind := match fw.queue (slotQueue w) with
    | some q => if q.configured then kinds[q.kind]? else none
    | none => none
  let bad (w : Word64) : Bool := slotClass w = 1 && (match kindOfQueue w with
    | some k => decide (slotBudget w * rate < slotQuantum w * planBeats rate k) || kindShares m k
    | none => false)
  match (List.range table.length).find? (fun i => bad (table.getD i 0)) with
  | some i => some i
  | none => if 7 * m.frameLen < 8 * 100 * sumNat (real.map slotBudget) then (List.range table.length).reverse.find? (fun i => slotClass (table.getD i 0) = 1) else none

/-- The table in force or about to be. -/
def Dome.ephemeris (m : Dome) : List Word64 := m.nextTable.getD m.table

/-- PRIVATE_BYTES and KV_MIN of private stack j do not fit in its free frames: those outside what firmware keeps and the dome's adapters hold (R302). -/
def kvShort (img : List Byte) (fw : Firmware) (id : DomeId) (j : Nat) : Bool :=
  let area := declareU img (0x98 + 8 * j) 8
  let n := (bindingsOf img).length
  decide (pageFrames j * 2 ^ 30 < pagesAt area n) ||
  (fw.adapterSpace id).any (fun p => decide (p.1 = j) && decide (p.2.1 < pagesAt area n)) ||
  decide (fw.pageRoom id (gridOf (imageDigest img)) area n j < declareU img (0x198 + 4 * j) 4)

/-- Why an image is refused: the first check that fails in the order of the codes, with its locator (R301, R302). -/
def imageRefusal (r : Reach) (img : List Byte) (x : Target) : Option (FaultCode × Word64) :=
  let n (c : FaultCode) (d : Nat) : Option (FaultCode × Word64) := some (c, BitVec.ofNat 64 (d % 2 ^ 32))
  match imageMismatch img x with
  | some d => n Code.imageMismatch d
  | none =>
  match formatFault img x.m.clusters with
  | some l => some (Code.formatUnsupported, l)
  | none =>
  if 0x700000 < declareU img 0 4 then n Code.scratchOverflow (declareU img 0 4) else
  let found := imageFindings img x.m.clusters
  let beyond (own : Option Word64) (rest : Option Word64) : Option Word64 := if own.isSome ∨ found.whole then own else rest
  match beyond found.scratch (Config.scratchOverflow img) with
  | some l => some (Code.scratchOverflow, l)
  | none =>
  match syncExhausted img r r.fw x with
  | some d => n Code.syncExhausted d
  | none =>
  match beyond found.porthole (Config.portholeMissing img) with
  | some l => some (Code.portholeMissing, l)
  | none =>
  match beyond found.tiles (Config.tqDepth img) with
  | some l => some (Code.tqDepth, l)
  | none =>
  match yieldDistance img with
  | some pc => n Code.yieldDistance pc
  | none =>
  match routeMissing img r.chip x with
  | some d => n Code.routeMissing d
  | none =>
  match (List.range x.m.privateStacks.length).find? (kvShort img r.fw x.id) with
  | some j => n Code.kvReserve (((x.m.privateStacks[j]?).map (fun t => t.val)).getD 0)
  | none =>
    match slotOverrun r.fw x.m ((List.range (kindsCount img)).map (kindOf ((sectionOf img 4 0).getD []))) x.m.ephemeris with
    | some i => n Code.slotOverrun i
    | none => none

/-! ## What a load writes (R296, R297, R300, R301) -/

/-- Write one cluster's program store and porthole phase; a running cluster drops the writes (R23). -/
def Chip.loadProgram (s : Chip) (c : ClusterId) (p : BitVec 3 × List (BitVec 15) × List Word64) : Chip :=
  if (s.die c.die).coreOn = false then s else
  if (s.cluster c).running then s.configDropped c else
  let n := p.2.2.length
  let s := { s with pstore := List.filter (fun (e : (ClusterId × Fin 32768) × Word64) => !(decide (e.1.1 = c) && decide (e.1.2.val < n))) s.pstore ++ p.2.2.mapIdx (fun i w => ((c, clip 32768 i), w)) }
  s.updCluster c (fun x => { x with phPhase := p.1 })

/-- Write a micro-program's words on a stack from a place on. -/
def Chip.loadMicro (s : Chip) (t : StackId) (at_ : Nat) (code : List (BitVec 128)) : Chip :=
  if (s.stack t).domainOn = false then s else
  s.updStack t (fun x => { x with ustore := (code.mapIdx (fun i w => (i, w))).foldl (fun st e => Table.write st (clip 4096 (at_ + e.1)) e.2) x.ustore })

/-- The frames of a stack that a dome may read or write, by the regions of the stack's die (R300). -/
def Chip.framesOf (s : Chip) (id : DomeId) (t : StackId) (write : Bool) : Word64 :=
  (s.die (stackDie t)).regions.foldl (fun w e =>
    if (regionStacks e.2).contains t ∧ (if write then Machine.regionWrite e.2 id else regionRead e.2 id) then w ||| BitVec.ofNat 64 (2 ^ regionFrame e.2) else w) 0

/-- Where the rings of the slot of binding entry n lie: on its own private stack, or for a shared-weight stack on the dome's first private one; free where the dome has none (R300). -/
def Chip.ringsOf (s : Chip) (m : Dome) (areas : List Nat) (t : StackId) (n : Nat) : Chip × Word64 × Word64 :=
  let j := (m.privateStacks.idxOf? t).getD 0
  match m.privateStacks[j]? with
  | none =>
    let a := s.freeBits 35
    let c := a.2.freeBits 35
    (c.2, BitVec.ofNat 64 (a.1.toNat * 64), BitVec.ofNat 64 (c.1.toNat * 64))
  | some p =>
    let at_ (k : Nat) : Word64 := BitVec.ofNat 64 ((s.localOf p (ringsAt (areas.getD j 0) + 2 * ringBytes * n + k)).getD 0)
    (s, at_ 0, at_ ringBytes)

/-- A slot that firmware prepares for a binding of kind 3, entry n of the list. -/
def prepareSlot (id : DomeId) (m : Dome) (areas : List Nat) (n : Nat) (place_ : Nat) (cpl : Word64) (e : Binding) (db : Nat) (s : Chip) :
    Chip × Word64 × Word64 × Word64 :=
  match m.stackList[e.a]? with
  | none => (s, 0, 0, 0)
  | some t =>
    let all := m.engineMask t
    let low := (List.range 32).filter (fun i => all.getLsbD i)
    let mask : Word32 := BitVec.ofNat 32 ((low.take (e.c % 64 + 1)).foldl (fun n i => n + 2 ^ i) 0)
    let k : Fin 1024 := clip 1024 (((List.range 1024).find? (fun i => !(Table.read {} (s.stack t).slots (clip 1024 i)).busy)).getD 0)
    let a := s.ringsOf m areas t n
    let s := a.1
    let wr := if m.privateStacks.contains t then s.framesOf id t true else 0
    let slot : Slot :=
      { en := true, cplScope := BitVec.ofNat 3 (e.c / 2 ^ 22 % 8), dbObj := BitVec.ofNat 8 db, dome := BitVec.ofNat 4 id.val, entry := BitVec.ofNat 12 place_,
        engines := mask, tag := BitVec.ofNat 16 (e.b / 2 ^ 16), preLen := BitVec.ofNat 8 (e.c / 2 ^ 6 % 256), cplDepth := BitVec.ofNat 4 (e.c / 2 ^ 18 % 16),
        argDepth := BitVec.ofNat 4 (e.c / 2 ^ 14 % 16), argBase := a.2.1, cplBase := a.2.2, cplSig := cpl,
        rdFrames := s.framesOf id t false, wrFrames := wr }
    let s := s.updSlot t k (fun _ => slot)
    let count := (s.obj (.stack t (clip 256 db))).count.toNat
    (s.updStack t (fun y => y.pend k count), selfAddr (objAddr (.stack t (clip 256 db))), a.2.1, a.2.2)

/-- The object a binding of kind 1 or 2 names. -/
def bindObject (s : Chip) (id : DomeId) (m : Dome) (e : Binding) : Word64 :=
  if e.kind = 1 then
    match m.dies[e.a]? with
    | some d => selfAddr (objAddr (.die d (clip 4096 ((s.objectsOf id (.die d)).getD e.b 0))))
    | none => 0
  else
    match m.stackList[e.a]? with
    | some t => selfAddr (objAddr (.stack t (clip 256 ((s.objectsOf id (.stack t)).getD e.b 0))))
    | none => 0

/-- Resolve the bindings in order; `done` holds, of each entry so far, its result and a slot's two rings. [log 79 DESIGN CHOICE] -/
def resolveBindings (id : DomeId) (m : Dome) (areas : List Nat) (places : List (Nat × List Nat)) (l : List Binding) :
    List Binding → List (Word64 × Word64 × Word64) → Chip → Chip × List (Word64 × Word64 × Word64)
  | [], done, s => (s, done)
  | e :: rest, done, s =>
    let r : Chip × Word64 × Word64 × Word64 :=
      match e.kind with
      | 1 => (s, bindObject s id m e, 0, 0)
      | 2 => (s, bindObject s id m e, 0, 0)
      | 3 =>
        let before := ((l.take done.length).filter (fun x => x.kind = 3 ∧ x.a = e.a)).length
        let objs := match m.stackList[e.a]? with
          | some t => s.objectsOf id (.stack t)
          | none => []
        let cpl := ((l[e.c / 2 ^ 32 % 2 ^ 16]?).map (fun x => bindObject s id m x)).getD 0
        let place_ := ((places.getD (e.b % 2 ^ 16) (0, [])).2).getD e.a 0
        prepareSlot id m areas done.length place_ cpl e (objs.getD (objs.length - 1 - before) 0) s
      | 4 => (s, ((done[e.a]?).map (fun x => x.2.1)).getD 0, 0, 0)
      | 5 => (s, ((done[e.a]?).map (fun x => x.2.2)).getD 0, 0, 0)
      | 6 => (s, BitVec.ofNat 64 (((m.privateStacks[e.a]?).bind (fun t => s.localOf t e.c)).getD 0), 0, 0)
      | _ => (s, 0, 0, 0)
    resolveBindings id m areas places l rest (done ++ [(r.2.1, r.2.2.1, r.2.2.2)]) r.1

/-- The places of an image's micro-programs on every dome stack. -/
def imagePlacements (img : List Byte) (fw : Firmware) (m : Dome) : List (Nat × List Nat) :=
  let per := m.stackList.mapIdx (fun j t => (placeAll (microOn img j) (storeUse fw t)).getD [])
  (List.range (microCount img)).map (fun k => (bytesAt ((sectionOf img 2 k).getD []) 0 2, per.map (fun l => l.getD k 4096)))

def imageCounters (img : List Byte) : List (Nat × Nat × List Nat) :=
  match sectionOf img 5 0 with
  | none => []
  | some b =>
    let sz := counterSize (kindsCount img)
    (List.range (bytesAt b 0 4)).map (fun i =>
      let o := 16 + sz * i
      (bytesAt b o 1, bytesAt b (o + 2) 2, (List.range (kindsCount img)).map (fun k => bytesAt b (o + 16 + 4 * k) 4)))

/-- Write an image that has passed every check. -/
def loadImage (id : DomeId) (m : Dome) (img : List Byte) (r : Reach) : Reach :=
  -- the dome's earlier image gives its places back, and its slots stop
  let fw := r.fw.setDome id (some { m with image := none })
  let s := r.chip.disableSlots id
  let programs := (List.range m.clusters.length).map (programOf img)
  let s := (m.clusters.zip programs).foldl (fun s e => s.loadProgram e.1 e.2) s
  let places := imagePlacements img fw m
  let s := (places.mapIdx (fun k p => (k, p))).foldl (fun s e =>
    (m.stackList.zip e.2.2).foldl (fun s q => if q.2 < 4096 then s.loadMicro q.1 q.2 (microCode img e.1) else s) s) s
  let l := bindingsOf img
  let areas := (List.range m.privateStacks.length).map (fun j => declareU img (0x98 + 8 * j) 8)
  let b := resolveBindings id m areas places l l [] s
  let table := b.2.map (fun x => x.1)
  let base : Chip × Word64 := match b.1.tablesBase m with
    | some a => (b.1, BitVec.ofNat 64 a)
    | none => let f := b.1.freeBits 41; (f.2, f.1.setWidth 64)
  let counters := imageCounters img
  let image : Image :=
    { kinds := (List.range (kindsCount img)).map (kindOf ((sectionOf img 4 0).getD [])), programs := programs, counters := counters, placements := places,
      digest := imageDigest img, bindings := base.2, table := table, steps := 0, area := areas }
  let counts := counters.map (fun c => match m.dies[c.1]? with
    | some d => ((base.1.obj (.die d (clip 4096 ((base.1.objectsOf id (.die d)).getD c.2.1 0)))).count).toNat
    | none => 0)
  -- the toolchain's version goes to the night log under a code the spec does not give (R294)
  let code := base.1.freeCode
  let chip := code.2.log m.home 0 code.1 (BitVec.ofNat 8 id.val) 0 (BitVec.ofNat 64 (bytesAt img 0x18 8))
  let r : Reach := { r with chip := chip, fw := fw.setDome id (some { m with image := some image, counts := counts }) }
  -- word n of the binding table holds the result of entry n (R300)
  if (chip.tablesBase m).isSome then r.put m.home (some base.2.toNat) (table.flatMap (fun w => leBytes 8 w.toNat)) else r

/-- IMAGE_LOAD. [log 77 DEDUCED] -/
def callImage (c : Call) (r : Reach) : Reach × Answer :=
  match namedDome c 8 1 r with
  | .error e => (r, refuse e)
  | .ok (id, m) =>
    let a : Answer := { die := m.home, dome := BitVec.ofNat 8 id.val }
    if m.busyStep ∨ r.fw.tracked id ≠ [] then (r, { a with code := Code.domeBusy }) else
    let q := r.readAt m.home c.space (c.arg 0x10 8) (c.arg 0x18 8)
    match q.2 with
    | none => (q.1, { a with code := if c.space.isSome then Code.hostAccess else Code.callMalformed })
    | some img =>
      match imageRefusal q.1 img (targetOf q.1 id m) with
      | some f => (q.1, { a with code := f.1, locator := f.2 })
      | none => (loadImage id m img q.1, {})

/-- EPHEMERIS_SET. -/
def callEphemeris (c : Call) (r : Reach) : Reach × Answer :=
  match namedDome c 8 1 r with
  | .error e => (r, refuse e)
  | .ok (id, m) =>
    let a : Answer := { die := m.home, dome := BitVec.ofNat 8 id.val }
    let n := c.arg 0x18 8
    if n = 0 ∨ 256 < n then (r, { a with code := Code.callMalformed }) else
    let q := r.readAt m.home c.space (c.arg 0x10 8) (8 * n)
    match q.2 with
    | none => (q.1, { a with code := if c.space.isSome then Code.hostAccess else Code.callMalformed })
    | some bs =>
      let table := (List.range n).map (fun i => (BitVec.ofNat 64 (bytesAt bs (8 * i) 8) : Word64))
      if table.any (slotMalformed m) then (q.1, { a with code := Code.domeMalformed }) else
      match slotOverrun q.1.fw m ((m.image.map (fun i => i.kinds)).getD []) table with
      | some _ => (q.1, { a with code := Code.slotOverrun })
      | none => ({ q.1 with fw := q.1.fw.updDome id (fun m => { m with nextTable := some table }) }, {})

/-! ## Meanings -/

def execImageLoad (c : Caller) : State → Outcome State Fault Refusal := onReach (runCall 0x0005 { vf := true } [(8, 1), (0x10, 8), (0x18, 8)] callImage c)
def execEphemerisSet (c : Caller) : State → Outcome State Fault Refusal := onReach (runCall 0x0006 { vf := true } [(8, 1), (0x10, 8), (0x18, 8)] callEphemeris c)

end Sys2Proof.Machine
end

