-- ==== Sys2Proof/Machine/Queues.lean ====
section
/-! DEFINITION. Queues, entries and records (R314 to R319), cancellation (R326), adapters (R329 to R333): the account firmware keeps of requests. -/

namespace Sys2Proof.Machine

open Host

/-! ## Rings (R314, R315) -/

def Queue.hostRings (q : Queue) : Bool := q.flags.getLsbD 0
def Queue.coreProducer (q : Queue) : Bool := q.flags.getLsbD 1
def Queue.specOk (q : Queue) : Bool := q.flags.getLsbD 2
def Queue.prefill (q : Queue) : Bool := q.flags.getLsbD 3
/-- The function a queue names (R314). -/
def Queue.fn (q : Queue) : Option HostFn := fnOfNumber (q.flags.extractLsb' 8 8).toNat
/-- The space of a queue's rings. -/
def Queue.space (q : Queue) : Option HostFn := if q.hostRings then q.fn else none

/-- An object named as [14:12] die and [11:0] number (R314). -/
def dieObject (v : BitVec 16) : ObjId := .die (clip 8 (v.extractLsb' 12 3).toNat) (clip 4096 (v.extractLsb' 0 12).toNat)

/-- The home die of a dome. -/
def Firmware.home (fw : Firmware) (id : DomeId) : DieId := ((fw.dome id).map (fun m => m.home)).getD 0

/-- Whether firmware serves a dome: its home die's firmware runs. -/
def Reach.serves (r : Reach) (id : DomeId) : Bool := (r.fw.dome id).isSome && r.chip.running (r.fw.home id)

/-- Write to a queue's rings: a copy-channel write of the queue's function, or a local store. -/
def Reach.ringWrite (r : Reach) (n : Nat) (q : Queue) (a : Nat) (bs : List Byte) : Reach :=
  match q.space with
  | some f => let w := copyWrite r.chip r.host f (.record n) a bs; { r with chip := w.1, host := w.2 }
  | none => (r.writeAt (r.fw.home q.dome) none a bs).1

/-- A count of the control block. -/
def Reach.ctlRead (r : Reach) (q : Queue) (off : Nat) : Reach × Option Nat :=
  let x := r.readAt (r.fw.home q.dome) q.space (q.ctlBase.toNat + off) 4
  (x.1, x.2.map leNat)

/-! ## Records (R317) -/

/-- The bytes of record number n of a queue. -/
def recordBytes (n qn : Nat) (q : Queue) (e : Completion) (src : Nat) (now : Word64) : List Byte :=
  let phase := if n / 2 ^ q.cplLog2 % 2 = 0 then 0x80 else 0
  leBytes 8 e.cookie.toNat ++ leBytes 4 e.seq ++ leBytes 1 e.status ++ leBytes 1 (e.flags + phase) ++ leBytes 2 e.detail.toNat ++
  leBytes 4 e.emitted ++ leBytes 4 e.committed ++ leBytes 4 q.subHead ++ leBytes 2 e.adapter ++ leBytes 2 e.version ++ leBytes 2 qn ++
  leBytes 1 q.dome.val ++ leBytes 1 src ++ leBytes 4 0 ++ leBytes 8 e.tAdmit.toNat ++ leBytes 8 now.toNat ++ leBytes 8 0

/-- Versions of an adapter that are neither current nor pinned are freed, and a dropped adapter's likewise (R332, R333). -/
def Adapter.prune (x : Adapter) (pinned : Nat → Nat) : Adapter :=
  let vs := x.versions.map (fun v => { v with pins := pinned v.number })
  { x with versions := vs.filter (fun v => decide (0 < v.pins) || (!x.dropped && decide (x.current = some v.number))) }

/-- How many tracked requests pin a version. -/
def Firmware.pins (fw : Firmware) (id : DomeId) (adapter version : Nat) : Nat :=
  (fw.seqs.filter (fun q => q.dome = id ∧ q.adapter = adapter ∧ q.version = version)).length

def Firmware.pruneAdapters (fw : Firmware) (id : DomeId) : Firmware :=
  { fw with adapters := fw.adapters.map (fun e => if e.1.1 = id then (e.1, e.2.prune (fw.pins id e.1.2)) else e) }

/-- A sequence is forgotten: pages, handles and index are free (R325). -/
def Firmware.forget (fw : Firmware) (index : Nat) : Firmware :=
  match fw.seqs.find? (fun q => q.index = index) with
  | none => fw
  | some q => Firmware.pruneAdapters { fw with seqs := fw.seqs.filter (fun x => x.index ≠ index) } q.dome

/-- Records a ring still has room for, by the control block's CPL_HEAD. -/
def Reach.room (r : Reach) (n : Nat) : Reach × Nat :=
  match r.fw.queue n with
  | none => (r, 0)
  | some q =>
    let c := r.ctlRead q 8
    let head := c.2.getD q.cplHead
    let unread := (q.records + 2 ^ 32 - head) % 2 ^ 32
    ({ c.1 with fw := c.1.fw.updQueue n (fun q => { q with cplHead := head }) }, 2 ^ q.cplLog2 - unread)

/-- Write up to k owed records of a queue. -/
def Reach.writeRecords (n : Nat) : Nat → Reach → Reach × Nat
  | 0, r => (r, 0)
  | k + 1, r =>
    match r.fw.queue n with
    | none => (r, 0)
    | some q =>
      match q.owed with
      | [] => (r, 0)
      | e :: rest =>
        let home := r.fw.home q.dome
        let bytes := recordBytes q.records n q e (0x20 + home.val) (r.chip.die home).timer
        let r := r.ringWrite n q (q.cplBase.toNat + q.records % 2 ^ q.cplLog2 * 64) bytes
        let r := { r with fw := r.fw.updQueue n (fun q => { q with owed := rest, records := (q.records + 1) % 2 ^ 32 }) }
        let r := match e.index with
          | some i => { r with fw := r.fw.forget i }
          | none => r
        let w := Reach.writeRecords n k r
        (w.1, w.2 + 1)

/-- One pass over a queue's owed records: then the queue's MSI-X message and CPL_OBJ signal (R315). -/
def Reach.flush (r : Reach) (n : Nat) : Reach :=
  match r.fw.queue n with
  | none => r
  | some q =>
    if q.owed = [] then r else
    let c := r.room n
    let w := Reach.writeRecords n (Nat.min c.2 q.owed.length) c.1
    if w.2 = 0 then w.1 else
    let r := w.1
    let s := if q.msix = 0xFFFF then r.chip else match q.fn with
      | some f => r.chip.msix f q.msix.toNat
      | none => r.chip
    let s := if q.cplObj = 0xFFFF then s else (s.objOp (firmwareOf (r.fw.home q.dome)) (dieObject q.cplObj) (.signal 1 (some 3))).1
    { r with chip := s }

/-- Owe a record on a queue. -/
def Firmware.owe (fw : Firmware) (n : Nat) (e : Completion) : Firmware := fw.updQueue n (fun q => { q with owed := q.owed ++ [e] })

/-! ## Ending a request (R325, R326) -/

def Firmware.seq (fw : Firmware) (index : Nat) : Option Sequence := fw.seqs.find? (fun q => q.index = index)
def Firmware.updSeq (fw : Firmware) (index : Nat) (f : Sequence → Sequence) : Firmware :=
  { fw with seqs := fw.seqs.map (fun q => if q.index = index then f q else q) }

/-- FLAGS of a sequence's record (R317). -/
def Sequence.flags (q : Sequence) : Nat :=
  (if q.cancelLate then 1 else 0) + (if q.replayed then 2 else 0) + (if q.stopped then 4 else 0) + (if q.diffServed then 8 else 0)

/-- End a request with a status; its record is owed, or it is forgotten at once when none is ever written (R376). -/
def Reach.endSeq (r : Reach) (index status : Nat) (detail : FaultCode) : Reach :=
  match r.fw.seq index with
  | none => r
  | some q =>
    if q.ended then r
    else if q.noRecord then { r with fw := r.fw.forget index }
    else
      let e : Completion :=
        ⟨q.cookie, q.index + q.generation * 65536, status, q.flags, detail, q.emitted, q.committed, q.adapter, q.version, q.tAdmit, some index⟩
      let s := if detail = 0 then r.chip else r.chip.log (r.fw.home q.dome) 2 detail (BitVec.ofNat 8 q.dome.val) 0 0
      Reach.flush { r with chip := s, fw := (r.fw.updSeq index (fun x => { x with ended := true, replayHeld := false })).owe q.submitted e } q.submitted

/-- End several requests alike. -/
def Reach.endAll (r : Reach) (l : List Nat) (status : Nat) (detail : FaultCode) : Reach := l.foldl (fun r i => r.endSeq i status detail) r

/-! ## Admission (R316, R318, R319) -/

/-- An entry as firmware reads it. -/
structure Entry where
  cookie : Word64
  promptLen : Nat
  maxNew : Nat
  prompt : Word64
  out : Word64
  adapter : Nat
  flags : Nat
  stop : Word32
  /-- All 64 bytes, SERVICE among them, which firmware copies for service software (R316, R318). -/
  bytes : List Byte

def entryOf (b : List Byte) : Entry :=
  ⟨BitVec.ofNat 64 (bytesAt b 0 8), bytesAt b 8 4, bytesAt b 0xC 4, BitVec.ofNat 64 (bytesAt b 0x10 8), BitVec.ofNat 64 (bytesAt b 0x18 8),
   bytesAt b 0x20 2, bytesAt b 0x22 2, BitVec.ofNat 32 (bytesAt b 0x24 4), b.take 64⟩

/-- Why n bytes from an address cannot be reached by the dome, granule by granule (check 1 of R318). -/
def Chip.domeRefusal (s : Chip) (home : DieId) (id : DomeId) (space : Option HostFn) (a n : Nat) (write : Bool) : Option FaultCode :=
  match space with
  | some f => if s.fnUp f && s.route home 0 && decide (a + n ≤ 2 ^ 64) then none else some Code.unreachable
  | none =>
    if 2 ^ 41 < a + n then some Code.unmapped else
    (List.range ((a % 4096 + n + 4095) / 4096)).findSome? (fun i =>
      let x := Nat.max a (a / 4096 * 4096 + 4096 * i)
      match s.resolve (firmwareOf home) x write with
      | .ok _ =>
        let e := Table.read 0 (s.die home).regions (clip 2048 (x / 2 ^ 30))
        if (if write then Machine.regionWrite e id else regionRead e id) then none else some Code.regionDenied
      | .error c => some c)

/-- Whether n bytes from an address can be reached by the dome. [log 88 DEDUCED] -/
def Chip.domeReaches (s : Chip) (home : DieId) (id : DomeId) (space : Option HostFn) (a n : Nat) (write : Bool) : Bool :=
  (s.domeRefusal home id space a n write).isNone

/-- The private stacks of a reservation's pages, list by list, ordinal by ordinal (R319). -/
def pageStacks (lists per p index : Nat) (spec : Bool) : List Nat :=
  (List.range lists).flatMap (fun j => (List.range per).map (fun o => if spec then (j + index) % p else (o + j + index) % p))

/-- Pages of each private stack for a reservation (R319). -/
def reservation (lists per p index : Nat) (spec : Bool) : List Nat :=
  if p = 0 then [] else let l := pageStacks lists per p index spec; (List.range p).map (fun t => l.count t)

/-- The page slots of a reservation, the lowest free ones of each stack in the order of the pages; none where one lacks a page. -/
def Firmware.reserve (fw : Firmware) (id : DomeId) (i : Image) (lists per p index : Nat) (spec : Bool) : Option (List (Nat × Nat)) :=
  if p = 0 then none else
  let l := pageStacks lists per p index spec
  let need := reservation lists per p index spec
  let picks := need.mapIdx (fun t n => fw.pick id i t n)
  if (picks.zip need).any (fun e => decide (e.1.length < e.2)) then none
  else some (l.mapIdx (fun k t => (t, (picks.getD t []).getD ((l.take k).count t) 0)))

/-- What an admitted request takes: its page slots and its block of the request area (R318, R319). -/
structure Grant where
  slots : List (Nat × Nat)
  block : Nat
  len : Nat

/-- The KV reservation of a request, and the room for its headers, its lists and its copy; none where it cannot be met. -/
def Reach.grant (r : Reach) (m : Dome) (q : Queue) (e : Entry) (index : Nat) : Option (Image × Nat × Grant) :=
  match m.image, r.chip.tablesBase m with
  | some i, some _ =>
    let spec := e.flags % 2 = 1
    let lists := Config.kvLists i.digest
    let per := (e.promptLen + e.maxNew + (if spec then q.maxTree else 1) - 1 + 255) / 256
    let len := requestBytes e.promptLen lists per
    match r.fw.reserve q.dome i lists per m.privateStacks.length index spec, placeBlock (r.fw.blocks q.dome) len with
    | some slots, some a => some (i, lists, ⟨slots, a, len⟩)
    | _, _ => none
  | _, _ => none

/-- The first check of R318 that fails. -/
def Reach.refusal (r : Reach) (m : Dome) (q : Queue) (e : Entry) (full : Bool) : Option FaultCode :=
  let id := q.dome
  let ok (a n : Nat) (w : Bool) : Bool := r.chip.domeReaches m.home id q.space a n w
  if 1 < e.flags ∨ e.promptLen = 0 ∨ e.maxNew = 0 ∨ (e.flags % 2 = 1 ∧ q.specOk = false) ∨
     ok e.prompt.toNat (4 * e.promptLen) false = false ∨ ok e.out.toNat (4 * e.maxNew) true = false then some Code.entryMalformed
  else if m.draining ∨ q.stopped then some Code.draining
  else if q.maxLen < e.promptLen + e.maxNew then some Code.tooLong
  else if e.adapter ≠ 0 ∧ (let x := Table.read {} r.fw.adapters (id, e.adapter); x.dropped || x.current.isNone) then some Code.adapterUnknown
  else if 65536 ≤ r.fw.seqs.length then some Code.seqLimit
  else if full then some Code.full else none

/-- The lowest sequence index that is not tracked. -/
def Firmware.freeIndex (fw : Firmware) : Nat := ((List.range 65536).find? (fun i => (fw.seq i).isNone)).getD 0

/-- Admit or refuse one entry of a queue. -/
def Reach.takeEntry (r : Reach) (n : Nat) (m : Dome) (q : Queue) (e : Entry) (cancelled : Bool) : Reach :=
  let id := q.dome
  let now := (r.chip.die m.home).timer
  let bare (status : Nat) (detail : FaultCode) : Completion := ⟨e.cookie, 0, status, 0, detail, 0, 0, e.adapter, 0, now, none⟩
  if cancelled then { r with fw := r.fw.owe n (bare 2 0) } else
  let index := r.fw.freeIndex
  let refuseWith (r : Reach) (c : FaultCode) : Reach :=
    let s := r.chip.log m.home 1 c (BitVec.ofNat 8 id.val) 0 e.cookie
    { r with chip := s.point m.home id 2 c.toNat, fw := r.fw.owe n (bare 5 c) }
  let grant := r.grant m q e index
  match r.refusal m q e grant.isNone, grant with
  | some c, _ => refuseWith r c
  | none, none => refuseWith r Code.full
  | none, some (i, lists, g) =>
    let x := r.readAt m.home q.space e.prompt.toNat (4 * e.promptLen)
    match x.2 with
    | none => refuseWith x.1 Code.entryMalformed
    | some prompt =>
      let r := x.1
      let gen := (Table.read 0 r.fw.generations index + 1) % 65536
      let version := if e.adapter = 0 then 0 else ((Table.read {} r.fw.adapters (id, e.adapter)).current).getD 0
      let base := (r.chip.tablesBase m).getD 0
      let sq : Sequence :=
        { index := index, generation := gen, dome := id, queue := n, submitted := n, cookie := e.cookie, promptLen := e.promptLen, maxNew := e.maxNew,
          prompt := e.prompt, out := e.out, adapter := e.adapter, spec := e.flags % 2 = 1, stop := e.stop, version := version,
          handle0 := (base + g.block + headerOff e.promptLen 0) / 64, pages := (List.range m.privateStacks.length).map (fun t => (g.slots.map (fun s => s.1)).count t),
          block := g.block, blockLen := g.len, lists := lists, slots := g.slots, tAdmit := now }
      let r := r.writeRequest m i sq e.bytes prompt
      { r with chip := r.chip.point m.home id 1 (index + gen * 65536),
               fw := { r.fw with seqs := r.fw.seqs ++ [sq], generations := Table.write r.fw.generations index gen } }

/-- Read entries in order while there are some and the completion ring has room (R315). -/
def Reach.takeIn (n : Nat) : Nat → Reach → Reach
  | 0, r => r
  | k + 1, r =>
    match r.fw.queue n with
    | none => r
    | some q =>
      match r.fw.dome q.dome with
      | none => r
      | some m =>
        if q.configured = false ∨ q.subHead = q.subTail then r else
        let c := r.room n
        if c.2 ≤ q.owed.length then c.1 else
        let x := c.1.readAt m.home q.space (q.subBase.toNat + q.subHead % 2 ^ q.subLog2 * 64) 64
        match x.2 with
        | none => x.1
        | some b =>
          let r := x.1.takeEntry n m q (entryOf b) (q.cancels.contains q.subHead)
          let head := (q.subHead + 1) % 2 ^ 32
          let r := { r with fw := r.fw.updQueue n (fun y => { y with subHead := head, cancels := y.cancels.filter (fun i => i ≠ q.subHead) }) }
          Reach.takeIn n k (r.ringWrite n q (q.ctlBase.toNat + 0x10) (leBytes 4 head))

/-- Serve a queue: its owed records, then its waiting entries, then their records. -/
def Reach.serveQueue (r : Reach) (n : Nat) : Reach :=
  match r.fw.queue n with
  | none => r
  | some q =>
    if r.serves q.dome = false then r else
    let r := r.flush n
    let waiting := (q.subTail + 2 ^ 32 - q.subHead) % 2 ^ 32
    (Reach.takeIn n (Nat.min 4096 waiting) r).flush n

/-- A new submission tail (R315): one that goes back or past the ring breaks the queue. -/
def Reach.newTail (r : Reach) (n tail : Nat) : Reach :=
  match r.fw.queue n with
  | none => r
  | some q =>
    if q.configured = false ∨ q.broken then r else
    let ahead := (tail + 2 ^ 32 - q.subHead) % 2 ^ 32
    let before := (q.subTail + 2 ^ 32 - q.subHead) % 2 ^ 32
    if ahead < before ∨ 2 ^ q.subLog2 < ahead then
      let home := r.fw.home q.dome
      let e : Completion := ⟨0, 0, 5, 0, Code.queueBroken, 0, 0, 0, 0, (r.chip.die home).timer, none⟩
      Reach.flush { r with chip := r.chip.log home 2 Code.queueBroken (BitVec.ofNat 8 q.dome.val) 0 (BitVec.ofNat 64 n),
                           fw := (r.fw.updQueue n (fun y => { y with stopped := true, broken := true })).owe n e } n
    else Reach.serveQueue { r with fw := r.fw.updQueue n (fun y => { y with subTail := tail % 2 ^ 32 }) } n

/-- Firmware looks at its queues: those whose entries come from service software take their tail from their DB_OBJ, and those with owed records or waiting entries go on when their completion ring has room again (R315). [log 89 DEDUCED] -/
def Reach.pollProducers (r : Reach) : Reach :=
  r.fw.queues.foldl (fun r e => match r.fw.queue e.1 with
    | none => r
    | some q =>
      if q.configured = false ∨ r.serves q.dome = false then r else
      let tail := (r.chip.obj (dieObject q.dbObj)).count.toNat % 2 ^ 32
      if q.coreProducer ∧ tail ≠ q.subTail then r.newTail e.1 tail
      else if q.owed ≠ [] ∨ q.subHead ≠ q.subTail then r.serveQueue e.1 else r) r

/-! ## QUEUE_SET and QUEUE_STOP (R314) -/

/-- A sequence is attached to a queue, or owes its record there. -/
def Firmware.attached (fw : Firmware) (n : Nat) : Bool := fw.seqs.any (fun q => decide (q.queue = n) || decide (q.submitted = n))

/-- Whether a dome owns a die object. -/
def Chip.domeOwns (s : Chip) (id : DomeId) (o : ObjId) : Bool := let x := s.obj o; x.assigned && decide (x.dome.toNat = id.val)

/-- The queue a call names, of a dome the caller may name. -/
def namedQueue (c : Call) (r : Reach) : Except FaultCode (Nat × Queue) :=
  let n := c.arg 8 2
  match r.fw.queue n with
  | none => .error (if n < 1024 then Code.callDenied else Code.callMalformed)
  | some q => if r.chip.mayName c.caller q.dome then .ok (n, q) else .error Code.callDenied

/-- Vectors of a function's MSI-X table (R374). -/
def msixVectors : Option HostFn → Nat
  | some (.vf _) => 30
  | _ => 128

/-- QUEUE_SET. -/
def callQueueSet (c : Call) (r : Reach) : Reach × Answer :=
  match namedQueue c r with
  | .error e => (r, refuse e)
  | .ok (n, old) =>
    let id := old.dome
    let home := r.fw.home id
    let a : Answer := { die := home, dome := BitVec.ofNat 8 id.val }
    let flags : Word32 := BitVec.ofNat 32 (c.arg 0x28 4)
    let q : Queue :=
      { dome := id, configured := true, subLog2 := c.arg 0xA 1, cplLog2 := c.arg 0xB 1, kind := c.arg 0xC 1, maxRows := c.arg 0xD 1, next := c.arg 0xE 2,
        subBase := BitVec.ofNat 64 (c.arg 0x10 8), cplBase := BitVec.ofNat 64 (c.arg 0x18 8), ctlBase := BitVec.ofNat 64 (c.arg 0x20 8), flags := flags,
        msix := BitVec.ofNat 16 (c.arg 0x2C 2), dbObj := BitVec.ofNat 16 (c.arg 0x2E 2), maxLen := c.arg 0x30 4, maxTree := c.arg 0x34 1,
        chunk := c.arg 0x36 2, cplObj := BitVec.ofNat 16 (c.arg 0x38 2) }
    let kinds := (((r.fw.dome id).bind (fun m => m.image)).map (fun i => i.kinds.length)).getD 64
    let sameDome : Bool := ((r.fw.queue q.next).map (fun x => decide (x.dome = id))).getD false
    let ringsIn (v : Nat) : Bool := decide (4 ≤ v) && decide (v ≤ 12)
    let objBad (v : BitVec 16) : Bool := v.getLsbD 15 || r.chip.domeOwns id (dieObject v) = false
    if sameDome = false then (r, { a with code := Code.callDenied })
    else if ringsIn q.subLog2 = false ∨ ringsIn q.cplLog2 = false ∨ kinds ≤ q.kind ∨ q.maxRows = 0 ∨ 64 < q.maxRows ∨
       q.subBase.toNat % 64 ≠ 0 ∨ q.cplBase.toNat % 64 ≠ 0 ∨ (q.prefill = false ∧ q.next ≠ n) ∨ (q.msix ≠ 0xFFFF ∧ msixVectors q.fn ≤ q.msix.toNat) ∨ flags.extractLsb' 16 16 ≠ 0 ∨ flags.extractLsb' 4 4 ≠ 0 ∨
       (q.hostRings ∧ q.coreProducer) ∨ q.fn.isNone ∨ (q.coreProducer ∧ objBad q.dbObj) ∨ (q.cplObj ≠ 0xFFFF ∧ objBad q.cplObj) ∨
       q.maxTree = 0 ∨ 64 < q.maxTree ∨ (q.specOk = false ∧ q.maxTree ≠ 1) ∨ q.chunk < 16 ∨ 8192 < q.chunk then (r, { a with code := Code.callMalformed })
    else if r.fw.attached n ∨ (old.configured ∧ old.subHead ≠ old.subTail) ∨ old.owed ≠ [] then (r, { a with code := Code.domeBusy })
    else ({ r with fw := { r.fw with queues := Table.write r.fw.queues n (some q) } }, {})

/-- QUEUE_STOP. -/
def callQueueStop (c : Call) (r : Reach) : Reach × Answer :=
  match namedQueue c r with
  | .error e => (r, refuse e)
  | .ok (n, _) => ({ r with fw := r.fw.updQueue n (fun q => { q with stopped := true }) }, {})

/-! ## CANCEL (R326) -/

/-- Sequences that a dome's running or reported step holds. -/
def Dome.inStep (m : Dome) (index : Nat) : Bool :=
  (m.step.toList ++ m.reporting.toList).any (fun x => x.rows.any (fun w => w.seq = index))

/-- The waiting entry of a queue with a cookie, oldest first. -/
def Reach.findEntry (n : Nat) (cookie : Word64) : Nat → Nat → Reach → Reach × Option Nat
  | 0, _, r => (r, none)
  | k + 1, at_, r =>
    match r.fw.queue n with
    | none => (r, none)
    | some q =>
      let x := r.readAt (r.fw.home q.dome) q.space (q.subBase.toNat + at_ % 2 ^ q.subLog2 * 64) 8
      match x.2 with
      | some b => if leNat b = cookie.toNat ∧ q.cancels.contains at_ = false then (x.1, some at_) else Reach.findEntry n cookie k ((at_ + 1) % 2 ^ 32) x.1
      | none => (x.1, none)

/-- Take a sequence out of the replays a dome holds. -/
def Dome.dropReplay (m : Dome) (index : Nat) : Dome :=
  { m with replays := (m.replays.map (fun x => { x with rows := x.rows.filter (fun w => w.seq ≠ index) })).filter (fun x => x.rows ≠ []) }

/-- CANCEL: the row of R326's table is told by where the request stands. [log 90 DEDUCED] -/
def callCancel (c : Call) (r : Reach) : Reach × Answer :=
  match namedQueue c r with
  | .error e => (r, refuse e)
  | .ok (n, q) =>
    let cookie : Word64 := BitVec.ofNat 64 (c.arg 0x10 8)
    let home := r.fw.home q.dome
    let point (r : Reach) (k : Nat) : Reach := { r with chip := r.chip.point home q.dome 3 k }
    match r.fw.seqs.find? (fun x => x.submitted = n ∧ x.cookie = cookie ∧ x.ended = false) with
    | some x =>
      if x.replayHeld then
        let r := { r with fw := r.fw.updDome q.dome (fun m => m.dropReplay x.index) }
        ((point r 4).endSeq x.index 2 x.faultCode, {})
      else if ((r.fw.dome q.dome).map (fun m => m.inStep x.index)).getD false then
        ({ (point r 3) with fw := r.fw.updSeq x.index (fun y => { y with cancelled := true }) }, {})
      else ((point r 2).endSeq x.index 2 0, {})
    | none =>
      let waiting := (q.subTail + 2 ^ 32 - q.subHead) % 2 ^ 32
      let f := Reach.findEntry n cookie (Nat.min 4096 waiting) q.subHead r
      match f.2 with
      | some i =>
        let r := point f.1 1
        (Reach.serveQueue { r with fw := r.fw.updQueue n (fun y => { y with cancels := i :: y.cancels }) } n, {})
      | none => (f.1, { code := Code.cancelUnknown, die := home, dome := BitVec.ofNat 8 q.dome.val })

/-! ## Adapters (R329 to R333) -/

/-- The parts of one expert in a version's space, from an offset on: the dense weights, the difference directory and the router row. -/
def placeExpert (off : Nat) (e : Config.PackedExpert) : Nat × ExpertPlace :=
  let diff := off + roundUp e.dense.length 64
  let router := diff + roundUp e.diff.length 64
  (router + roundUp e.router.length 64, ⟨e.present, e.base, off, e.dense.length, diff, router⟩)

/-- The parts of a list of experts. -/
def placeExperts : Nat → List Config.PackedExpert → Nat × List ExpertPlace
  | off, [] => (off, [])
  | off, e :: rest =>
    let a := placeExpert off e
    let b := placeExperts a.1 rest
    (b.1, a.2 :: b.2)

/-- The parts of a package, layer by layer, and the bytes they take. -/
def placePackage : Nat → List (List Config.PackedExpert) → Nat × List (List ExpertPlace)
  | off, [] => (off, [])
  | off, l :: rest =>
    let a := placeExperts off (l.take 8)
    let b := placePackage a.1 rest
    (b.1, a.2 :: b.2)

/-- The bytes of private stack j that the dome's requests and adapters hold. -/
def Firmware.heldBytes (fw : Firmware) (id : DomeId) (m : Dome) (j : Nat) : List (Nat × Nat) :=
  (match m.image with
   | some i => let g := gridOf i.digest; (fw.tracked id).flatMap (fun q => (q.slots.filter (fun e => e.1 = j)).map (fun e => (g.slotAt e.2, g.page)))
   | none => []) ++
  ((fw.adapterSpace id).filter (fun p => p.1 = j)).map (fun p => p.2)

/-- A place for n bytes in one free frame of a private stack, from the highest frame down: behind something held, or at the frame's start (R332). -/
def Firmware.placeAdapter (fw : Firmware) (id : DomeId) (m : Dome) (n : Nat) : Option (Nat × Nat) :=
  (List.range m.privateStacks.length).findSome? (fun j =>
    let low := match m.image with
      | some i => pagesAt (i.area.getD j 0) i.table.length
      | none => 0
    let held := fw.heldBytes id m j
    let starts := roundUp low 65536 :: held.map (fun h => roundUp (h.1 + h.2) 65536)
    (List.range (pageFrames j)).reverse.findSome? (fun f =>
      ((f * 2 ^ 30) :: starts).findSome? (fun a =>
        if a / 2 ^ 30 = f ∧ low ≤ a ∧ a % 2 ^ 30 + n ≤ 2 ^ 30 ∧ held.all (fun h => decide (a + n ≤ h.1) || decide (h.1 + h.2 ≤ a)) then some (j, a) else none)))

/-- The stack of a version's space. -/
def AdapterVersion.stack (v : AdapterVersion) (m : Dome) : Option StackId := m.privateStacks[v.place.1]?

/-- The local address of an offset in a version's space. -/
def Chip.versionAddr (s : Chip) (m : Dome) (v : AdapterVersion) (off : Nat) : Option Nat := (v.stack m).bind (fun t => s.localOf t (v.place.2.1 + off))

/-- Write parts of a package into a version's space: its router rows and differences, or its dense weights. -/
def Reach.stage (r : Reach) (m : Dome) (v : AdapterVersion) (package : List (List Config.PackedExpert)) (dense : Bool) : Reach :=
  ((v.experts.flatten).zip ((package.map (fun l => l.take 8)).flatten)).foldl (fun (r : Reach) e =>
    if dense then r.put m.home (r.chip.versionAddr m v e.1.dense) e.2.dense
    else (r.put m.home (r.chip.versionAddr m v e.1.diff) e.2.diff).put m.home (r.chip.versionAddr m v e.1.router) e.2.router) r

/-- The retired blocks of a stack. -/
def Stack.retiredBlocks (x : Stack) : List Nat := x.retireTable.map (fun e => e.1)

/-- The dense copies of a version land, completely, from the package where its bytes are read (R331, R332). -/
def Reach.landDense (r : Reach) (m : Dome) (v : AdapterVersion) (package : List (List Config.PackedExpert)) : Reach × AdapterVersion :=
  let r := r.stage m v package true
  let blocks := ((v.stack m).map (fun t => (r.chip.stack t).retiredBlocks)).getD []
  let cleared := r.fw.poisoned.filter (fun p => !(decide (some p.1 = v.stack m) && decide (v.place.2.1 ≤ p.2 * 4096) && decide (p.2 * 4096 < v.place.2.1 + v.place.2.2)))
  ({ r with fw := { r.fw with poisoned := cleared } }, { v with landed := true, staged := blocks })

/-- ADAPTER_LOAD: the next version of an adapter, current once its router rows and difference forms have landed; a version of FORM 1 lands its dense copies with them (R331, R332). -/
def callAdapterLoad (c : Call) (r : Reach) : Reach × Answer :=
  match namedDome c 8 1 r with
  | .error e => (r, refuse e)
  | .ok (id, m) =>
    let a : Answer := { die := m.home, dome := BitVec.ofNat 8 id.val }
    let n := c.arg 0xA 2
    let form := c.arg 0xC 4
    if n = 0 ∨ 1023 < n ∨ 2 < form then (r, { a with code := Code.callMalformed }) else
    let x := Table.read {} r.fw.adapters (id, n)
    if 2 ≤ x.versions.length then (r, { a with code := Code.adapterBusy }) else
    let q := r.readAt m.home c.space (c.arg 0x10 8) (c.arg 0x18 8)
    match q.2 with
    | none => (q.1, { a with code := if c.space.isSome then Code.hostAccess else Code.callMalformed })
    | some bytes =>
      let package := Config.adapterPackage bytes
      let parts := placePackage 0 package
      let held := (r.fw.adapters.filter (fun e => e.1.1 = id)).flatMap (fun e => e.2.versions)
      match q.1.fw.placeAdapter id m parts.1 with
      | none => (q.1, { a with code := Code.adapterNoRoom })
      | some at_ =>
        if 512 ≤ held.length then (q.1, { a with code := Code.adapterNoRoom }) else
        let slot := ((List.range 512).find? (fun k => !(held.any (fun v => v.slot = k)))).getD 0
        let v : AdapterVersion :=
          { number := x.lastVersion + 1, form := form, pins := 0, slot := slot, place := (at_.1, at_.2, parts.1), experts := parts.2,
            source := BitVec.ofNat 64 (c.arg 0x10 8), sourceFn := c.space, sourceLen := c.arg 0x18 8 }
        let r := q.1.stage m v package false
        let d := if form = 1 then r.landDense m v package else (r, v)
        let y : Adapter := { x with versions := x.versions ++ [d.2], current := some v.number, dropped := false, lastVersion := v.number }
        let fw := { d.1.fw with adapters := Table.write d.1.fw.adapters (id, n) y }
        ({ d.1 with fw := fw.pruneAdapters id }, { data := leBytes 2 v.number })

/-- ADAPTER_DROP. -/
def callAdapterDrop (c : Call) (r : Reach) : Reach × Answer :=
  match namedDome c 8 1 r with
  | .error e => (r, refuse e)
  | .ok (id, m) =>
    let n := c.arg 0xA 2
    let a : Answer := { die := m.home, dome := BitVec.ofNat 8 id.val }
    if n = 0 ∨ 1023 < n then (r, { a with code := Code.callMalformed }) else
    let x := Table.read {} r.fw.adapters (id, n)
    let fw := { r.fw with adapters := Table.write r.fw.adapters (id, n) { x with dropped := true, current := none } }
    ({ r with fw := fw.pruneAdapters id }, {})

/-! ## Meanings -/

def execQueueSet (c : Caller) : State → Outcome State Fault Refusal :=
  onReach (runCall 0x0010 { vf := true } [(8, 8), (0x10, 8), (0x18, 8), (0x20, 8), (0x28, 8), (0x30, 5), (0x36, 4)] callQueueSet c)
def execQueueStop (c : Caller) : State → Outcome State Fault Refusal := onReach (runCall 0x0011 { vf := true, hart := true } [(8, 2)] callQueueStop c)
def execCancel (c : Caller) : State → Outcome State Fault Refusal := onReach (runCall 0x0020 { vf := true, hart := true } [(8, 2), (0x10, 8)] callCancel c)
def execAdapterLoad (c : Caller) : State → Outcome State Fault Refusal :=
  onReach (runCall 0x0030 { vf := true } [(8, 1), (0xA, 6), (0x10, 8), (0x18, 8)] callAdapterLoad c)
def execAdapterDrop (c : Caller) : State → Outcome State Fault Refusal := onReach (runCall 0x0031 { vf := true } [(8, 1), (0xA, 2)] callAdapterDrop c)

end Sys2Proof.Machine
end

