-- ==== Sys2Proof/Machine/Steps.lean ====
section
/-! DEFINITION. How firmware runs a dome: frames (R306, R307), steps and their rows (R320 to R324), reports (R325, R328), faults and replays (R334 to R336), the watchdog (R308), restoration of lost data (R422 to R424) and fencing (R426, R427). -/

namespace Sys2Proof.Machine

open Host

/-! ## Whether a dome may run (R19, R427) -/

/-- A die of the dome is fenced, or its core domain is off. -/
def Chip.domeHeld (s : Chip) (m : Dome) : Bool :=
  m.dies.any (fun d => let x := s.die d; x.fenced || !x.ringOn || !x.coreOn)

/-- Sequences a step of a queue may take, those left out of the last one first, then the oldest (R320). -/
def Firmware.candidates (fw : Firmware) (m : Dome) (n : Nat) : List Sequence :=
  let l := fw.seqs.filter (fun q => q.queue = n ∧ q.ended = false ∧ q.replayHeld = false ∧ q.cancelled = false ∧ m.inStep q.index = false)
  l.filter (fun q => q.first) ++ l.filter (fun q => q.first = false)

/-- A queue's step kind under the dome's image. -/
def Firmware.kindOfQueue (fw : Firmware) (m : Dome) (n : Nat) : Option (Image × StepKind) :=
  match m.image, fw.queue n with
  | some i, some q => if q.configured then (i.kinds[q.kind]?).map (fun k => (i, k)) else none
  | _, _ => none

/-- Whether a queue has a step to run. -/
def Firmware.ready (fw : Firmware) (m : Dome) (n : Nat) : Bool :=
  (fw.kindOfQueue m n).isSome && (m.replays.any (fun x => x.queue = n) || fw.candidates m n ≠ [])

/-! ## Starting a step (R320 to R323) -/

/-- The batch of a queue (R320): up to MAX_ROWS requests, all SPEC or none on a queue that speculates. [log 91 DESIGN CHOICE] -/
def batchOf (q : Queue) (l : List Sequence) : List Sequence × Bool :=
  let verify : Bool := q.specOk && !q.prefill && (l.head?.map (fun x => x.spec)).getD false
  ((if q.specOk && !q.prefill then l.filter (fun x => x.spec = verify) else l).take q.maxRows, verify)

/-- The addresses of a row: its HANDLE0, its tokens, its tree block, its request's copy and its report (R322). -/
def Chip.rowPlaces (s : Chip) (m : Dome) (verify prefill : Bool) (x : Sequence) (slot : Nat) (w : Row) : Row :=
  let local_ (a : Option Nat) : Word64 := BitVec.ofNat 64 (a.getD 0)
  let request := (s.tablesBase m).map (fun a => a + x.block)
  let cell := s.cellOf m x.index
  let tokens := if verify then cell.map (fun a => a + 0x280) else if prefill then request.map (fun a => a + promptOff + 4 * x.pos) else cell.map (fun a => a + tokenOff)
  { w with handle0 := x.handle0, adapterSlot := slot, tokens := local_ tokens, tree := if verify then local_ cell else 0,
           request := local_ request, report := local_ (cell.map (fun a => a + reportOff)) }

/-- N of a row's tree block, which service software has built at TREE; free within MAX_TREE where it cannot be read or breaks R327. -/
def Reach.treeSize (r : Reach) (m : Dome) (q : Queue) (x : Sequence) : Reach × Nat :=
  let b := r.get m.home (r.chip.cellOf m x.index) 4
  let n := (b.2.map leNat).getD 0
  if 1 ≤ n ∧ n ≤ q.maxTree then (b.1, n) else
  let c := b.1.chip.freeChoice q.maxTree
  ({ b.1 with chip := c.2 }, c.1 + 1)

/-- The slot of a request's pinned version in the expert table; 0xFFFF for none. -/
def Firmware.slotOf (fw : Firmware) (x : Sequence) : Nat :=
  if x.adapter = 0 then 0xFFFF else
  (((Table.read {} fw.adapters (x.dome, x.adapter)).versions.find? (fun v => v.number = x.version)).map (fun v => v.slot)).getD 0xFFFF

/-- The row of a request (R322). -/
def Reach.makeRow (r : Reach) (m : Dome) (q : Queue) (verify : Bool) (x : Sequence) (obj : ObjId) : Reach × Row :=
  let base := (r.chip.obj obj).count
  let places (r : Reach) (w : Row) : Row := r.chip.rowPlaces m verify q.prefill x (r.fw.slotOf x) w
  if verify then
    let c := r.treeSize m q x
    (c.1, places c.1 { seq := x.index, pos := x.pos, count := c.2, commitFrom := x.pos, verify := true, sample := true, commitObj := obj, commitBase := base })
  else
    let n := if q.prefill then Nat.min q.chunk (x.promptLen - x.pos) else 1
    (r, places r { seq := x.index, pos := x.pos, count := n, commitFrom := x.pos, verify := false, sample := !q.prefill || decide (x.pos + n = x.promptLen),
                   commitObj := obj, commitBase := base })

def Reach.makeRows (r : Reach) (m : Dome) (q : Queue) (verify : Bool) (id : DomeId) : List Sequence → Nat → Reach × List Row
  | [], _ => (r, [])
  | x :: t, k =>
    let a := r.makeRow m q verify x (r.chip.topObject id m.home (k + 2))
    let b := Reach.makeRows a.1 m q verify id t (k + 1)
    (b.1, a.2 :: b.2)

/-- The bytes of a row of the batch table (R322). -/
def rowBytes (w : Row) (seq : Nat) : List Byte :=
  let obj := match w.commitObj with
    | .die d n => d.val * 4096 + n.val
    | .stack _ _ => 0
  leBytes 4 seq ++ leBytes 4 w.handle0 ++ leBytes 4 w.pos ++ leBytes 4 w.count ++ leBytes 4 w.commitFrom ++ leBytes 2 w.adapterSlot ++
  leBytes 2 (if w.sample then 1 else 0) ++ leBytes 8 w.tokens.toNat ++ leBytes 8 w.tree.toNat ++ leBytes 2 obj ++ leBytes 6 0 ++
  leBytes 8 w.request.toNat ++ leBytes 8 w.report.toNat

/-- Before a step: the batch table, and the length word of each row's sequence: POS + COUNT, or POS for a VERIFY row (R320, R322). -/
def Reach.writeBatch (r : Reach) (m : Dome) (rows : List Row) : Reach :=
  (rows.mapIdx (fun k w => (k, w))).foldl (fun (r : Reach) e =>
    match r.fw.seq e.2.seq with
    | none => r
    | some q =>
      let r := r.put m.home ((r.chip.tablesBase m).map (fun a => a + batchOff + 64 * e.1)) (rowBytes e.2 (q.index + q.generation * 65536))
      r.setLength m q (if e.2.verify then e.2.pos else e.2.pos + e.2.count)) r

/-! ## The expert table (R330, R331) -/

/-- The granules and blocks of a dense copy that are poisoned, or retired since it was staged (R331). -/
def Reach.denseBad (r : Reach) (m : Dome) (v : AdapterVersion) (e : ExpertPlace) : Bool :=
  match v.stack m with
  | none => false
  | some t =>
    let lo := v.place.2.1 + e.dense
    let hi := lo + e.denseLen
    r.fw.poisoned.any (fun p => decide (p.1 = t) && decide (lo < p.2 * 4096 + 4096) && decide (p.2 * 4096 < hi)) ||
    (r.chip.stack t).retiredBlocks.any (fun b => !v.staged.contains b && decide (lo < b * 65536 + 65536) && decide (b * 65536 < hi))

/-- FORM of an expert (R331). -/
def Reach.expertForm (r : Reach) (m : Dome) (v : AdapterVersion) (e : ExpertPlace) : Nat :=
  if e.present = false then 0
  else if v.form = 2 then 2 else if v.form = 1 then 1
  else if v.landed = false ∨ r.denseBad m v e then 2 else 1

/-- An entry of the expert table (R330). -/
def Reach.expertBytes (r : Reach) (m : Dome) (v : AdapterVersion) (e : ExpertPlace) : List Byte :=
  let at_ (off : Nat) : Nat := (r.chip.versionAddr m v off).getD 0
  let dense := if e.present ∧ v.landed then at_ e.dense else 0
  leBytes 1 (r.expertForm m v e) ++ leBytes 1 0 ++ leBytes 2 (if e.present then e.base else 0) ++ leBytes 4 0 ++ leBytes 8 dense ++
  leBytes 8 (if e.present then at_ e.diff else 0) ++ leBytes 8 (at_ e.router)

/-- Every version that a dome holds, with its adapter's number. -/
def Firmware.versions (fw : Firmware) (id : DomeId) : List (Nat × AdapterVersion) :=
  (fw.adapters.filter (fun e => e.1.1 = id)).flatMap (fun e => e.2.versions.map (fun v => (e.1.2, v)))

/-- Between steps a dense copy that has not landed, or that lost a page, may land again from its package: when it does is free (R331). -/
def Reach.landSome (r : Reach) (id : DomeId) (m : Dome) : Reach :=
  (r.fw.versions id).foldl (fun (r : Reach) e =>
    let v := e.2
    if v.landed ∧ v.experts.flatten.all (fun x => !r.denseBad m v x) then r else
    let c := r.chip.freeChoice 2
    let r : Reach := { r with chip := c.2 }
    if c.1 = 0 then r else
    let q := r.readAt m.home v.sourceFn v.source.toNat v.sourceLen
    match q.2 with
    | none => q.1
    | some bytes =>
      let d := q.1.landDense m v (Config.adapterPackage bytes)
      let y := Table.read {} d.1.fw.adapters (id, e.1)
      { d.1 with fw := { d.1.fw with adapters := Table.write d.1.fw.adapters (id, e.1) { y with versions := y.versions.map (fun u => if u.number = v.number then d.2 else u) } } }) r

/-- Write the expert table: the block of each version's slot, 8 entries for each of the image's MoE layers (R330). -/
def Reach.writeExperts (r : Reach) (id : DomeId) (m : Dome) (i : Image) : Reach :=
  let layers := Config.moeLayers i.digest
  let none_ : ExpertPlace := ⟨false, 0, 0, 0, 0, 0⟩
  (r.fw.versions id).foldl (fun (r : Reach) e =>
    let v := e.2
    let bytes := (List.range layers).flatMap (fun l => (List.range 8).flatMap (fun k =>
      match (v.experts.getD l [])[k]? with
      | some x => r.expertBytes m v x
      | none => leBytes 32 (r.expertForm m v none_)))
    let off := expertOff + v.slot * 256 * layers
    if off + 256 * layers ≤ requestsOff then r.put m.home ((r.chip.tablesBase m).map (fun a => a + off)) bytes else r) r

/-- The step arguments (R321); the addresses of a dome without private memory are free. -/
def stepArgs (s : Chip) (m : Dome) (i : Image) (k : StepKind) (x : StepRun) : Chip × Table (Fin 15) Word64 :=
  let a0 := x.kind + x.rows.length * 2 ^ 8 + (if x.verify then 2 ^ 16 else 0) + (if x.replay then 2 ^ 17 else 0)
  let b := s.freeBits 35
  let l := b.2.freeBits 41
  let e := l.2.freeBits 41
  let own (a : Option Nat) (free : Word64) : Word64 := (a.map (fun n => BitVec.ofNat 64 n)).getD free
  let tables := s.tablesBase m
  let counts : List (Fin 15 × Word64) := (m.counts.take 4).mapIdx (fun j c => (clip 15 (4 + j), BitVec.ofNat 64 c))
  let consts : List (Fin 15 × Word64) := k.consts.mapIdx (fun j c => (clip 15 (9 + j), if c.1 = 1 then i.bindings else c.2))
  (e.2, [(0, BitVec.ofNat 64 a0), (1, own (tables.map (fun a => a + batchOff)) (BitVec.ofNat 64 (b.1.toNat * 64))), (2, BitVec.ofNat 64 x.number),
         (3, own (s.cellsBase m) (l.1.setWidth 64)), (8, own (tables.map (fun a => a + expertOff)) (e.1.setWidth 64))] ++ counts ++ consts)

/-- Load the arguments and entry of every cluster of a dome and start them (R96, R125, R296). -/
def startClusters (s : Chip) (m : Dome) (i : Image) (kind number : Nat) (args : Table (Fin 15) Word64) : Chip :=
  (m.clusters.mapIdx (fun k c => (k, c))).foldl (fun s e =>
    let entry := ((i.programs[e.1]?).map (fun p => p.2.1.getD kind 0)).getD 0
    Chip.stepGo e.2 number (s.updCluster e.2 (fun x => { x with args := args, entry := entry }))) s

/-- Whether a request's step runs with a private expert of its pinned version in DIFF form (R331). -/
def Reach.diffNow (r : Reach) (m : Dome) (x : Sequence) : Bool :=
  if x.adapter = 0 then false else
  match (Table.read {} r.fw.adapters (x.dome, x.adapter)).versions.find? (fun v => v.number = x.version) with
  | none => false
  | some v => v.experts.flatten.any (fun e => r.expertForm m v e = 2)

/-- The objects a dome's home die has left for its rows: two are firmware's own (R322, R324). -/
def Chip.rowObjects (s : Chip) (id : DomeId) (m : Dome) : Nat := (s.objectsOf id (.die m.home)).length - 2

/-- Run a step of a queue: a replay that waits, or a new batch. [log 93 DEDUCED] -/
def Reach.startStep (r : Reach) (id : DomeId) (n : Nat) : Reach :=
  match r.fw.dome id, r.fw.queue n with
  | some m, some q =>
    (match r.fw.kindOfQueue m n with
     | none => r
     | some (i, k) =>
       let number := i.steps
       let now := (r.chip.die m.home).timer
       let losses := (r.chip.die m.home).objLosses
       let plan : Reach × StepRun × List StepRun :=
         match m.replays.find? (fun x => x.queue = n) with
         | some x =>
           let rows := x.rows.map (fun w => { w with commitBase := (r.chip.obj w.commitObj).count })
           let x : StepRun := { x with rows := rows, replay := true, number := number, status := 0, started := now, fault := 0, losses := losses }
           ({ r with chip := r.chip.point m.home id 5 number }, x, m.replays.filter (fun y => y.queue ≠ n) ++ (m.replays.filter (fun y => y.queue = n)).tail)
         | none =>
           let l := r.fw.candidates m n
           let b := batchOf { q with maxRows := Nat.min q.maxRows (r.chip.rowObjects id m) } l
           let rows := r.makeRows m q b.2 id b.1 0
           let taken (x : Sequence) : Bool := b.1.any (fun y => y.index = x.index)
           let left (x : Sequence) : Bool := l.any (fun y => y.index = x.index)
           let fw := { r.fw with seqs := r.fw.seqs.map (fun x => if taken x then { x with first := false } else if left x then { x with first := true } else x) }
           ({ rows.1 with fw := fw },
            { queue := n, kind := q.kind, number := number, rows := rows.2, replay := false, started := now, verify := b.2, losses := losses }, m.replays)
       let x := plan.2.1
       if x.rows = [] then r else
       let r := plan.1.landSome id m
       let r := x.rows.foldl (fun (r : Reach) w => match r.fw.seq w.seq with
         | none => r
         | some sq => let d := r.diffNow m sq; { r with fw := r.fw.updSeq w.seq (fun y => { y with diffServed := y.diffServed || d, replayHeld := false }) }) r
       let r := (r.writeExperts id m i).writeBatch m x.rows
       let s := r.chip.point m.home id 4 n
       let s := { s with badRuns := s.badRuns &&& ~~~(BitVec.ofNat 16 (2 ^ id.val)) }
       let s := m.clusters.foldl (fun s c => s.updDie c.die (fun y => { y with lostSteps := y.lostSteps &&& ~~~(BitVec.ofNat 16 (2 ^ c.idx.val)) })) s
       let a := stepArgs s m i k x
       let s := startClusters a.1 m i x.kind number a.2
       { r with chip := s, fw := r.fw.setDome id (some { m with step := some x, replays := plan.2.2, image := some { i with steps := number + 1 } }) })
  | _, _ => r

/-! ## Frames (R306, R307) -/

/-- A list turned left by n. -/
def rotate {α : Type} (l : List α) (n : Nat) : List α := if l = [] then [] else l.drop (n % l.length) ++ l.take (n % l.length)

/-- The slots of a frame: REALTIME in table order, then BEST_EFFORT in their rotation. -/
def framePlan (table : List Word64) (turn : Nat) : List FrameSlot :=
  (table.filter (fun w => slotClass w = 1)).map (fun w => ⟨slotQueue w, true, slotQuantum w, 0, 0⟩) ++
  (rotate (table.filter (fun w => slotClass w = 2)) turn).map (fun w => ⟨slotQueue w, false, 0, slotBudget w, 0⟩)

/-- Timer units in a microsecond. -/
def unitsPerUs : Nat := 100

/-- Go on with a frame's plan until a step starts or the plan is empty. -/
def Reach.proceed (id : DomeId) : Nat → Reach → Reach
  | 0, r => r
  | f + 1, r =>
    match r.fw.dome id with
    | none => r
    | some m =>
      if m.busyStep ∨ r.serves id = false ∨ r.chip.domeHeld m then r else
      match m.plan with
      | [] => r
      | p :: rest =>
        let drop : Reach := { r with fw := r.fw.setDome id (some { m with plan := rest }) }
        let now := (r.chip.die m.home).timer.toNat
        let ready := r.fw.ready m p.queue && decide (0 < r.chip.rowObjects id m)
        if p.realtime then
          if p.left = 0 ∨ ready = false then Reach.proceed id f drop
          else Reach.startStep { r with fw := r.fw.setDome id (some { m with plan := { p with left := p.left - 1 } :: rest }) } id p.queue
        else
          let fitsEnd : Bool := match r.fw.kindOfQueue m p.queue with
            | some (_, k) => decide (unitsPerUs * planBeats m.floorRate k ≤ (m.frameEnd.toNat - now) * m.floorRate)
            | none => false
          if ready = false ∨ (p.budget ≠ 0 ∧ p.budget * unitsPerUs ≤ p.spent) ∨ fitsEnd = false then Reach.proceed id f drop
          else r.startStep id p.queue

/-- Begin a frame at the present time: a new table takes effect, missed frames are skipped, a late start is counted. [log 82 DEDUCED] -/
def Reach.beginFrame (r : Reach) (id : DomeId) : Reach :=
  match r.fw.dome id with
  | none => r
  | some m =>
    let now := (r.chip.die m.home).timer.toNat
    let len := m.frameLen
    let table := m.nextTable.getD m.table
    if table = [] ∨ m.image.isNone ∨ r.serves id = false then r else
    let due := m.frameEnd.toNat
    if m.anchor.isSome ∧ now < due then r else
    let lost := if m.anchor.isNone ∨ now ≤ due + len then 0 else (now - due) / len
    let anchor := if m.anchor.isNone then now else due + lost * len
    let late : Bool := m.anchor.isSome && decide (anchor < now)
    let s := if lost = 0 then r.chip else r.chip.log m.home 1 Code.frameMissed (BitVec.ofNat 8 id.val) 0 (BitVec.ofNat 64 lost)
    let frame := if m.nextTable.isSome then 0 else m.frame + 1 + lost
    let s := s.point m.home id 6 frame
    let m := { m with table := table, nextTable := none, anchor := some (BitVec.ofNat 64 anchor), frame := frame, rotation := m.rotation + 1,
                      frameLate := m.frameLate + (if late then 1 else 0), plan := framePlan table m.rotation, frameEnd := BitVec.ofNat 64 (anchor + len) }
    Reach.proceed id (m.plan.length + 1) { r with chip := s, fw := r.fw.setDome id (some m) }

/-- Go on after a step: the plan's next step, or the next frame when its anchor has passed. -/
def Reach.resume (r : Reach) (id : DomeId) : Reach :=
  match r.fw.dome id with
  | none => r
  | some m =>
    let r := Reach.proceed id (m.plan.length + 1) r
    match r.fw.dome id with
    | none => r
    | some m =>
      if m.busyStep = false ∧ m.plan = [] ∧ m.anchor.isSome ∧ m.frameEnd.toNat ≤ (r.chip.die m.home).timer.toNat then r.beginFrame id else r

/-- FRAME_START: an anchor passes; while a step runs, the frame begins when it ends (R307). -/
def frameStart (id : DomeId) (r : Reach) : Reach :=
  match r.fw.dome id with
  | none => r
  | some m => if r.serves id = false ∨ m.busyStep then r else (r.pollProducers).beginFrame id

/-! ## Lost data (R422 to R424) -/

/-- The region of a die's table that maps a stack address, and the offset in the region. -/
def Chip.regionAt (s : Chip) (t : StackId) (a : Nat) : Option (Nat × Nat) :=
  (s.die (stackDie t)).regions.findSome? (fun e =>
    let w := e.2
    if (regionStacks w).contains t = false then none else
    let k := if regionMode w = 1 then 1 else spreadWidth (regionWidth w)
    let fo := a % 2 ^ 30
    let r := e.1.val
    let off := if regionMode w = 1 then fo else ((fo / 4096 * k + (t.val - regionStack w)) * 4096 + fo % 4096) % 2 ^ 30
    if translate w (r * 2 ^ 30 + off) = (t, a) then some (r, off) else none)

/-- A free block for a replacement: one of a frame that no region maps and that is not named by the retirement table (R420). [log 130 DESIGN CHOICE] -/
def Chip.freeBlock (s : Chip) (t : StackId) : Option Nat :=
  let mapped (f : Nat) : Bool := allDies.any (fun d => (s.die d).regions.any (fun e => (regionStacks e.2).contains t && decide (regionFrame e.2 = f)))
  match (List.range 64).find? (fun f => mapped f = false) with
  | none => none
  | some f => ((List.range 256).map (fun i => f * 16384 + i)).find? (fun b => !((s.stack t).retireTable.any (fun e => e.1 = b || e.2 = b)))

/-- Firmware retires a block, or logs that there is no room (R420, R421); while another retirement runs it leaves the block for its next reading. -/
def Chip.retire (s : Chip) (t : StackId) (block : Nat) : Chip :=
  match s.freeBlock t with
  | none => s.log (stackDie t) 2 Code.retireNoRoom 0xFF 0 (BitVec.ofNat 64 (t.val * 2 ^ 20 + block))
  | some b =>
    if (s.stack t).retireBusy then s
    else Chip.retireGo t (s.updStack t (fun x => { x with retireBlock := BitVec.ofNat 20 block, retireRepl := BitVec.ofNat 20 b }))

/-- The blocks that a list of corrected codewords and laps gives up: one whose codeword was corrected on two consecutive laps, or with more than 16 distinct codewords in one lap (R419). Laps count 15 bits in the log (R436). -/
def persistentBlocks (l : List (Nat × Nat)) : List Nat :=
  let l := l.dedup
  ((l.filter (fun e => l.contains (e.1, (e.2 + 1) % 2 ^ 15) || decide (16 < (l.filter (fun y => y.1 / 65536 = e.1 / 65536 ∧ y.2 = e.2)).length))).map (fun e => e.1 / 65536)).dedup

/-- Firmware of a stack's die reads the correction log and retires the blocks whose errors persist, one at a time; it remembers the last lap's codewords and those of the blocks that wait (R419, R436). [log 164 DEDUCED] -/
def Reach.readCorrections (r : Reach) (t : StackId) : Reach :=
  if r.chip.running (stackDie t) = false then r else
  let x := r.chip.stack t
  let seen := (r.fw.corrected.filter (fun e => e.1 = t)).map (fun e => e.2) ++ x.ceLog.map (fun e => (e.saddr / 64 * 64, e.lap))
  let bad := (persistentBlocks seen).filter (fun b => !(x.retireTable.any (fun e => e.1 = b || e.2 = b)))
  let s := r.chip.updStack t (fun y => { y with ceLog := [], ceLast := y.ceLog.getLast?.or y.ceLast })
  let now := if x.retireBusy then [] else bad.take 1
  let s := now.foldl (fun s b => s.retire t b) s
  let kept := seen.filter (fun e => (decide ((e.2 + 1) % 2 ^ 15 = x.laps.toNat % 2 ^ 15) || bad.contains (e.1 / 65536)) && !now.contains (e.1 / 65536))
  { r with chip := s, fw := { r.fw with corrected := r.fw.corrected.filter (fun e => e.1 ≠ t) ++ kept.map (fun e => (t, e)) } }

/-- SCRUB_BURST: at the end of a lap, firmware reads the lap's corrections. -/
def scrubBurst (t : StackId) (p : Fin 64) (r : Reach) : Reach :=
  let s := Chip.live (Chip.scrubBurst t p) r.chip
  let after : Reach := { r with chip := s }
  if (s.stack t).laps = (r.chip.stack t).laps then after else after.readCorrections t

/-- Bytes of a granule from its source of record: the server host's memory, or remote loads whose data the spec leaves to the other module. [log 131 DEDUCED] -/
def Reach.sourceBytes (r : Reach) (x : Source) (off : Nat) : Reach × Option (List Byte) :=
  if x.kind = 1 then
    (r, if r.chip.fnUp .pf then some (r.host.bytes (x.addr.toNat + off) 4096) else none)
  else
    let f := r.chip.freeBits 32768
    ({ r with chip := f.2 }, some (leBytes 4096 f.1.toNat))

/-- Restore the granule of 4 KiB that holds a codeword from its region's source; when the same codeword fails again within two laps its block is retired. Answers whether it was restored. -/
def Reach.restore (r : Reach) (t : StackId) (word : Nat) : Reach × Bool :=
  let g := word / 64
  let a := g * 4096
  let s := (List.range 16).foldl (fun s i => s.dropLine t (a / 256 + i)) r.chip
  let s := (List.range 64).foldl (fun s i => s.poisonCodeword t (a + 64 * i)) s
  let r := { r with chip := s, fw := { r.fw with poisoned := r.fw.poisoned ++ [(t, g)] } }
  let src := (s.regionAt t a).bind (fun e => (Table.read none r.fw.sources (clip 2048 e.1)).map (fun x => (x, e.2)))
  match src with
  | none => (r, false)
  | some (x, off) =>
    let b := r.sourceBytes x off
    match b.2 with
    | none => (b.1, false)
    | some bs =>
      let laps := (b.1.chip.stack t).laps
      let again := b.1.fw.restored.any (fun e => e.1 = t && e.2.1 = word && decide ((laps - e.2.2).toNat ≤ 2))
      let s := (List.range 64).foldl (fun s i => s.writeCodeword t (a + 64 * i) ((bs.drop (64 * i)).take 64)) b.1.chip
      let s := if again then s.retire t (a / 65536) else s
      ({ b.1 with chip := s, fw := { b.1.fw with poisoned := b.1.fw.poisoned.filter (fun e => e ≠ (t, g)),
                                                 restored := (t, word, laps) :: b.1.fw.restored.filter (fun e => !(e.1 = t && e.2.1 = word)) } }, true)

/-- The codewords of a dome's stacks that a reader met and its SCRUB page holds as uncorrectable (R416). [log 129 DEDUCED] -/
def Chip.lostWords (s : Chip) (m : Dome) : List (StackId × Nat) :=
  m.stackList.filterMap (fun t =>
    let h := s.head (.scrub t)
    let c : FaultCode := h.errTag.extractLsb' 16 16
    if h.errStatus.getLsbD 2 ∧ (c = Code.uncorrectable ∨ c = Code.poisoned) then some (t, h.errAddr.toNat % 2 ^ 36 / 64) else none)

/-- The requests that hold the KV page of a granule (R319, R422). -/
def Firmware.holders (fw : Firmware) (t : StackId) (granule : Nat) : List Nat :=
  (fw.seqs.filter (fun q => match fw.dome q.dome with
    | none => false
    | some m => match m.image, m.privateStacks.idxOf? t with
      | some i, some j => let g := gridOf i.digest; q.slots.any (fun e => decide (e.1 = j) && decide (g.slotAt e.2 < granule * 4096 + 4096) && decide (granule * 4096 < g.slotAt e.2 + g.page))
      | _, _ => false)).map (fun q => q.index)

/-- A granule lies in the space of an adapter version: its package is its source of record (R422). -/
def Firmware.inAdapter (fw : Firmware) (id : DomeId) (m : Dome) (t : StackId) (granule : Nat) : Bool :=
  (fw.adapterSpace id).any (fun p => decide (m.privateStacks[p.1]? = some t) && decide (p.2.1 < granule * 4096 + 4096) && decide (granule * 4096 < p.2.1 + p.2.2))

/-- What becomes of a faulted step's rows after lost data (R422 to R424): the request that holds a lost KV page ends; an adapter's dense copy is served in its difference form until it lands again; any other granule is restored from its source, and one without leaves every row FAULTED. Answers the rows that end. -/
def Reach.recover (r : Reach) (id : DomeId) (m : Dome) (rows : List Row) : Reach × List Nat :=
  (r.chip.lostWords m).foldl (fun (acc : Reach × List Nat) c =>
    let r := acc.1
    let g : StackId × Nat := (c.1, c.2 / 64)
    let r := { r with chip := r.chip.updHead (.scrub g.1) (fun h => { h with errStatus := h.errStatus &&& ~~~(bitMask 2) }) }
    let holders := r.fw.holders g.1 g.2
    if holders ≠ [] then (r, acc.2 ++ holders)
    else if r.fw.inAdapter id m g.1 g.2 then ({ r with fw := { r.fw with poisoned := g :: r.fw.poisoned } }, acc.2)
    else
      let q := r.restore c.1 c.2
      if q.2 then (q.1, acc.2)
      else ({ q.1 with chip := q.1.chip.log (stackDie g.1) 2 Code.sourceMissing 0xFF 0 (BitVec.ofNat 64 (g.1.val * 2 ^ 36 + g.2 * 4096)) },
            acc.2 ++ rows.map (fun w => w.seq))) (r, [])

/-! ## The end of a step (R323, R324, R334 to R336) -/

/-- The commit mark of a row after c commit commands (R323): each covers positions of one page. -/
def commitMark (w : Row) (c : Nat) : Nat :=
  if c = 0 then w.commitFrom else Nat.min (w.pos + w.count) ((w.commitFrom / 256 + c) * 256)

/-- Commit commands of a row that completed. -/
def Chip.commits (s : Chip) (w : Row) : Nat := ((s.obj w.commitObj).count - w.commitBase).toNat

/-- Whether the home die, which holds the COMMIT_OBJs, lost its objects during the step (R336). -/
def Chip.countsLost (s : Chip) (m : Dome) (x : StepRun) : Bool := (s.die m.home).objLosses != x.losses

/-- Why a step ended other than COMPLETE: a watchdog's mark, a cluster or the step's counts lost with a core domain, a cluster's fault or abort, or a bad Ulizen run. -/
def Chip.stepFault (s : Chip) (id : DomeId) (m : Dome) (x : StepRun) : Option FaultCode :=
  if x.fault ≠ 0 then some x.fault
  else if s.countsLost m x ∨ m.clusters.any (fun c => (s.die c.die).coreOn = false || (s.die c.die).lostSteps.getLsbD c.idx.val) then some Code.coreOff
  else match m.clusters.find? (fun c => (s.cluster c).faultedFlag) with
    | some c => some (s.cluster c).stepCode
    | none =>
      if m.clusters.any (fun c => (s.cluster c).abortedFlag) then some 0
      else if s.badRuns.getLsbD id.val then
        let code := m.stackList.findSome? (fun t => (s.stack t).slots.findSome? (fun e => if e.2.dome.toNat = id.val then e.2.runFault.map (fun f => f.1) else none))
        some (code.getD 0)
      else none

/-- Fence a die (R19, R426). -/
def Chip.fence (s : Chip) (d : DieId) : Chip := (s.coreOffDomain d).updDie d (fun x => { x with fenced := true, faultFence := true })

/-- Count a dome's consecutive steps with class 0x3 faults in a die; the third fences it (R426). -/
def Reach.softCount (r : Reach) (id : DomeId) (m : Dome) : Reach :=
  m.dies.foldl (fun r d =>
    let bad := m.clusters.any (fun c => decide (c.die = d) && (r.chip.cluster c).faultedFlag && decide ((r.chip.cluster c).stepCode >>> 12 = 3))
    let n := if bad then Table.read 0 r.fw.softErrors (id, d) + 1 else 0
    let r := { r with fw := { r.fw with softErrors := Table.write r.fw.softErrors (id, d) (n % 3) } }
    if n = 3 then { r with chip := r.chip.fence d } else r) r

/-- The step status word and the step object (R324). -/
def Reach.announce (r : Reach) (id : DomeId) (m : Dome) (x : StepRun) (status : Nat) : Reach :=
  let s := r.chip.setCount m.home m.stepObj ((r.chip.obj m.stepObj).count + 1)
  { r with chip := s, fw := r.fw.updDome id (fun m => { m with statusWord := BitVec.ofNat 64 (x.number * 2 ^ 32 + status) }) }

/-- A prefill row that finished its prompt passes on to NEXT with its first token. -/
def afterRow (fw : Firmware) (q : Queue) (w : Row) : Firmware :=
  fw.updSeq w.seq (fun y => if q.prefill ∧ w.sample then { y with queue := q.next } else y)

/-- A COMPLETE step: counts, commit marks, and the wait for row reports when a row samples. -/
def Reach.completeStep (r : Reach) (id : DomeId) (m : Dome) (x : StepRun) : Reach :=
  let incr := ((m.image.map (fun i => i.counters)).getD []).map (fun c => c.2.2.getD x.kind 0)
  let counts := m.counts.mapIdx (fun j c => c + incr.getD j 0)
  let rows := x.rows.map (fun w => if w.verify then { w with committed := w.pos } else { w with committed := commitMark w (r.chip.commits w) })
  let fw := rows.foldl (fun fw w => if w.verify then fw else
    fw.updSeq w.seq (fun y => { y with pos := w.pos + w.count, committed := w.committed })) r.fw
  let sampled : Bool := rows.any (fun w => w.sample)
  let r := { r with fw := fw.updDome id (fun m => { m with counts := counts, step := none, reporting := if sampled then some { x with rows := rows } else none }) }
  let r := r.announce id m x 1
  -- a row cancelled in a step that reports nothing ends here
  if sampled then r else
  r.endAll ((r.fw.seqs.filter (fun q => q.cancelled ∧ q.ended = false ∧ rows.any (fun w => w.seq = q.index))).map (fun q => q.index)) 2 0

/-- A FAULTED step: marks, objects set back, rows that end, and the replay of the rest. -/
def Reach.failStep (r : Reach) (id : DomeId) (m : Dome) (x : StepRun) (code : FaultCode) : Reach :=
  let torn := r.chip.countsLost m x
  let rows := x.rows.map (fun w =>
    let mark := if torn ∨ w.verify then w.commitFrom else commitMark w (r.chip.commits w)
    { w with commitFrom := mark, committed := mark, runs := w.runs + 1 })
  let fw := rows.foldl (fun fw w => fw.updSeq w.seq (fun y =>
    { y with committed := if torn then w.pos else if w.verify then y.committed else w.committed, faultCode := code, replayed := true })) r.fw
  let r := { r with fw := fw.updDome id (fun m => { m with step := none }) }
  let r := r.announce id m x 3
  -- each counting object goes back to the count reached before the step (R300)
  let objs := (((m.image.map (fun i => i.counters)).getD []).map (fun c => (m.dies[c.1]?).map (fun d => (ObjId.die d (clip 4096 ((r.chip.objectsOf id (.die d)).getD c.2.1 0))))))
  let s := (objs.zip m.counts).foldl (fun s e => match e.1 with
    | some o => s.setCount m.home o (BitVec.ofNat 64 e.2)
    | none => s) r.chip
  let r := { r with chip := s }
  if torn then r.endAll (rows.map (fun w => w.seq)) 4 code else
  let mem : Bool := decide (code = Code.uncorrectable) || decide (code = Code.poisoned)
  let lost : Reach × List Nat := if mem then r.recover id m rows else (r, [])
  let r := lost.1.endAll lost.2 3 code
  let spent := (rows.filter (fun w => 3 ≤ w.runs)).map (fun w => w.seq)
  let r := r.endAll spent 3 Code.replayLimit
  let r := r.endAll ((r.fw.seqs.filter (fun q => q.cancelled ∧ q.ended = false ∧ rows.any (fun w => w.seq = q.index))).map (fun q => q.index)) 2 code
  let again := rows.filter (fun w => ((r.fw.seq w.seq).map (fun q => !q.ended)).getD false)
  if again = [] then r else
  let fw := again.foldl (fun fw w => fw.updSeq w.seq (fun y => { y with replayHeld := true })) r.fw
  { r with fw := fw.updDome id (fun m => { m with replays := m.replays ++ [{ x with rows := again, fault := code }] }) }

/-- The time a best-effort slot has used grows by the step's; after a watchdog's abort the Ephemeris goes on with the next slot (R308). -/
def chargeSlot (m : Dome) (x : StepRun) (now : Word64) : List FrameSlot :=
  if x.fault = Code.stepWatchdog then (match m.plan with
    | p :: rest => if p.queue = x.queue then rest else m.plan
    | [] => []) else
  match m.plan with
  | p :: rest => if p.queue = x.queue ∧ p.realtime = false then { p with spent := p.spent + (now - x.started).toNat } :: rest else m.plan
  | [] => []

/-- DOME_STEP_END: every cluster of the dome has ended, and after a fault or an abort nothing of theirs is outstanding. -/
def domeStepEnd (id : DomeId) (r : Reach) : Reach :=
  match r.fw.dome id with
  | none => r
  | some m =>
    match m.step with
    | none => r
    | some x =>
      if r.serves id = false ∨ m.clusters.any (fun c => (r.chip.cluster c).running) then r else
      let fault := r.chip.stepFault id m x
      if fault.isSome ∧ m.clusters.any (fun c => r.chip.outstanding c) then r else
      let m := { m with plan := chargeSlot m x (r.chip.die m.home).timer }
      let r : Reach := { r with fw := r.fw.setDome id (some m) }
      let r := match fault with
        | none => r.completeStep id m x
        | some c => r.failStep id m x c
      let r := r.softCount id m
      Reach.resume r.pollProducers id

/-- STEP_WATCHDOG: a step longer than WATCHDOG is aborted on every cluster (R308). -/
def stepWatchdog (id : DomeId) (r : Reach) : Reach :=
  match r.fw.dome id with
  | none => r
  | some m =>
    match m.step with
    | none => r
    | some x =>
      let now := (r.chip.die m.home).timer
      if r.serves id = false ∨ x.fault ≠ 0 ∨ (now - x.started).toNat ≤ m.watchdog * unitsPerUs then r else
      let s := m.clusters.foldl (fun s c => Chip.abortStep c s) r.chip
      let s := s.log m.home 2 Code.stepWatchdog (BitVec.ofNat 8 id.val) 0 (BitVec.ofNat 64 (x.queue + x.kind * 65536))
      { r with chip := s, fw := r.fw.setDome id (some { m with step := some { x with fault := Code.stepWatchdog } }) }

/-! ## Row reports (R324, R325, R328) -/

/-- Whether a report keeps to R258 and R324; of the tree block only the parents matter, where it can be read. -/
def reportGood (verify : Bool) (count : Nat) (parents : Option (List Byte)) (p : RowReport) : Bool :=
  let k := p.k.toNat
  let path := p.path.map (fun b => b.toNat)
  decide (1 ≤ k) && decide (k ≤ 16) && (verify || k = 1) && p.flags.extractLsb' 1 7 == 0 && p.zero2 == 0 && p.zero8 == 0 && decide (p.path.length = 16) &&
  path.getD 0 0 = 0 && (List.range k).all (fun i => decide (path.getD i 0 < count) &&
    (i = 0 || (decide (path.getD (i - 1) 0 < path.getD i 0) && (match parents with
      | some l => decide ((l.getD (path.getD i 0) 0xFF).toNat = path.getD (i - 1) 0)
      | none => true)))) &&
  (List.range 16).all (fun i => decide (i < k) || path.getD i 0 = 0) && decide (p.emitted.toNat ≤ k)

/-- The bytes of a row report (R324). -/
def reportBytes (p : RowReport) : List Byte :=
  leBytes 1 p.k.toNat ++ leBytes 1 p.flags.toNat ++ leBytes 2 p.zero2.toNat ++ leBytes 4 p.emitted.toNat ++ leBytes 8 p.zero8.toNat ++ (p.path ++ List.replicate 16 0).take 16

/-- Whether the last emitted token is the stop token: told by END before MAX_NEW, else by the token that lies at OUT. [log 94 DEDUCED] -/
def Reach.stopToken (r : Reach) (q : Sequence) : Reach × Bool :=
  if q.emitted < q.maxNew then (r, true) else
  let space := ((r.fw.queue q.submitted).map (fun x => x.space)).getD none
  let x := r.readAt (r.fw.home q.dome) space (q.out.toNat + 4 * (q.emitted - 1)) 4
  (x.1, q.stop ≠ 0xFFFFFFFF && (match x.2 with
    | some b => decide (leNat b = q.stop.toNat)
    | none => false))

/-- A word of KV_COMPACT (R223, R232): COMMIT, the format, the count and d_head; the handle, the sources and the destination in registers 1, 2 and 3. -/
def compactWord (commit : Bool) (fmt k d : Nat) : BitVec 128 :=
  BitVec.ofNat 128 (0x30 * 2 ^ 120 + 1 * 2 ^ 110 + 2 * 2 ^ 105 + 3 * 2 ^ 100 + fmt % 16 * 2 ^ 96 + (if commit then 2 ^ 88 else 0) + k * 2 ^ 64 + d)

/-- Run one KV_COMPACT on an engine to its end: answers how many entries it wrote whole, counted by the bursts it wrote in order (R230, R232, R328); none where it cannot run on now. An event that finds the tap full waits at the tap. -/
def Chip.compactRun (c : UopCtx) (perEntry k : Nat) : Nat → Engine → Chip → Option (Chip × Nat)
  | 0, _, _ => none
  | fuel + 1, g, s =>
    match uopKvCompact s { c with g := g } with
    | .done s _ _ => some (s, k)
    | .wait s g =>
      if g.kvOwed then Chip.compactRun c perEntry k fuel { g with kvOwed := false } (s.presentOwed (stackDie c.stack) 1 c.x.dome) else none
    | .fault s _ _ => some (s, Nat.min k ((s.engineOf c.stack c.eng).bursts.toNat / perEntry))
    | .jump s _ _ | .stop s _ => some (s, 0)

/-- Compact one list of a sequence along a path, in a slot and on an engine that firmware reserves on the list's stack and gives back (R258, R328). [log 92 DEDUCED] -/
def Reach.compactList (r : Reach) (id : DomeId) (m : Dome) (i : Image) (q : Sequence) (base : Nat) (path : List Nat) (j : Nat) : Option (Reach × Nat) :=
  match m.privateStacks[(j + q.index) % m.privateStacks.length]? with
  | none => some (r, 0)
  | some t =>
    let s := r.chip
    if s.baseOn t = false then some (r, 0) else
    match (List.finRange 1024).reverse.find? (fun n => !(s.slotOf t n).busy), (List.finRange 32).reverse.find? (fun e => !(s.stack t).engineBusy e) with
    | some n, some e =>
      let oldSlot := s.slotOf t n
      let old := s.engineOf t e
      let dome := BitVec.ofNat 4 id.val
      let x : Slot := { dome := dome, engines := bitMask e.val, rdFrames := s.framesOf id t false, wrFrames := s.framesOf id t true }
      let s := if old.storeDome = some dome then s else s.storeClear t e
      let s := s.storeWrite t e 0 (path.flatMap (fun a => leBytes 4 (base + a)))
      let g : Engine := { old with u := [(1, BitVec.ofNat 64 (q.handle0 + j)), (2, 0), (3, BitVec.ofNat 64 base)], slot := some n, storeDome := some dome, rep := none,
                                   openBlock := none, bursts := 0, wrote := [], kvNext := 0, kvOwed := false }
      let s := (s.updSlot t n (fun _ => x)).updEngine t e (fun _ => g)
      let k := path.length
      let grid := gridOf i.digest
      let c : UopCtx := ⟨t, e, n, x, g, compactWord (j = 0) (Config.kvFormat i.digest) k (Config.kvHeadDim i.digest)⟩
      (match Chip.compactRun c (2 * ((grid.entry + 255) / 256)) k (2 * k + 4) g s with
       | none => none
       | some (s, done) =>
         let s := (s.updSlot t n (fun _ => oldSlot)).updEngine t e (fun _ => { old with storeDome := some dome })
         some ({ r with chip := s.updStack t (fun y => { y with bankReads := y.bankReads.filter (fun b => decide (b.1 ≠ e)) }) }, done))
    | _, _ => none

/-- Compact some lists in turn; the number of entries that every one of them moved. -/
def Reach.compactLists (id : DomeId) (m : Dome) (i : Image) (q : Sequence) (base : Nat) (path : List Nat) : List Nat → Reach → Option (Reach × Nat)
  | [], r => some (r, path.length)
  | j :: rest, r =>
    match r.compactList id m i q base path j with
    | none => none
    | some (r, n) =>
      if n < path.length then some (r, 0) else Reach.compactLists id m i q base path rest r

/-- A VERIFY row's compaction (R328): every other list first, the metered list, which carries COMMIT, last; answers the positions committed. Where another list's run does not complete, the metered list's is not started and nothing is committed. None while a run would have to wait. -/
def Reach.compact (r : Reach) (id : DomeId) (m : Dome) (w : Row) (path : List Nat) : Option (Reach × Nat) :=
  match m.image, r.fw.seq w.seq with
  | some i, some q =>
    (match Reach.compactLists id m i q w.pos path ((List.range q.lists).drop 1) r with
     | none => none
     | some (r, n) =>
       if n < path.length ∨ q.lists = 0 then some (r, 0) else
       match r.compactList id m i q w.pos path 0 with
       | none => none
       | some (r, n) => some (r.setLength m q (w.pos + n), n))
  | _, _ => some (r, 0)

/-- One row's report, which service software has written at REPORT; none while its compaction would have to wait. -/
def Reach.oneReport (r : Reach) (id : DomeId) (m : Dome) (q : Queue) (w : Row) (p : RowReport) : Option Reach :=
  match r.fw.seq w.seq with
  | none => some r
  | some old =>
    if old.ended then some r else
    let r := if w.report = 0 then r else r.put m.home (some w.report.toNat) (reportBytes p)
    let tree := if w.verify then r.get m.home (some (w.tree.toNat + 0x40)) 64 else (r, none)
    let r := tree.1
    if reportGood w.verify w.count tree.2 p = false then
      let r := { r with fw := r.fw.updSeq w.seq (fun y => { y with committed := w.pos }) }
      some (r.endSeq w.seq 3 Code.reportBad)
    else
      match (if w.verify then r.compact id m w ((p.path.take p.k.toNat).map (fun b => b.toNat)) else some (r, 0)) with
      | none => none
      | some c =>
        let r := { c.1 with fw := c.1.fw.updSeq w.seq (fun y =>
          let y := { y with emitted := y.emitted + p.emitted.toNat }
          if w.verify then { y with pos := w.pos + c.2, committed := w.pos + c.2 } else y) }
        match r.fw.seq w.seq with
        | none => some r
        | some sq =>
          let ends : Bool := p.flags.getLsbD 0 || decide (sq.maxNew ≤ sq.emitted)
          if ends then
            let stop : Reach × Bool := if p.flags.getLsbD 0 then r.stopToken sq else (r, false)
            let r := { stop.1 with fw := stop.1.fw.updSeq w.seq (fun y => { y with stopped := stop.2, cancelLate := y.cancelled }) }
            some (r.endSeq w.seq 1 0)
          else if sq.cancelled then some (r.endSeq w.seq 2 0)
          else some { r with fw := afterRow r.fw q w }

/-- The reports of some rows in turn. -/
def Reach.reportAll (id : DomeId) (m : Dome) (q : Queue) : List (Row × RowReport) → Reach → Option Reach
  | [], r => some r
  | e :: rest, r => match r.oneReport id m q e.1 e.2 with
    | none => none
    | some r => Reach.reportAll id m q rest r

/-- Rows cancelled in a step that do not sample end with it. -/
def Reach.endCancelled (r : Reach) (rows : List Row) : Reach :=
  r.endAll ((r.fw.seqs.filter (fun q => q.cancelled ∧ q.ended = false ∧ rows.any (fun w => w.seq = q.index))).map (fun q => q.index)) 2 0

/-- Service software raises the dome's report object by 1 once all reports are written (R324). -/
def Chip.raiseReport (s : Chip) (m : Dome) : Chip := if s.objOffline m.reportObj then s else s.applyObj m.reportObj (.signal 1 none)

/-- ROW_REPORTS: one report for each row that samples, in the order of the rows. While a compaction would have to wait, firmware has not taken them up and nothing changes. -/
def rowReports (id : DomeId) (l : List RowReport) (r : Reach) : Reach :=
  match r.fw.dome id with
  | none => r
  | some m =>
    match m.reporting with
    | none => r
    | some x =>
      let rows := x.rows.filter (fun w => w.sample)
      if r.serves id = false ∨ l.length ≠ rows.length then r else
      match r.fw.queue x.queue with
      | none => r
      | some q =>
        match Reach.reportAll id m q (rows.zip l) { r with chip := r.chip.raiseReport m, fw := r.fw.setDome id (some { m with reporting := none }) } with
        | none => r
        | some r => Reach.resume (r.endCancelled x.rows).pollProducers id

/-! ## Meanings -/

def execScrubBurst (t : StackId) (p : Fin 64) : State → Outcome State Fault Refusal := onReach (scrubBurst t p)
def execFrameStart (m : DomeId) : State → Outcome State Fault Refusal := onReach (frameStart m)
def execDomeStepEnd (m : DomeId) : State → Outcome State Fault Refusal := onReach (domeStepEnd m)
def execRowReports (m : DomeId) (r : List RowReport) : State → Outcome State Fault Refusal := onReach (rowReports m r)
def execStepWatchdog (m : DomeId) : State → Outcome State Fault Refusal := onReach (stepWatchdog m)

end Sys2Proof.Machine
end

