-- ==== Sys2Proof/Machine/Observe.lean ====
section
/-! DEFINITION. Counter snapshots and a dome's view of its counters (R464 to R467), the trace units (R468 to R471), and the Coelostat's arming and triggers (R476, R477, R480). -/

namespace Sys2Proof.Machine

open Host

/-! ## Snapshots (R464) -/

/-- A live counter word. -/
def Chip.liveWord (s : Chip) (b : Block) (n : Nat) : Word32 := Table.read 0 (s.head b).counters n

/-- The live words of a block's first n counters, as a snapshot holds them. -/
def Chip.snapshot (s : Chip) (b : Block) (n : Nat) : Table Nat Word32 := (List.range n).map (fun i => (i, s.liveWord b i))

/-- PERF.CTRL.SNAP. [log 144 DEDUCED] -/
def Chip.perfSnap (u : PerfUnit) (s : Chip) : Chip :=
  match u with
  | .cluster c =>
    if s.clusterLive c = false then s else
    let s := (List.finRange 32).foldl (fun s i =>
      let k := coreOf c i
      if (s.head (.core k)).counters = [] ∧ (s.core k).snaps = [] then s
      else s.updCore k (fun x => { x with snaps := s.snapshot (.core k) 8 })) s
    s.updCluster c (fun x => { x with snaps := s.snapshot (.perf (.cluster c)) 16, snapBeat := x.beat })
  | .stack t =>
    if (s.stack t).domainOn = false ∨ (s.die (stackDie t)).ringOn = false then s else
    s.updStack t (fun x => { x with snaps := s.snapshot (.perf (.stack t)) 32 })

/-! ## The counter view (R465) -/

/-- A unit whose counters a view shows. -/
inductive ViewUnit where
  | cluster (c : ClusterId)
  | core (k : CoreId)
  | stack (t : StackId)
  deriving DecidableEq, Repr

/-- Element n of a list. -/
def nth {α : Type} (l : List α) (n : Nat) : Option α := l[n]?

/-- The unit a VIEW_SEL value names in a dome. -/
def Dome.viewUnit (m : Dome) (v : Word32) : Option ViewUnit :=
  let i := (field v 15 0).toNat
  match (field v 31 30).toNat with
  | 0 => (nth m.clusters i).map .cluster
  | 1 => (nth m.clusters (i / 32)).map (fun c => .core (coreOf c (clip 32 i)))
  | 2 => (nth m.stackList i).map .stack
  | _ => none

/-- The unit a VIEW_SEL value names in the module, as the physical function counts units (log entry 40). [log 40 PRESUMED] -/
def moduleUnit (v : Word32) : Option ViewUnit :=
  let i := (field v 15 0).toNat
  match (field v 31 30).toNat with
  | 0 => if i < 128 then some (.cluster ⟨clip 8 (i / 16), clip 16 i⟩) else none
  | 1 => if i < 4096 then some (.core ⟨clip 8 (i / 512), clip 512 i⟩) else none
  | 2 => if i < 32 then some (.stack (clip 32 i)) else none
  | _ => none

/-- The unit a requester's VIEW_SEL names: of its dome, or of the module for the physical function. -/
def Firmware.viewUnit (fw : Firmware) (dome : Option DomeId) (pf : Bool) (v : Word32) : Option ViewUnit :=
  if pf then moduleUnit v else (dome.bind (fun id => fw.dome id)).bind (fun m => m.viewUnit v)

def ViewUnit.size : ViewUnit → Nat
  | .core _ => 8
  | .cluster _ => 16
  | .stack _ => 32

def ViewUnit.block : ViewUnit → Block
  | .cluster c => .perf (.cluster c)
  | .core k => .core k
  | .stack t => .perf (.stack t)

/-- The PERF page whose SNAP the unit's view writes. -/
def ViewUnit.perf : ViewUnit → PerfUnit
  | .cluster c => .cluster c
  | .core k => .cluster (clusterOf k)
  | .stack t => .stack t

/-- A unit's selector n. -/
def Chip.selector (s : Chip) (u : ViewUnit) (n : Nat) : Word32 :=
  match u with
  | .cluster c => Table.read 0 (s.cluster c).sels (clip 16 n)
  | .core k => Table.read 0 (s.cluster (clusterOf k)).coreSels (clip 8 n)
  | .stack t => Table.read 0 (s.stack t).sels (clip 32 n)

/-- The writable bits of a selector of a unit (R462). [log 146 DEDUCED] -/
def selectorMask (u : ViewUnit) (n : Nat) : Word32 :=
  match u with
  | .stack _ => (if n % 2 = 0 then 0x20000000 else 0) ||| 0x80003FFF
  | _ => (if n % 2 = 0 then 0x20000000 else 0) ||| 0xC00000FF

/-- Write a unit's selector n. -/
def Chip.setSelector (s : Chip) (u : ViewUnit) (n : Nat) (v : Word32) : Chip :=
  let v := v &&& selectorMask u n
  match u with
  | .cluster c => s.updCluster c (fun x => { x with sels := Table.write x.sels (clip 16 n) v })
  | .core k => s.updCluster (clusterOf k) (fun x => { x with coreSels := Table.write x.coreSels (clip 8 n) v })
  | .stack t => s.updStack t (fun x => { x with sels := Table.write x.sels (clip 32 n) v })

/-- A unit's OVF word. -/
def Chip.ovfWord (s : Chip) (u : ViewUnit) : Word32 :=
  match u with
  | .cluster c => (s.cluster c).ovf
  | .core k => (s.cluster (clusterOf k)).coreOvf
  | .stack t => (s.stack t).ovf

/-- Clear bits of a unit's OVF word. -/
def Chip.clearOvf (s : Chip) (u : ViewUnit) (v : Word32) : Chip :=
  match u with
  | .cluster c => s.updCluster c (fun x => { x with ovf := x.ovf &&& ~~~v })
  | .core k => s.updCluster (clusterOf k) (fun x => { x with coreOvf := x.coreOvf &&& ~~~v })
  | .stack t => s.updStack t (fun x => { x with ovf := x.ovf &&& ~~~v })

/-- A unit's snapshot word n. -/
def Chip.snapWord (s : Chip) (u : ViewUnit) (n : Nat) : Word32 :=
  match u with
  | .cluster c => Table.read 0 (s.cluster c).snaps n
  | .core k => Table.read 0 (s.core k).snaps n
  | .stack t => Table.read 0 (s.stack t).snaps n

/-- Write a unit's live word n. -/
def Chip.setLive (s : Chip) (u : ViewUnit) (n : Nat) (v : Word32) : Chip :=
  s.updHead u.block (fun h => { h with counters := Table.write h.counters n v })

/-- Whether the counters of a stack belong whole to a dome: a private stack's do. -/
def Firmware.wholeStack (fw : Firmware) (dome : Option DomeId) (t : StackId) : Bool :=
  match dome.bind (fun id => fw.dome id) with
  | some m => m.privateStacks.contains t
  | none => true

/-- Whether counter n of a unit belongs to a dome, under a selector value: on a shared-weight stack it does when CLASS_EN is 1 and CLASS is the dome. -/
def Firmware.ownsCounter (fw : Firmware) (dome : Option DomeId) (u : ViewUnit) (sel : Word32) : Bool :=
  match u, dome with
  | .stack t, some id => fw.wholeStack dome t || (sel.getLsbD 13 && decide ((field sel 12 8).toNat = id.val))
  | _, _ => true

/-! ## Trace units (R468 to R471) -/

/-- The releases of a cluster held behind its markers go on once none of them is unwritten. [log 149 DEDUCED] -/
def Chip.freeReleases (s : Chip) (m : DomeId) (c : ClusterId) : Chip :=
  if (s.trace m).queue.any (fun r => decide (r.marker = some c)) then s else
  let mine := (s.trace m).held.filter (fun h => h.cluster = c)
  let s := s.updTrace m (fun u => { u with held := u.held.filter (fun h => h.cluster ≠ c) })
  mine.foldl (fun s h =>
    let w : Waiter := match h.agent with
      | .de k => .engine k
      | _ => .sequencer c
    match s.release { whoOf h.agent with tag := h.tag } h.addr h.value h.scope w with
    | (s, none) => s
    | (s, some f) => if (s.cluster c).running then s.engineFault c f h.tag (s.cluster c).pc 0 h.addr else s) s

/-- Disable a dome's tracing: records not yet written are dropped, held releases go on (R468, R470, R471). -/
def Chip.traceOff (s : Chip) (m : DomeId) : Chip :=
  let cs := (s.trace m).held.map (fun h => h.cluster)
  let s := s.updTrace m (fun u => { u with sizeLog2 := 0, queue := [], dropped := 0, fenceLost := false })
  cs.foldl (fun s c => s.freeReleases m c) s

/-- A record's bytes in the slot of index i (R469). -/
def traceBytes (r : TraceRec) (size i : Nat) : List Byte :=
  let phase := if i / 2 ^ size % 2 = 0 then 0x80 else 0
  leBytes 8 r.time.toNat ++ [r.src, BitVec.ofNat 8 r.type] ++ leBytes 2 r.tag.toNat ++ leBytes 2 r.unit.toNat ++
    [BitVec.ofNat 8 (phase + if r.fenceLost then 1 else 0), 0] ++ leBytes 8 r.beat.toNat ++ leBytes 8 r.data.toNat

/-- The LOST record of a trace unit (R470, R471). [log 148 DEDUCED] -/
def Chip.lostRec (s : Chip) (home : DieId) (u : TraceUnit) : TraceRec :=
  { time := (s.die home).timer, src := BitVec.ofNat 8 (0x20 + home.val), type := 9, tag := 0, unit := BitVec.ofNat 16 (home.val * 8192 + 0x1FFF),
    data := BitVec.ofNat 64 u.dropped, fenceLost := u.fenceLost }

/-- A fault of the trace unit's own access: tracing is disabled and TRACE_FAULT logged. -/
def Chip.traceFault (s : Chip) (home : DieId) (m : DomeId) (c : FaultCode) : Chip :=
  (s.traceOff m).log home 1 Code.traceFault (BitVec.ofNat 8 m.val) 0 (c.setWidth 64)

/-- Write a record into the next slot, and the WRITE count after it. [log 147 DEDUCED] -/
def Reach.putRecord (r : Reach) (home : DieId) (m : DomeId) (u : TraceUnit) (x : TraceRec) : Reach × Bool :=
  let at_ := u.base.toNat + u.written % 2 ^ u.sizeLog2 * 32
  match (r.chip.domeRefusal home m none at_ 32 true).or (r.chip.domeRefusal home m none u.ctl.toNat 8 true) with
  | some f => ({ r with chip := r.chip.traceFault home m f }, false)
  | none =>
    match r.chip.store (firmwareOf home) at_ (traceBytes x u.sizeLog2 u.written) with
    | (s, some f) => ({ r with chip := s.traceFault home m f }, false)
    | (s, none) =>
      match s.store (firmwareOf home) u.ctl.toNat (leBytes 8 (u.written + 1)) with
      | (s, some f) => ({ r with chip := s.traceFault home m f }, false)
      | (s, none) => ({ r with chip := s.updTrace m (fun y => { y with written := y.written + 1 }) }, true)

/-- The oldest record meets the ring: written, or dropped when the ring is full. -/
def Reach.nextRecord (r : Reach) (home : DieId) (m : DomeId) (u : TraceUnit) (full : Bool) : Reach :=
  match u.queue with
  | [] => r
  | x :: rest =>
    let past (s : Chip) : Chip := match x.marker with
      | some c => s.freeReleases m c
      | none => s
    if full then
      { r with chip := past (r.chip.updTrace m (fun y => { y with queue := rest, dropped := y.dropped + 1, fenceLost := y.fenceLost || x.marker.isSome })) }
    else
      let q := r.putRecord home m u x
      if q.2 then { q.1 with chip := past (q.1.chip.updTrace m (fun y => { y with queue := rest })) } else q.1

/-- TRACE_RECORD_WRITE: the LOST record owed, once there is space, or the oldest record. -/
def traceWrite (m : DomeId) (r : Reach) : Reach :=
  let home := r.fw.home m
  let u := r.chip.trace m
  if u.sizeLog2 = 0 ∨ (u.queue = [] ∧ u.dropped = 0) ∨ (r.chip.die home).ringOn = false ∨ r.chip.frozen then r else
  match r.chip.load (firmwareOf home) (u.ctl.toNat + 8) 8 with
  | (s, .error f) => { r with chip := s.traceFault home m f }
  | (s, .ok bs) =>
    let r := { r with chip := s }
    let full : Bool := decide (2 ^ u.sizeLog2 ≤ u.written - leNat bs)
    if full = false ∧ 0 < u.dropped then
      let q := r.putRecord home m u (r.chip.lostRec home u)
      if q.2 then { q.1 with chip := q.1.chip.updTrace m (fun y => { y with dropped := 0, fenceLost := false }) } else q.1
    else r.nextRecord home m u full

/-! ## The Coelostat (R476, R477, R480) -/

/-- Whether the authorisation in AUTH_BUF passes: its fixed fields, UID and NONCE, the root's signature over the debug key, the key's over the rest. -/
def Chip.authGood (s : Chip) : Bool :=
  let b := leBytes 352 s.authBuf.toNat
  let part (off n : Nat) : List Byte := (b.drop off).take n
  decide (leNat (part 0 4) = 0x434F4531) && decide (leNat (part 4 4) < 4) && decide (leNat (part 8 12) = Config.uid.toNat) &&
  (part 0x14 12).all (fun x => x = 0) && decide (leNat (part 0x20 16) = (Config.coelNonce (s.die 0).coel.attempts).toNat) && (part 0x30 16).all (fun x => x = 0) &&
  Config.ecdsaVerify Config.rootKey (part 0x40 96) (part 0xA0 96) && Config.ecdsaVerify (part 0x40 96) (part 0 256) (part 0x100 96)

/-- AUTH_CMD.GO. [log 166 DESIGN CHOICE] -/
def Chip.authGo (s : Chip) : Chip :=
  if (s.die 0).ringOn = false then s else
  let good := s.authGood
  let perms : BitVec 2 := s.authBuf.extractLsb' 32 2
  let draw := s.free
  let s := { s with free := s.free + 1 }
  let s := allDies.foldl (fun s d =>
    if (s.die d).ringOn = false then s else
    let s := s.updDie d (fun x => { x with coel := { x.coel with attempts := draw } })
    if good then (s.updDie d (fun x => { x with coel := { x.coel with armed := true, perms := perms } })).updHead (.coelostat d) (fun h => h.raise 1) else s) s
  if good then s else (s.err (.coelostat 0) { bit := 0, code := 0 }).note 0 1 Code.authRefused 0

/-- ARMED ends. [log 150 DEDUCED] -/
def Chip.endArmed (s : Chip) : Chip :=
  { s with dies := s.dies.map (fun e => (e.1, { e.2 with coel := { e.2.coel with armed := false, perms := 0 } })) }

/-- CTRL.DISARM. -/
def Chip.disarm (d : DieId) (s : Chip) : Chip := if (s.die d).ringOn then s.endArmed else s

/-- CTRL.FREEZE: dropped while not armed. -/
def Chip.freezeWrite (d : DieId) (s : Chip) : Chip :=
  if (s.die d).ringOn = false then s
  else if (s.die d).coel.armed = false then s.err (.coelostat d) { bit := 1, code := 0 }
  else s.trigger d 1 2 0

/-- The COEL_TRIG pin of the debug connector, which lies on CD3 (R15). -/
def Chip.coelTrig (s : Chip) : Chip := if (s.die 3).ringOn then s.trigger 3 0 1 0 else s

/-! ## Meanings -/

def execPerfSnap (u : PerfUnit) : State → Outcome State Fault Refusal := onChip (Chip.live (Chip.perfSnap u))
def execTraceRecordWrite (m : DomeId) : State → Outcome State Fault Refusal := onReach (traceWrite m)
def execAuthGo : State → Outcome State Fault Refusal := onChip (Chip.live Chip.authGo)
def execDisarm (d : DieId) : State → Outcome State Fault Refusal := onChip (Chip.live (Chip.disarm d))
def execFreeze (d : DieId) : State → Outcome State Fault Refusal := onChip (Chip.live (Chip.freezeWrite d))
def execCoelTrig : State → Outcome State Fault Refusal := onChip (Chip.live Chip.coelTrig)

end Sys2Proof.Machine
end

