-- ==== Sys2Proof/Machine/Admin.lean ====
section
/-! DEFINITION. The remaining firmware calls: draining a dome (R309, R427), range operations (R189, R313), notification routes (R337), sources of record (R424), fencing and the die warm reset (R426, R427, R488), tracing, the night log and counters (R465, R468, R472, R475), and the SBI transport (R311). -/

namespace Sys2Proof.Machine

open Host

/-! ## DOME_DRAIN (R309, R427) -/

/-- DOME_DRAIN: no new request is admitted; a held dome's admitted requests end FAULTED. -/
def callDrain (c : Call) (r : Reach) : Reach × Answer :=
  match namedDome c 8 1 r with
  | .error e => (r, refuse e)
  | .ok (id, m) =>
    let r : Reach := { r with fw := r.fw.setDome id (some { m with draining := true }) }
    if r.chip.domeHeld m = false then (r, {}) else
    let l := ((r.fw.tracked id).filter (fun q => q.ended = false)).map (fun q => q.index)
    let r : Reach := { r with fw := r.fw.updDome id (fun m => { m with replays := [] }) }
    (r.endAll l 3 Code.dieFenced, {})

/-! ## CACHE_RANGE (R189, R313) -/

/-- The dies whose stacks a range of local addresses reaches, by a die's region table. -/
def Chip.rangeDies (s : Chip) (d : DieId) (base size : Nat) : List DieId :=
  let hit := ((s.die d).regions.filter (fun e => base < (e.1.val + 1) * 2 ^ 30 && e.1.val * 2 ^ 30 < base + size)).flatMap (fun e => regionStacks e.2)
  allDies.filter (fun x => hit.any (fun t => stackDie t = x))

/-- CACHE_RANGE: firmware waits for an operation that runs, starts its own, and waits for it. [log 157 DEDUCED] -/
def callRange (c : Call) (r : Reach) : Reach × Answer :=
  let base := c.arg 8 8
  let size := c.arg 0x10 8
  let op := c.arg 0x18 8
  let bad : Bool := decide (base % 256 ≠ 0 ∨ size % 256 ≠ 0 ∨ size = 0 ∨ 2 ^ 41 < base + size)
  if op = 0 ∨ 5 ≤ op ∨ (op ≠ 4 ∧ bad) then (r, { code := Code.callMalformed, die := c.die }) else
  let s := (r.chip.rangeDies c.die base size).foldl (fun s d =>
    let s := (s.rangeDone d).updDie d (fun x => { x with rangeBase := BitVec.ofNat 64 base, rangeSize := BitVec.ofNat 64 size })
    (s.rangeGo d (BitVec.ofNat 3 op)).rangeDone d) r.chip
  ({ r with chip := s }, {})

/-! ## NOTIFY_ROUTE (R337) -/

/-- The object an argument names: the low 32 bits of its local address (log entry 41). [log 41 DEDUCED] -/
def namedObject (v : Nat) : Option ObjId :=
  match place (0x300000000000 + v) with
  | .obj o 0 => if v < 2 ^ 20 then some o else none
  | _ => none

/-- Whether a target is one that R337 describes, for a dome. [log 158 DEDUCED] -/
def targetGood (m : Dome) (t : Word32) : Bool :=
  let n := (field t 23 16).toNat
  decide (field t 30 24 = 0) &&
  if t.getLsbD 31 then m.harts.any (fun h => decide (h.die.val * 16 + h.idx.val = n))
  else if n = 0 then decide ((field t 15 0).toNat < 128) else decide (n ≤ 64) && decide ((field t 15 0).toNat < 30)

/-- NOTIFY_ROUTE. -/
def callRoute (c : Call) (r : Reach) : Reach × Answer :=
  let t : Word32 := BitVec.ofNat 32 (c.arg 0xC 4)
  match namedObject (c.arg 8 4) with
  | none => (r, { code := Code.callMalformed, die := c.die })
  | some o =>
    let x := r.chip.obj o
    let id : DomeId := clip 16 x.dome.toNat
    match r.fw.dome id with
    | none => (r, { code := Code.callDenied, die := c.die })
    | some m =>
      if x.assigned = false ∨ r.chip.mayName c.caller id = false then (r, { code := Code.callDenied, die := c.die })
      else if t = 0xFFFFFFFF then ({ r with fw := { r.fw with routes := Table.write r.fw.routes o none } }, {})
      else if targetGood m t = false then (r, { code := Code.callMalformed, die := c.die, dome := BitVec.ofNat 8 id.val })
      else ({ r with fw := { r.fw with routes := Table.write r.fw.routes o (some t) } }, {})

/-! ## SOURCE_SET (R424) -/

/-- SOURCE_SET. -/
def callSource (c : Call) (r : Reach) : Reach × Answer :=
  let region := c.arg 8 2
  let kind := c.arg 0xA 1
  if 2048 ≤ region ∨ 2 < kind then (r, refuse Code.callMalformed) else
  let v : Option Source := if kind = 0 then none else some ⟨BitVec.ofNat 8 kind, BitVec.ofNat 64 (c.arg 0x10 8)⟩
  ({ r with fw := { r.fw with sources := Table.write r.fw.sources (clip 2048 region) v } }, {})

/-! ## Fencing (R426, R427) -/

/-- What firmware puts back on a die whose core domain is on again, for one dome: owners, objects, counts and programs (R22, R289, R300). -/
def Chip.refillDome (s : Chip) (d : DieId) (id : DomeId) (m : Dome) : Chip :=
  let mine := (m.clusters.mapIdx (fun i c => (i, c))).filter (fun e => e.2.die = d)
  let s := mine.foldl (fun s e => s.ownCluster e.2 (some id)) s
  let s := s.assignObjects id (.die d) (m.dieObjects d - (s.objectsOf id (.die d)).length)
  match m.image with
  | none => s
  | some i =>
    let s := mine.foldl (fun s e => match i.programs[e.1]? with
      | some p => s.loadProgram e.2 p
      | none => s) s
    (i.counters.zip m.counts).foldl (fun s e =>
      if nth m.dies e.1.1 = some d then s.setCount m.home (.die d (clip 4096 ((s.objectsOf id (.die d)).getD e.1.2.1 0))) (BitVec.ofNat 64 e.2) else s) s

/-- Every dome's part of a die. -/
def Reach.refillDie (r : Reach) (d : DieId) : Reach :=
  { r with chip := r.fw.domes.foldl (fun s e => match e.2 with
      | some m => s.refillDome d e.1 m
      | none => s) r.chip }

/-- Calls that waited for firmware and that it fails at once: those with an unknown code, and every call of PF1 (R313, R367, R482). -/
def Reach.answerHeld (r : Reach) : Reach :=
  let r := (r.chip.link.fns.map (fun e => e.1)).foldl (fun r f =>
    if f = .pf1 then (match r.outstanding (.fn f) with
      | (r, some k) => r.finish k (refuse Code.callDenied)
      | (r, none) => r)
    else unknownCall (.fn f) r) r
  (allDies.flatMap hartsOf).foldl (fun r h => if (r.chip.hart h).call.isSome then unknownCall (.hart h) r else r) r

/-- Firmware goes on where it had to wait: calls are answered, queues are served, and domes that nothing holds any more run. -/
def Reach.resumeAll (r : Reach) : Reach :=
  let r := r.answerHeld
  let r := (r.fw.queues.foldl (fun r e => r.serveQueue e.1) r).pollProducers
  r.fw.domes.foldl (fun r e => r.resume e.1) r

/-- Re-admission: the core domain powers on with empty scratchpads and cleared objects, and the die's domes go on. [log 132 DEDUCED] -/
def Reach.admitDie (r : Reach) (d : DieId) : Reach :=
  if (r.chip.die d).ringOn = false then r else
  let s := (r.chip.coreOnDomain d).updDie d (fun x => { x with fenced := false, faultFence := false, retest := false })
  (Reach.refillDie { r with chip := s } d).resumeAll

/-- The die an argument names. -/
def namedDie (c : Call) : Option DieId := if c.arg 8 1 < 8 then some (clip 8 (c.arg 8 1)) else none

/-- DIE_FENCE. -/
def callFence (c : Call) (r : Reach) : Reach × Answer :=
  match namedDie c with
  | none => (r, refuse Code.callMalformed)
  | some d => (if (r.chip.die d).ringOn then { r with chip := r.chip.fence d } else r, {})

/-- DIE_ADMIT. A die whose edge ring is off cannot be named. -/
def callAdmit (c : Call) (r : Reach) : Reach × Answer :=
  match namedDie c with
  | none => (r, refuse Code.callMalformed)
  | some d =>
    if (r.chip.die d).ringOn = false then (r, refuse Code.callMalformed)
    else if (r.chip.die d).fenced = false then (r, {})
    else (r.admitDie d, {})

/-! ## DIE_RESET (R486, R488) -/

/-- The callers whose calls run on a die. -/
def Chip.callersOn (s : Chip) (d : DieId) : List Caller :=
  (if d = 0 then s.link.fns.filterMap (fun e => if e.2.busy then some (Caller.fn e.1) else none) else []) ++
  (hartsOf d).filterMap (fun h => if (s.hart h).call.isSome then some (Caller.hart h) else none)

/-- The die warm reset itself: steps with a cluster on the die stop, the core domain goes off and on again unless the die is fenced, the Ulizen units of its stacks are reset. [log 156 DEDUCED] -/
def Reach.dieReset (r : Reach) (d : DieId) : Reach :=
  if (r.chip.die d).ringOn = false then r else
  let s := r.fw.domes.foldl (fun s e => match e.2 with
    | some m => if m.dies.contains d ∧ m.step.isSome then m.clusters.foldl (fun s c => Chip.abortStep c s) s else s
    | none => s) r.chip
  let s := s.coreOffDomain d
  let s := (stacksOf d).foldl (fun s t => Chip.unitReset t s) s
  if (s.die d).fenced then { r with chip := s } else Reach.refillDie { r with chip := s.coreOnDomain d } d

/-- A call that the reset ended is answered with CALL_RESET. -/
def Reach.endCall (r : Reach) (c : Caller) (d : DieId) : Reach :=
  match r.outstanding c with
  | (r, none) => r
  | (r, some k) => r.finish k { code := Code.callReset, die := d }

/-- DIE_RESET: the calls that ran on the die, this one among them when the die is CD0, are answered with CALL_RESET. -/
def callDieReset (c : Call) (r : Reach) : Reach × Answer :=
  match namedDie c with
  | none => (r, refuse Code.callMalformed)
  | some d =>
    if r.fw.handoff.isSome then (r, refuse Code.domeBusy) else
    let r := ((r.chip.callersOn d).filter (fun k => k ≠ c.caller)).foldl (fun r k => r.endCall k d) (r.dieReset d)
    (r, if d = 0 then refuse Code.callReset else {})

/-! ## Tracing (R468, R472) -/

/-- TRACE_SET. -/
def callTraceSet (c : Call) (r : Reach) : Reach × Answer :=
  match namedDome c 8 1 r with
  | .error e => (r, refuse e)
  | .ok (id, m) =>
    let size := c.arg 9 1
    let sources := c.arg 0xA 2
    let base := c.arg 0x10 8
    let ctl := c.arg 0x18 8
    if size = 0 then ({ r with chip := r.chip.traceOff id }, {})
    -- a ring of server host addresses is none the trace unit can write: its ring is local (R468)
    else if c.hostAddr ∨ size < 10 ∨ 20 < size ∨ 64 ≤ sources ∨ base % 4096 ≠ 0 ∨ ctl % 64 ≠ 0 then (r, { code := Code.callMalformed, die := m.home, dome := BitVec.ofNat 8 id.val })
    else
      let s := (r.chip.traceOff id).updTrace id (fun u =>
        { u with sizeLog2 := size, sources := BitVec.ofNat 16 sources, base := BitVec.ofNat 64 base, ctl := BitVec.ofNat 64 ctl, written := 0 })
      ({ r with chip := s }, {})

/-- TRACE_POINTS. -/
def callTracePoints (c : Call) (r : Reach) : Reach × Answer :=
  match namedDome c 8 1 r with
  | .error e => (r, refuse e)
  | .ok (id, _) => ({ r with chip := r.chip.updTrace id (fun u => { u with points := BitVec.ofNat 64 (c.arg 0x10 8) }) }, {})

/-! ## NIGHTLOG_READ, COUNTER_READ (R465, R473, R475) -/

/-- A night log entry's 32 bytes. -/
def LogEntry.bytes (e : LogEntry) (d : DieId) : List Byte :=
  leBytes 8 e.seq ++ leBytes 8 e.time.toNat ++ [BitVec.ofNat 8 (0x20 + d.val), BitVec.ofNat 8 e.level] ++ leBytes 2 e.code.toNat ++ [e.dome, 0] ++
    leBytes 2 e.tag.toNat ++ leBytes 8 e.detail.toNat

/-- Whether a caller receives an entry. -/
def Chip.receives (s : Chip) (c : Caller) (e : LogEntry) : Bool :=
  match c with
  | .fn .pf => true
  | _ => match s.callerDome c with
    | some m => decide (e.dome.toNat = m.val)
    | none => false

/-- NIGHTLOG_READ. The log of a die that cannot be reached has no entry to copy. [log 151 DEDUCED] -/
def callNightlog (c : Call) (r : Reach) : Reach × Answer :=
  let count := c.arg 0x18 8
  match namedDie c with
  | none => (r, { code := Code.callMalformed, die := c.die })
  | some d =>
    if count = 0 ∨ 4096 < count then (r, { code := Code.callMalformed, die := c.die }) else
    let log := if r.chip.route c.die d then (r.chip.die d).log else []
    let l := ((log.filter (fun e => decide (c.arg 0x10 8 ≤ e.seq) && r.chip.receives c.caller e)).take count)
    let w := r.writeAt c.die c.space (c.arg 0x20 8) (l.flatMap (fun e => e.bytes d))
    if w.2 = false then (w.1, { code := if c.space.isSome then Code.hostAccess else Code.callMalformed, die := c.die }) else
    (w.1, { data := leBytes 8 ((log.head?.map (fun e => e.seq)).getD 0) ++ leBytes 8 ((log.getLast?.map (fun e => e.seq)).getD 0) ++ leBytes 4 l.length })

/-- COUNTER_READ: a snapshot of the unit, 4 bytes a counter, into a buffer of the space that HOST_ADDR selects (R313). [log 145 DEDUCED] -/
def callCounters (c : Call) (r : Reach) : Reach × Answer :=
  let bad : Answer := { code := Code.callMalformed, die := c.die }
  let dome := r.chip.callerDome c.caller
  match r.fw.viewUnit dome (decide (c.caller = .fn .pf)) (BitVec.ofNat 32 (c.arg 8 4)) with
  | none => (r, bad)
  | some u =>
    let s := Chip.perfSnap u.perf r.chip
    let bs := (List.range u.size).flatMap (fun i => leBytes 4 (if r.fw.ownsCounter dome u (s.selector u i) then (s.snapWord u i).toNat else 0))
    let w := Reach.writeAt { r with chip := s } c.die c.space (c.arg 0x10 8) bs
    (w.1, if w.2 then {} else if c.space.isSome then { bad with code := Code.hostAccess } else bad)

/-! ## The SBI transport (R311) -/

/-- SBI_FIRMWARE_CALL: the block must be aligned and lie in stack memory. A hart has one call outstanding. [log 87 DEDUCED] -/
def sbiCall (h : HartId) (a0 : BitVec 56) (r : Reach) : Reach :=
  if r.chip.hartRuns h = false ∨ (r.chip.hart h).call.isSome then r else
  let inMem : Bool := match place a0.toNat with
    | .mem _ => true
    | _ => false
  if a0.toNat % 64 ≠ 0 ∨ inMem = false then { r with chip := r.chip.updHart h (fun x => { x with sbiResult := some sbiInvalidAddress }) }
  else unknownCall (.hart h) { r with chip := r.chip.updHart h (fun x => { x with call := some a0, sbiResult := none }) }

/-- HART_AMO; a doorbell object it raised may give a queue a new tail (R315). -/
def amoThenPoll (h : HartId) (x : AmoReq) (r : Reach) : Reach :=
  Reach.pollProducers { r with chip := Chip.live (Chip.hartAmo h x) r.chip }

/-! ## Meanings -/

def execDomeDrain (c : Caller) : State → Outcome State Fault Refusal := onReach (runCall 0x0003 { vf := true } [(8, 1)] callDrain c)
def execCacheRange (c : Caller) : State → Outcome State Fault Refusal :=
  onReach (runCall 0x0040 { pf := false, hart := true } [(8, 8), (0x10, 8), (0x18, 8)] callRange c)
def execNotifyRoute (c : Caller) : State → Outcome State Fault Refusal :=
  onReach (runCall 0x0041 { vf := true, hart := true } [(8, 4), (0xC, 4)] callRoute c)
def execSourceSet (c : Caller) : State → Outcome State Fault Refusal := onReach (runCall 0x0050 {} [(8, 2), (0xA, 1), (0x10, 8)] callSource c)
def execDieFence (c : Caller) : State → Outcome State Fault Refusal := onReach (runCall 0x0051 {} [(8, 1)] callFence c)
def execDieAdmit (c : Caller) : State → Outcome State Fault Refusal := onReach (runCall 0x0052 {} [(8, 1)] callAdmit c)
def execDieReset (c : Caller) : State → Outcome State Fault Refusal := onReach (runCall 0x0053 {} [(8, 1)] callDieReset c)
def execTraceSet (c : Caller) : State → Outcome State Fault Refusal :=
  onReach (runCall 0x0060 { vf := true } [(8, 1), (9, 1), (0xA, 2), (0x10, 8), (0x18, 8)] callTraceSet c)
def execTracePoints (c : Caller) : State → Outcome State Fault Refusal := onReach (runCall 0x0061 { vf := true } [(8, 1), (0x10, 8)] callTracePoints c)
def execNightlogRead (c : Caller) : State → Outcome State Fault Refusal :=
  onReach (runCall 0x0062 { vf := true, hart := true } [(8, 1), (0x10, 8), (0x18, 8), (0x20, 8)] callNightlog c)
def execCounterRead (c : Caller) : State → Outcome State Fault Refusal :=
  onReach (runCall 0x0063 { vf := true, hart := true } [(8, 4), (0x10, 8)] callCounters c)
def execSbiFirmwareCall (h : HartId) (a0 : BitVec 56) : State → Outcome State Fault Refusal := onReach (sbiCall h a0)
def execHartAmo (h : HartId) (x : AmoReq) : State → Outcome State Fault Refusal := onReach (amoThenPoll h x)

end Sys2Proof.Machine
end

