-- ==== Sys2Proof/Machine/Boot.lean ====
section
/-! DEFINITION. Flash banks and the secure boot (R378 to R381, R428), power-up and bring-up (R481 to R484), a returned edge ring (R425, R455), the resets (R485 to R489), the input's lockouts (R439) and the explicit power-down (R190). -/

namespace Sys2Proof.Machine

open Host

/-! ## Flash banks (R379, R428) -/

/-- One byte of CRC-32 (IEEE 802.3), least significant bit first. -/
def crc32Bits (c : Word32) : Nat → Word32
  | 0 => c
  | n + 1 => let d := crc32Bits c n; if d.getLsbD 0 then (d >>> 1) ^^^ 0xEDB88320 else d >>> 1
def crc32 (l : List Byte) : Word32 := ~~~(l.foldl (fun c b => crc32Bits (c ^^^ b.setWidth 32) 8) 0xFFFFFFFF)

/-- A bank as its commit record's bytes and its image's bytes give it. -/
def bankOf (record image : List Byte) : Bank :=
  { magicOk := decide (bytesAt record 0 4 = 0x54494D43), gen := BitVec.ofNat 32 (bytesAt record 4 4), digest := BitVec.ofNat 384 (bytesAt record 8 48),
    crcOk := decide (crc32 (record.take 0x3C) = BitVec.ofNat 32 (bytesAt record 0x3C 4)), image := image }

/-- A bank: as manufactured until an update has written it. -/
def Firmware.bank (fw : Firmware) (b : Bool) : Bank := (Table.read none fw.banks b).getD (bankOf (Config.bankRecord b) (Config.bankImage b))

/-- The committed mark. -/
def Bank.marked (x : Bank) : Bool := x.magicOk && x.crcOk && decide (x.digest = BitVec.ofNat 384 (bytesAt x.image 0x18 48))

/-- The banks in the order in which they are tried: the marked one with the higher GEN first. -/
def Firmware.bootOrder (fw : Firmware) : List Bool :=
  let a := fw.bank false
  let b := fw.bank true
  let second : Bool := b.marked && (!a.marked || decide (a.gen < b.gen))
  if second then [true, false] else [false, true]

/-! ## The image checks (R378, R380) -/

/-- SVN and RAISE_SVN of an image. -/
def imageSvn (img : List Byte) : Word64 := BitVec.ofNat 64 (bytesAt img 8 8)
def imageRaises (img : List Byte) : Bool := bytesAt img 4 4 % 2 = 1

/-- The first check that an image fails, 1 to 6. [log 118 DEDUCED] -/
def imageCheck (img : List Byte) (svnMin : Word64) : Option Nat :=
  let part (off n : Nat) : List Byte := (img.drop off).take n
  let body := part 512 (bytesAt img 0x10 4)
  firstBad [
    (decide (bytesAt img 0 4 ≠ 0x4D524431) || decide (1 < bytesAt img 4 4) || !zeros img 0x168 56, 1),
    (decide (Config.sha384 (part 0x108 96) ≠ Config.rootDigest), 2),
    (!Config.ecdsaVerify (part 0x108 96) (part 0x48 96) (part 0xA8 96), 3),
    (!Config.ecdsaVerify (part 0x48 96) (part 0 0x1A0) (part 0x1A0 96), 4),
    (decide (imageSvn img < svnMin), 5),
    (decide (2 ^ 23 < bytesAt img 0x10 4) || decide (body.length < bytesAt img 0x10 4) || decide (Config.sha384 body ≠ BitVec.ofNat 384 (bytesAt img 0x18 48)), 6)]

/-- Firmware fuses an image's SVN on a die once the image has been committed and asks for it (R380). -/
def Chip.raiseSvn (s : Chip) (u : Fuses) (d : DieId) (x : Bank) : Chip :=
  if x.marked ∧ imageRaises x.image ∧ Table.read 0 u.svnMin d < imageSvn x.image then
    s.updDie d (fun y => { y with svnBusy := true, svnNew := imageSvn x.image, svnLatched := imageSvn x.image })
  else s

/-- The LOG_START entry takes the GEN of the booted bank as its detail (R474). [log 152 DEDUCED] -/
def startDetail (gen : Word32) (l : List LogEntry) : List LogEntry := match l with
  | e :: t => if e.seq = 1 ∧ e.code = Code.logStart ∧ e.detail = 0 then { e with detail := gen.setWidth 64 } :: t else e :: t
  | [] => []

/-- The mask ROM of a die tries the banks: it starts the first image that passes, or stays in recovery. CD0 sends the image to the other dies. [log 120 DEDUCED] -/
def romBoot (u : Fuses) (d : DieId) (r : Reach) : Reach :=
  let x := r.chip.die d
  if x.ringOn = false ∨ x.fwState ≠ 0 ∨ r.chip.route 0 d = false then r else
  let check (b : Bool) : Option Nat := imageCheck (r.fw.bank b).image (Table.read 0 u.svnMin d)
  match r.fw.bootOrder.find? (fun b => (check b).isNone) with
  | some b =>
    let k := r.fw.bank b
    let s := r.chip.updDie d (fun y =>
      { y with fwState := 1, verified := true, recovery := false, bank := b, gen := k.gen, failCheck := 0, log := startDetail k.gen y.log })
    { r with chip := s.raiseSvn u d k }
  | none =>
    let last := (r.fw.bootOrder.getLast?.bind check).getD 0
    { r with chip := r.chip.updDie d (fun y => { y with fwState := 4, verified := false, recovery := true, failCheck := last }) }

/-- Whether CD0 is in ROM recovery. -/
def Chip.inRecovery (s : Chip) : Bool := (s.die 0).ringOn && decide ((s.die 0).fwState = 4) && !s.frozen

/-- In ROM recovery a call that waits in the PF's mailbox fails with BOOT_RECOVERY (R380). -/
def Reach.recoveryReply (r : Reach) : Reach :=
  let x := r.chip.fn .pf
  if r.chip.inRecovery = false ∨ x.busy = false then r else
  let k : Call := ⟨.fn .pf, leBytes 64 x.block.toNat⟩
  { r with chip := r.chip.updFn .pf (fun y => { y with busy := false, done := true, block := BitVec.ofNat 512 (leNat (replyBytes k (refuse Code.bootRecovery))) }) }

/-! ## Bring-up (R481 steps 4 to 6, R483) -/

/-- A stack controller comes up, or STACK_FAILED is logged with the stack and the failing step. [log 153 DEDUCED] -/
def Chip.stackUp (s : Chip) (t : StackId) (fail : Bool) : Chip :=
  let s := s.stackFill t
  if fail then
    let c := s.freeChoice 2
    (c.2.updStack t (fun x => { x with online := false, onlineAck := false })).note (stackDie t) 2 Code.stackFailed (t.val + 256 * (c.1 + 1))
  else s.updStack t (fun x => if x.tripped then x else { x with online := true, onlineAck := true, selfRefresh := false, quarteredSelf := false })

/-- A die's stacks, then its core domain, objects cleared and scratchpads tested. -/
def Chip.dieUp (s : Chip) (d : DieId) (b : BringUp) : Chip :=
  if s.running d = false then s else
  let s := (stacksOf d).foldl (fun s t => s.stackUp t (b.stackFail.getLsbD t.val)) s
  let s := s.coreOnDomain d
  if b.coreFail.getLsbD d.val then
    (s.coreOffDomain d).updDie d (fun x => { x with fenced := true, lostSteps := x.lostSteps }) |>.note d 2 Code.coreTestFailed d.val
  else s.updDie d (fun x => { x with fenced := false, faultFence := false, retest := false, tripped := false })

/-- Step 6: the ports are enabled, the mailboxes opened and what waits in them and fails at once is answered. -/
def Reach.openModule (r : Reach) : Reach :=
  if r.chip.running 0 = false then r.recoveryReply else
  let s := allPorts.foldl (fun s p => Chip.portEnable p s) { r.chip with ready := true }
  let s := (s.note 0 0 Code.moduleReady 0).msix .pf 1
  Reach.answerHeld { r with chip := s }

/-- Steps 3 to 6 of R481. -/
def Reach.bringUp (u : Fuses) (b : BringUp) (r : Reach) : Reach :=
  let r := allDies.foldl (fun r d => if b.absent.getLsbD d.val then r else romBoot u d r) r
  let r : Reach := { r with chip := allDies.foldl (fun s d =>
    if b.absent.getLsbD d.val ∧ d ≠ 0 then ((s.note 0 2 Code.dieAbsent d.val).ringOffDomain d).updDie d (fun x => { x with ringReturned := false }) else s) r.chip }
  let r : Reach := { r with chip := allDies.foldl (fun s d => s.dieUp d b) r.chip }
  r.openModule

/-! ## An edge ring that has returned (R425, R455) -/

/-- Restore every granule of a region that lies on a die's stacks from the region's source. -/
def Reach.restage (r : Reach) (d : DieId) (n : Fin 2048) (e : Word64) : Reach :=
  (List.range 262144).foldl (fun r g =>
    let p := translate e (n.val * 2 ^ 30 + g * 4096)
    if stackDie p.1 = d then (r.restore p.1 (p.2 / 64)).1 else r) r

/-- A request holds a KV page on a die's stacks. -/
def Sequence.onDie (q : Sequence) (m : Dome) (d : DieId) : Bool :=
  (m.privateStacks.zip q.pages).any (fun e => decide (stackDie e.1 = d) && decide (0 < e.2))

/-- What firmware does on a die whose ring tripped and came back: its configuration again, its stacks and clusters, CACHE_LOST, sources, and the requests whose pages lay there. [log 134 DEDUCED] -/
def Reach.ringBack (r : Reach) (d : DieId) : Reach :=
  if r.chip.running d = false ∨ (r.chip.die d).ringReturned = false then r else
  let s := ((r.chip.updDie d (fun x => { x with ringReturned := false })).note d 2 Code.ringTrip d.val).note d 2 Code.cacheLost d.val
  let s := match allDies.find? (fun e => decide (e ≠ d) && (s.die e).ringOn && decide ((s.die e).regions ≠ [])) with
    | some e => s.updDie d (fun x => { x with regions := (s.die e).regions })
    | none => s
  let s := r.fw.domes.foldl (fun s e => match e.2 with
    | some m => (m.harts.filter (fun h => h.die = d)).foldl (fun s h => s.ownHart h (some e.1)) (s.setShare e.1 (m.u 0x40 1))
    | none => s) s
  let s := s.dieUp d ⟨0, 0, 0⟩
  let s := allPorts.foldl (fun s p => if portDie p = d then Chip.portEnable p s else s) s
  let r := Reach.refillDie { r with chip := { s with ready := s.ready || decide (d = 0) } } d
  let sourced := (r.chip.die d).regions.filter (fun e => (Table.read none r.fw.sources e.1).isSome && (regionStacks e.2).any (fun t => decide (stackDie t = d)))
  let r := sourced.foldl (fun r e => r.restage d e.1 e.2) r
  let lost := r.fw.seqs.filter (fun q => q.ended = false && ((r.fw.dome q.dome).map (fun m => q.onDie m d)).getD false)
  (r.endAll (lost.map (fun q => q.index)) 3 Code.cacheLost).resumeAll

/-! ## Lifting to the state -/

def State.reach (s : State) : Reach := ⟨s.chip, s.fw, s.hostMem⟩
def State.withReach (s : State) (r : Reach) : State := { s with chip := r.chip, fw := r.fw, hostMem := r.host }

/-- A meaning over the fuses and what firmware reaches; a freeze holds it. -/
def onFused (f : Fuses → Reach → Reach) (s : State) : Outcome State Fault Refusal :=
  if s.chip.frozen then .next s else .next (s.withReach (f s.fuses s.reach))

/-! ## MASK_ROM_BOOT, DIE_ABSENT, the security version (R380, R381, R481) -/

/-- MASK_ROM_BOOT; a die whose ring had tripped goes through bring-up by itself. -/
def bootDie (d : DieId) (u : Fuses) (r : Reach) : Reach :=
  let r := romBoot u d r
  (if d = 0 then r.recoveryReply else r).ringBack d

/-- DIE_ABSENT: the die counts as one whose edge ring is down. [log 154 DEDUCED] -/
def dieAbsent (d : DieId) (r : Reach) : Reach :=
  if d = 0 ∨ r.chip.running 0 = false ∨ (r.chip.die d).ringOn = false ∨ (r.chip.die d).fwState ≠ 0 then r else
  { r with chip := ((r.chip.note 0 2 Code.dieAbsent d.val).ringOffDomain d).updDie d (fun x => { x with ringReturned := false }) }

/-- SVN_CMD.GO: a larger SVN_NEW is fused, any other is refused; a GO while a fuse write runs starts nothing. [log 119 DEDUCED] -/
def svnGo (d : DieId) (u : Fuses) (r : Reach) : Reach :=
  let x := r.chip.die d
  if x.ringOn = false ∨ x.svnBusy then r
  else if Table.read 0 u.svnMin d < x.svnNew then { r with chip := r.chip.updDie d (fun y => { y with svnBusy := true, svnLatched := y.svnNew }) }
  else { r with chip := r.chip.err (.security d) { bit := 0, code := 0 } }

/-- SVN_FUSE_DONE: the floor takes the latched value; a floor is never lowered. -/
def svnDone (d : DieId) (s : State) : State :=
  let x := s.chip.die d
  if x.ringOn = false ∨ x.svnBusy = false then s else
  let s := { s with chip := s.chip.updDie d (fun y => { y with svnBusy := false }) }
  if Table.read 0 s.fuses.svnMin d < x.svnLatched then { s with fuses := { s.fuses with svnMin := Table.write s.fuses.svnMin d x.svnLatched } } else s

/-! ## Resets (R485 to R489) -/

/-- The dies after their edge rings have powered on: each with its own new NONCE. -/
def freshDies (draw : Nat) : Table DieId Die := allDies.map (fun d => (d, { coel := { attempts := draw + d.val } }))

/-- The host link's logic at reset; the strap and PERST# stay as they are, and the links are down until they have trained. [log 155 DEDUCED] -/
def HostLink.afterReset (x : HostLink) : HostLink := { perst := x.perst, bifurcated := x.bifurcated }

/-- The power stage at a module reset: what the standby controller holds stays, the trips of the hour are forgiven. -/
def Power.afterReset (p : Power) : Power :=
  { inputMv := p.inputMv, inputMa := p.inputMa, inputAvg := p.inputAvg, coolant := p.coolant, pwrAlert := p.pwrAlert, lastAlert := p.lastAlert,
    ringTripEv := p.ringTripEv, ovloEv := p.ovloEv, uvloEv := p.uvloEv, standby := p.standby }

/-- Every domain afresh, the stacks filled with zeros. -/
def coldChip (s : Chip) : Chip :=
  { dies := freshDies s.free, stk := allStacks.map (fun t => (t, { filled := true })), link := s.link.afterReset, power := s.power.afterReset,
    out := s.out, free := s.free + 8 }

/-- Firmware's state is lost; the flash stays. -/
def Firmware.lost (fw : Firmware) : Firmware := { banks := fw.banks }

/-- Cold module reset: steps 2 to 6 of R481 from nothing. -/
def coldReset (b : BringUp) (s : State) : State :=
  if s.chip.power.lockout then s else
  s.withReach (Reach.bringUp s.fuses b ⟨coldChip s.chip, s.fw.lost, s.hostMem⟩)

/-- Step 1 and 2 of R487, with the runs that end TORN. -/
def warmStop (s : Chip) : Chip :=
  let s := allDies.foldl (fun s d => s.coreOffDomain d) s
  let s := allStacks.foldl (fun s t => Chip.unitReset t s) s
  allDies.foldl (fun s d => if (s.die d).ringOn then s.rangeOp d (fun _ => true) true true else s) s

/-- Steps 4 and 5 of R487: the stacks refresh themselves and the edge-ring logic resets; the night log and the timer go on where the ring stayed on. -/
def warmChip (s : Chip) : Chip :=
  let die (d : DieId) : Die :=
    let x := s.die d
    let y : Die := { coel := { attempts := s.free + d.val } }
    if x.ringOn then { y with timer := x.timer, phase := x.phase, log := x.log, logSeq := x.logSeq } else y
  { dies := allDies.map (fun d => (d, die d)),
    stk := s.stk.map (fun e => (e.1, { e.2.noController with selfRefresh := e.2.domainOn })),
    objs := s.objs.filter (fun e => match e.1 with
      | .stack _ _ => true
      | .die _ _ => false),
    syncs := s.syncs.filter (fun e => match e.1 with
      | .stack _ => true
      | .die _ => false),
    heads := s.heads.filter (fun e => e.1.baseDie.isSome),
    dram := s.dram, engineStore := s.engineStore, codeErrors := s.codeErrors, link := s.link.afterReset, power := s.power.afterReset,
    out := s.out, free := s.free + 8 }

/-- Warm module reset. A freeze ends only with a cold one (R479). -/
def warmReset (b : BringUp) (s : State) : State :=
  if s.chip.power.lockout ∨ s.chip.frozen then s else
  let q := allDies.foldl (fun (acc : Chip × Photometer) d => tapDrain acc.1 acc.2 d) (warmStop s.chip, s.phot)
  let s := { s with phot := q.2 }
  s.withReach (Reach.bringUp s.fuses b ⟨warmChip q.1, s.fw.lost, s.hostMem⟩)

/-- No test of a bring-up fails. -/
def allWell : BringUp := ⟨0, 0, 0⟩

/-- MODULE_RESET: it starts the reset and sends no reply. -/
def moduleReset (c : Caller) (s : State) : State :=
  match s.reach.outstanding c with
  | (r, none) => s.withReach r
  | (r, some k) =>
    let s := s.withReach r
    if k.code ≠ 0x0054 then s
    else if s.chip.mayCall {} c = false then s.withReach (s.reach.finish k (refuse Code.callDenied))
    else if k.arg 2 2 / 2 ≠ 0 ∨ k.clean [(8, 1)] = false ∨ 1 < k.arg 8 1 then s.withReach (s.reach.finish k (refuse Code.callMalformed))
    else if k.arg 8 1 = 1 then coldReset allWell s
    else warmReset allWell s

/-! ## Power (R190, R438, R439, R481) -/

/-- Power-up: stack domains and edge rings that are off come on, then the bring-up. A module that serves, or whose input is locked out, has nothing to power up. -/
def powerUp (b : BringUp) (s : State) : State :=
  if s.chip.ready ∨ s.chip.power.lockout ∨ s.chip.frozen then s else
  let c := allStacks.foldl (fun s t => s.stackFill t) s.chip
  let c := allDies.foldl (fun s d => (s.ringOnDomain d).updDie d (fun x => { x with ringReturned := false })) c
  s.withReach (Reach.bringUp s.fuses b { s.reach with chip := c })

/-- A lockout switches every edge ring, core domain and stack domain off, and nothing of the service survives. -/
def lockout (over_ : Bool) (s : State) : State :=
  let c := allDies.foldl (fun s d => s.ringOffDomain d) s.chip
  let c := allStacks.foldl (fun s t => s.stackOff t) c
  let p := c.power
  { s with chip := { c with ready := false, hostCache := [], traces := [], stk := allStacks.map (fun t => (t, { domainOn := false })),
                            power := { p with lockout := true, ovloEv := p.ovloEv || over_, uvloEv := p.uvloEv || !over_ } },
           fw := s.fw.lost }

/-- The lockout clears: a cold module reset with every stack refilled, and INPUT_LOCKOUT in the night log. [log 143 DEDUCED] -/
def lockoutClear (s : State) : State :=
  if s.chip.power.lockout = false then s else
  let s := coldReset allWell { s with chip := { s.chip with power := { s.chip.power with lockout := false } } }
  { s with chip := s.chip.note 0 2 Code.inputLockout 0 }

/-- Explicit power-down: firmware cleans every stack cache, then the edge rings switch off; what Meridian RAM held is lost. -/
def powerDown (s : State) : State :=
  if s.chip.frozen then s else
  let c := allDies.foldl (fun s d => if s.running d then s.rangeOp d (fun _ => true) true true else s) s.chip
  let c := allDies.foldl (fun s d => (s.ringOffDomain d).updDie d (fun x => { x with ringReturned := false })) c
  { s with chip := { c with ready := false, traces := [] }, fw := s.fw.lost }

/-! ## Meanings -/

def execMaskRomBoot (d : DieId) : State → Outcome State Fault Refusal := onFused (bootDie d)
def execDieAbsent (d : DieId) : State → Outcome State Fault Refusal := onReach (dieAbsent d)
def execSvnGo (d : DieId) : State → Outcome State Fault Refusal := onFused (svnGo d)
def execSvnFuseDone (d : DieId) (s : State) : Outcome State Fault Refusal := .next (svnDone d s)
def execPowerUp (b : BringUp) (s : State) : Outcome State Fault Refusal := .next (powerUp b s)
def execColdModuleReset (b : BringUp) (s : State) : Outcome State Fault Refusal := .next (coldReset b s)
def execWarmModuleReset (b : BringUp) (s : State) : Outcome State Fault Refusal := .next (warmReset b s)
def execModuleReset (c : Caller) (s : State) : Outcome State Fault Refusal := .next (moduleReset c s)
def execUvlo (s : State) : Outcome State Fault Refusal := .next (lockout false s)
def execOvlo (s : State) : Outcome State Fault Refusal := .next (lockout true s)
def execLockoutClear (s : State) : Outcome State Fault Refusal := .next (lockoutClear s)
def execExplicitPowerDown (s : State) : Outcome State Fault Refusal := .next (powerDown s)

end Sys2Proof.Machine
end

