-- ==== Sys2Proof/Machine/Trust.lean ====
section
/-! DEFINITION. The SPDM responder and IDE (R382 to R384), PLDM (R385), and the live firmware update with its handoff (R429 to R432). -/

namespace Sys2Proof.Machine

open Host

/-! ## SPDM (R382, R383) -/

/-- CD0 answers SPDM: running firmware, or the mask ROM in recovery (R380). -/
def Chip.answers (s : Chip) : Bool := s.running 0 || s.inRecovery

/-- The codes of an SPDM error reply and of the requests that the responder supports. -/
def spdmError : Nat := 0x7F

/-- Answer a request with an SPDM reply; each reply has its own nonce. -/
def Chip.spdmReply (s : Chip) (code : Nat) (m : List Byte) (f : Spdm → Spdm) : Chip :=
  let x := s.link.spdm
  { s with out := .bytes (Config.spdmReply code m x.nonces), link := { s.link with spdm := { f x with nonces := x.nonces + 1 } } }

/-- A request that is in order gets its reply; one out of order gets the error reply and changes nothing. [log 30 PRESUMED] -/
def Chip.spdm (code : Nat) (m : List Byte) (ok : Spdm → Bool) (f : Spdm → Spdm) (s : Chip) : Chip :=
  if s.answers = false then s
  else if ok s.link.spdm then s.spdmReply code m f
  else s.spdmReply spdmError m id

/-- What each index of R383 measures. -/
def measured (u : Fuses) (r : Reach) (index : Nat) : List Byte :=
  let x := r.chip.die 0
  match index with
  | 2 => (r.fw.bank x.bank).image
  | 3 => leBytes 48 Config.rootDigest.toNat ++ allDies.flatMap (fun d => leBytes 8 (Table.read 0 u.svnMin d).toNat)
  | 5 =>
    let l := r.chip.link
    [BitVec.ofNat 8 (if l.bifurcated then 1 else 0), l.smbusAddr.setWidth 8] ++ (List.finRange 64).map (fun n => Table.read 0 l.vfDome n) ++
      [BitVec.ofNat 8 (if x.coel.armed then 1 else 0), x.coel.perms.setWidth 8]
  | _ => []

/-- A measurement block: a SHA-384 digest. -/
def measurement (u : Fuses) (r : Reach) (index : Nat) : List Byte :=
  if index = 2 then leBytes 48 (Config.sha384 (measured u r 2)).toNat else (Config.measurement index (measured u r index)).take 48

/-- GET_MEASUREMENTS: 0 asks for the number of blocks, 0xFF for all of them. -/
def getMeasurements (index : Byte) (u : Fuses) (r : Reach) : Reach :=
  if r.chip.answers = false then r else
  let i := index.toNat
  let reply (bs : List Byte) : Reach :=
    { r with chip := { r.chip with out := .bytes bs, link := { r.chip.link with spdm := { r.chip.link.spdm with nonces := r.chip.link.spdm.nonces + 1 } } } }
  if r.chip.link.spdm.algorithms = false then { r with chip := r.chip.spdmReply spdmError [index] id }
  else if i = 0 then reply [5]
  else if i ≤ 5 then reply (measurement u r i)
  else if i = 0xFF then reply ([1, 2, 3, 4, 5].flatMap (measurement u r))
  else { r with chip := r.chip.spdmReply spdmError [index] id }

/-- IDE_KM: a stream's keys and ranges, inside a secured session; 8 streams on one link, 4 on each when bifurcated; up to 4 ranges. -/
def Chip.ideKm (link : Fin 2) (stream : Fin 8) (f : HostFn) (ranges : List (BitVec 64 × BitVec 64)) (s : Chip) : Chip :=
  if s.answers = false then s else
  let room : Bool := if s.link.bifurcated then decide (stream.val < 4) else decide (link = 0)
  if s.link.spdm.session = false ∨ room = false ∨ 4 < ranges.length ∨ s.fnExists f = false then { s with out := .unsupported } else
  let old := s.link.ide.find? (fun e => e.1 = (link, stream))
  let required : Bool := match old with
    | some e => e.2.required && decide (e.2.fn = f)
    | none => false
  { s with out := .word 1, link := { s.link with ide := s.link.ide.filter (fun e => e.1 ≠ (link, stream)) ++ [((link, stream), ⟨f, ranges, required⟩)] } }

/-! ## PLDM (R385) -/

/-- Type 0. -/
def Chip.pldmDiscovery (m : List Byte) (s : Chip) : Chip :=
  if s.running 0 = false then s else { s with out := .bytes (Config.pldmReply 0 m) }

/-- Type 2: input voltage and current, the coolant's two sensors, the dies' and the stacks' junction sensors, numbered in that order. [log 116 DEDUCED] -/
def Chip.pldmSensor (n : Nat) (s : Chip) : Chip :=
  if s.running 0 = false then s else
  let p := s.power
  let v : Reply :=
    if n = 0 then .word p.inputMv.toNat
    else if n = 1 then .word p.inputMa.toNat
    else if n = 2 then .word (p.coolant.extractLsb' 0 16).toNat
    else if n = 3 then .word (p.coolant.extractLsb' 16 16).toNat
    else if n < 516 then .word (Table.read {} (s.die (clip 8 ((n - 4) / 64))).sensors (clip 64 (n - 4))).reading.toNat
    else if n < 1284 then .word (Table.read {} (s.stack (clip 32 ((n - 516) / 24))).sensors (clip 24 (n - 516))).reading.toNat
    else .unsupported
  { s with out := v }

/-! ## The update (R429) -/

/-- PLDM_FIRMWARE_UPDATE: the other bank's record is erased, the image written and checked. While a handoff is live no update starts. [log 117 DEDUCED] -/
def firmwareUpdate (img : List Byte) (u : Fuses) (r : Reach) : Reach :=
  if r.chip.answers = false ∨ r.fw.handoff.isSome then r else
  let b := !(r.chip.die 0).bank
  let fw := { r.fw with banks := Table.write r.fw.banks b (some { magicOk := false, gen := 0, digest := 0, crcOk := false, image := img }) }
  match imageCheck img (Table.read 0 u.svnMin 0) with
  | none => { r with fw := { fw with staged := true }, chip := { r.chip with out := .word 0 } }
  | some _ => { r with fw := { fw with staged := false }, chip := { (if r.chip.running 0 then r.chip.note 0 1 Code.imageRejected 0 else r.chip) with out := .fault Code.imageRejected } }

/-! ## The handoff (R430, R431) -/

/-- Every die goes on under the image it runs: FW_STATE 1, no step of a handoff. -/
def Chip.unpark (s : Chip) (f : Die → Die) : Chip :=
  allDies.foldl (fun s d => if (s.die d).fwState = 2 ∨ (s.die d).fwState = 3 then s.updDie d (fun x => { f x with fwState := 1, handoffStep := 0 }) else s) s

/-- The abort: every die resumes the old image from its parked state; HANDOFF_ABORTED is logged and reported. -/
def Reach.abortHandoff (r : Reach) : Reach :=
  let s := r.chip.unpark id
  let s := { (s.note 0 2 Code.handoffAborted 0) with out := .fault Code.handoffAborted }
  Reach.resumeAll { r with chip := s, fw := { r.fw with handoff := none, staged := false } }

/-- ACTIVATE_FIRMWARE: steps 1 to 4, up to the imports; a die whose edge ring is down, or whose mask ROM does not verify the image, aborts it. [log 133 DEDUCED] -/
def activate (u : Fuses) (r : Reach) : Reach :=
  if r.chip.running 0 = false ∨ r.fw.handoff.isSome ∨ r.fw.staged = false then r else
  let img := (r.fw.bank (!(r.chip.die 0).bank)).image
  let good : Bool := allDies.all (fun d => r.chip.running d && (imageCheck img (Table.read 0 u.svnMin d)).isNone)
  if good = false then r.abortHandoff else
  let s := allDies.foldl (fun s d => s.updDie d (fun x => { x with fwState := 3, handoffStep := 4 })) r.chip
  { r with chip := { s with out := .none }, fw := { r.fw with handoff := some { step := 4, imported := [], image := img } } }

/-- Steps 5 and 6: the commit record with GEN one above, and every die goes on under the new image. -/
def Reach.commitHandoff (u : Fuses) (r : Reach) (h : Handoff) : Reach :=
  let x := r.chip.die 0
  let b := !x.bank
  let gen := x.gen + 1
  let k : Bank := { magicOk := true, gen := gen, digest := BitVec.ofNat 384 (bytesAt h.image 0x18 48), crcOk := true, image := h.image }
  let s := r.chip.unpark (fun y => { y with bank := b, gen := gen, verified := true })
  let s := allDies.foldl (fun s d => s.raiseSvn u d k) s
  let s := { (s.note 0 0 Code.handoffDone gen.toNat) with out := .word 0 }
  Reach.resumeAll { r with chip := s, fw := { r.fw with handoff := none, staged := false, banks := Table.write r.fw.banks b (some k) } }

/-- DIE_IMPORTED. -/
def dieImported (d : DieId) (ok : Bool) (u : Fuses) (r : Reach) : Reach :=
  match r.fw.handoff with
  | none => r
  | some h =>
    if (r.chip.die d).fwState ≠ 3 ∨ h.imported.contains d then r
    else if ok = false then r.abortHandoff
    else
      let h := { h with imported := d :: h.imported }
      if allDies.all (fun e => h.imported.contains e) then r.commitHandoff u h else { r with fw := { r.fw with handoff := some h } }

/-- HANDOFF_ABORT. -/
def handoffAbort (_ : Fuses) (r : Reach) : Reach := if r.fw.handoff.isNone then r else r.abortHandoff

/-! ## Meanings -/

def execGetVersion (m : List Byte) : State → Outcome State Fault Refusal :=
  onChip (Chip.live (Chip.spdm 0x84 m (fun _ => true) (fun x => { version := true, keyEpoch := x.keyEpoch })))
def execGetCapabilities (m : List Byte) : State → Outcome State Fault Refusal :=
  onChip (Chip.live (Chip.spdm 0xE1 m (fun x => x.version) (fun x => { x with capabilities := true, algorithms := false })))
def execNegotiateAlgorithms (m : List Byte) : State → Outcome State Fault Refusal :=
  onChip (Chip.live (Chip.spdm 0xE3 m (fun x => x.capabilities) (fun x => { x with algorithms := true })))
def execGetDigests (m : List Byte) : State → Outcome State Fault Refusal := onChip (Chip.live (Chip.spdm 0x81 m (fun x => x.algorithms) id))
def execGetCertificate (m : List Byte) : State → Outcome State Fault Refusal := onChip (Chip.live (Chip.spdm 0x82 m (fun x => x.algorithms) id))
def execChallenge (m : List Byte) : State → Outcome State Fault Refusal := onChip (Chip.live (Chip.spdm 0x83 m (fun x => x.algorithms) id))
def execGetMeasurements (index : Byte) : State → Outcome State Fault Refusal := onFused (getMeasurements index)
def execKeyExchange (m : List Byte) : State → Outcome State Fault Refusal :=
  onChip (Chip.live (Chip.spdm 0xE4 m (fun x => x.algorithms && !x.session) (fun x => { x with handshake := true })))
def execFinish (m : List Byte) : State → Outcome State Fault Refusal :=
  onChip (Chip.live (Chip.spdm 0xE5 m (fun x => x.handshake) (fun x => { x with handshake := false, session := true })))
def execKeyUpdate (m : List Byte) : State → Outcome State Fault Refusal :=
  onChip (Chip.live (Chip.spdm 0xE9 m (fun x => x.session) (fun x => { x with keyEpoch := x.keyEpoch + 1 })))
def execEndSession (m : List Byte) : State → Outcome State Fault Refusal :=
  onChip (Chip.live (Chip.spdm 0xEC m (fun x => x.session) (fun x => { x with session := false })))
def execIdeKm (link : Fin 2) (stream : Fin 8) (f : HostFn) (ranges : List (BitVec 64 × BitVec 64)) : State → Outcome State Fault Refusal :=
  onChip (Chip.live (Chip.ideKm link stream f ranges))
def execPldmDiscovery (m : List Byte) : State → Outcome State Fault Refusal := onChip (Chip.live (Chip.pldmDiscovery m))
def execPldmPlatformMonitoring (n : Nat) : State → Outcome State Fault Refusal := onChip (Chip.live (Chip.pldmSensor n))
def execPldmFirmwareUpdate (img : List Byte) : State → Outcome State Fault Refusal := onFused (firmwareUpdate img)
def execActivateFirmware : State → Outcome State Fault Refusal := onFused activate
def execDieImported (d : DieId) (ok : Bool) : State → Outcome State Fault Refusal := onFused (dieImported d ok)
def execHandoffAbort : State → Outcome State Fault Refusal := onFused handoffAbort

end Sys2Proof.Machine
end

