-- ==== Sys2Proof/Machine/HostLink.lean ====
section
/-! DEFINITION. The host link (R366 to R377): training and resets, configuration requests, the BARs other than register pages, doorbells, mailboxes and the copy channels. -/

namespace Sys2Proof.Machine

open Host

/-! ## Functions and the link (R366 to R368) -/

/-- Every function. -/
def allFns : List HostFn := [.pf, .pf1] ++ (List.finRange 64).map .vf

/-- The rate of a function's link: 0 below 32 GT/s. -/
def Chip.fnSpeed (s : Chip) (f : HostFn) : BitVec 3 := if s.fnLink f = 0 then s.link.speed else s.link.speed1

/-- A function's BARs decode: its link runs at 32 GT/s or more, it is in D0, and CD0 runs verified firmware. -/
def Chip.barOpen (s : Chip) (f : HostFn) : Bool :=
  s.fnUp f && decide (s.fnSpeed f ≠ 0) && !(s.fn f).d3hot && decide (1 ≤ (s.die 0).fwState) && decide ((s.die 0).fwState ≤ 3) && !s.frozen

/-- log2 of a function's BAR2 size. -/
def Chip.bar2Log (s : Chip) (f : HostFn) : Nat :=
  let x := s.fn f
  if x.bar2SizeLog2 ≠ 0 then x.bar2SizeLog2 else match f with
    | .pf => 30
    | _ => 28

/-- PERST# is asserted: both links are down. -/
def Chip.linksDown (s : Chip) (which : List (Fin 2)) : Chip :=
  let x := s.link
  let x := if which.contains 0 then { x with link0Up := false, width := 0, speed := 0 } else x
  let x := if which.contains 1 then { x with link1Up := false, speed1 := 0 } else x
  { s with link := x }

/-- PERST_DEASSERT: the strap is sampled and training begins. -/
def Chip.perstDeassert (bifur : Bool) (s : Chip) : Chip :=
  if (s.die 0).ringOn = false ∨ s.link.perst = false then s else { s with link := { s.link with perst := false, bifurcated := bifur } }

/-- HOST_LINK_UP: a link trained to a width and a rate; rate 0 stands for 2.5 GT/s. [log 114 DEDUCED] -/
def Chip.linkUp (l : Fin 2) (width : BitVec 5) (speed : BitVec 3) (s : Chip) : Chip :=
  let most : Nat := if s.link.bifurcated then 8 else 16
  let widthOk : Bool := [1, 2, 4, 8, 16].contains width.toNat && decide (width.toNat ≤ most)
  if (s.die 0).ringOn = false ∨ s.frozen ∨ s.link.perst ∨ widthOk = false ∨ 3 < speed.toNat ∨ (l = 1 ∧ s.link.bifurcated = false) then s
  else if l = 0 then { s with link := { s.link with link0Up := true, width := width, speed := speed } }
  else { s with link := { s.link with link1Up := true, speed1 := speed } }

/-! ## Resets of functions (R376) -/

/-- A function's configuration and vectors at reset; a call that runs completes inside and its reply is discarded. -/
def Function.hostReset (x : Function) : Function :=
  { block := x.block, busy := x.busy, done := x.done, callBusy := x.callBusy, discardReply := x.discardReply || x.busy, bar2Base := x.bar2Base, viewSel := x.viewSel,
    sentMsix := x.sentMsix }

/-- The requests of a queue end as if cancelled, with no record: those in a step when the step ends. -/
def Firmware.dropRequests (fw : Firmware) (n : Nat) : Firmware :=
  let mine := fw.seqs.filter (fun q => q.submitted = n)
  let running (q : Sequence) : Bool := !q.ended && ((fw.dome q.dome).map (fun m => m.inStep q.index)).getD false
  mine.foldl (fun fw q =>
    let fw := fw.updDome q.dome (fun m => m.dropReplay q.index)
    if running q then fw.updSeq q.index (fun y => { y with cancelled := true, noRecord := true }) else fw.forget q.index) fw

/-- Queues with HOST_RINGS of some functions are stopped; their entries and the records they owe are dropped. [log 113 DEDUCED] -/
def Firmware.stopRings (fw : Firmware) (gone : HostFn → Bool) : Firmware :=
  let hit := fw.queues.filterMap (fun e => match fw.queue e.1 with
    | some q => (match q.fn with
      | some f => if q.configured && q.hostRings && gone f then some e.1 else none
      | none => none)
    | none => none)
  hit.foldl (fun fw n => (fw.dropRequests n).updQueue n (fun q => { q with stopped := true, subHead := q.subTail, owed := [], cancels := [] })) fw

/-- The effect of a reset on some functions. -/
def Reach.resetFns (r : Reach) (gone : HostFn → Bool) : Reach :=
  let x := r.chip.link
  let x := { x with
    fns := x.fns.map (fun e => if gone e.1 then (e.1, e.2.hostReset) else e), copyPending := x.copyPending.filter (fun e => !gone e.1),
    ide := x.ide.filter (fun e => !gone e.2.fn), vfEnable := x.vfEnable && !gone .pf,
    spdm := if gone .pf then { nonces := x.spdm.nonces, keyEpoch := x.spdm.keyEpoch } else x.spdm }
  { r with chip := { r.chip with link := x }, fw := r.fw.stopRings gone }

/-- THERMAL_SAMPLE: when it switches CD0's edge ring off, the host link goes down with it (R17, R376). -/
def thermalRow (d : DieId) (l : List (BitVec 16)) (r : Reach) : Reach :=
  let x := { r with chip := Chip.thermalSample d l r.chip }
  if (r.chip.die 0).ringOn ∧ (x.chip.die 0).ringOn = false then
    let y := x.resetFns (fun _ => true)
    { y with chip := y.chip.linksDown [0, 1] }
  else x

/-- The functions that a link carries. -/
def Chip.onLink (s : Chip) (l : Fin 2) (f : HostFn) : Bool := decide (s.fnLink f = l)

/-- PERST#. -/
def perst (r : Reach) : Reach :=
  if (r.chip.die 0).ringOn = false then r else
  let r := r.resetFns (fun _ => true)
  { r with chip := Chip.linksDown { r.chip with link := { r.chip.link with perst := true } } [0, 1] }

/-- A hot reset, or the link going down. -/
def linkReset (l : Fin 2) (r : Reach) : Reach :=
  if (r.chip.die 0).ringOn = false then r else
  let s := r.chip
  let r := r.resetFns (fun f => s.onLink l f)
  { r with chip := r.chip.linksDown [l] }

/-- FLR of a VF. -/
def vfFlr (n : Fin 64) (r : Reach) : Reach := if r.chip.fnUp (.vf n) then r.resetFns (fun f => decide (f = .vf n)) else r

/-- FLR of the PF clears VF Enable and with it reaches every VF. -/
def pfFlr (r : Reach) : Reach := if r.chip.fnUp .pf then r.resetFns (fun f => decide (f ≠ .pf1)) else r

/-! ## Configuration requests (R366, R368, R374, R380, R384) -/

/-- Messages kept in the PBA whose vectors are no longer masked are sent (R374). -/
def Function.flushPba (x : Function) : Function :=
  if x.msixEnable = false then x else
  let open_ (v : Nat) : Bool := (Table.read 1 x.msixTable (4 * v + 3)).getLsbD 0 = false
  { x with sentMsix := x.sentMsix ++ (x.pba.filter open_).reverse, pba := x.pba.filter (fun v => !open_ v) }

/-- The IDE requirement bit of a stream (R384). -/
def Chip.ideRequire (s : Chip) (f : HostFn) (k : Fin 2 × Fin 8) (v : Bool) : Chip :=
  let l := s.link.ide
  let l := if l.any (fun e => e.1 = k) then l.map (fun e => if e.1 = k then (k, { e.2 with required := v }) else e)
    else if v then l ++ [(k, ⟨f, [], true⟩)] else l
  { s with link := { s.link with ide := l } }

/-- A configuration write of a function in service. [log 111 PRESUMED, log 112 DEDUCED] -/
def configWrite (f : HostFn) (x : ConfigOp) (r : Reach) : Reach :=
  let s := { r.chip with out := .none }
  let isVf : Bool := match f with
    | .vf _ => true
    | _ => false
  match x with
  | .msixEnable v => if f = .pf1 then { r with chip := s } else { r with chip := s.updFn f (fun y => Function.flushPba { y with msixEnable := v }) }
  | .vfEnable v =>
    if f ≠ .pf then { r with chip := s }
    else if v then { r with chip := { s with link := { s.link with vfEnable := true } } }
    else
      let r := Reach.resetFns { r with chip := s } (fun g => match g with
        | .vf _ => true
        | _ => false)
      { r with chip := { r.chip with link := { r.chip.link with vfEnable := false } } }
  | .bar2Size n =>
    let good : Bool := if isVf then decide (28 ≤ n) && decide (n ≤ 30) else decide (f = .pf) && decide (30 ≤ n) && decide (n ≤ 36)
    if good then { r with chip := s.updFn f (fun y => { y with bar2SizeLog2 := n }) } else { r with chip := s }
  | .d3hot v => { r with chip := s.updFn f (fun y => { y with d3hot := v }) }
  | .ideRequire l n v => if f = .pf then { r with chip := s.ideRequire f (l, n) v } else { r with chip := s }
  | .read _ => let v := s.freeBits 32; { r with chip := { v.2 with out := .word v.1.toNat } }
  | .other _ => { r with chip := s }

/-- CONFIG_REQUEST: retried until CD0 runs firmware or its mask ROM has entered recovery, where only the PF exists. -/
def configRequest (f : HostFn) (x : ConfigOp) (r : Reach) : Reach :=
  let s := r.chip
  let up : Bool := (s.die 0).ringOn && !s.frozen && (if s.fnLink f = 0 then s.link.link0Up else s.link.link1Up)
  if up = false then r
  else if (s.die 0).fwState = 0 then { r with chip := { s with out := .retryStatus } }
  else if s.fnExists f = false ∨ (s.inRecovery ∧ f ≠ .pf) then { r with chip := { s with out := .unsupported } }
  else match s.inRecovery, x with
    | true, .read _ | true, .d3hot _ => configWrite f x r
    | true, _ => { r with chip := { s with out := .none } }
    | false, _ => configWrite f x r

/-! ## BAR2 (R371, R384) -/

/-- A BAR access reaches no BAR. -/
def Chip.unsupported (s : Chip) : Chip := { s with out := .unsupported }

/-- A request outside every association range of a function whose stream requires IDE: dropped and logged (R384). [log 115 PRESUMED] -/
def Chip.ideBlocks (s : Chip) (f : HostFn) (off : Nat) : Bool :=
  let mine := (s.link.ide.filter (fun e => e.2.fn = f)).map (fun e => e.2)
  mine.any (fun x => x.required) && !mine.any (fun x => x.ranges.any (fun p => decide (p.1.toNat ≤ off) && decide (off ≤ p.2.toNat)))
def Chip.ideDrop (s : Chip) : Chip := { s with out := .none, link := { s.link with ideCheckFailed := s.link.ideCheckFailed + 1 } }

/-- A fault is captured on the HOSTLINK page (R66, R371). -/
def Chip.barFault (s : Chip) (c : FaultCode) (a : Nat) : Chip := s.err .hostlink { bit := 0, code := c, addr := selfAddr a }

/-- The local address of a BAR2 offset. -/
def Chip.bar2Addr (s : Chip) (f : HostFn) (off : Nat) : Nat := (s.fn f).bar2Base.toNat + off

/-- A function has a BAR2 that decodes an access. -/
def Chip.bar2Hit (s : Chip) (f : HostFn) (off n : Nat) : Bool := s.barOpen f && decide (f ≠ .pf1) && decide (off + n ≤ 2 ^ s.bar2Log f)

/-- A fault of a BAR2 read: data that cannot be corrected or is poisoned comes back with EP set; anything else is a Completer Abort. [log 109 DEDUCED] -/
def Chip.readFault (s : Chip) (c : FaultCode) (a : Nat) : Chip :=
  if c = Code.uncorrectable ∨ c = Code.poisoned then { s with out := .poisonedCompletion } else { s.barFault c a with out := .completerAbort }

/-- A fault of a BAR2 write: dropped, captured, an advisory error. -/
def Chip.writeFault (s : Chip) (c : FaultCode) (a : Nat) : Chip :=
  { s.barFault c a with out := .fault c, link := { (s.barFault c a).link with advisory := s.link.advisory + 1 } }

/-- BAR2_READ. -/
def Chip.bar2Read (f : HostFn) (off : BitVec 36) (n : Nat) (s : Chip) : Chip :=
  if s.bar2Hit f off.toNat n = false ∨ n = 0 ∨ 4096 < n then s.unsupported
  else if s.ideBlocks f off.toNat then s.ideDrop
  else
    let a := s.bar2Addr f off.toNat
    let w := whoOf (.host f)
    match place a with
    | .obj o 0 =>
      if n = 8 then
        let r := s.objReadOp w o
        match r.2.fault with
        | some c => r.1.readFault c a
        | none => if r.2.held then { r.1.holdOp w.agent o .read with out := .none } else { r.1 with out := .bytes (leBytes 8 r.2.count.toNat) }
      else match s.load w a n with
        | (s, .ok bs) => { s with out := .bytes bs }
        | (s, .error c) => s.readFault c a
    | _ =>
      match s.load w a n with
      | (s, .ok bs) => { s with out := .bytes bs }
      | (s, .error c) => s.readFault c a

/-- BAR2_WRITE. [log 108 DEDUCED] -/
def Chip.bar2Write (f : HostFn) (off : BitVec 36) (bs : List Byte) (ep : Bool) (s : Chip) : Chip :=
  if s.bar2Hit f off.toNat bs.length = false ∨ bs = [] ∨ 512 < bs.length then s.unsupported
  else if s.ideBlocks f off.toNat then s.ideDrop
  else if ep then
    let s := s.err .hostlink { bit := 1, code := 0, addr := selfAddr (s.bar2Addr f off.toNat) }
    { s with out := .none, link := { s.link with poisonedTlp := s.link.poisonedTlp + 1 } }
  else
    let a := s.bar2Addr f off.toNat
    let w := whoOf (.host f)
    let byStore : Chip := match s.store w a bs with
      | (s, none) => { s with out := .none }
      | (s, some c) => s.writeFault c a
    match place a with
    | .obj o 0 =>
      if bs.length = 8 then
        let r := s.objOp w o (.signal (BitVec.ofNat 64 (leNat bs)) none)
        match r.2.fault with
        | some c => r.1.writeFault c a
        | none => { r.1 with out := .none }
      else byStore
    | _ => byStore

/-- The AOP code of a PCI Express atomic (R191, R358). -/
def atomicOpCode : AtomicKind → BitVec 4
  | .fetchAdd => 1
  | .swap => 9
  | .cas => 10

/-- ATOMICOP: FetchAdd and Swap of 32 and 64 bits, CAS of 64 bits. -/
def Chip.atomicOp (f : HostFn) (off : BitVec 36) (x : PcieAtomic) (s : Chip) : Chip :=
  let n := 2 ^ x.sizeLog2.val
  let known : Bool := decide (n = 8) || (decide (n = 4) && decide (x.kind ≠ .cas))
  if s.bar2Hit f off.toNat n = false ∨ known = false then s.unsupported
  else if s.ideBlocks f off.toNat then s.ideDrop
  else
    let a := s.bar2Addr f off.toNat
    match s.fetchAt (whoOf (.host f)) a (atomicOpCode x.kind) (if n = 8 then 12 else 11) (leBytes n x.operand.toNat) x.newValue with
    | (s, .ok bs) => { s with out := .bytes bs }
    | (s, .error c) => s.readFault c a

/-- What a write over the link may have raised for queues whose entries come from service software. -/
def thenPoll (f : Chip → Chip) (r : Reach) : Reach := Reach.pollProducers { r with chip := f r.chip }

/-! ## BAR4 (R315, R372) -/

/-- The queue of a BAR4 page: the PF's page is the queue's number, a VF's counts the queues of its dome. -/
def Reach.pageQueue (r : Reach) (f : HostFn) (page : Nat) : Option Nat :=
  match f with
  | .pf => if page < 1024 then some page else none
  | .pf1 => none
  | .vf _ => if 256 ≤ page then none else
    ((r.chip.domeOf (.host f)).bind (fun id => r.fw.dome id)).bind (fun m => nth m.queues page)

/-- QUEUE_DOORBELL. -/
def queueDoorbell (f : HostFn) (page : Nat) (off : BitVec 12) (size : Nat) (v : BitVec 32) (r : Reach) : Reach :=
  if r.chip.barOpen f = false ∨ f = .pf1 then { r with chip := r.chip.unsupported } else
  let wrong : Reach := { r with chip := { (r.chip.err .hostlink { bit := 2, code := 0 }) with out := .none } }
  match r.pageQueue f page with
  | none => wrong
  | some n =>
    match r.fw.queue n with
    | none => wrong
    | some q => if off ≠ 0 ∨ size ≠ 4 ∨ q.configured = false ∨ q.fn ≠ some f then wrong
                else Reach.newTail { r with chip := { r.chip with out := .none } } n v.toNat

/-! ## Mailboxes (R311, R370, R380, R482) -/

/-- MAILBOX_GO: held until the module serves; in recovery and for PF1 every call fails. -/
def mailboxGo (f : HostFn) (r : Reach) : Reach :=
  let s := r.chip
  let rec_ : Bool := s.inRecovery && decide (f = .pf) && s.fnUp .pf && decide (s.link.speed ≠ 0)
  if s.barOpen f = false ∧ rec_ = false then { r with chip := s.unsupported }
  else if (s.fn f).busy then { r with chip := s.updFn f (fun x => { x with callBusy := true }) }
  else
    let r := { r with chip := s.updFn f (fun x => { x with busy := true, done := false }) }
    if rec_ then r.recoveryReply
    else if f = .pf1 then (match r.outstanding (.fn f) with
      | (r, some k) => r.finish k (refuse Code.callDenied)
      | (r, none) => r)
    else unknownCall (.fn f) r

/-! ## VF_DOME, VIEW_SEL, the copy channels (R373, R375, R465) -/

/-- The byte that a VF_DOME register gives a VF. -/
def vfByte (v : BitVec 32) (j : Nat) : Byte := v.extractLsb' (8 * j) 8 &&& 0x8F

/-- VF_DOME: dropped when it changes the byte of a VF that a queue names. -/
def vfDomeWrite (k : Fin 16) (v : BitVec 32) (r : Reach) : Reach :=
  if (r.chip.die 0).ringOn = false then r else
  let named (n : Fin 64) : Bool := r.fw.queues.any (fun e => match e.2 with
    | some q => q.configured && decide (q.fn = some (.vf n))
    | none => false)
  let vf (j : Nat) : Fin 64 := clip 64 (4 * k.val + j)
  if (List.range 4).any (fun j => decide (Table.read 0 r.chip.link.vfDome (vf j) ≠ vfByte v j) && named (vf j)) then
    { r with chip := r.chip.err .hostlink { bit := 3, code := 0 } }
  else
    let t := (List.range 4).foldl (fun t j => Table.write t (vf j) (vfByte v j)) r.chip.link.vfDome
    { r with chip := { r.chip with link := { r.chip.link with vfDome := t } } }

/-- VIEW_SEL. -/
def Chip.viewSelWrite (n : Fin 64) (v : BitVec 32) (s : Chip) : Chip :=
  if s.barOpen (.vf n) = false then s.unsupported else s.updFn (.vf n) (fun x => { x with viewSel := v &&& 0xC000FFFF })

/-- COPY_CHANNEL_RESPONSE: the oldest write's answer; a refusal is logged, and a token's reaches its hart as DFAULT (R397). -/
def Chip.copyResponse (ok : Bool) (s : Chip) : Chip :=
  match s.link.copyPending with
  | [] => s
  | (_, op) :: rest =>
    let s := { s with link := { s.link with copyPending := rest } }
    if ok then s else
    let s := ({ s with link := { s.link with copyFailed := s.link.copyFailed + 1 } }).note 0 2 Code.hostAccess 0
    match op with
    | .token h => s.updHart h (fun x => { x with dfault := true })
    | .record _ => s

/-! ## Meanings -/

def execThermalSample (d : DieId) (r : List (BitVec 16)) : State → Outcome State Fault Refusal := onReach (thermalRow d r)
/-- A freeze stops the host link (R478). -/
def liveReach (f : Reach → Reach) (r : Reach) : Reach := if r.chip.frozen then r else f r

def execPerst : State → Outcome State Fault Refusal := onReach (liveReach perst)
def execHotReset (l : Fin 2) : State → Outcome State Fault Refusal := onReach (liveReach (linkReset l))
def execHostLinkDown (l : Fin 2) : State → Outcome State Fault Refusal := onReach (liveReach (linkReset l))
def execVfFlr (n : Fin 64) : State → Outcome State Fault Refusal := onReach (liveReach (vfFlr n))
def execPfFlr : State → Outcome State Fault Refusal := onReach (liveReach pfFlr)
def execConfigRequest (f : HostFn) (x : ConfigOp) : State → Outcome State Fault Refusal := onReach (configRequest f x)
def execBar2Read (f : HostFn) (off : BitVec 36) (n : Nat) : State → Outcome State Fault Refusal := onChip (Chip.bar2Read f off n)
def execBar2Write (f : HostFn) (off : BitVec 36) (bs : List Byte) (ep : Bool) : State → Outcome State Fault Refusal :=
  onReach (thenPoll (Chip.bar2Write f off bs ep))
def execAtomicOp (f : HostFn) (off : BitVec 36) (x : PcieAtomic) : State → Outcome State Fault Refusal := onReach (thenPoll (Chip.atomicOp f off x))
def execQueueDoorbell (f : HostFn) (page : Nat) (off : BitVec 12) (size : Nat) (v : BitVec 32) : State → Outcome State Fault Refusal :=
  onReach (queueDoorbell f page off size v)
def execMailboxGo (f : HostFn) : State → Outcome State Fault Refusal := onReach (mailboxGo f)
def execVfDomeWrite (k : Fin 16) (v : BitVec 32) : State → Outcome State Fault Refusal := onReach (liveReach (vfDomeWrite k v))
def execViewSelWrite (n : Fin 64) (v : BitVec 32) : State → Outcome State Fault Refusal := onChip (Chip.viewSelWrite n v)
def execCopyChannelResponse (ok : Bool) : State → Outcome State Fault Refusal := onChip (Chip.live (Chip.copyResponse ok))
def execPerstDeassert (b : Bool) : State → Outcome State Fault Refusal := onChip (Chip.live (Chip.perstDeassert b))
def execHostLinkUp (l : Fin 2) (width : BitVec 5) (speed : BitVec 3) : State → Outcome State Fault Refusal := onChip (Chip.live (Chip.linkUp l width speed))

end Sys2Proof.Machine
end

