-- ==== Sys2Proof/Machine/Pages.lean ====
section
/-! DEFINITION. Register pages: where each lies (R69), and what each of their words reads as (R64, R125, R154, R181, R202 to R204, R239, R282, R364, R365, R377, R381, R408, R436, R457, R458, R467, R480). -/

namespace Sys2Proof.Machine

open Host

/-! ## Pages (R69) -/

/-- A populated register page: a block's head page, or one of its further pages. -/
inductive Page where
  | head (b : Block)
  | exchange (d : DieId) (p : Nat)
  | regions (d : DieId) (p : Nat)
  | routes (d : DieId) (p : Nat)
  | slots (t : StackId) (p : Nat)
  | ustore (t : StackId) (p : Nat)
  deriving DecidableEq, Repr

/-- Page p of a die's space. -/
def diePage (d : DieId) (p : Nat) : Option Page :=
  if diePagePopulated d p = false then none
  else if p = 0 then some (.head (.meridian d))
  else if p < 0x10 then some (.exchange d p)
  else if p = 0x10 then some (.head (.security d))
  else if p = 0x11 then some (.head (.power d))
  else if p = 0x12 then some (.head (.guider d))
  else if p = 0x13 then some (.head (.coelostat d))
  else if p = 0x14 then some (.head (.photometerIf d))
  else if p = 0x18 then some (.head (.d2d d))
  else if p < 0x1D then some (.regions d (p - 0x19))
  else if p = 0x20 then some (.head (.stackCache d))
  else if p = 0x21 then some (.head (.sync (.die d)))
  else if p = 0x40 then some (.head .hostlink)
  else if p < 0x4C then (allPorts.find? (fun x => decide (portDie x = d) && decide (x.val % 4 = p - 0x48))).map (fun x => .head (.kuzopaPort x))
  else if p = 0x4C then some (.head (.fabricRoute d))
  else if p < 0x100 then some (.routes d (p - 0x50))
  else if p < 0x110 then some (.head (.clusterSeq ⟨d, clip 16 p⟩))
  else if p < 0x130 then some (.head (.perf (.cluster ⟨d, clip 16 p⟩)))
  else if p < 0x400 then some (.head (.core ⟨d, clip 512 p⟩))
  else if p < 0x600 then some (.head (.dataEngine ⟨d, clip 512 p⟩))
  else some (.head (.hostcore ⟨d, clip 16 p⟩))

/-- Page p of a stack's space. -/
def stackPage (t : StackId) (p : Nat) : Option Page :=
  if stackPagePopulated p = false then none
  else match p with
    | 0 => some (.head (.stackCtrl t))
    | 1 => some (.head (.ulizen t))
    | 2 => some (.head (.slit t))
    | 3 => some (.head (.reducer t))
    | 4 => some (.head (.scrub t))
    | 5 => some (.head (.sync (.stack t)))
    | 6 => some (.head (.perf (.stack t)))
    | p => if p < 0x20 then some (.slots t (p - 0x10)) else some (.ustore t (p - 0x20))

/-- The block a page belongs to. -/
def Page.block : Page → Block
  | .head b => b
  | .exchange d _ => .meridian d
  | .regions d _ => .d2d d
  | .routes d _ => .fabricRoute d
  | .slots t _ | .ustore t _ => .ulizen t

/-- The page and the offset within it that a local address names, when it names a populated one. -/
def pageAt (a : Nat) : Option (Page × Nat) :=
  match place a with
  | .diePage d o => (diePage d (o / 4096)).map (fun p => (p, o % 4096))
  | .stackPage t o => (stackPage t (o / 4096)).map (fun p => (p, o % 4096))
  | _ => none

/-- The pairs LO and HI of R67: an offset that is a multiple of 8 names one when the block's table gives it so. [log 16 DEDUCED] -/
def Page.isPair (p : Page) (off : Nat) : Bool :=
  match p with
  | .exchange _ _ | .routes _ _ | .ustore _ _ => false
  | .regions _ _ => true
  | .slots _ _ => decide (0x10 ≤ off % 64)
  | .head b =>
    decide (off = 0x30) ||
    (match b with
     | .meridian _ => decide (off = 0x100)
     | .hostcore _ => decide (off = 0x100) || decide (off = 0x110)
     | .security _ => decide (off = 0x130) || decide (off = 0x138)
     | .photometerIf _ => decide (off = 0x108)
     | .stackCache _ => decide (off = 0x100) || decide (off = 0x108)
     | .sync _ => decide (off = 0x108) || decide (off = 0x110)
     | .hostlink => decide (0x200 ≤ off) && decide (off < 0x408)
     | .clusterSeq _ => decide (off = 0x110) || decide (off = 0x118) || decide (off = 0x128) || (decide (0x130 ≤ off) && decide (off < 0x1A8))
     | .perf _ => decide (off = 0x208)
     | .core _ => decide (0x110 ≤ off) && decide (off < 0x130)
     | .ulizen _ => decide (0x200 ≤ off) && decide (off < 0x300)
     | .scrub _ => decide (off = 0x118) || decide (off = 0x120) || (decide (0x200 ≤ off) && decide (off < 0x600))
     | _ => false)

/-! ## CAPS, CTRL, STATUS and computed events -/

/-- Bits of a value at a place. -/
def bitsAt (v n : Nat) : Word32 := BitVec.ofNat 32 (v * 2 ^ n)

/-- The words of a block's head that its table gives. [log 20 DESIGN CHOICE] -/
def State.headView (s : State) (b : Block) : HeadView :=
  let c := s.chip
  match b with
  | .meridian _ | .slit _ | .reducer _ => {}
  | .security d =>
    let x := c.die d
    { status := bitsAt x.failCheck 8 ||| bitIf x.svnBusy 3 ||| bitIf x.recovery 2 ||| bitIf x.bank 1 ||| bitIf x.verified 0 }
  | .power d =>
    let x := c.die d
    { ctrl := x.point.setWidth 32, status := bitIf x.slewing 2 ||| x.pointActive.setWidth 32 }
  | .guider d =>
    let x := c.die d
    let g := x.guider
    { ctrl := g.ctrlDuty.setWidth 32,
      status := (BitVec.ofInt 16 (hottestOf ((x.sensors.filter (fun e => decide (e.1.val < 48))).map (fun e => e.2)))).setWidth 32 <<< 16 |||
        bitIf (decide (20 < g.samples)) 11 ||| bitIf x.alert 10 ||| bitIf (decide (0 < g.pauseHold)) 9 ||| bitsAt g.dThermal 4 ||| bitsAt g.duty 0 }
  | .coelostat d =>
    let x := (c.die d).coel
    { status := (x.perms.setWidth 32 <<< 6) ||| bitIf x.frozen 2 ||| bitIf x.freezing 1 ||| bitIf x.armed 0 }
  | .photometerIf d =>
    let x := (c.die d).chan
    { status := bitIf s.phot.testing 3 ||| bitIf s.phot.on 2 ||| bitIf x.done 1 ||| bitIf x.busy 0 }
  | .d2d d => { status := bitIf (c.die d).tfenceBusy 0 }
  | .stackCache d =>
    let x := c.die d
    { caps := 0x00110010, ctrl := (x.keepWaysMax.setWidth 32 <<< 8) ||| bitIf x.bypass 0, status := bitIf x.rangeBusy 0 }
  | .sync u =>
    let x := c.sync u
    { caps := (match u with
        | .die _ => 0x1000
        | .stack _ => 0x100),
      status := bitIf x.clearBusy 7 ||| bitsAt x.notes.length 0, events := bitIf (x.notes ≠ []) 1 }
  | .hostlink =>
    let x := c.link
    { status := (x.width.setWidth 32 <<< 8) ||| (x.speed.setWidth 32 <<< 4) ||| bitIf (c.die 0).recovery 3 ||| bitIf x.link1Up 2 |||
        bitIf x.bifurcated 1 ||| bitIf x.link0Up 0 }
  | .kuzopaPort p => c.portView p
  | .fabricRoute d => c.fabricView d
  | .clusterSeq k =>
    let x := c.cluster k
    { status := bitIf x.abortedFlag 5 ||| bitIf x.faultedFlag 4 ||| bitIf (c.outstanding k) 3 ||| bitIf (x.running && x.stop.isSome) 2 |||
        bitIf (match x.phase with
          | .waiting _ _ _ _ => x.running
          | _ => false) 1 ||| bitIf x.running 0 }
  | .perf _ | .core _ => {}
  | .dataEngine k =>
    let q := (c.core k).de
    { caps := 0x40, status := bitsAt q.depth 5 ||| bitIf q.running.isSome 4 }
  | .hostcore h =>
    let x := c.hart h
    { ctrl := bitIf x.inReset 1 ||| bitIf x.run 0, status := (x.priv.setWidth 32 <<< 4) ||| bitIf x.inReset 2 ||| bitIf x.wfi 1 ||| bitIf x.fetching 0 }
  | .stackCtrl t =>
    let x := c.stack t
    { ctrl := bitIf x.online 16 ||| bitIf x.lbRun 5 ||| (x.lbPattern.setWidth 32 <<< 2) ||| x.loopback.setWidth 32,
      status := bitsAt (x.owed.foldl (fun n e => Nat.max n e.2) 0) 8 ||| bitsAt (if x.quarteredSelf then 2 else x.refreshRate) 4 ||| bitIf (decide (lbMode x.loopback ≠ 0)) 2 |||
        bitIf x.selfRefresh 1 ||| bitIf x.onlineAck 0 }
  | .ulizen t =>
    let x := c.stack t
    { caps := 0x00200400, status := bitIf x.labBusy 1 ||| bitIf x.resetBusy 0 }
  | .scrub t =>
    let x := c.stack t
    { ctrl := bitIf x.scrubEn 0, status := bitIf x.poisonBusy 3 ||| bitIf x.retireBusy 2 ||| bitIf x.stalled 1 ||| bitIf x.lapped 0,
      events := bitIf (x.ceLog ≠ []) 1 }

/-! ## Block registers -/

/-- One half of a 64-bit value, by the offset of the word. -/
def half (v : Word64) (off : Nat) : Word32 := if off % 8 = 0 then v.extractLsb' 0 32 else v.extractLsb' 32 32

/-- Word i of a wide value. -/
def wordOf {w : Nat} (v : BitVec w) (i : Nat) : Word32 := v.extractLsb' (32 * i) 32

/-- A 32-bit word of a run of bytes. -/
def byteWord (l : List Byte) (off : Nat) : Word32 := BitVec.ofNat 32 (leNat ((l.drop off).take 4))

/-- OWNER (R61). -/
def Cluster.owner (x : Cluster) : Word32 :=
  bitIf x.fabricOpen 31 ||| bitIf x.assigned 12 ||| (x.dome.setWidth 32 <<< 8) ||| x.phPhase.setWidth 32

/-- OBJ_OWNER (R282). -/
def SyncObj.owner (x : SyncObj) : Word32 := bitIf x.assigned 31 ||| bitIf x.fabricOpen 30 ||| x.dome.setWidth 32

/-- The object a requester has selected on a SYNC page. -/
def Chip.selected (s : Chip) (q : Requester) (u : SyncUnit) : ObjId := objIn u (Table.read 0 (s.sync u).sel q).toNat

/-- The two words of CE_LOG for the oldest entry, and for the entry last removed (R436). -/
def CeEntry.low (e : CeEntry) : Word32 := BitVec.ofNat 32 e.saddr
def CeEntry.high (e : CeEntry) : Word32 := bitMask 31 ||| bitsAt (e.lap % 2 ^ 15) 16 ||| bitsAt (e.symbol % 256) 8 ||| bitsAt (e.path % 16) 4 ||| bitsAt (e.saddr / 2 ^ 32 % 16) 0

/-- The words of the pages of an edge ring's blocks, from offset 0x100 on. [log 19 DEDUCED] -/
def State.ringWord (s : State) (b : Block) (off : Nat) : Word32 :=
  let c := s.chip
  let i := (off - 0x100) / 4
  match b with
  | .meridian d =>
    let x := c.die d
    if off < 0x108 then half x.timer off
    else if off = 0x108 then bitsAt (x.handoffStep % 16) 8 ||| bitsAt (x.fwState % 8) 0
    else if off = 0x10C then BitVec.ofNat 32 x.logSeq
    else 0
  | .hostcore h =>
    let x := c.hart h
    if off < 0x108 then half x.resetPc off
    else if off = 0x108 then BitVec.ofNat 32 (h.die.val * 16 + h.idx.val)
    else if off = 0x110 ∨ off = 0x114 then half x.imsic off
    else if off = 0x118 then bitIf x.assigned 4 ||| x.dome.setWidth 32
    else 0
  | .security d =>
    let x := c.die d
    if off < 0x130 then wordOf Config.rootDigest i
    else if off < 0x138 then half (Table.read 0 s.fuses.svnMin d) off
    else if off < 0x140 then half x.svnNew off
    else if off = 0x144 then x.gen
    else 0
  | .power d =>
    let p := c.power
    if d ≠ 0 then 0
    else match i with
      | 0 => p.inputMv
      | 1 => p.inputMa
      | 2 => p.inputAvg
      | 3 => p.pLimit
      | 4 => p.peakGate
      | 5 => p.coolant
      | 6 => (p.ringTripEv.setWidth 32 <<< 8) ||| bitIf p.ovloEv 1 ||| bitIf p.uvloEv 0
      | _ => 0
  | .guider d =>
    if 0x200 ≤ off ∧ off < 0x300 then
      let x := Table.read {} (c.die d).sensors (clip 64 ((off - 0x200) / 4))
      bitIf x.broken 31 ||| x.reading.setWidth 32
    else 0
  | .coelostat d =>
    let x := (c.die d).coel
    if off < 0x110 then wordOf (Config.coelNonce x.attempts) i
    else if off = 0x120 then x.trigCtrl
    else if off = 0x124 then x.trigTrace
    else if off = 0x128 then x.cause
    else if d = 0 ∧ 0x200 ≤ off ∧ off < 0x360 then wordOf c.authBuf ((off - 0x200) / 4)
    else 0
  | .photometerIf d =>
    let x := (c.die d).chan
    if off = 0x100 then x.kind.setWidth 32
    else if off = 0x108 ∨ off = 0x10C then half x.arg off
    else if 0x110 ≤ off ∧ off < 0x120 then wordOf x.nonce ((off - 0x110) / 4)
    else if off = 0x120 then BitVec.ofNat 32 x.len
    else if 0x200 ≤ off ∧ off < 0x400 then byteWord x.buf (off - 0x200)
    else 0
  | .stackCache d =>
    let x := c.die d
    if off < 0x108 then half x.rangeBase off
    else if off < 0x110 then half x.rangeSize off
    else if off = 0x110 then x.rangeOp.setWidth 32
    else 0
  | .hostlink =>
    if off < 0x140 then wordOf (BitVec.ofNat 32 (leNat ((List.range 4).map (fun j => Table.read 0 c.link.vfDome (clip 64 (4 * i + j)))))) 0
    else if 0x200 ≤ off ∧ off < 0x408 then
      let f := (off - 0x200) / 8
      half (c.fn (if f = 0 then .pf else .vf (clip 64 (f - 1)))).bar2Base off
    else if off = 0x500 then c.link.smbusAddr.setWidth 32
    else 0
  | _ => 0

/-- The words of the pages of a core domain's blocks, from offset 0x100 on. [log 21 DEDUCED] -/
def Chip.coreWord (c : Chip) (b : Block) (off : Nat) : Word32 :=
  match b with
  | .clusterSeq k =>
    let x := c.cluster k
    if off = 0x100 then x.owner
    else if off = 0x104 then x.entry.setWidth 32
    else if off = 0x110 ∨ off = 0x114 then half x.beat off
    else if off = 0x118 ∨ off = 0x11C then half x.lastStepBeats off
    else if off = 0x120 then x.pstoreAddr.setWidth 32
    else if 0x130 ≤ off ∧ off < 0x1A8 then half (Table.read 0 x.args (clip 15 ((off - 0x130) / 8))) off
    else 0
  | .core k =>
    let x := c.core k
    if off = 0x100 then x.flags.setWidth 32
    else if off = 0x104 then
      bitIf (match x.acc with
        | some t => t.isInt
        | none => false) 9 ||| bitIf x.acc.isSome 8 ||| bitsAt x.tiles.length 0
    else if off = 0x108 then x.lfsr
    else if 0x110 ≤ off ∧ off < 0x130 then half (Table.read (BitVec.allOnes 64) x.vm (clip 4 ((off - 0x110) / 8))) off
    else 0
  | .dataEngine k =>
    let x := c.core k
    if off = 0x100 then
      (match x.job with
       | some j => BitVec.ofNat 32 (Nat.min 64 (j.owed + j.remote))
       | none => 0)
    else if off = 0x104 then x.lastTag.setWidth 32
    else 0
  | _ => 0

/-- The words of the pages of a stack's blocks, from offset 0x100 on. [log 22 DEDUCED] -/
def Chip.stackWord (c : Chip) (b : Block) (off : Nat) : Word32 :=
  match b with
  | .stackCtrl t =>
    let x := c.stack t
    if off = 0x100 then x.share0
    else if off = 0x104 then x.share1
    else if off = 0x108 then x.shareOther.setWidth 32
    else if off = 0x10C then ((x.hottest.sshiftRight 4).extractLsb' 0 8).setWidth 32
    else if off = 0x110 then x.lbErrCount
    else if off = 0x114 then x.lbChanErr
    else if off = 0x118 then x.lbLaneSel.setWidth 32
    else if off = 0x120 ∨ off = 0x124 then half (Table.read 0 x.lbData (clip 32 x.lbLaneSel.toNat)) off
    else if off = 0x128 then (Table.read 0 x.lbCheck (clip 32 x.lbLaneSel.toNat)).setWidth 32
    else 0
  | .ulizen t =>
    let x := c.stack t
    if off = 0x100 then (List.finRange 32).foldl (fun w e => w ||| bitIf (x.engineBusy e) e.val) 0
    else if 0x200 ≤ off ∧ off < 0x300 then half (x.engine (clip 32 ((off - 0x200) / 8))).tornRow off
    else 0
  | .scrub t =>
    let x := c.stack t
    if off = 0x100 then x.lapMs
    else if off = 0x104 then BitVec.ofNat 32 x.lapAge
    else if off = 0x108 then BitVec.ofNat 32 x.lapProgress
    else if off = 0x10C then x.laps
    else if off = 0x110 then x.stallMs
    else if off = 0x118 then
      (match x.ceLog with
       | e :: _ => e.low
       | [] => 0)
    else if off = 0x11C then
      (match x.ceLast with
       | some e => e.high
       | none => 0)
    else if off = 0x120 ∨ off = 0x124 then half x.poisonBase off
    else if off = 0x128 then x.poisonSize
    else if off = 0x130 then x.retireBlock.setWidth 32
    else if off = 0x134 then x.retireRepl.setWidth 32
    else if off = 0x138 then BitVec.ofNat 32 x.retireTable.length
    else if 0x200 ≤ off ∧ off < 0x600 then
      (match nth x.retireTable ((off - 0x200) / 8) with
       | some e => if off % 8 = 0 then bitMask 31 ||| BitVec.ofNat 32 (e.1 % 2 ^ 20) else BitVec.ofNat 32 (e.2 % 2 ^ 20)
       | none => 0)
    else 0
  | _ => 0

/-- The words of a SYNC page from offset 0x100 on (R282); NOTE shows the oldest entry. -/
def Chip.syncWord (c : Chip) (q : Requester) (u : SyncUnit) (off : Nat) : Word32 :=
  let x := c.obj (c.selected q u)
  if off = 0x100 then (Table.read 0 (c.sync u).sel q).setWidth 32
  else if off = 0x104 then x.owner
  else if off = 0x108 ∨ off = 0x10C then half x.count off
  else if off = 0x110 ∨ off = 0x114 then half x.word8 off
  else if off = 0x118 then
    (match (c.sync u).notes with
     | n :: _ => bitMask 31 ||| BitVec.ofNat 32 n
     | [] => 0)
  else 0

/-- The words of a PERF page beyond its live counters, and the core counters' snapshots on a CORE page (R460, R467). -/
def Chip.perfWord (c : Chip) (u : PerfUnit) (off : Nat) : Word32 :=
  match u with
  | .cluster k =>
    if 0x80 ≤ off ∧ off < 0xC0 then c.snapWord (.cluster k) ((off - 0x80) / 4)
    else if 0x100 ≤ off ∧ off < 0x140 then c.selector (.cluster k) ((off - 0x100) / 4)
    else if 0x140 ≤ off ∧ off < 0x160 then c.selector (.core (coreOf k 0)) ((off - 0x140) / 4)
    else if off = 0x200 then (c.cluster k).ovf
    else if off = 0x204 then (c.cluster k).coreOvf
    else if off = 0x208 ∨ off = 0x20C then half (c.cluster k).snapBeat off
    else 0
  | .stack t =>
    if 0x100 ≤ off ∧ off < 0x180 then c.snapWord (.stack t) ((off - 0x100) / 4)
    else if 0x180 ≤ off ∧ off < 0x200 then c.selector (.stack t) ((off - 0x180) / 4)
    else if off = 0x200 then (c.stack t).ovf
    else 0

/-- How many counters of a block's head are programmable (R460). -/
def Block.liveCounters : Block → Nat
  | .core _ => 8
  | .perf (.cluster _) => 16
  | .perf (.stack _) => 32
  | _ => 0

/-- A word of the command register area (R210). -/
def Slot.word (x : Slot) (off : Nat) : Word32 :=
  match off / 4 with
  | 0 => x.ctrl
  | 1 => x.engines
  | 2 => x.tag ++ x.preLen ++ x.cplDepth ++ x.argDepth
  | 3 => 0
  | 4 | 5 => half x.argBase off
  | 6 | 7 => half x.cplBase off
  | 8 | 9 => half x.cplSig off
  | 10 | 11 => half x.rdFrames off
  | 12 | 13 => half x.wrFrames off
  | _ => half x.runSeq off

/-- A word of a head page. -/
def State.headWord (s : State) (q : Requester) (b : Block) (off : Nat) : Word32 :=
  let c := s.chip
  match b with
  | .kuzopaPort p => c.portWord p off
  | .fabricRoute d => (c.fabricWord d off).2
  | .perf (.cluster k) => if off < 0x80 ∨ (0xC0 ≤ off ∧ off < 0x100) then (c.head b).word b (s.headView b) off else c.perfWord (.cluster k) off
  | .core k => if 0x60 ≤ off ∧ off < 0x80 then c.snapWord (.core k) ((off - 0x60) / 4)
               else if off < 0x100 then (c.head b).word b (s.headView b) off else c.coreWord b off
  | .reducer t => if off = 0x48 then BitVec.ofNat 32 (c.stack t).redQueue.length else if off < 0x100 then (c.head b).word b (s.headView b) off else 0
  | _ =>
    if off < 0x100 then (c.head b).word b (s.headView b) off else
    match b with
    | .sync u => c.syncWord q u off
    | .perf u => c.perfWord u off
    | .clusterSeq _ | .dataEngine _ => c.coreWord b off
    | .stackCtrl _ | .ulizen _ | .scrub _ => c.stackWord b off
    | _ => s.ringWord b off

/-- What a 32-bit word of a page reads as for a requester, before the read has any effect. -/
def State.peek (s : State) (q : Requester) (p : Page) (off : Nat) : Word32 :=
  let c := s.chip
  match p with
  | .head b => s.headWord q b off
  | .exchange d n => if q = .pf then 0 else Table.read 0 (c.die d).exchange (n * 1024 + off / 4)
  | .regions d n => half (Table.read 0 (c.die d).regions (clip 2048 (n * 512 + off / 8))) off
  | .routes _ n => if n < 4 then Table.read 0 c.fabric.routes (clip 4096 (n * 1024 + off / 4)) else 0
  | .slots t n => ((c.stack t).slot (clip 1024 (n * 64 + off / 64))).word (off % 64)
  | .ustore t n => wordOf ((c.stack t).uword (n * 256 + off / 16)) (off % 16 / 4)

/-! ## Reading -/

/-- What a read of a word does beyond answering: the fields of access RC (R9). -/
def Chip.readEffect (c : Chip) (p : Page) (off : Nat) : Chip :=
  match p with
  | .head (.sync u) => if off = 0x118 then c.noteRead u else c
  | .head (.scrub t) => if off = 0x118 then c.ceLogRead t else c
  | .head (.stackCtrl t) => if off = 0x110 then c.lbCountRead t else c
  | .head (.power d) => if d = 0 ∧ off = 0x118 then c.eventsRead else c
  | .head (.fabricRoute d) => if off = 0x178 then (c.dbReceive d).1 else c
  | _ => c

/-- A 32-bit read at local address a: the low word of a pair latches the high word, which the requester's next read of it returns (R67). -/
def State.read32 (s : State) (q : Requester) (p : Page) (a off : Nat) : State × Word32 :=
  let v := s.peek q p off
  let s := { s with chip := s.chip.readEffect p off }
  let key := a / 8 * 8
  if p.isPair (off / 8 * 8) = false then (s, v)
  else if off % 8 = 0 then ({ s with chip := { s.chip with latchedHigh := Table.write s.chip.latchedHigh q (key, s.peek q p (off + 4)) } }, v)
  else match s.chip.latchedHigh.find? (fun e => e.1 = q) with
    | some e => if e.2.1 = key then ({ s with chip := { s.chip with latchedHigh := s.chip.latchedHigh.filter (fun x => x.1 ≠ q) } }, e.2.2) else (s, v)
    | none => (s, v)

/-- A 64-bit read of an aligned pair, at once. -/
def State.read64 (s : State) (q : Requester) (p : Page) (off : Nat) : State × Word64 :=
  let lo := s.peek q p off
  let s := { s with chip := s.chip.readEffect p off }
  let hi := s.peek q p (off + 4)
  ({ s with chip := s.chip.readEffect p (off + 4) }, hi ++ lo)

end Sys2Proof.Machine
end

