-- ==== Sys2Proof/Machine/RegisterWrites.lean ====
section
/-! DEFINITION. Writes of register pages: what each word and each pair does when written (R9, R67, R125, R154, R202, R203, R210, R239, R282, R364, R365, R377, R381, R408, R436, R457, R458, R467, R480), and the row REGISTER_WRITE. -/

namespace Sys2Proof.Machine

open Host

/-- Act on the chip alone, or on what firmware reaches. -/
def State.mapChip (s : State) (f : Chip → Chip) : State := { s with chip := f s.chip }
def State.mapReach (s : State) (f : Reach → Reach) : State := s.withReach (f s.reach)

/-- The state that a meaning answers. -/
def State.after (s : State) (r : Outcome State Fault Refusal) : State := match r with
  | .next t => t
  | _ => s

/-- Do a thing when a bit is written 1. -/
def whenBit {α : Type} (v : Word32) (n : Nat) (f : α → α) (s : α) : α := if v.getLsbD n then f s else s

/-- One half of a 64-bit register replaced. -/
def setHalf (b : Word64) (off : Nat) (v : Word32) : Word64 := if off % 8 = 0 then b.extractLsb' 32 32 ++ v else v ++ b.extractLsb' 0 32

/-! ## CTRL -/

/-- A write of the head's CTRL of a block that gives it fields. -/
def State.writeCtrl (s : State) (b : Block) (v : Word32) : State :=
  match b with
  | .power d => s.mapChip (Chip.pointWrite d (v.extractLsb' 0 2))
  | .guider d => s.mapChip (fun c => c.updDie d (fun x => { x with guider := { x.guider with ctrlDuty := v.extractLsb' 0 3 }.recompute x.alert }))
  | .coelostat d => s.mapChip (fun c =>
      let c := whenBit v 0 (Chip.freezeWrite d) c
      if c.frozen then c else whenBit v 1 (Chip.disarm d) c)
  | .stackCache d => s.mapChip (fun c => c.updDie d (fun x => { x with keepWaysMax := v.extractLsb' 8 5, bypass := v.getLsbD 0 }))
  | .sync u => s.mapChip (whenBit v 0 (Chip.clearAll u))
  | .kuzopaPort p => s.mapChip (fun c => c.portPut p 0x10 v)
  | .fabricRoute d => s.mapChip (fun c => c.fabricStore d 0x10 v)
  | .clusterSeq c =>
    let s := s.mapChip (whenBit v 1 (Chip.abortStep c))
    whenBit v 0 (fun s => s.after (execStepGo c s)) s
  | .perf u => s.mapChip (whenBit v 0 (Chip.perfSnap u))
  | .hostcore h => s.mapChip (fun c => (c.hartRun h (v.getLsbD 0)).hartReset h (v.getLsbD 1))
  | .stackCtrl t => s.mapChip (Chip.stackCtrlWrite t v)
  | .ulizen t => s.mapChip (fun c => whenBit v 0 (Chip.unitReset t) (whenBit v 1 (Chip.labInval t (fun _ => true)) c))
  | .scrub t => s.mapChip (fun c => c.updStack t (fun x => { x with scrubEn := v.getLsbD 0 }))
  | _ => s

/-! ## Block registers of one word -/

/-- A word of a page of an edge ring's block, from offset 0x100 on. -/
def State.writeRing (s : State) (b : Block) (off : Nat) (v : Word32) : State :=
  match b with
  | .security d => if off = 0x140 then whenBit v 31 (fun s => s.mapReach (svnGo d s.fuses)) s else s
  | .power d =>
    if d ≠ 0 then s
    else if off = 0x10C then s.mapChip (fun c => { c with power := { c.power with pLimit := v } })
    else if off = 0x110 then s.mapChip (fun c => { c with power := { c.power with peakGate := v } })
    else s
  | .coelostat d =>
    if off = 0x110 then (if d = 0 then s.mapChip (whenBit v 31 Chip.authGo) else s)
    else if off = 0x120 then s.mapChip (fun c => c.updDie d (fun x => { x with coel := { x.coel with trigCtrl := v &&& 0xFFFF000F } }))
    else if off = 0x124 then s.mapChip (fun c => c.updDie d (fun x => { x with coel := { x.coel with trigTrace := v &&& 0xFFFF00FF } }))
    else if d = 0 ∧ 0x200 ≤ off ∧ off < 0x360 then s.mapChip (fun c => { c with authBuf := setWord c.authBuf ((off - 0x200) / 4) v })
    else s
  | .photometerIf d =>
    if off = 0x100 then
      let s := s.mapChip (fun c => c.updDie d (fun x => { x with chan := { x.chan with kind := v.extractLsb' 0 2 } }))
      whenBit v 31 (fun s => s.after (onPhot (channelGo d (v.extractLsb' 0 2)) s)) s
    else if 0x110 ≤ off ∧ off < 0x120 then
      s.mapChip (fun c => c.updDie d (fun x => { x with chan := { x.chan with nonce := setWord x.chan.nonce ((off - 0x110) / 4) v } }))
    else s
  | .d2d d => if off = 0x100 then s.mapChip (whenBit v 0 (Chip.tfenceGo d)) else s
  | .stackCache d =>
    if off = 0x110 then
      let op : BitVec 3 := v.extractLsb' 0 3
      s.mapChip (fun c => whenBit v 31 (Chip.rangeGo d op) (c.updDie d (fun x => { x with rangeOp := op })))
    else s
  | .hostlink =>
    if off < 0x140 then s.mapReach (vfDomeWrite (clip 16 ((off - 0x100) / 4)) v)
    else if off = 0x500 then s.mapChip (fun c => { c with link := { c.link with smbusAddr := v.extractLsb' 0 7 } })
    else s
  | .kuzopaPort p => s.mapChip (fun c => c.portPut p off v)
  | .fabricRoute d => s.mapChip (fun c => c.fabricStore d off v)
  | _ => s

/-- A word of a SYNC page (R282). -/
def Chip.writeSync (c : Chip) (q : Requester) (u : SyncUnit) (off : Nat) (v : Word32) : Chip :=
  if off = 0x100 then
    let n : BitVec 12 := match u with
      | .die _ => v.extractLsb' 0 12
      | .stack _ => (v.extractLsb' 0 8).setWidth 12
    c.updSync u (fun x => { x with sel := Table.write x.sel q n })
  else if off = 0x104 then
    c.updObj (c.selected q u) (fun x => { x with assigned := v.getLsbD 31, fabricOpen := v.getLsbD 30, dome := v.extractLsb' 0 4 })
  else c

/-- A word of a PERF page: selectors and the OVF words (R462, R467). -/
def Chip.writePerf (c : Chip) (u : PerfUnit) (off : Nat) (v : Word32) : Chip :=
  match u with
  | .cluster k =>
    if 0x100 ≤ off ∧ off < 0x140 then c.setSelector (.cluster k) ((off - 0x100) / 4) v
    else if 0x140 ≤ off ∧ off < 0x160 then c.setSelector (.core (coreOf k 0)) ((off - 0x140) / 4) v
    else if off = 0x200 then c.clearOvf (.cluster k) v
    else if off = 0x204 then c.clearOvf (.core (coreOf k 0)) v
    else c
  | .stack t =>
    if 0x180 ≤ off ∧ off < 0x200 then c.setSelector (.stack t) ((off - 0x180) / 4) v
    else if off = 0x200 then c.clearOvf (.stack t) v
    else c

/-- A word of a page of a core domain's block, from offset 0x100 on. -/
def Chip.writeCore (c : Chip) (b : Block) (off : Nat) (v : Word32) : Chip :=
  match b with
  | .clusterSeq k =>
    if off = 0x100 then c.ownerWrite k v
    else if off = 0x104 then c.updCluster k (fun x => { x with entry := v.extractLsb' 0 15 })
    else if off = 0x120 then c.updCluster k (fun x => { x with pstoreAddr := v.extractLsb' 0 15 })
    else c
  | .core k => if off = 0x100 then c.updCore k (fun x => { x with flags := x.flags &&& ~~~(v.extractLsb' 0 8) }) else c
  | _ => c

/-- A word of a page of a stack's block, from offset 0x100 on. -/
def Chip.writeStackPage (c : Chip) (b : Block) (off : Nat) (v : Word32) : Chip :=
  match b with
  | .stackCtrl t =>
    if off = 0x100 then c.updStack t (fun x => { x with share0 := v })
    else if off = 0x104 then c.updStack t (fun x => { x with share1 := v })
    else if off = 0x108 then c.updStack t (fun x => { x with shareOther := v.extractLsb' 0 4 })
    else if off = 0x114 then c.updStack t (fun x => { x with lbChanErr := x.lbChanErr &&& ~~~v })
    else if off = 0x118 then c.updStack t (fun x => { x with lbLaneSel := v.extractLsb' 0 5 })
    else if off = 0x120 ∨ off = 0x124 then
      c.updStack t (fun x =>
        let k : Fin 32 := clip 32 x.lbLaneSel.toNat
        let old := Table.read 0 x.lbData k
        { x with lbData := Table.write x.lbData k (setHalf old off (half old off &&& ~~~v)) })
    else if off = 0x128 then
      c.updStack t (fun x =>
        let k : Fin 32 := clip 32 x.lbLaneSel.toNat
        { x with lbCheck := Table.write x.lbCheck k (Table.read 0 x.lbCheck k &&& ~~~(v.extractLsb' 0 8)) })
    else c
  | .ulizen t => if off = 0x104 then c.labInval t (fun h => decide (h = v)) else c
  | .scrub t =>
    if off = 0x110 then c.updStack t (fun x => { x with stallMs := v })
    else if off = 0x128 then c.updStack t (fun x => { x with poisonSize := v })
    else if off = 0x12C then whenBit v 31 (Chip.poisonGo t) c
    else if off = 0x130 then c.updStack t (fun x => { x with retireBlock := v.extractLsb' 0 20 })
    else if off = 0x134 then c.updStack t (fun x => { x with retireRepl := v.extractLsb' 0 20 })
    else if off = 0x138 then whenBit v 31 (Chip.retireGo t) c
    else c
  | _ => c

/-- A word of the command register area that is no half of a 64-bit field (R210, R211). -/
def Chip.writeSlot (c : Chip) (t : StackId) (n : Fin 1024) (off : Nat) (v : Word32) : Chip :=
  if off = 0 then c.slotCtrlWrite t n v
  else if off = 4 then c.slotFieldWrite t n (fun x => { x with engines := v })
  else if off = 8 then
    c.slotFieldWrite t n (fun x => { x with tag := v.extractLsb' 16 16, preLen := v.extractLsb' 8 8, cplDepth := v.extractLsb' 4 4, argDepth := v.extractLsb' 0 4 })
  else c.slotFieldWrite t n id

/-- A write of a word that is no half of a pair. -/
def State.writeWord (s : State) (q : Requester) (p : Page) (off : Nat) (v : Word32) : State :=
  match p with
  | .exchange d n => s.mapChip (fun c => c.updDie d (fun x => { x with exchange := Table.write x.exchange (n * 1024 + off / 4) v }))
  | .regions _ _ => s
  | .routes _ n => if n < 4 then s.mapChip (Chip.routeWrite (clip 4096 (n * 1024 + off / 4)) v) else s
  | .slots t n => s.mapChip (fun c => c.writeSlot t (clip 1024 (n * 64 + off / 64)) (off % 64) v)
  | .ustore t n => s.mapChip (Chip.uwordWrite q t (clip 4096 (n * 256 + off / 16)) (clip 4 (off % 16 / 4)) v)
  | .head b =>
    if off = 0x10 then s.writeCtrl b v
    else if off < 0x100 then
      (match b with
       | .kuzopaPort _ | .fabricRoute _ => s.writeRing b off v
       | _ => s.mapChip (fun c => c.updHead b (fun h => h.put off v b.liveCounters)))
    else match b with
      | .sync u => s.mapChip (fun c => c.writeSync q u off v)
      | .perf u => s.mapChip (fun c => c.writePerf u off v)
      | .clusterSeq _ | .core _ | .dataEngine _ => s.mapChip (fun c => c.writeCore b off v)
      | .stackCtrl _ | .ulizen _ | .slit _ | .reducer _ | .scrub _ => s.mapChip (fun c => c.writeStackPage b off v)
      | _ => s.writeRing b off v

/-! ## Pairs -/

/-- The agent that a requester of registers is. -/
def reqAgent : Requester → Agent
  | .meridian d => .meridian d
  | .pf => .host .pf
  | .other a => a

/-- An operation on the selected object (R276, R282). -/
def Chip.pageObj (c : Chip) (q : Requester) (u : SyncUnit) (op : ObjOp) : Chip :=
  let r := c.objOp (whoOf (reqAgent q)) (c.selected q u) op
  match r.2.fault with
  | some f => { r.1 with out := .fault f }
  | none => r.1

/-- Slot field of a pair. -/
def Slot.setPair (x : Slot) (off : Nat) (v : Word64) : Slot :=
  match off / 8 with
  | 2 => { x with argBase := v }
  | 3 => { x with cplBase := v }
  | 4 => { x with cplSig := v }
  | 5 => { x with rdFrames := v }
  | 6 => { x with wrFrames := v }
  | _ => { x with runSeq := v }

/-- A pair lands; a pair that is read-only keeps its value. -/
def Chip.writePair (c : Chip) (q : Requester) (p : Page) (off : Nat) (v : Word64) : Chip :=
  match p with
  | .regions d n => c.setRegion d (clip 2048 (n * 512 + off / 8)) v
  | .slots t n => c.slotFieldWrite t (clip 1024 (n * 64 + off / 64)) (fun x => x.setPair (off % 64) v)
  | .head (.hostcore h) =>
    if off = 0x100 then c.updHart h (fun x => { x with resetPc := v }) else c
  | .head (.security d) => if off = 0x138 then c.updDie d (fun x => { x with svnNew := v }) else c
  | .head (.photometerIf d) => if off = 0x108 then c.updDie d (fun x => { x with chan := { x.chan with arg := v } }) else c
  | .head (.stackCache d) =>
    if off = 0x100 then c.updDie d (fun x => { x with rangeBase := v }) else if off = 0x108 then c.updDie d (fun x => { x with rangeSize := v }) else c
  | .head (.sync u) =>
    if off = 0x108 then c.pageObj q u (.set v)
    else if off = 0x110 then c.pageObj q u (if v.getLsbD 63 then .arm (v.extractLsb' 0 48) else .disarm)
    else c
  | .head .hostlink =>
    if 0x200 ≤ off ∧ off < 0x408 then
      let f := (off - 0x200) / 8
      c.updFn (if f = 0 then .pf else .vf (clip 64 (f - 1))) (fun x => { x with bar2Base := v })
    else c
  | .head (.clusterSeq k) =>
    if off = 0x128 then c.pstoreWrite k v
    else if 0x130 ≤ off ∧ off < 0x1A8 then c.updCluster k (fun x => { x with args := Table.write x.args (clip 15 ((off - 0x130) / 8)) v })
    else c
  | .head (.scrub t) => if off = 0x120 then c.updStack t (fun x => { x with poisonBase := v }) else c
  | _ => c

/-- A 32-bit write at local address a: the low word of a pair is staged, and the high word lands the pair (R67). -/
def State.write32 (s : State) (q : Requester) (p : Page) (a off : Nat) (v : Word32) : State :=
  let key := a / 8 * 8
  if p.isPair (off / 8 * 8) = false then s.writeWord q p off v
  else if off % 8 = 0 then s.mapChip (fun c =>
    match p with
    -- a busy slot drops the write (R211)
    | .slots t n => let m : Fin 1024 := clip 1024 (n * 64 + off / 64); if (c.slotOf t m).busy then c.slotFieldWrite t m id else c.stageLow q key v
    | _ => c.stageLow q key v)
  else
    let low := s.peek q p (off - 4)
    s.mapChip (fun c =>
      let r := c.landHigh q key (0#32 ++ low) v
      r.1.writePair q p (off - 4) r.2)

/-- A 64-bit write of an aligned pair: of two words that are no pair, a slot's CTRL lands after its ENGINES, and any other low word first. -/
def State.write64 (s : State) (q : Requester) (p : Page) (off : Nat) (v : Word64) : State :=
  let lo : Word32 := v.extractLsb' 0 32
  let hi : Word32 := v.extractLsb' 32 32
  if p.isPair off then s.mapChip (fun c => c.writePair q p off v)
  else match p with
    | .slots _ _ => (s.writeWord q p (off + 4) hi).writeWord q p off lo
    | _ => (s.writeWord q p off lo).writeWord q p (off + 4) hi

/-! ## Who may write what -/

/-- Pages that only firmware writes, and SECURITY, which only its own die's Meridian core writes (R70, R381). [log 18 DEDUCED] -/
def mayWrite (q : Requester) (b : Block) : Bool :=
  match b, q with
  | .meridian _, .pf | .hostcore _, .pf | .security _, .pf => false
  | .security d, .meridian e => decide (d = e)
  | _, _ => true

/-- Why a register access is refused: SYNC_OFFLINE whatever else holds (R281), else the lowest code that applies (R67, R68, R71). [log 17 DEDUCED] -/
def Chip.accessFault (c : Chip) (q : Requester) (a : Nat) (write aligned : Bool) : Option FaultCode :=
  match pageAt a with
  | none => some Code.unmapped
  | some (p, _) =>
    let denied : Bool := (match q with
      | .other _ => true
      | _ => false) || (write && !mayWrite q p.block)
    let page := c.pageRefusal q p.block
    if page = some Code.syncOffline then page
    else if denied then some Code.regDenied else if aligned = false then some Code.misaligned else page

/-- Record and answer a refused access: where R58 gives its code a bit, and on the HOSTLINK page when it came in through BAR0 (R66, R71, R377). -/
def Chip.refuseAccess (c : Chip) (q : Requester) (a : Nat) (f : FaultCode) : Chip :=
  let c := if q = .pf then c.barFault f a else c
  match pageAt a with
  | some (p, _) => if f = Code.regDenied ∨ f = Code.misaligned then { c with out := .fault f } else c.refusePage q p.block f (selfAddr a)
  | none => { c with out := .fault f }

/-- Whether data written at an address is aligned as R67 asks. -/
def dataAligned (v : RegData) (a : Nat) : Bool := match v with
  | .w32 _ => decide (a % 4 = 0)
  | .w64 _ => decide (a % 8 = 0)

/-- A write that nothing refuses. -/
def State.writeData (s : State) (q : Requester) (a : Nat) (v : RegData) : State :=
  match pageAt a with
  | none => s
  | some (p, off) =>
    match v with
    | .w32 x => s.write32 q p a off x
    | .w64 x => s.write64 q p off x

/-- REGISTER_WRITE: one write of a register page, by address. -/
def registerWrite (q : Requester) (a : Nat) (v : RegData) (s : State) : State :=
  if s.chip.frozen ∨ (s.chip.die (reqDie q)).ringOn = false then s else
  let s := s.mapChip (fun c => { c with out := .none })
  match s.chip.accessFault q a true (dataAligned v a) with
  | some f => s.mapChip (fun c => c.refuseAccess q a f)
  | none => (s.writeData q a v).mapReach Reach.pollProducers

def execRegisterWrite (q : Requester) (addr : BitVec 52) (v : RegData) (s : State) : Outcome State Fault Refusal := .next (registerWrite q addr.toNat v s)

end Sys2Proof.Machine
end

