-- ==== Sys2Proof/Machine/Bar0.lean ====
section
/-! DEFINITION. BAR0 (R368 to R370, R374, R465): register pages, mailboxes, VF_INFO, the counter view and MSI-X; and the readout of a frozen module (R479). -/

namespace Sys2Proof.Machine

open Host

/-! ## The targets of BAR0 (R368, R369) -/

/-- What an offset of BAR0 names. -/
inductive BarTarget where
  | reg (a : Nat)
  | mailbox (off : Nat)
  | info (off : Nat)
  | view (off : Nat)
  | table (off : Nat)
  | pba (off : Nat)
  | absent (a : Nat)
  deriving DecidableEq, Repr

/-- The decoding of an offset, by function; a page without a block keeps the local address its place would have. [log 23 DEDUCED] -/
def barTarget (f : HostFn) (o : Nat) : BarTarget :=
  let d : DieId := clip 8 (o / 2 ^ 23)
  let p := o / 4096 % 2048
  let off := o % 4096
  match f with
  | .pf =>
    if 0x700 ≤ p then .reg (stackReg (clip 32 (4 * d.val + (p - 0x700) / 64)) (p % 64) off)
    else if p < 0x6F0 then .reg (dieReg d p off)
    else if d = 0 ∧ p = 0x6F0 then .mailbox off
    else if d = 0 ∧ p = 0x6F1 then .table off
    else if d = 0 ∧ p = 0x6F2 then .pba off
    else .absent (dieReg d p off)
  | .pf1 => if p = 0 then .mailbox off else if p = 1 then .info off else .absent 0
  | .vf _ =>
    if p = 0 then .mailbox off else if p = 1 then .info off else if p = 2 then .view off
    else if off < 0x800 then .table off else .pba (off - 0x800)

/-- The vectors of a function (R374). -/
def vectorsOf : HostFn → Nat
  | .pf => 128
  | .pf1 => 0
  | .vf _ => 30

/-! ## The counter view (R465) -/

/-- The unit that a VF's view shows. -/
def State.viewed (s : State) (f : HostFn) : Option ViewUnit := s.fw.viewUnit (s.chip.domeOf (.host f)) false (s.chip.fn f).viewSel

/-- Whether counter n of a unit exists and is the function's dome's. -/
def State.ownsView (s : State) (f : HostFn) (u : ViewUnit) (n : Nat) : Bool :=
  decide (n < u.size) && s.fw.ownsCounter (s.chip.domeOf (.host f)) u (s.chip.selector u n)

/-- The OVF bits of the counters that are the dome's. [log 24 DEDUCED] -/
def State.viewMask (s : State) (f : HostFn) (u : ViewUnit) : Word32 :=
  (List.range u.size).foldl (fun w n => w ||| bitIf (s.ownsView f u n) n) 0

/-- A word of the view. -/
def State.viewWord (s : State) (f : HostFn) (off : Nat) : Word32 :=
  let c := s.chip
  if off = 0 then (c.fn f).viewSel
  else match s.viewed f with
    | none => 0
    | some u =>
      let n := off % 0x100 / 4
      if off = 4 then 1
      else if off = 0xC then c.ovfWord u &&& s.viewMask f u
      else if off < 0x100 ∨ s.ownsView f u n = false then 0
      else match off / 0x100 with
        | 1 => c.liveWord u.block n
        | 2 => c.snapWord u n
        | 3 => c.selector u n
        | _ => 0

/-- A write of the view; on a shared-weight stack the class fields of a selector stay as firmware set them. -/
def State.viewWrite (s : State) (f : HostFn) (off : Nat) (v : Word32) : State :=
  if off = 0 then s.mapChip (fun c => c.updFn f (fun x => { x with viewSel := v &&& 0xC000FFFF }))
  else match s.viewed f with
    | none => s
    | some u =>
      let n := off % 0x100 / 4
      if off = 8 then s.mapChip (whenBit v 0 (Chip.perfSnap u.perf))
      else if off = 0xC then s.mapChip (fun c => c.clearOvf u (v &&& s.viewMask f u))
      else if off < 0x100 ∨ s.ownsView f u n = false then s
      else match off / 0x100 with
        | 1 => s.mapChip (fun c => c.setLive u n v)
        | 3 =>
          let whole : Bool := match u with
            | .stack t => s.fw.wholeStack (s.chip.domeOf (.host f)) t
            | _ => true
          let v := if whole then v else (v &&& ~~~0x3F00#32) ||| (s.chip.selector u n &&& 0x3F00)
          s.mapChip (fun c => c.setSelector u n v)
        | _ => s

/-! ## Words of the pages that exist in BAR0 only -/

/-- A word of the call mailbox (R370). -/
def Function.mailWord (x : Function) (off : Nat) : Word32 :=
  if off < 0x40 then wordOf x.block (off / 4)
  else if off = 0x44 then bitIf x.callBusy 2 ||| bitIf x.done 1 ||| bitIf x.busy 0
  else 0

/-- A word of a target with no local address. -/
def State.barWord (s : State) (f : HostFn) (t : BarTarget) : Word32 :=
  let x := s.chip.fn f
  match t with
  | .mailbox off => x.mailWord off
  | .info off => match f with
    | .vf n => if off = 0 then (Table.read 0 s.chip.link.vfDome n).setWidth 32 else 0
    | _ => 0
  | .view off => s.viewWord f off
  | .table off => if off / 16 < vectorsOf f then Table.read (if off % 16 = 12 then 1 else 0) x.msixTable (off / 4) else 0
  | .pba off => (List.range 32).foldl (fun w i => w ||| bitIf (x.pba.contains (off / 4 * 32 + i)) i) 0
  | _ => 0

/-- A write of a word of a target with no local address: GO submits the block; a vector that is unmasked sends what it owes (R374). -/
def State.barPut (s : State) (f : HostFn) (t : BarTarget) (v : Word32) : State :=
  let x := s.chip.fn f
  match t with
  | .mailbox off =>
    if off < 0x44 ∧ x.busy then s.mapChip (fun c => c.updFn f (fun y => { y with callBusy := true }))
    else if off < 0x40 then s.mapChip (fun c => c.updFn f (fun y => { y with block := setWord y.block (off / 4) v }))
    else if off = 0x40 then whenBit v 0 (fun s => s.mapReach (mailboxGo f)) s
    else if off = 0x44 then s.mapChip (fun c => c.updFn f (fun y => { y with callBusy := y.callBusy && !v.getLsbD 2 }))
    else s
  | .view off => s.viewWrite f off v
  | .table off =>
    if off / 16 < vectorsOf f then
      let v := if off % 16 = 12 then v &&& 1 else v
      s.mapChip (fun c => c.updFn f (fun y => Function.flushPba { y with msixTable := Table.write y.msixTable (off / 4) v }))
    else s
  | _ => s

/-- The target one word on. -/
def BarTarget.next : BarTarget → BarTarget
  | .mailbox off => .mailbox (off + 4)
  | .info off => .info (off + 4)
  | .view off => .view (off + 4)
  | .table off => .table (off + 4)
  | .pba off => .pba (off + 4)
  | t => t

/-! ## The access (R67, R369, R380) -/

/-- Whether an access is a read. -/
def isRead : RegOp → Bool
  | .read32 | .read64 => true
  | .write _ => false
  | .odd w => !w

/-- Whether an access has a width and an alignment of R67. -/
def opAligned (x : RegOp) (o : Nat) : Bool := match x with
  | .read32 => decide (o % 4 = 0)
  | .read64 => decide (o % 8 = 0)
  | .write v => dataAligned v o
  | .odd _ => false

/-- The object that a read of OBJ_COUNT or OBJ_NOTIFY would READ, when the READ must wait for a CLEAR_ALL (R282). -/
def Chip.heldRead (c : Chip) (q : Requester) (a : Nat) (x : RegOp) : Option ObjId :=
  match pageAt a with
  | some (.head (.sync u), off) => if isRead x && (c.sync u).clearBusy && (decide (off = 0x108) || decide (off = 0x110)) then some (c.selected q u) else none
  | _ => none

/-- A read or a write of a register page that nothing refuses; a read's answer is out. -/
def State.regOp (s : State) (q : Requester) (a : Nat) (x : RegOp) : State :=
  match s.chip.heldRead q a x with
  | some o => s.mapChip (fun c => { c.holdOp (reqAgent q) o .read with out := .none })
  | none =>
  match pageAt a, x with
  | some (p, off), .read32 => let r := s.read32 q p a off; r.1.mapChip (fun c => { c with out := .word r.2.toNat })
  | some (p, off), .read64 => let r := s.read64 q p off; r.1.mapChip (fun c => { c with out := .word r.2.toNat })
  | some _, .write v => s.writeData q a v
  | _, _ => s

/-- A read or a write of a target with no local address. -/
def State.ownOp (s : State) (f : HostFn) (t : BarTarget) (x : RegOp) : State :=
  match x with
  | .read32 => s.mapChip (fun c => { c with out := .word (s.barWord f t).toNat })
  | .read64 => s.mapChip (fun c => { c with out := .word ((s.barWord f t).toNat + (s.barWord f t.next).toNat * 2 ^ 32) })
  | .write (.w32 v) => s.barPut f t v
  | .write (.w64 v) => (s.barPut f t (v.extractLsb' 0 32)).barPut f t.next (v.extractLsb' 32 32)
  | .odd _ => s

/-- A faulting access of BAR0: captured on the HOSTLINK page; a read answers Completer Abort and a write is dropped (R369, R377). -/
def Chip.answerFault (c : Chip) (read : Bool) (code : FaultCode) : Chip := { c with out := if read then .completerAbort else .fault code }
def Chip.bar0Fault (c : Chip) (read : Bool) (code : FaultCode) (a : Nat) : Chip := (c.barFault code a).answerFault read code

/-- What ROM recovery lets BAR0 decode: the PF's mailbox, and the HOSTLINK page for reading (R380). -/
def recoveryOpen (t : BarTarget) (read : Bool) : Bool := match t with
  | .mailbox _ => true
  | .reg a => read && decide (a / 4096 = dieReg 0 0x40 0 / 4096)
  | _ => false

/-- BAR0_ACCESS. -/
def bar0Access (f : HostFn) (o : Nat) (x : RegOp) (s : State) : State :=
  let c := s.chip
  let rec_ : Bool := c.inRecovery && decide (f = .pf) && c.fnUp .pf && decide (c.link.speed ≠ 0)
  let t := barTarget f o
  let inside : Bool := decide (f = .pf) || decide (o < 0x4000)
  let opened : Bool := (if rec_ then recoveryOpen t (isRead x) else c.barOpen f) && inside
  if opened = false then s.mapChip Chip.unsupported else
  let s := s.mapChip (fun c => { c with out := .none })
  let fault (code : FaultCode) (a : Nat) : State := s.mapChip (fun c => c.bar0Fault (isRead x) code a)
  match t with
  | .absent a => fault Code.unmapped a
  | .reg a =>
    (match s.chip.accessFault .pf a (!isRead x) (opAligned x o) with
     | some code => s.mapChip (fun c => (c.refuseAccess .pf a code).answerFault (isRead x) code)
     | none => (s.regOp .pf a x).mapReach Reach.pollProducers)
  | t =>
    if opAligned x o = false then fault Code.misaligned 0 else
    match t, s.viewed f with
    | .view off, some u =>
      (match s.chip.pageRefusal .pf u.block, decide (off < 0x10) with
       | some code, false => fault code 0
       | _, _ => s.ownOp f t x)
    | _, _ => s.ownOp f t x

def execBar0Access (f : HostFn) (off : BitVec 26) (v : RegOp) (s : State) : Outcome State Fault Refusal := .next (bar0Access f off.toNat v s)

/-! ## Readout (R479) -/

/-- Words as bytes. -/
def wordBytes (l : List Word32) : List Byte := l.flatMap (fun w => leBytes 4 w.toNat)

/-- The die through which an instrument reaches a target. -/
def readoutDie : ReadoutTarget → DieId
  | .register a => match pageAt a.toNat with
    | some (p, _) => p.block.die
    | none => 0
  | .sequencer c _ | .program c _ => c.die
  | .scratch k _ _ | .tile k _ => k.die
  | .cacheLine d _ _ => d
  | .engineStore e _ _ | .engineReg e _ => stackDie e.stack
  | .dram t _ _ => stackDie t
  | .nightLog d _ => d

/-- What an instrument reads; the state of a domain that is off cannot be read. [log 25 DEDUCED] -/
def State.readout (s : State) (x : ReadoutTarget) : Reply :=
  let c := s.chip
  let core (d : DieId) (r : Reply) : Reply := if (c.die d).coreOn then r else .fault Code.coreOff
  let base (t : StackId) (r : Reply) : Reply := if (c.stack t).domainOn then r else .fault Code.unreachable
  match x with
  | .register a =>
    (match pageAt a.toNat with
     | none => .fault Code.unmapped
     | some (p, off) =>
       match c.pageRefusal (.meridian p.block.die) p.block with
       | some f => .fault f
       | none => if off % 4 = 0 then .word (s.peek (.meridian p.block.die) p off).toNat else .fault Code.misaligned)
  | .sequencer k r => core k.die (.word ((c.cluster k).s r).toNat)
  | .program k w => core k.die (.word (Table.read 0 c.pstore (k, w)).toNat)
  | .scratch k off n => core k.die (if scratchSize < off.toNat + n then .fault Code.scratchHole else .bytes (c.scratchRead k off.toNat n))
  | .tile k pos =>
    core k.die (match nth (c.core k).tiles pos.val with
      | some t => .bytes (wordBytes t.data)
      | none => .bytes [])
  | .cacheLine d t a =>
    (match c.cache.find? (fun l => decide (stackDie t = d) && decide (l.stack = t) && decide (l.line = a.toNat / 256)) with
     | some l => .bytes l.data
     | none => .bytes [])
  | .engineStore e off n => base e.stack (if 2 ^ 16 < off.toNat + n then .fault Code.unmapped else .bytes (c.storeRead e.stack e.idx off.toNat n))
  | .engineReg e r => base e.stack (.word (Table.read 0 (c.engineOf e.stack e.idx).u r).toNat)
  | .dram t a n =>
    base t (if 2 ^ 36 < a.toNat + n then .fault Code.unmapped
      else match (c.readDram t .main (pieces 64 a.toNat n)).2 with
        | .ok bs => .bytes bs
        | .error f => .fault f)
  | .nightLog d q =>
    (match (c.die d).log.find? (fun e => decide (e.seq = q.toNat)) with
     | some e => .bytes (e.bytes d)
     | none => .bytes [])

/-- JTAG_READOUT: it needs FROZEN on every die whose edge ring runs, and READOUT; it writes no state of the module. -/
def jtagReadout (x : ReadoutTarget) (s : State) : State :=
  let c := s.chip
  let d := c.die (readoutDie x)
  let allowed : Bool := d.ringOn && d.coel.armed && d.coel.perms.getLsbD 1 && allDies.all (fun e => !(c.die e).ringOn || (c.die e).coel.frozen)
  s.mapChip (fun c => { c with out := if allowed then s.readout x else .unsupported })

def execJtagReadout (x : ReadoutTarget) (s : State) : Outcome State Fault Refusal := .next (jtagReadout x s)

end Sys2Proof.Machine
end

