-- ==== Sys2Proof/Machine/Dispatch.lean ====
section
/-! DEFINITION. The dispatch: one arm for each command, each a direct call of its meaning. -/

namespace Sys2Proof.Machine

open Host

def exec (i : Instr) (s : State) : Host.Outcome State Fault Refusal :=
  match i with
  | .nop c => Sys2Proof.Machine.execNop c s
  | .endStep c => Sys2Proof.Machine.execEndStep c s
  | .trace c => Sys2Proof.Machine.execTrace c s
  | .add c => Sys2Proof.Machine.execAdd c s
  | .sub c => Sys2Proof.Machine.execSub c s
  | .and c => Sys2Proof.Machine.execAnd c s
  | .or c => Sys2Proof.Machine.execOr c s
  | .xor c => Sys2Proof.Machine.execXor c s
  | .sll c => Sys2Proof.Machine.execSll c s
  | .srl c => Sys2Proof.Machine.execSrl c s
  | .sra c => Sys2Proof.Machine.execSra c s
  | .mul c => Sys2Proof.Machine.execMul c s
  | .mulhu c => Sys2Proof.Machine.execMulhu c s
  | .slt c => Sys2Proof.Machine.execSlt c s
  | .sltu c => Sys2Proof.Machine.execSltu c s
  | .min c => Sys2Proof.Machine.execMin c s
  | .max c => Sys2Proof.Machine.execMax c s
  | .minu c => Sys2Proof.Machine.execMinu c s
  | .maxu c => Sys2Proof.Machine.execMaxu c s
  | .addi c => Sys2Proof.Machine.execAddi c s
  | .andi c => Sys2Proof.Machine.execAndi c s
  | .ori c => Sys2Proof.Machine.execOri c s
  | .xori c => Sys2Proof.Machine.execXori c s
  | .slli c => Sys2Proof.Machine.execSlli c s
  | .srli c => Sys2Proof.Machine.execSrli c s
  | .srai c => Sys2Proof.Machine.execSrai c s
  | .li c => Sys2Proof.Machine.execLi c s
  | .lih c => Sys2Proof.Machine.execLih c s
  | .beq c => Sys2Proof.Machine.execBeq c s
  | .bne c => Sys2Proof.Machine.execBne c s
  | .blt c => Sys2Proof.Machine.execBlt c s
  | .bge c => Sys2Proof.Machine.execBge c s
  | .bltu c => Sys2Proof.Machine.execBltu c s
  | .bgeu c => Sys2Proof.Machine.execBgeu c s
  | .jmp c => Sys2Proof.Machine.execJmp c s
  | .setlc c => Sys2Proof.Machine.execSetlc c s
  | .loop c => Sys2Proof.Machine.execLoop c s
  | .rdlc c => Sys2Proof.Machine.execRdlc c s
  | .rdit c => Sys2Proof.Machine.execRdit c s
  | .setmask c => Sys2Proof.Machine.execSetmask c s
  | .rdmask c => Sys2Proof.Machine.execRdmask c s
  | .rdbeat c => Sys2Proof.Machine.execRdbeat c s
  | .setad c => Sys2Proof.Machine.execSetad c s
  | .rdad c => Sys2Proof.Machine.execRdad c s
  | .wait c => Sys2Proof.Machine.execWait c s
  | .waitSatisfied c => Sys2Proof.Machine.execWaitSatisfied c s
  | .seqSignal c => Sys2Proof.Machine.execSeqSignal c s
  | .issue c => Sys2Proof.Machine.execIssue c s
  | .beat c => Sys2Proof.Machine.execBeat c s
  | .emptySlot c => Sys2Proof.Machine.execEmptySlot c s
  | .portholeAccess k a x => Sys2Proof.Machine.execPortholeAccess k a x s
  | .stepCompletion c => Sys2Proof.Machine.execStepCompletion c s
  | .mma k => Sys2Proof.Machine.execMma k s
  | .mscale k => Sys2Proof.Machine.execMscale k s
  | .tqDrop k => Sys2Proof.Machine.execTqDrop k s
  | .tqClear k => Sys2Proof.Machine.execTqClear k s
  | .vadd k => Sys2Proof.Machine.execVadd k s
  | .vsub k => Sys2Proof.Machine.execVsub k s
  | .vmul k => Sys2Proof.Machine.execVmul k s
  | .vfma k => Sys2Proof.Machine.execVfma k s
  | .vmax k => Sys2Proof.Machine.execVmax k s
  | .vmin k => Sys2Proof.Machine.execVmin k s
  | .vexp2 k => Sys2Proof.Machine.execVexp2 k s
  | .vlog2 k => Sys2Proof.Machine.execVlog2 k s
  | .vrcp k => Sys2Proof.Machine.execVrcp k s
  | .vrsqrt k => Sys2Proof.Machine.execVrsqrt k s
  | .vtanh k => Sys2Proof.Machine.execVtanh k s
  | .vgelu k => Sys2Proof.Machine.execVgelu k s
  | .vcvt k => Sys2Proof.Machine.execVcvt k s
  | .vredsum k => Sys2Proof.Machine.execVredsum k s
  | .vredmax k => Sys2Proof.Machine.execVredmax k s
  | .vmaskCmp k => Sys2Proof.Machine.execVmaskCmp k s
  | .vmaskLd k => Sys2Proof.Machine.execVmaskLd k s
  | .vseed k => Sys2Proof.Machine.execVseed k s
  | .vflags k => Sys2Proof.Machine.execVflags k s
  | .dmaLoad k => Sys2Proof.Machine.execDmaLoad k s
  | .dmaStore k => Sys2Proof.Machine.execDmaStore k s
  | .dmaCopy k => Sys2Proof.Machine.execDmaCopy k s
  | .dmaT2d k => Sys2Proof.Machine.execDmaT2d k s
  | .deAccessResponse k => Sys2Proof.Machine.execDeAccessResponse k s
  | .deComplete k => Sys2Proof.Machine.execDeComplete k s
  | .stepGo c => Sys2Proof.Machine.execStepGo c s
  | .abort c => Sys2Proof.Machine.execAbort c s
  | .ownerWrite c v => Sys2Proof.Machine.execOwnerWrite c v s
  | .pstoreDataWrite c v => Sys2Proof.Machine.execPstoreDataWrite c v s
  | .tfenceGo d => Sys2Proof.Machine.execTfenceGo d s
  | .tfenceDone d => Sys2Proof.Machine.execTfenceDone d s
  | .regionEntryWrite q d r v => Sys2Proof.Machine.execRegionEntryWrite q d r v s
  | .mainPathAccess a x => Sys2Proof.Machine.execMainPathAccess a x s
  | .slitAccess a x => Sys2Proof.Machine.execSlitAccess a x s
  | .postedReduction a x => Sys2Proof.Machine.execPostedReduction a x s
  | .fetchingAtomic a x => Sys2Proof.Machine.execFetchingAtomic a x s
  | .reductionPerform t => Sys2Proof.Machine.execReductionPerform t s
  | .stackCacheClean d => Sys2Proof.Machine.execStackCacheClean d s
  | .stackCacheInval d => Sys2Proof.Machine.execStackCacheInval d s
  | .stackCacheCleanInval d => Sys2Proof.Machine.execStackCacheCleanInval d s
  | .cleanInvalAll d => Sys2Proof.Machine.execCleanInvalAll d s
  | .rangeDone d => Sys2Proof.Machine.execRangeDone d s
  | .stackOnlineWrite t v => Sys2Proof.Machine.execStackOnlineWrite t v s
  | .loopbackWrite t v => Sys2Proof.Machine.execLoopbackWrite t v s
  | .lbRun t r => Sys2Proof.Machine.execLbRun t r s
  | .lbErrCountRead t => Sys2Proof.Machine.execLbErrCountRead t s
  | .stackSelfRefresh t => Sys2Proof.Machine.execStackSelfRefresh t s
  | .stackDomainOff t => Sys2Proof.Machine.execStackDomainOff t s
  | .stackFill t => Sys2Proof.Machine.execStackFill t s
  | .refreshInterval t => Sys2Proof.Machine.execRefreshInterval t s
  | .refreshServe t p => Sys2Proof.Machine.execRefreshServe t p s
  | .forcedRefresh t p => Sys2Proof.Machine.execForcedRefresh t p s
  | .stackSensorSample t r => Sys2Proof.Machine.execStackSensorSample t r s
  | .slotCtrlWrite t n v => Sys2Proof.Machine.execSlotCtrlWrite t n v s
  | .slotRunSeqWrite t n v => Sys2Proof.Machine.execSlotRunSeqWrite t n v s
  | .runStart t n => Sys2Proof.Machine.execRunStart t n s
  | .runEnd t n => Sys2Proof.Machine.execRunEnd t n s
  | .unitReset t => Sys2Proof.Machine.execUnitReset t s
  | .labInvalAll t => Sys2Proof.Machine.execLabInvalAll t s
  | .labInval t h => Sys2Proof.Machine.execLabInval t h s
  | .labInvalComplete t => Sys2Proof.Machine.execLabInvalComplete t s
  | .microprogramWordWrite q t w p v => Sys2Proof.Machine.execMicroprogramWordWrite q t w p v s
  | .seti e => Sys2Proof.Machine.execSeti e s
  | .alu e => Sys2Proof.Machine.execAlu e s
  | .br e => Sys2Proof.Machine.execBr e s
  | .ld e => Sys2Proof.Machine.execLd e s
  | .st e => Sys2Proof.Machine.execSt e s
  | .rep e => Sys2Proof.Machine.execRep e s
  | .ldv e => Sys2Proof.Machine.execLdv e s
  | .stv e => Sys2Proof.Machine.execStv e s
  | .vop e => Sys2Proof.Machine.execVop e s
  | .exp2 e => Sys2Proof.Machine.execExp2 e s
  | .dot e => Sys2Proof.Machine.execDot e s
  | .acc e => Sys2Proof.Machine.execAcc e s
  | .maxred e => Sys2Proof.Machine.execMaxred e s
  | .sumred e => Sys2Proof.Machine.execSumred e s
  | .fold e => Sys2Proof.Machine.execFold e s
  | .fill e => Sys2Proof.Machine.execFill e s
  | .rowOpen e => Sys2Proof.Machine.execRowOpen e s
  | .stream e => Sys2Proof.Machine.execStream e s
  | .stash e => Sys2Proof.Machine.execStash e s
  | .write e => Sys2Proof.Machine.execWrite e s
  | .yield e => Sys2Proof.Machine.execYield e s
  | .page e => Sys2Proof.Machine.execPage e s
  | .fetch e => Sys2Proof.Machine.execFetch e s
  | .send e => Sys2Proof.Machine.execSend e s
  | .kvCompact e => Sys2Proof.Machine.execKvCompact e s
  | .delta e => Sys2Proof.Machine.execDelta e s
  | .ulzEnd e => Sys2Proof.Machine.execUlzEnd e s
  | .objRead a o => Sys2Proof.Machine.execObjRead a o s
  | .objSignal a o v sc => Sys2Proof.Machine.execObjSignal a o v sc s
  | .objSet a o v => Sys2Proof.Machine.execObjSet a o v s
  | .objArm a o t => Sys2Proof.Machine.execObjArm a o t s
  | .objDisarm a o => Sys2Proof.Machine.execObjDisarm a o s
  | .clearAll u => Sys2Proof.Machine.execClearAll u s
  | .noteRead u => Sys2Proof.Machine.execNoteRead u s
  | .notificationForward u => Sys2Proof.Machine.execNotificationForward u s
  | .hartMemoryAccess h x => Sys2Proof.Machine.execHartMemoryAccess h x s
  | .hartAmo h x => Sys2Proof.Machine.execHartAmo h x s
  | .hartFence h pred succ => Sys2Proof.Machine.execHartFence h pred succ s
  | .cboClean h addr => Sys2Proof.Machine.execCboClean h addr s
  | .cboFlush h addr => Sys2Proof.Machine.execCboFlush h addr s
  | .cboInval h addr => Sys2Proof.Machine.execCboInval h addr s
  | .lr h addr dbl cached => Sys2Proof.Machine.execLr h addr dbl cached s
  | .sc h addr dbl cached v => Sys2Proof.Machine.execSc h addr dbl cached v s
  | .hostcoreRun h v => Sys2Proof.Machine.execHostcoreRun h v s
  | .hostcoreReset h v => Sys2Proof.Machine.execHostcoreReset h v s
  | .scrubBurst t p => Sys2Proof.Machine.execScrubBurst t p s
  | .scrubStall t => Sys2Proof.Machine.execScrubStall t s
  | .poisonGo t => Sys2Proof.Machine.execPoisonGo t s
  | .poisonDone t => Sys2Proof.Machine.execPoisonDone t s
  | .retireGo t => Sys2Proof.Machine.execRetireGo t s
  | .retireCopy t => Sys2Proof.Machine.execRetireCopy t s
  | .ceLogRead t => Sys2Proof.Machine.execCeLogRead t s
  | .thermalSample d r => Sys2Proof.Machine.execThermalSample d r s
  | .coreRestart d => Sys2Proof.Machine.execCoreRestart d s
  | .ringRestart d => Sys2Proof.Machine.execRingRestart d s
  | .stackTripCleared t => Sys2Proof.Machine.execStackTripCleared t s
  | .uvlo => Sys2Proof.Machine.execUvlo s
  | .ovlo => Sys2Proof.Machine.execOvlo s
  | .lockoutClear => Sys2Proof.Machine.execLockoutClear s
  | .pwrAlert => Sys2Proof.Machine.execPwrAlert s
  | .pwrAlertClear => Sys2Proof.Machine.execPwrAlertClear s
  | .envelopeCheck avg => Sys2Proof.Machine.execEnvelopeCheck avg s
  | .pointWrite d p => Sys2Proof.Machine.execPointWrite d p s
  | .eventsRead => Sys2Proof.Machine.execEventsRead s
  | .portEnable p => Sys2Proof.Machine.execPortEnable p s
  | .retrain p => Sys2Proof.Machine.execRetrain p s
  | .widen p => Sys2Proof.Machine.execWiden p s
  | .detectProbe p present => Sys2Proof.Machine.execDetectProbe p present s
  | .equaliseTimeout p met => Sys2Proof.Machine.execEqualiseTimeout p met s
  | .trainingTimeout p => Sys2Proof.Machine.execTrainingTimeout p s
  | .idleFlit p lane w f => Sys2Proof.Machine.execIdleFlit p lane w f s
  | .dataFlit p lane w f ms => Sys2Proof.Machine.execDataFlit p lane w f ms s
  | .ctrlFlit p f lanes => Sys2Proof.Machine.execCtrlFlit p f lanes s
  | .finderFrame p f => Sys2Proof.Machine.execFinderFrame p f s
  | .finderSend p => Sys2Proof.Machine.execFinderSend p s
  | .finderLost p => Sys2Proof.Machine.execFinderLost p s
  | .mgmtGo => Sys2Proof.Machine.execMgmtGo s
  | .mgmtRead p m => Sys2Proof.Machine.execMgmtRead p m s
  | .mgmtWrite p m => Sys2Proof.Machine.execMgmtWrite p m s
  | .mgmtResponse p m => Sys2Proof.Machine.execMgmtResponse p m s
  | .mgmtDiscard p => Sys2Proof.Machine.execMgmtDiscard p s
  | .mgmtTimeout => Sys2Proof.Machine.execMgmtTimeout s
  | .releaseMgr => Sys2Proof.Machine.execReleaseMgr s
  | .moduleIdWrite v => Sys2Proof.Machine.execModuleIdWrite v s
  | .routeEntryWrite n v => Sys2Proof.Machine.execRouteEntryWrite n v s
  | .egressGrant p vc => Sys2Proof.Machine.execEgressGrant p vc s
  | .remoteLoad p m => Sys2Proof.Machine.execRemoteLoad p m s
  | .remoteStore p m => Sys2Proof.Machine.execRemoteStore p m s
  | .remoteReduce p m => Sys2Proof.Machine.execRemoteReduce p m s
  | .remoteAtomic p m => Sys2Proof.Machine.execRemoteAtomic p m s
  | .remoteSignal p m => Sys2Proof.Machine.execRemoteSignal p m s
  | .remoteDoorbell p m => Sys2Proof.Machine.execRemoteDoorbell p m s
  | .loadRsp p m => Sys2Proof.Machine.execLoadRsp p m s
  | .ack p m => Sys2Proof.Machine.execAck p m s
  | .atomicRsp p m => Sys2Proof.Machine.execAtomicRsp p m s
  | .respTimeout d txn => Sys2Proof.Machine.execRespTimeout d txn s
  | .dbTxDataWrite d v => Sys2Proof.Machine.execDbTxDataWrite d v s
  | .dbRxSrcRead d => Sys2Proof.Machine.execDbRxSrcRead d s
  | .perst => Sys2Proof.Machine.execPerst s
  | .hotReset link => Sys2Proof.Machine.execHotReset link s
  | .hostLinkDown link => Sys2Proof.Machine.execHostLinkDown link s
  | .vfFlr n => Sys2Proof.Machine.execVfFlr n s
  | .pfFlr => Sys2Proof.Machine.execPfFlr s
  | .configRequest f x => Sys2Proof.Machine.execConfigRequest f x s
  | .bar0Access f off v => Sys2Proof.Machine.execBar0Access f off v s
  | .bar2Read f off len => Sys2Proof.Machine.execBar2Read f off len s
  | .bar2Write f off data ep => Sys2Proof.Machine.execBar2Write f off data ep s
  | .atomicOp f off x => Sys2Proof.Machine.execAtomicOp f off x s
  | .queueDoorbell f page off size v => Sys2Proof.Machine.execQueueDoorbell f page off size v s
  | .mailboxGo f => Sys2Proof.Machine.execMailboxGo f s
  | .vfDomeWrite k v => Sys2Proof.Machine.execVfDomeWrite k v s
  | .copyChannelResponse ok => Sys2Proof.Machine.execCopyChannelResponse ok s
  | .getVersion m => Sys2Proof.Machine.execGetVersion m s
  | .getCapabilities m => Sys2Proof.Machine.execGetCapabilities m s
  | .negotiateAlgorithms m => Sys2Proof.Machine.execNegotiateAlgorithms m s
  | .getDigests m => Sys2Proof.Machine.execGetDigests m s
  | .getCertificate m => Sys2Proof.Machine.execGetCertificate m s
  | .challenge m => Sys2Proof.Machine.execChallenge m s
  | .getMeasurements index => Sys2Proof.Machine.execGetMeasurements index s
  | .keyExchange m => Sys2Proof.Machine.execKeyExchange m s
  | .finish m => Sys2Proof.Machine.execFinish m s
  | .keyUpdate m => Sys2Proof.Machine.execKeyUpdate m s
  | .endSession m => Sys2Proof.Machine.execEndSession m s
  | .ideKm link stream f ranges => Sys2Proof.Machine.execIdeKm link stream f ranges s
  | .pldmDiscovery m => Sys2Proof.Machine.execPldmDiscovery m s
  | .pldmPlatformMonitoring sensor => Sys2Proof.Machine.execPldmPlatformMonitoring sensor s
  | .pldmFirmwareUpdate image => Sys2Proof.Machine.execPldmFirmwareUpdate image s
  | .activateFirmware => Sys2Proof.Machine.execActivateFirmware s
  | .dieImported d ok => Sys2Proof.Machine.execDieImported d ok s
  | .handoffAbort => Sys2Proof.Machine.execHandoffAbort s
  | .maskRomBoot d => Sys2Proof.Machine.execMaskRomBoot d s
  | .dieAbsent d => Sys2Proof.Machine.execDieAbsent d s
  | .svnGo d => Sys2Proof.Machine.execSvnGo d s
  | .powerUp r => Sys2Proof.Machine.execPowerUp r s
  | .coldModuleReset r => Sys2Proof.Machine.execColdModuleReset r s
  | .warmModuleReset r => Sys2Proof.Machine.execWarmModuleReset r s
  | .domeDefine c => Sys2Proof.Machine.execDomeDefine c s
  | .domeRelease c => Sys2Proof.Machine.execDomeRelease c s
  | .domeDrain c => Sys2Proof.Machine.execDomeDrain c s
  | .sharedSet c => Sys2Proof.Machine.execSharedSet c s
  | .imageLoad c => Sys2Proof.Machine.execImageLoad c s
  | .ephemerisSet c => Sys2Proof.Machine.execEphemerisSet c s
  | .queueSet c => Sys2Proof.Machine.execQueueSet c s
  | .queueStop c => Sys2Proof.Machine.execQueueStop c s
  | .cancel c => Sys2Proof.Machine.execCancel c s
  | .adapterLoad c => Sys2Proof.Machine.execAdapterLoad c s
  | .adapterDrop c => Sys2Proof.Machine.execAdapterDrop c s
  | .cacheRange c => Sys2Proof.Machine.execCacheRange c s
  | .notifyRoute c => Sys2Proof.Machine.execNotifyRoute c s
  | .sourceSet c => Sys2Proof.Machine.execSourceSet c s
  | .dieFence c => Sys2Proof.Machine.execDieFence c s
  | .dieAdmit c => Sys2Proof.Machine.execDieAdmit c s
  | .dieReset c => Sys2Proof.Machine.execDieReset c s
  | .moduleReset c => Sys2Proof.Machine.execModuleReset c s
  | .traceSet c => Sys2Proof.Machine.execTraceSet c s
  | .tracePoints c => Sys2Proof.Machine.execTracePoints c s
  | .nightlogRead c => Sys2Proof.Machine.execNightlogRead c s
  | .counterRead c => Sys2Proof.Machine.execCounterRead c s
  | .frameStart m => Sys2Proof.Machine.execFrameStart m s
  | .domeStepEnd m => Sys2Proof.Machine.execDomeStepEnd m s
  | .rowReports m r => Sys2Proof.Machine.execRowReports m r s
  | .stepWatchdog m => Sys2Proof.Machine.execStepWatchdog m s
  | .photometerSample uv ua => Sys2Proof.Machine.execPhotometerSample uv ua s
  | .tapKvCommit d f => Sys2Proof.Machine.execTapKvCommit d f s
  | .tapEmission d f => Sys2Proof.Machine.execTapEmission d f s
  | .tapResync d f => Sys2Proof.Machine.execTapResync d f s
  | .tapAck d toggle => Sys2Proof.Machine.execTapAck d toggle s
  | .tapResend d => Sys2Proof.Machine.execTapResend d s
  | .tapStall d => Sys2Proof.Machine.execTapStall d s
  | .periodicRecord => Sys2Proof.Machine.execPeriodicRecord s
  | .getRecord seq => Sys2Proof.Machine.execGetRecord seq s
  | .demand nonce => Sys2Proof.Machine.execDemand nonce s
  | .getCert off => Sys2Proof.Machine.execGetCert off s
  | .getEvents index => Sys2Proof.Machine.execGetEvents index s
  | .setTime t => Sys2Proof.Machine.execSetTime t s
  | .setPeriod sec => Sys2Proof.Machine.execSetPeriod sec s
  | .testEnter => Sys2Proof.Machine.execTestEnter s
  | .testExit => Sys2Proof.Machine.execTestExit s
  | .testInject dome kind count => Sys2Proof.Machine.execTestInject dome kind count s
  | .testRecord nonce => Sys2Proof.Machine.execTestRecord nonce s
  | .testTimeout => Sys2Proof.Machine.execTestTimeout s
  | .sealBroken => Sys2Proof.Machine.execSealBroken s
  | .sealRestored => Sys2Proof.Machine.execSealRestored s
  | .photometerPowerDown complete => Sys2Proof.Machine.execPhotometerPowerDown complete s
  | .photometerPowerUp broken clockKept => Sys2Proof.Machine.execPhotometerPowerUp broken clockKept s
  | .reqGetRecord d => Sys2Proof.Machine.execReqGetRecord d s
  | .reqDemand d => Sys2Proof.Machine.execReqDemand d s
  | .reqGetCert d => Sys2Proof.Machine.execReqGetCert d s
  | .reqGetEvents d => Sys2Proof.Machine.execReqGetEvents d s
  | .emit h v => Sys2Proof.Machine.execEmit h v s
  | .emitdstWrite h v => Sys2Proof.Machine.execEmitdstWrite h v s
  | .emitcfgWrite h v => Sys2Proof.Machine.execEmitcfgWrite h v s
  | .emitTokenWrite h => Sys2Proof.Machine.execEmitTokenWrite h s
  | .authGo => Sys2Proof.Machine.execAuthGo s
  | .disarm d => Sys2Proof.Machine.execDisarm d s
  | .freeze d => Sys2Proof.Machine.execFreeze d s
  | .coelTrig => Sys2Proof.Machine.execCoelTrig s
  | .jtagReadout x => Sys2Proof.Machine.execJtagReadout x s
  | .perfSnap u => Sys2Proof.Machine.execPerfSnap u s
  | .viewSelWrite n v => Sys2Proof.Machine.execViewSelWrite n v s
  | .traceRecordWrite m => Sys2Proof.Machine.execTraceRecordWrite m s
  | .registerWrite q addr v => Sys2Proof.Machine.execRegisterWrite q addr v s
  | .tapBadFrame d => Sys2Proof.Machine.execTapBadFrame d s
  | .laneLockLost p lane => Sys2Proof.Machine.execLaneLockLost p lane s
  | .receiveMarginMet p => Sys2Proof.Machine.execReceiveMarginMet p s
  | .perstDeassert bifur => Sys2Proof.Machine.execPerstDeassert bifur s
  | .hostLinkUp link width speed => Sys2Proof.Machine.execHostLinkUp link width speed s
  | .clearAllDone u => Sys2Proof.Machine.execClearAllDone u s
  | .supplySlewDone d => Sys2Proof.Machine.execSupplySlewDone d s
  | .svnFuseDone d => Sys2Proof.Machine.execSvnFuseDone d s
  | .sbiFirmwareCall h a0 => Sys2Proof.Machine.execSbiFirmwareCall h a0 s
  | .explicitPowerDown => Sys2Proof.Machine.execExplicitPowerDown s

end Sys2Proof.Machine
end

