-- ==== Sys2Proof/Machine/Timers.lean ====
section
/-! DEFINITION. What passes with time when no command waits (log entry 3): one tick is 100 ns of every clock of the module. -/

namespace Sys2Proof.Machine

open Host

/-- A counter over one tick of an oscillator that is off its nominal rate by some millionths: its count and the millionths of a unit left over. -/
def drifted (count : Word64) (phase millionths : Nat) : Word64 × Nat :=
  (count + BitVec.ofNat 64 ((phase + millionths) / 1000000), (phase + millionths) % 1000000)

/-- A Meridian timer counts 10 ns units while the edge ring is on; its crystal is within 50 millionths of 25 MHz (R43, R45). -/
def Die.tick (off : Nat) (x : Die) : Die :=
  if x.ringOn then { x with timer := (drifted x.timer x.phase (9999500 + 10 * (off % 101))).1, phase := (drifted x.timer x.phase (9999500 + 10 * (off % 101))).2 } else x

/-- A base die's counter of 100 ns units, while its stack domain is on; its oscillator is within 3 % of 10 MHz (R43, R469). -/
def Stack.tick (off : Nat) (x : Stack) : Stack :=
  if x.domainOn then { x with ticks := (drifted x.ticks x.phase (970000 + off % 60001)).1, phase := (drifted x.ticks x.phase (970000 + off % 60001)).2 } else x

/-- Timers, base-die counters and the standby controller advance; no two oscillators keep step (R42). -/
def Chip.tickClocks (s : Chip) : Chip :=
  let off (i : Nat) : Nat := Config.freeChoice (s.free + i)
  let s := { allDies.foldl (fun s d => s.updDie d (Die.tick (off d.val))) s with free := s.free + 40 }
  let s := allStacks.foldl (fun s t => s.updStack t (Stack.tick (off (8 + t.val)))) s
  { s with power := { s.power with standby := s.power.standby + 10 } }

/-- The windows of 1 ms in which a port counts uncorrectable codewords end (R344). [log 100 DEDUCED] -/
def Chip.tickPorts (old s : Chip) : Chip :=
  { s with ports := s.ports.map (fun e =>
      let d := portDie e.1
      if (old.die d).timer.toNat / 100000 = (s.die d).timer.toNat / 100000 then e else (e.1, { e.2 with uncorr := [] })) }

/-- A restarted core domain's pattern test ends: when it passes, firmware re-admits the die, unless the die is fenced for faults too (R426). -/
def Reach.tickTest (r : Reach) (d : DieId) : Reach :=
  let x := r.chip.die d
  if x.retest = false ∨ x.coreOn = false ∨ r.chip.running d = false ∨ r.chip.running 0 = false then r else
  let c := r.chip.freeChoice 2
  let r := { r with chip := c.2.updDie d (fun y => { y with retest := false }) }
  if c.1 = 0 ∧ x.faultFence = false then r.admitDie d else r

/-- One tick. A freeze holds all but the clocks (R478). [log 3 DESIGN CHOICE] -/
def tick (r : Reach) : Reach :=
  let s := Chip.tickPorts r.chip r.chip.tickClocks
  if s.frozen then { r with chip := s } else
  let r := { r with chip := s.logVector }
  (allDies.foldl Reach.tickTest r).pollProducers

end Sys2Proof.Machine
end

