-- ==== Sys2Proof/Machine/Step.lean ====
section
/-! DEFINITION. One step of the block: the command at the front of the queue, or one tick of the module's clocks when none waits. -/

namespace Sys2Proof.Machine

/-- Take the front command and run it with the queue's rest; with no command waiting, the clocks advance (log entry 3). [log 15 DESIGN CHOICE] -/
def step (s : State) : Host.Outcome State Fault Refusal :=
  match s.pending with
  | [] => .next (s.withReach (tick s.reach))
  | c :: rest => exec c { s with pending := rest }

/-- s with the command that a word spells put at the front of its queue; no word spells a command (log entry 1). [log 2 DESIGN CHOICE] -/
def State.withFetchWord (s : State) (nbits w : Nat) : State :=
  match decodeTableWord nbits w with
  | some c => { s with pending := c :: s.pending }
  | none => s

end Sys2Proof.Machine
end

