-- ==== Sys2Proof/Safety.lean ====
section
/-! DEFINITION. The terms in which statements about the block are made: when a unit may act, what a command leaves alone, and the tables of operations as the spec words them. -/

namespace Sys2Proof.Machine

open Host

/-- A command answers a next state. -/
def Runs (i : Instr) (s t : State) : Prop := exec i s = .next t

/-! ## What stays -/

/-- Everything but the chip stays. -/
def OnlyChip (s t : State) : Prop := t = { s with chip := t.chip }

/-- Nothing but one cluster's registers changes. -/
def OnlyCluster (c : ClusterId) (s t : State) : Prop :=
  t = { s with chip := { s.chip with clusters := t.chip.clusters } } ∧ ∀ k, k ≠ c → t.chip.cluster k = s.chip.cluster k

/-- Nothing but one die's own registers changes. -/
def OnlyDie (d : DieId) (s t : State) : Prop :=
  t = { s with chip := { s.chip with dies := t.chip.dies } } ∧ ∀ e, e ≠ d → t.chip.die e = s.chip.die e

/-- Nothing but one stack's controller and base die changes. -/
def OnlyStack (n : StackId) (s t : State) : Prop :=
  t = { s with chip := { s.chip with stk := t.chip.stk } } ∧ ∀ k, k ≠ n → t.chip.stack k = s.chip.stack k

/-- Nothing but one host-class core changes. -/
def OnlyHart (h : HartId) (s t : State) : Prop :=
  t = { s with chip := { s.chip with harts := t.chip.harts } } ∧ ∀ k, k ≠ h → t.chip.hart k = s.chip.hart k

/-- Nothing but one fabric port changes. -/
def OnlyPort (p : PortId) (s t : State) : Prop :=
  t = { s with chip := { s.chip with ports := t.chip.ports } } ∧ ∀ k, k ≠ p → t.chip.port k = s.chip.port k

/-- Every byte of stack memory, scratchpads, engine stores and the server host's memory stays. -/
def SameMemory (s t : State) : Prop :=
  t.chip.dram = s.chip.dram ∧ t.chip.scratch = s.chip.scratch ∧ t.chip.engineStore = s.chip.engineStore ∧ t.hostMem = s.hostMem

/-! ## When a unit may act -/

/-- A cluster works: no freeze, its edge ring and core domain on (R17, R478). -/
def ClusterUp (s : State) (c : ClusterId) : Prop :=
  s.chip.frozen = false ∧ (s.chip.die c.die).ringOn = true ∧ (s.chip.die c.die).coreOn = true

/-- The sequencer of a running step may execute in this beat, the word at PC is w, w has the opcode, and its unused fields are 0 (R97, R98). -/
def SeqReady (s : State) (c : ClusterId) (opc : Nat) (w : Word64) : Prop :=
  ClusterUp s c ∧ (s.chip.cluster c).running = true ∧ (s.chip.cluster c).stop = none ∧ (s.chip.cluster c).phase = .ready ∧
  s.chip.word c (s.chip.cluster c).pc = w ∧ opcOf w = opc ∧ reservedSet w = false

/-- No step runs on a cluster. -/
def SeqIdle (s : State) (c : ClusterId) : Prop := ClusterUp s c ∧ (s.chip.cluster c).running = false

/-- A die's edge ring is on and no freeze holds the module. -/
def RingUp (s : State) (d : DieId) : Prop := s.chip.frozen = false ∧ (s.chip.die d).ringOn = true

/-- A stack's domain and its die's edge ring are on, and no freeze holds the module. -/
def StackUp (s : State) (n : StackId) : Prop := RingUp s (stackDie n) ∧ (s.chip.stack n).domainOn = true

/-- No queue has entries waiting or records owed, or takes its entries from an object that service software raises: firmware's look at its queues changes nothing (R315). -/
def QueuesQuiet (s : State) : Prop :=
  ∀ n q, s.fw.queue n = some q → q.configured = false ∨ (q.coreProducer = false ∧ q.owed = [] ∧ q.subHead = q.subTail)

/-- A host-class core executes instructions. -/
def HartUp (s : State) (h : HartId) : Prop := RingUp s h.die ∧ (s.chip.hart h).fetching = true

/-! ## The sequencer's operations, as R99 and R100 word them -/

/-- The instructions of OPC 0x10 to 0x1F: what s[RD] takes. -/
def threeRegister (c : ClusterId) : List (Instr × Nat × (Word64 → Word64 → Word64)) :=
  [(.add c, 0x10, fun a b => BitVec.ofNat 64 (a.toNat + b.toNat)),
   (.sub c, 0x11, fun a b => BitVec.ofInt 64 (a.toInt - b.toInt)),
   (.and c, 0x12, fun a b => a &&& b), (.or c, 0x13, fun a b => a ||| b), (.xor c, 0x14, fun a b => a ^^^ b),
   (.sll c, 0x15, fun a b => BitVec.ofNat 64 (a.toNat * 2 ^ (b.toNat % 64))),
   (.srl c, 0x16, fun a b => BitVec.ofNat 64 (a.toNat / 2 ^ (b.toNat % 64))),
   (.sra c, 0x17, fun a b => BitVec.ofInt 64 (a.toInt / 2 ^ (b.toNat % 64))),
   (.mul c, 0x18, fun a b => BitVec.ofNat 64 (a.toNat * b.toNat)),
   (.mulhu c, 0x19, fun a b => BitVec.ofNat 64 (a.toNat * b.toNat / 2 ^ 64)),
   (.slt c, 0x1A, fun a b => if a.toInt < b.toInt then 1 else 0),
   (.sltu c, 0x1B, fun a b => if a.toNat < b.toNat then 1 else 0),
   (.min c, 0x1C, fun a b => if a.toInt ≤ b.toInt then a else b),
   (.max c, 0x1D, fun a b => if a.toInt ≤ b.toInt then b else a),
   (.minu c, 0x1E, fun a b => if a.toNat ≤ b.toNat then a else b),
   (.maxu c, 0x1F, fun a b => if a.toNat ≤ b.toNat then b else a)]

/-- The instructions of OPC 0x20 and 0x22 to 0x29: what s[RD] takes from s[RS1], its own old value and IMM, which is sign-extended except in LIH. -/
def withImmediate (c : ClusterId) : List (Instr × Nat × (Word64 → Word64 → BitVec 32 → Word64)) :=
  [(.addi c, 0x20, fun a _ i => BitVec.ofInt 64 (a.toInt + i.toInt)),
   (.andi c, 0x22, fun a _ i => a &&& BitVec.ofInt 64 i.toInt), (.ori c, 0x23, fun a _ i => a ||| BitVec.ofInt 64 i.toInt),
   (.xori c, 0x24, fun a _ i => a ^^^ BitVec.ofInt 64 i.toInt),
   (.slli c, 0x25, fun a _ i => BitVec.ofNat 64 (a.toNat * 2 ^ (i.toNat % 64))),
   (.srli c, 0x26, fun a _ i => BitVec.ofNat 64 (a.toNat / 2 ^ (i.toNat % 64))),
   (.srai c, 0x27, fun a _ i => BitVec.ofInt 64 (a.toInt / 2 ^ (i.toNat % 64))),
   (.li c, 0x28, fun _ _ i => BitVec.ofInt 64 i.toInt),
   (.lih c, 0x29, fun _ old i => BitVec.ofNat 64 (i.toNat * 2 ^ 32 + old.toNat % 2 ^ 32))]

/-- The branches: when each is taken. -/
def branches (c : ClusterId) : List (Instr × Nat × (Word64 → Word64 → Prop)) :=
  [(.beq c, 0x30, fun a b => a = b), (.bne c, 0x31, fun a b => a ≠ b),
   (.blt c, 0x32, fun a b => a.toInt < b.toInt), (.bge c, 0x33, fun a b => b.toInt ≤ a.toInt),
   (.bltu c, 0x34, fun a b => a.toNat < b.toNat), (.bgeu c, 0x35, fun a b => b.toNat ≤ a.toNat),
   (.jmp c, 0x36, fun _ _ => True)]

/-! ## Engines -/

/-- Nothing but one core's registers changes. -/
def OnlyCore (k : CoreId) (s t : State) : Prop :=
  t = { s with chip := { s.chip with cores := t.chip.cores } } ∧ ∀ j, j ≠ k → t.chip.core j = s.chip.core j

/-- Nothing but one core's registers and n bytes of its scratchpad from an offset on change. -/
def OnlyCoreBytes (k : CoreId) (off n : Nat) (s t : State) : Prop :=
  t = { s with chip := { s.chip with cores := t.chip.cores, scratch := t.chip.scratch } } ∧ (∀ j, j ≠ k → t.chip.core j = s.chip.core j) ∧
  ∀ a, (a < scratchKey k off ∨ scratchKey k off + n ≤ a) → t.chip.scratch.byte a = s.chip.scratch.byte a

/-- A core whose engines are idle, with a command of an opcode at the front of one queue, presented in an earlier beat, that signals nothing at its end. -/
def EngineWaits (s : State) (k : CoreId) (e : EngineKind) (op : Nat) (cmd : EngineCmd) (rest : List EngineCmd) : Prop :=
  ClusterUp s (clusterOf k) ∧ (s.chip.core k).me.running = none ∧ (s.chip.core k).ve.running = none ∧ (s.chip.core k).tq.running = none ∧
  (s.chip.core k).de.running = none ∧ (s.chip.core k).job = none ∧ (s.chip.core k).latched = none ∧
  ((s.chip.core k).queue e).waiting = cmd :: rest ∧ cmd.fresh = false ∧ pkEngine cmd.packet = e ∧ pkOpcode cmd.packet = op ∧ pkSigEn cmd.packet = false

/-- The same with every scratchpad codeword clean (R415). -/
def EngineReady (s : State) (k : CoreId) (e : EngineKind) (op : Nat) (cmd : EngineCmd) (rest : List EngineCmd) : Prop :=
  EngineWaits s k e op cmd rest ∧ s.chip.scratchErrors = []

/-- The bits of element i of a run of elements of a byte-wide format in a core's scratchpad, and its value. -/
def laneBits (s : State) (k : CoreId) (off c i : Nat) : Nat := leNat (s.chip.scratchRead k (off + i * (elemBits c / 8)) (elemBits c / 8))
def laneValue (s : State) (k : CoreId) (off c i : Nat) : Num := elemValue c (laneBits s k off c i)

/-- The formats whose elements are whole bytes and carry no block scale. -/
def byteFormats : List Nat := [0, 1, 2, 3, 4, 8, 11]

/-- What an mma leaves in its accumulator, panel pair by panel pair, and the flags it sets (R86 to R89, R135, R136). -/
def mmaSum (s : Chip) (k : CoreId) (cmd : EngineCmd) : Tile × BitVec 8 :=
  let p := cmd.packet
  let idx := if pkAgm p then (s.readIndices k false [] cmd 32).2 else []
  (List.range (mmaPanels p)).foldl (fun acc i =>
    let q := ((s.readPanels k false [] { cmd := cmd, idx := idx } i).2).panelStep acc.1.data
    (q.1, acc.2 ||| q.2)) (⟨((mePair (pkFmtA p) (pkFmtB p)).getD (2, false)).2, (s.core k).accStart p⟩, 0)

/-- The arithmetic commands of the VE: what an element takes from a, b and the old d (R145). -/
def veArithmetic (k : CoreId) : List (Instr × Nat × (Num → Num → Num → Num)) :=
  [(.vadd k, 1, fun a b _ => Num.add a b), (.vsub k, 2, fun a b _ => Num.add a b.negate), (.vmul k, 3, fun a b _ => Num.mul a b),
   (.vfma k, 4, fun a b d => Num.add (Num.mul a b) d), (.vmax k, 5, fun a b _ => Num.max a b), (.vmin k, 6, fun a b _ => Num.min a b)]

/-- The function commands of the VE (R90, R145). -/
def veFunctions (k : CoreId) : List (Instr × Nat × (Word32 → Word32)) :=
  [(.vexp2 k, 0x08, exp2Of), (.vlog2 k, 0x09, log2Of), (.vrcp k, 0x0A, rcpOf), (.vrsqrt k, 0x0B, rsqrtOf), (.vtanh k, 0x0C, tanhOf), (.vgelu k, 0x0D, geluOf)]

/-- A VE packet of n elements in the scratchpad, at most one group of 64: no gather, no tile, no stochastic rounding. -/
def PlainVector (p : BitVec 128) (n : Nat) : Prop :=
  pkAgm p = false ∧ veSrcTq p = false ∧ vePop p = false ∧ veSr p = false ∧ pkFmtA p ∈ byteFormats ∧ veN p = n ∧ 1 ≤ n ∧ n ≤ 64

/-- A group's pairwise tree in lane order (R149): the sum, or the maximum, of 2^g leaves, each node narrowed to FP32 by R83. -/
def groupTree (isMax : Bool) : Nat → (Nat → Word32) → Nat → Word32
  | 0, f, i => f i
  | g + 1, f, i =>
    let a := f32 (groupTree isMax g f (2 * i))
    let b := f32 (groupTree isMax g f (2 * i + 1))
    BitVec.ofNat 32 (fp32.narrow .nearest (if isMax then Num.max a b else Num.add a b) .one).1

/-- A descriptor of one row of n bytes, both sides in the core's own scratchpad: no index vector, no bounds, no reduction, no KV event, one byte-wide format. -/
def PlainRow (p : BitVec 128) (d : BitVec 512) (src dst n : Nat) : Prop :=
  pkAgm p = false ∧ pkFmtA p = pkFmtD p ∧ (pkFmtA p = 3 ∨ pkFmtA p = 4 ∨ pkFmtA p = 8) ∧ descBit d 16 = true ∧ descBit d 17 = true ∧
  descU d 0 8 = src ∧ descU d 8 8 = dst ∧ descCount d 0 = n ∧ descCount d 1 = 1 ∧ descCount d 2 = 1 ∧ descCount d 3 = 1 ∧
  descBound d = 0 ∧ descRed d = 0 ∧ descKvc d = false ∧ descScaleEn d = false ∧ descI d 0x1C = 1

/-! ## Stack memory -/

/-- A byte of a stack's DRAM as the stack address reaches it through retirement (R420). -/
def dramAt (s : State) (n : StackId) (a : Nat) : Byte := s.chip.dram.byte (dramKey n ((s.chip.stack n).phys a))

/-- The bytes of stack memory from a stack address on. -/
def dramBytes (s : State) (n : StackId) (a len : Nat) : List Byte := (List.range len).map (fun i => dramAt s n (a + i))

/-- An access of bytes within one codeword that meets nothing on its way: it resolves to stack n at address x, no reduction is queued or waits there, no retirement runs, its pseudo-channel does not wait for refreshes (R198), and the codeword carries no error. -/
def Reaches (s : State) (w : Who) (a : Nat) (write : Bool) (n : StackId) (x : Nat) : Prop :=
  s.chip.frozen = false ∧ a < 2 ^ 41 ∧ s.chip.resolve w a write = .ok (n, x) ∧ (s.chip.stack n).redQueue = [] ∧ (s.chip.stack n).redWait = [] ∧ (s.chip.stack n).retireBusy = false ∧ Table.read 0 (s.chip.stack n).owed (pseudoChannel x) < 4 ∧
  Table.read [] s.chip.codeErrors (cwKey n ((s.chip.stack n).phys (x / 64 * 64))) = []

/-- Every byte of DRAM but those of len bytes at a stack address stays; so do scratchpads, engine stores and the host's memory. -/
def OnlyDram (n : StackId) (x len : Nat) (s t : State) : Prop :=
  t.chip.scratch = s.chip.scratch ∧ t.chip.engineStore = s.chip.engineStore ∧ t.hostMem = s.hostMem ∧
  ∀ b, (b < dramKey n ((s.chip.stack n).phys x) ∨ dramKey n ((s.chip.stack n).phys x) + len ≤ b) → t.chip.dram.byte b = s.chip.dram.byte b

/-- The integer operations of the reduction engine by AOP (R192, R358): the old value, the operand, and CAS's new value. -/
def atomicOps : List (Nat × ((w : Nat) → BitVec w → BitVec w → BitVec w → BitVec w)) :=
  [(1, fun _ a v _ => a + v), (2, fun _ a v _ => if v.toInt < a.toInt then v else a), (3, fun _ a v _ => if a.toInt < v.toInt then v else a),
   (4, fun _ a v _ => a &&& v), (5, fun _ a v _ => a ||| v), (6, fun _ a v _ => a ^^^ v),
   (7, fun _ a v _ => if v.toNat < a.toNat then v else a), (8, fun _ a v _ => if a.toNat < v.toNat then v else a),
   (9, fun _ _ v _ => v), (10, fun _ a v n => if a = v then n else a)]

/-! ## Ulizen engines -/

/-- An engine executes, in a run of slot n, the word w of an operation. -/
def UopReady (s : State) (e : EngineId) (op : Nat) (n : Fin 1024) (w : BitVec 128) : Prop :=
  s.chip.frozen = false ∧ (s.chip.stack e.stack).domainOn = true ∧ (s.chip.stack e.stack).resetBusy = false ∧
  (s.chip.engineOf e.stack e.idx).slot = some n ∧ (s.chip.slotOf e.stack n).executes e.idx = true ∧
  (s.chip.stack e.stack).uword (s.chip.engineOf e.stack e.idx).upc = w ∧ uopOf w = op ∧ uopIllegal w = false

/-- Where an engine goes on after a word that is no taken branch (R221): to the next word, or from a repeat body's last word to its first while it has turns left. -/
def Follows (g g' : Engine) : Prop :=
  match g.rep with
  | none => g'.upc = g.upc + 1 ∧ g'.rep = none
  | some r =>
    if g.upc ≠ r.last then g'.upc = g.upc + 1 ∧ g'.rep = some r
    else if 1 < r.count.toNat then g'.upc = r.first ∧ g'.rep = some { r with count := r.count - 1 }
    else g'.upc = g.upc + 1 ∧ g'.rep = none

/-- The word that follows lies in the store. -/
def FollowOk (g : Engine) : Prop := ∀ g', Follows g g' → g'.upc ≤ 4095

/-- Nothing but one engine's registers, n bytes of its store from an offset on, its stack's counters and its record of in-bank reads change. -/
def OnlyEngine (e : EngineId) (off n : Nat) (s t : State) : Prop :=
  t = { s with chip := { s.chip with stk := t.chip.stk, heads := t.chip.heads, engineStore := t.chip.engineStore } } ∧
  (∀ k, k ≠ e.stack → t.chip.stack k = s.chip.stack k) ∧
  t.chip.stack e.stack = { s.chip.stack e.stack with engines := (t.chip.stack e.stack).engines, ovf := (t.chip.stack e.stack).ovf, bankReads := (t.chip.stack e.stack).bankReads } ∧
  (∀ j, j ≠ e.idx → t.chip.engineOf e.stack j = s.chip.engineOf e.stack j) ∧
  ∀ a, (a < storeKey e.stack e.idx off ∨ storeKey e.stack e.idx off + n ≤ a) → t.chip.engineStore.byte a = s.chip.engineStore.byte a

/-- ALU by MODE (R220), on u[A] and u[B] + IMM. -/
def aluTable : List (Nat × (Word64 → Word64 → Word64)) :=
  [(0, fun a b => BitVec.ofNat 64 (a.toNat + b.toNat)), (1, fun a b => BitVec.ofInt 64 (a.toInt - b.toInt)), (2, fun a b => a &&& b), (3, fun a b => a ||| b),
   (4, fun a b => a ^^^ b), (5, fun a b => BitVec.ofNat 64 (a.toNat * 2 ^ (b.toNat % 64))), (6, fun a b => BitVec.ofNat 64 (a.toNat / 2 ^ (b.toNat % 64))),
   (7, fun a b => BitVec.ofNat 64 (a.toNat * b.toNat)), (8, fun a b => BitVec.ofNat 64 (Nat.min a.toNat b.toNat)),
   (9, fun a b => BitVec.ofNat 64 (Nat.max a.toNat b.toNat)), (10, fun a b => if a.toNat < b.toNat then 1 else 0)]

/-- BR by MODE: when it is taken. -/
def brTable : List (Nat × (Word64 → Word64 → Prop)) :=
  [(0, fun _ _ => True), (1, fun a _ => a ≠ 0), (2, fun a _ => a = 0), (3, fun a b => a.toNat < b.toNat), (4, fun a b => b.toNat ≤ a.toNat)]

/-- VOP by MODE, on a lane of A and its B operand. -/
def vopTable : List (Nat × (Num → Num → Num)) :=
  [(0, Num.add), (1, fun a y => Num.add a y.negate), (2, Num.mul), (3, Num.max), (4, Num.min), (5, fun _ y => y)]

/-- Lane l of a vector register. -/
def Engine.lane (g : Engine) (r l : Nat) : Word32 := (g.vec r).getD l 0
/-- Every vector register has its 256 lanes. -/
def FullLanes (g : Engine) : Prop := ∀ r, (g.vec r).length = 256

/-- The lane of the B operand of lane l of group member h, and its register (R219). -/
def bPlace (w : BitVec 128) (base h l : Nat) : Nat × Nat :=
  let k := 2 ^ uSeg w
  if uBfix w then (uB w, base + l / k + h * 2 ^ (8 - uSeg w)) else if uTile w then (uB w + h, base + l % k) else (uB w + h, base + l / k)

/-- A fixed pairwise tree over 2^g values in lane order, from value number 2^g × i on. -/
def laneTree (f : Num → Num → Num) : Nat → (Nat → Num) → Nat → Num
  | 0, x, i => x i
  | g + 1, x, i => f (laneTree f g x (2 * i)) (laneTree f g x (2 * i + 1))

/-- An addition rounded to FP32, and a value as a multiplier input of an engine takes it: rounded to BF16, which saturates (R83, R222). -/
def add32 (a b : Num) : Num := f32 (toF32 (Num.add a b))
def asBf16 (v : Word32) : Num := bf16.value (bf16.narrow .nearest (f32 v) .one).1

/-- n bytes at an offset of an engine's open block: the block is open, they lie in it, every codeword of their bursts is clean, and no other active engine has written them. -/
def BlockReads (s : State) (e : EngineId) (off n : Nat) : Prop :=
  ∃ b, (s.chip.engineOf e.stack e.idx).openBlock = some b ∧ off + n ≤ 65536 ∧
    (∀ i, i < (n + 1024) / 64 → Table.read [] s.chip.codeErrors (cwKey e.stack ((s.chip.stack e.stack).phys (b * 65536 + off / 256 * 256 + i * 64))) = []) ∧
    (s.chip.stack e.stack).foreign e.idx = []
/-- Those bytes. -/
def blockBytesAt (s : State) (e : EngineId) (off n : Nat) : List Byte :=
  dramBytes s e.stack ((s.chip.engineOf e.stack e.idx).openBlock.getD 0 * 65536 + off) n

/-- What a STREAM reads, whether it may start at an offset, and the lane element i becomes: an element of an unscaled format, or one of a Plate's two stripes times its block scale (R222). -/
def streamBytes (fmt : Nat) : Nat := if isScaled fmt then 2 * stripeBytes fmt else 256 * (elemBits fmt / 8)
def streamOk (fmt off : Nat) : Prop :=
  fmt ∈ [1, 2, 3, 4] ∨ (isScaled fmt = true ∧ off % streamBytes fmt = 0 ∧ off < 65536 / plateBytes fmt * plateBytes fmt)
/-- No block scale of a STREAM's bytes is malformed (R74). -/
def scalesOk (fmt : Nat) (bs : List Byte) : Prop :=
  isScaled fmt = true → ∀ i, i < 16 → scaleValue (bs.getD (i / 8 * stripeBytes fmt + i % 8) 0).toNat ≠ none
def streamLane (fmt : Nat) (bs : List Byte) (i : Nat) : Word32 :=
  if isScaled fmt then
    let stripe := i / 128 * stripeBytes fmt
    let block := i / 16 % 8
    let elem := elemValue fmt (packedElem (elemBits fmt) ((bs.drop (stripe + 8 + block * blockBytes fmt)).take (blockBytes fmt)) (i % 16))
    match scaleValue (bs.getD (stripe + block) 0).toNat with
    | none => toF32 .nan
    | some v => toF32 (Num.mul elem v)
  else toF32 (elemValue fmt (leNat ((bs.drop (i * (elemBits fmt / 8))).take (elemBits fmt / 8))))

/-! ## The fabric -/

/-- A port's edge ring is on, no freeze holds it, and its link is ACTIVE. -/
def LinkUp (s : State) (p : PortId) : Prop := s.chip.portLive p = true ∧ (s.chip.port p).state = 6

/-- Word 0 of the flit that left port x tells its number, what x expects, the NAK it owes and the credits of the first channel that owes some, which are owed no more (R341, R342, R354). -/
def Told (x y : Port) : Prop :=
  ∃ h, y.sent = some h ∧ h.seq = x.txSeq ∧ h.ack = x.rxSeq ∧ h.nak = x.nakOwed ∧
    ((∀ v, Table.read 0 x.creditOwed v = 0) → h.crUnits = 0 ∧ ∀ v, Table.read 0 y.creditOwed v = 0) ∧
    ∀ v : Fin 4, 0 < Table.read 0 x.creditOwed v → Table.read 0 x.creditOwed v < 4096 → (∀ u : Fin 4, u < v → Table.read 0 x.creditOwed u = 0) →
      h.crVc.toNat = v.val ∧ h.crUnits.toNat = Table.read 0 x.creditOwed v ∧
      ∀ u, Table.read 0 y.creditOwed u = if u = v then 0 else Table.read 0 x.creditOwed u

/-- A route entry names a port that carries the module's own packets to an ID (R352, R353). -/
def Routed (s : State) (dst : BitVec 12) : Prop :=
  (Table.read 0 s.chip.fabric.routes (clip 4096 dst.toNat)).getLsbD 31 = true ∧
  ∃ q ∈ entryPorts (Table.read 0 s.chip.fabric.routes (clip 4096 dst.toNat)), s.chip.usable true q = true

/-- The response to a request stands at the end of one port's queue, and no other port has gained a packet. -/
def Responds (s t : State) (m : FabricReq) (op : BitVec 6) (fault : BitVec 16) (data : List Byte) : Prop :=
  ∃ q vc, (t.chip.port q).queue = (s.chip.port q).queue ++
      [(vc, 16, .rsp { op := op, down := false, hops := s.chip.fabric.hopInit, dst := m.src, src := m.dst, txn := m.txn, die := m.die, tag := m.tag, fault := fault, data := data })] ∧
    ∀ r, r ≠ q → (t.chip.port r).queue = (s.chip.port r).queue

/-- A request of another module arrives at a port for this module, which admits it and has a way back (R350, R351). -/
def Admitted (s : State) (p : PortId) (m : FabricReq) : Prop :=
  LinkUp s p ∧ s.chip.fabric.idValid = true ∧ m.dst = s.chip.fabric.moduleId ∧ m.src ≠ s.chip.fabric.moduleId ∧ s.chip.fabric.ingressEn = true ∧ Routed s m.src

/-- Who makes a remote access (R56, R359). -/
def remoteWho (p : PortId) (m : FabricReq) : Who := { agent := .remote m.src, die := portDie p, tag := m.tag, hint := m.hint, active := m.active.toNat }

/-- The width of a link over the lanes both ends have (R343): all four, the lower pair, the upper pair, or the lowest lane; none for no lane. -/
def lanesKept (m : BitVec 4) : BitVec 4 × BitVec 2 :=
  match m.toNat with
  | 15 => (15, 3)
  | 3 | 7 | 11 => (3, 2)
  | 12 | 13 | 14 => (12, 2)
  | 1 | 5 | 9 => (1, 1)
  | 2 | 6 | 10 => (2, 1)
  | 4 => (4, 1)
  | 8 => (8, 1)
  | _ => (0, 0)

/-! ## The host link -/

/-- CD0's edge ring is on and no freeze holds the module. -/
def HostUp (s : State) : Prop := RingUp s 0

/-- Nothing but the host link, and what firmware keeps of the requests that came over it, changes. -/
def OnlyLink (s t : State) : Prop := t = { s with chip := { s.chip with link := t.chip.link }, fw := t.fw }

/-- A function after its reset (R376): configuration and vectors at reset; the mailbox keeps its block, and the reply of a call that runs is discarded. -/
def FnReset (x y : Function) : Prop :=
  y.msixEnable = false ∧ y.msixTable = [] ∧ y.pba = [] ∧ y.d3hot = false ∧ y.bar2SizeLog2 = 0 ∧ y.block = x.block ∧ y.busy = x.busy ∧
  y.discardReply = (x.discardReply || x.busy) ∧ y.bar2Base = x.bar2Base

/-- A function's BARs are decoded, and none of its streams requires IDE (R368, R384). -/
def BarUp (s : State) (f : HostFn) : Prop := s.chip.barOpen f = true ∧ ∀ e ∈ s.chip.link.ide, e.2.fn = f → e.2.required = false

/-! ## Firmware calls -/

/-- Bytes of the call block in the physical function's mailbox, as a number (R312). -/
def callArg (s : State) (off n : Nat) : Nat := (s.chip.fn .pf).block.toNat / 2 ^ (8 * off) % 2 ^ (8 * n)

/-- The physical function's mailbox holds a call of a code with some FLAGS; bytes that the code's row does not name are 0, and CD0's firmware serves it. -/
def CallWaits (s : State) (flags code : Nat) (used : List (Nat × Nat)) : Prop :=
  (s.chip.fn .pf).busy = true ∧ (s.chip.fn .pf).discardReply = false ∧ s.chip.ready = true ∧ s.chip.running 0 = true ∧
  callArg s 0 2 = code ∧ callArg s 2 2 = flags ∧ ∀ i, 8 ≤ i → i < 64 → (∀ u ∈ used, ¬ (u.1 ≤ i ∧ i < u.1 + u.2)) → callArg s i 1 = 0

/-- The mailbox holds the reply to that call: its code and word 1, a RESULT, a LOCATOR and the reply's data. -/
def Replied (s t : State) (result : FaultCode) (locator : Nat) (data : List Byte) : Prop :=
  (t.chip.fn .pf).busy = false ∧ (t.chip.fn .pf).done = true ∧ callArg t 0 2 = callArg s 0 2 ∧ callArg t 2 2 = result.toNat ∧ callArg t 4 4 = callArg s 4 4 ∧
  callArg t 8 8 = locator ∧ callArg t 0x10 data.length = leNat data

end Sys2Proof.Machine
end

