-- ==== Sys2Proof/Certificates/Slice0/Obligations.lean ====
section
/-! DEFINITION. The statements about the block, for the provers. -/

open Sys2Proof Sys2Proof.Machine Host

/-! ## The block as a whole -/

/-- A step takes the command at the front of the queue and runs it with the queue's rest; withFetchWord leaves a state alone, since no word spells a command (log entry 1). It rests on the choices of log entry 2. -/
def Obligations.StepRunsTheFrontCommand : Prop :=
  ∀ (c : Instr) (s : State), step { s with pending := c :: s.pending } = exec c s ∧
    ∀ nbits w, s.withFetchWord nbits w = s ∧ decodeTableWord nbits w = none

/-- On an empty queue the clocks advance by 100 ns (the model's choice, log entry 3): each Meridian timer counts units of 10 ns while its edge ring is on (R45), each base die units of 100 ns while its domain is on, both within their oscillator's tolerance (R43) with the fraction kept for the next tick, and the standby controller 10. Photometer and fuses stay; unless firmware has a pattern test or a queue of service software to attend to, so does everything else but what firmware owes the host link, the ports' windows and the free values used up. -/
def Obligations.IdleStepAdvancesTheClocks : Prop :=
  ∀ s : State, s.pending = [] →
    ∃ t, step s = .next t ∧ t.pending = [] ∧ t.phot = s.phot ∧ t.fuses = s.fuses ∧
      (s.chip.frozen = true ∨ (QueuesQuiet s ∧ ∀ d, (s.chip.die d).retest = false) →
        (∀ d, ∃ n, 9999500 ≤ n ∧ n ≤ 10000500 ∧ t.chip.die d = if (s.chip.die d).ringOn then
          { s.chip.die d with timer := (s.chip.die d).timer + BitVec.ofNat 64 (((s.chip.die d).phase + n) / 1000000), phase := ((s.chip.die d).phase + n) % 1000000 } else s.chip.die d) ∧
        (∀ k, ∃ n, 970000 ≤ n ∧ n ≤ 1030000 ∧ t.chip.stack k = if (s.chip.stack k).domainOn then
          { s.chip.stack k with ticks := (s.chip.stack k).ticks + BitVec.ofNat 64 (((s.chip.stack k).phase + n) / 1000000), phase := ((s.chip.stack k).phase + n) % 1000000 } else s.chip.stack k) ∧
        t.chip.power = { s.chip.power with standby := s.chip.power.standby + 10 } ∧
        t = { s with chip := { s.chip with dies := t.chip.dies, stk := t.chip.stk, power := t.chip.power, ports := t.chip.ports, link := t.chip.link, free := t.chip.free } })

/-- Every command answers a next state, from every state: the block has no fault and no refusal of its own; what it refuses, it records and answers. No command reads or changes the queue of waiting commands. It rests on the choices of log entries 2 and 13. -/
def Obligations.CommandsCompleteOutsideTheQueue : Prop :=
  (∀ (i : Instr) (s : State), ∃ t, Runs i s t) ∧
  (∀ (i : Instr) (s t : State), Runs i s t →
     t.pending = s.pending ∧ ∀ q, Runs i { s with pending := q } { t with pending := q })

/-- The fused security floor of a die never falls, whatever command runs; and only the end of a fuse write raises it, to the value latched at GO. -/
def Obligations.SecurityFloorNeverFalls : Prop :=
  ∀ (i : Instr) (s t : State) (d : DieId), Runs i s t →
    (Table.read 0 s.fuses.svnMin d).toNat ≤ (Table.read 0 t.fuses.svnMin d).toNat ∧
    (Table.read 0 t.fuses.svnMin d ≠ Table.read 0 s.fuses.svnMin d →
      i = .svnFuseDone d ∧ Table.read 0 t.fuses.svnMin d = (s.chip.die d).svnLatched)

/-! ## The sequencer's scalar instructions -/

/-- ADD to MAXU: s[RD] takes s[RS1] op s[RS2]; s0 keeps reading 0; the instruction ends with its beat; nothing else changes. ADDI to SRAI, LI and LIH: s[RD] takes its value from s[RS1] and IMM; nothing else changes. RDLC, RDIT, RDMASK, RDBEAT, RDAD: s[RD] takes lc, the iteration index of an active level (0 of an inactive one), BMASK, the beat number, or a field of an address register. SETLC, SETMASK and SETAD write lc, BMASK and one field of an address register; writing ADDR or REPEAT clears the hidden COUNT (R111). -/
def Obligations.ScalarInstructions : Prop :=
  (∀ (s : State) (c : ClusterId) (w : Word64), ∀ e ∈ threeRegister c, SeqReady s c e.2.1 w →
     ∃ t, Runs e.1 s t ∧ OnlyCluster c s t ∧
       (t.chip.cluster c) = { s.chip.cluster c with regs := (t.chip.cluster c).regs, phase := .retire (s.chip.cluster c).pc none } ∧
       ∀ r, (t.chip.cluster c).s r =
         if r = 0 then 0 else if r = rdOf w then e.2.2 ((s.chip.cluster c).s (rs1Of w)) ((s.chip.cluster c).s (rs2Of w)) else (s.chip.cluster c).s r) ∧
  (∀ (s : State) (c : ClusterId) (w : Word64), ∀ e ∈ withImmediate c, SeqReady s c e.2.1 w →
     ∃ t, Runs e.1 s t ∧ OnlyCluster c s t ∧
       (t.chip.cluster c) = { s.chip.cluster c with regs := (t.chip.cluster c).regs, phase := .retire (s.chip.cluster c).pc none } ∧
       ∀ r, (t.chip.cluster c).s r =
         if r = 0 then 0 else if r = rdOf w then e.2.2 ((s.chip.cluster c).s (rs1Of w)) ((s.chip.cluster c).s r) (w.extractLsb' 0 32) else (s.chip.cluster c).s r) ∧
  (∀ (s : State) (c : ClusterId) (w : Word64),
     let x := s.chip.cluster c
     let n : Fin 4 := clip 4 (fnOf w)
     let a := x.ad (clip 3 (fnOf w / 64 % 4), clip 8 (fnOf w % 8))
     let put (t : State) (v : Word64) : Prop :=
       OnlyCluster c s t ∧ t.chip.cluster c = { x with regs := (t.chip.cluster c).regs, phase := .retire x.pc none } ∧
       ∀ r, (t.chip.cluster c).s r = if r = 0 then 0 else if r = rdOf w then v else x.s r
     (SeqReady s c 0x42 w → ∃ t, Runs (.rdlc c) s t ∧ put t (BitVec.ofNat 64 (x.lcv n).toNat)) ∧
     (SeqReady s c 0x43 w → ∃ t, Runs (.rdit c) s t ∧ put t (BitVec.ofNat 64 (if (x.level n).active then (x.level n).iter.toNat else 0))) ∧
     (SeqReady s c 0x45 w → ∃ t, Runs (.rdmask c) s t ∧ put t (BitVec.ofNat 64 x.bmask.toNat)) ∧
     (SeqReady s c 0x46 w → ∃ t, Runs (.rdbeat c) s t ∧ put t x.beat) ∧
     (SeqReady s c 0x49 w → fnOf w / 64 % 4 ≠ 3 →
       ∃ t, Runs (.rdad c) s t ∧ put t (match fnOf w / 16 % 4 with
         | 0 => a.addr
         | 1 => a.stride
         | 2 => BitVec.ofNat 64 a.rept.toNat
         | _ => a.wrap))) ∧
  (∀ (s : State) (c : ClusterId) (w : Word64),
     let x := s.chip.cluster c
     let src := x.s (rs1Of w)
     let imm := (w.extractLsb' 0 32).toNat
     let done : Cluster := { x with phase := .retire x.pc none }
     (SeqReady s c 0x40 w → ∃ t, Runs (.setlc c) s t ∧ OnlyCluster c s t ∧ t.chip.cluster c = { done with lc := (t.chip.cluster c).lc } ∧
       ∀ n, (t.chip.cluster c).lcv n = if n.val = fnOf w % 4 then BitVec.ofNat 32 (src.toNat + imm) else x.lcv n) ∧
     (SeqReady s c 0x44 w → ∃ t, Runs (.setmask c) s t ∧ OnlyCluster c s t ∧
       t.chip.cluster c = { done with bmask := BitVec.ofNat 32 src.toNat ||| BitVec.ofNat 32 imm }) ∧
     (SeqReady s c 0x48 w → fnOf w / 64 % 4 ≠ 3 →
       let v : Word64 := src + BitVec.ofInt 64 (w.extractLsb' 0 32).toInt
       ∃ t, Runs (.setad c) s t ∧ OnlyCluster c s t ∧ t.chip.cluster c = { done with ads := (t.chip.cluster c).ads } ∧
         ∀ k, (t.chip.cluster c).ad k =
           if k.1.val = fnOf w / 64 % 4 ∧ k.2.val = fnOf w % 8 then
             (match fnOf w / 16 % 4 with
              | 0 => { x.ad k with addr := v, count := 0 }
              | 1 => { x.ad k with stride := v }
              | 2 => { x.ad k with rept := BitVec.ofNat 32 v.toNat, count := 0 }
              | _ => { x.ad k with wrap := v })
           else x.ad k))

/-- BEQ to BGEU and JMP: untaken, the next word follows whatever the target; taken, PC + IMM follows when it lies in the store, is no packet word, and stays inside the innermost active loop body. LOOP, entered within no loop or inside a lower level's body: with a count, the level becomes active over the next L words; with count 0 the body is skipped. NOP holds for IMM[19:0] + 1 beats; END stops the sequencer; TRACE appends a record with IMM[15:0] to its dome's trace unit, a TRACE_FENCE marker with FN[0] = 1, or only takes its beat when no dome traces the cluster. -/
def Obligations.BranchesLoopsAndNop : Prop :=
  (∀ (s : State) (c : ClusterId) (w : Word64), ∀ e ∈ branches c, SeqReady s c e.2.1 w →
     let x := s.chip.cluster c
     let taken : Prop := e.2.2 (x.s (rs1Of w)) (x.s (rs2Of w))
     let goal : Int := (x.pc : Int) + (w.extractLsb' 0 32).toInt
     (¬ taken → ∃ t, Runs e.1 s t ∧ OnlyCluster c s t ∧ t.chip.cluster c = { x with phase := .retire x.pc none }) ∧
     (∀ n : Nat, taken → goal = (n : Int) → n < 32768 → isPacketWord (s.chip.word c) n = false →
       (∀ m, x.innermost = some m → (x.level m).start ≤ n ∧ n ≤ (x.level m).stop) →
       ∃ t, Runs e.1 s t ∧ OnlyCluster c s t ∧ t.chip.cluster c = { x with phase := .retire x.pc (some n) }) ∧
     (taken → (goal < 0 ∨ 32768 ≤ goal) → ∃ t, Runs e.1 s t ∧ (t.chip.cluster c).stop = some .faulted)) ∧
  (∀ (s : State) (c : ClusterId) (w : Word64),
     let x := s.chip.cluster c
     let n : Fin 4 := clip 4 (fnOf w)
     let len := (w.extractLsb' 0 16).toNat
     SeqReady s c 0x41 w → 1 ≤ len → x.pc + len < 32768 → isPacketWord (s.chip.word c) (x.pc + len + 1) = false →
     (∀ m, x.innermost = some m → m < n ∧ x.pc + len ≤ (x.level m).stop) →
       ∃ t, Runs (.loop c) s t ∧ OnlyCluster c s t ∧
         (x.lcv n = 0 → t.chip.cluster c = { x with phase := .retire (x.pc + len) none }) ∧
         (x.lcv n ≠ 0 → t.chip.cluster c = { x with phase := .retire x.pc none, levels := (t.chip.cluster c).levels } ∧
           ∀ m, (t.chip.cluster c).level m =
             if m = n then ⟨true, x.lcv n, 0, x.pc + 1, x.pc + len⟩ else x.level m)) ∧
  (∀ (s : State) (c : ClusterId) (w : Word64),
     let x := s.chip.cluster c
     (SeqReady s c 0x00 w → ∃ t, Runs (.nop c) s t ∧ OnlyCluster c s t ∧
       t.chip.cluster c = { x with phase := .hold x.pc ((w.extractLsb' 0 20).toNat + 1) }) ∧
     (SeqReady s c 0x01 w → ∃ t, Runs (.endStep c) s t ∧ OnlyCluster c s t ∧
       t.chip.cluster c = { x with stop := some .ended, phase := .retire x.pc (some x.pc) }) ∧
     (SeqReady s c 0x02 w → x.assigned = false → ∃ t, Runs (.trace c) s t ∧ OnlyCluster c s t ∧
       t.chip.cluster c = { x with phase := .retire x.pc none }) ∧
     (∀ m : DomeId, SeqReady s c 0x02 w → x.assigned = true → x.dome.toNat = m.val → (s.chip.trace m).sizeLog2 ≠ 0 →
       (s.chip.trace m).sources.getLsbD 0 = true → (s.chip.die c.die).coel.armed = false →
       ∃ t r, Runs (.trace c) s t ∧ t.chip.cluster c = { x with phase := .retire x.pc none } ∧ SameMemory s t ∧
         (t.chip.trace m) = { s.chip.trace m with queue := (s.chip.trace m).queue ++ [r] } ∧
         (∀ k, k ≠ m → t.chip.trace k = s.chip.trace k) ∧
         r.data.toNat = w.toNat % 65536 ∧ r.beat = x.beat ∧ r.time = (s.chip.die c.die).timer ∧
         (r.marker = some c ↔ fnOf w % 2 = 1)))

/-! ## Waits, signals, issues, beats and steps -/

/-- WAIT on an object of the die that its dome may read, while no CLEAR_ALL runs: the instruction ends with its beat when COUNT has reached the target, and otherwise the sequencer waits; WAIT_SATISFIED ends the wait in a later beat once COUNT has reached it; in the wait's own beat it reads nothing. SIGNAL at an object of the module that the cluster's dome may signal: COUNT rises by IMM, modulo 2^64, at once when no marker holds it back and no CLEAR_ALL runs; the instruction ends with its beat. -/
def Obligations.WaitsAndSignals : Prop :=
  (∀ (s : State) (c : ClusterId) (w : Word64) (n : Fin 4096),
     let x := s.chip.cluster c
     let o : ObjId := .die c.die n
     let goal := x.s (rs2Of w)
     (SeqReady s c 0x50 w → fnOf w % 8 ≤ 4 → (x.s (rs1Of w)).toNat + (w.extractLsb' 0 32).toNat = n.val →
       s.chip.objRefusal (whoOf (.sequencer c)) o false none = none → (s.chip.sync (unitOf o)).clearBusy = false →
       ∃ t, Runs (.wait c) s t ∧ OnlyCluster c s t ∧
         (goal.toNat ≤ (s.chip.obj o).count.toNat → t.chip.cluster c = { x with phase := .retire x.pc none }) ∧
         ((s.chip.obj o).count.toNat < goal.toNat → t.chip.cluster c = { x with phase := .waiting x.pc n.val goal true })) ∧
     (∀ last g, x.phase = .waiting last n.val g true → Runs (.waitSatisfied c) s s) ∧
     (∀ last g, ClusterUp s c → x.phase = .waiting last n.val g false →
       s.chip.objRefusal (whoOf (.sequencer c)) o false none = none → (s.chip.sync (unitOf o)).clearBusy = false →
       ∃ t, Runs (.waitSatisfied c) s t ∧ OnlyCluster c s t ∧
         (g.toNat ≤ (s.chip.obj o).count.toNat → t.chip.cluster c = { x with phase := .retire last none }) ∧
         ((s.chip.obj o).count.toNat < g.toNat → t = s))) ∧
  (∀ (s : State) (c : ClusterId) (w : Word64) (o : ObjId),
     let x := s.chip.cluster c
     let sc : BitVec 3 := BitVec.ofNat 3 (fnOf w)
     SeqReady s c 0x51 w → fnOf w % 8 ≤ 4 → x.s (rs1Of w) = selfAddr (objAddr o) → x.assigned = true →
     (∀ i, Table.read 0 x.sels i = 0) →
     s.chip.markerPending c = none → (s.chip.sync (unitOf o)).clearBusy = false → s.chip.objRefusal (whoOf (.sequencer c)) o true (some sc) = none →
       ∃ t, Runs (.seqSignal c) s t ∧ SameMemory s t ∧
         t.chip.cluster c = { x with phase := .retire x.pc none } ∧
         (t.chip.obj o).count = (s.chip.obj o).count + BitVec.ofNat 64 (w.extractLsb' 0 32).toNat ∧
         ∀ p, p ≠ o → t.chip.obj p = s.chip.obj p)

/-- ISSUE of a packet that no check refuses: each selected core's queue of the packet's engine gains the command with its resolved addresses, the instruction takes three words, and scratchpads and objects stay. With the Coelostat not armed: a beat of a cluster at Guider duty 0 that holds a NOP, its engines idle and no outside access waiting: the hold counts down or the next word follows, and the beat number rises by 1 (R35, R97). A cluster that neither steps nor has an outside access does not beat. EMPTY_SLOT passes one slot, which counts no beat. It rests on the choices of log entry 26. -/
def Obligations.IssueAndBeats : Prop :=
  (∀ (s : State) (c : ClusterId) (w : Word64),
     let x := s.chip.cluster c
     let p : BitVec 128 := s.chip.word c (x.pc + 2) ++ s.chip.word c (x.pc + 1)
     let cores := selectedCores x (fnOf w % 2 = 1)
     SeqReady s c 0x60 w → s.chip.issueFault c w p cores = none →
       ∃ t, Runs (.issue c) s t ∧ SameMemory s t ∧ t.chip.objs = s.chip.objs ∧
         (t.chip.cluster c).phase = .retire (x.pc + 2) none ∧ (t.chip.cluster c).presented = some (x.pc, pkTag p) ∧
         (t.chip.cluster c).regs = x.regs ∧ (t.chip.cluster c).lc = x.lc ∧ (t.chip.cluster c).levels = x.levels ∧ (t.chip.cluster c).bmask = x.bmask ∧
         (cores = [] → (t.chip.cluster c).ads = x.ads) ∧
         ∀ i : Fin 32, ∀ e : EngineKind,
           ((t.chip.core (coreOf c i)).queue e).running = ((s.chip.core (coreOf c i)).queue e).running ∧
           ((t.chip.core (coreOf c i)).queue e).waiting = ((s.chip.core (coreOf c i)).queue e).waiting ++
             (if e = pkEngine p ∧ (fnOf w % 2 = 1 ∨ x.bmask.getLsbD i.val = true) then
               [⟨p, x.pc, x.slotAddr p 0, x.slotAddr p 1, x.slotAddr p 2, x.slotAddr p 3, true⟩] else [])) ∧
  (∀ (s : State) (c : ClusterId),
     let x := s.chip.cluster c
     (∀ last left, ClusterUp s c → x.running = true → x.stop = none → x.phase = .hold last left → last < 32766 → x.innermost = none →
       (s.chip.die c.die).guider.duty = 0 → x.slotNo = 0 → s.chip.drained c = true → (s.chip.die c.die).coel.armed = false →
       (∀ i, (s.chip.core (coreOf c i)).gate = [] ∧ (s.chip.core (coreOf c i)).job = none) →
       ∃ t, Runs (.beat c) s t ∧ SameMemory s t ∧ (t.chip.cluster c).beat = x.beat + 1 ∧ (t.chip.cluster c).stepBeats = x.stepBeats + 1 ∧
         (t.chip.cluster c).regs = x.regs ∧
         (2 ≤ left → (t.chip.cluster c).phase = .hold last (left - 1) ∧ (t.chip.cluster c).pc = x.pc) ∧
         (left = 1 → (t.chip.cluster c).phase = .ready ∧ (t.chip.cluster c).pc = last + 1)) ∧
     (ClusterUp s c → x.running = false → (∀ i, (s.chip.core (coreOf c i)).gate = []) → Runs (.beat c) s s) ∧
     (ClusterUp s c → x.running = true → x.stop = none → x.dueEmpty (s.chip.die c.die).guider.duty = true →
       (s.chip.die c.die).coel.armed = false →
       ∃ t, Runs (.emptySlot c) s t ∧ SameMemory s t ∧ (t.chip.cluster c).slotNo = x.slotNo + 1 ∧ (t.chip.cluster c).beat = x.beat ∧
         (t.chip.cluster c).pc = x.pc ∧ (t.chip.cluster c).phase = x.phase ∧ (t.chip.cluster c).regs = x.regs))

/-- ISSUE of a packet whose own fields and addresses no check refuses (R105): a selected core whose queue of the packet's engine already holds 4 waiting commands faults it with QUEUE_OVERRUN, which stops the step, and no core's queue gains the packet, the commands due in this beat still beginning (R104); while no selected core's queue is full, it does not fault, whatever the queues of the other cores hold. A command that begins in this beat no longer waits (R104). -/
def Obligations.IssueOverrunsAFullQueue : Prop :=
  ∀ (s : State) (c : ClusterId) (w : Word64),
    let x := s.chip.cluster c
    let p : BitVec 128 := s.chip.word c (x.pc + 2) ++ s.chip.word c (x.pc + 1)
    let chosen (i : Fin 32) : Prop := fnOf w % 2 = 1 ∨ x.bmask.getLsbD i.val = true
    let waits (i : Fin 32) : Nat := ((s.chip.core (coreOf c i)).queue (pkEngine p)).depth
    SeqReady s c 0x60 w → x.pc < 32766 → packetChecks p = [] →
    addressChecks p (x.slotAddr p 0).toNat (x.slotAddr p 1).toNat (x.slotAddr p 2).toNat (x.slotAddr p 3).toNat = [] →
      ((∃ i, chosen i ∧ 4 ≤ waits i) →
        ∃ t, Runs (.issue c) s t ∧ SameMemory s t ∧ t.chip.objs = s.chip.objs ∧
          (t.chip.cluster c).stop = some .faulted ∧ (x.stepCode = 0 → (t.chip.cluster c).stepCode = Code.queueOverrun) ∧
          (t.chip.head (.clusterSeq c)).errStatus.getLsbD 5 = true ∧ (t.chip.cluster c).ads = x.ads ∧ (t.chip.cluster c).regs = x.regs ∧
          ∀ i e, ((t.chip.core (coreOf c i)).queue e).waiting = [] ∧
            ((t.chip.core (coreOf c i)).queue e).running = ((s.chip.core (coreOf c i)).startAll.queue e).running) ∧
      ((∀ i, chosen i → waits i < 4) →
        ∃ t, Runs (.issue c) s t ∧ (t.chip.cluster c).stop = none ∧ (t.chip.cluster c).phase = .retire (x.pc + 2) none ∧
          (t.chip.head (.clusterSeq c)).errStatus = (s.chip.head (.clusterSeq c)).errStatus)

/-- ISSUE that selects no core, with FN[0] = 0 and BMASK = 0 (R106): it takes its beat, queues nothing, advances no address register and gives no signal, whatever addresses its operands would resolve to and whatever the queues hold. The ISSUE word and the packet's own fields are still checked: an undefined operation, a reserved bit of the word or of the packet, a scope code above 4 and every other check on packet fields alone still stop the step. -/
def Obligations.IssueToNoCoreIsStillChecked : Prop :=
  ∀ (s : State) (c : ClusterId) (w : Word64),
    let x := s.chip.cluster c
    let p : BitVec 128 := s.chip.word c (x.pc + 2) ++ s.chip.word c (x.pc + 1)
    ClusterUp s c → x.running = true → x.stop = none → x.phase = .ready → x.pc < 32766 →
    s.chip.word c x.pc = w → opcOf w = 0x60 → fnOf w % 2 = 0 → x.bmask = 0 →
      (reservedSet w = false → packetChecks p = [] →
        ∃ t, Runs (.issue c) s t ∧ SameMemory s t ∧ t.chip.objs = s.chip.objs ∧ t.chip.cores = s.chip.cores ∧
          (t.chip.cluster c).stop = none ∧ (t.chip.cluster c).phase = .retire (x.pc + 2) none ∧ (t.chip.cluster c).ads = x.ads ∧
          (t.chip.cluster c).regs = x.regs ∧ (t.chip.cluster c).beat = x.beat) ∧
      ((reservedSet w = true ∨ packetChecks p ≠ [] ∨ pkReserved p ≠ 0 ∨ (pkSigEn p = true ∧ 5 ≤ (pkSigScope p).toNat) ∨ pkOpcode p = 0 ∨
          (pkEngine p = .me ∧ 2 < pkOpcode p) ∨ (pkEngine p = .ve ∧ veKind (pkOpcode p) = none) ∨ (pkEngine p = .de ∧ 4 < pkOpcode p) ∨
          (pkEngine p = .tq ∧ 2 < pkOpcode p)) →
        ∃ t, Runs (.issue c) s t ∧ SameMemory s t ∧ t.chip.objs = s.chip.objs ∧ (t.chip.cluster c).stop = some .faulted ∧
          (t.chip.cluster c).ads = x.ads ∧ (t.chip.cluster c).regs = x.regs ∧
          ∀ i e, ((t.chip.core (coreOf c i)).queue e).waiting = [])

/-- GO on an idle cluster: PC, s1 to s15, the address registers, the loops and BMASK take the values of R96, the beat number is 0, and the flags of the last step clear; an ENTRY on a packet word faults in beat 0 (R101). ABORT of a running step that no fault has stopped: the sequencer stops as aborted and every waiting command of the cluster's queues is discarded; while no step runs, it changes nothing. STEP_COMPLETION of a stopped step with every engine drained: RUNNING clears, LAST_STEP_BEATS takes the step's length, and FAULTED or ABORTED say how the step ended. It rests on the choices of log entry 28. -/
def Obligations.StepsStartStopAndReport : Prop :=
  (∀ (s : State) (c : ClusterId),
     let x := s.chip.cluster c
     SeqIdle s c →
       ∃ t, Runs (.stepGo c) s t ∧ SameMemory s t ∧
         (t.chip.cluster c).running = true ∧ (t.chip.cluster c).stop = none ∧
         (t.chip.cluster c).phase = (if isPacketWord (s.chip.word c) x.entry.toNat then .badEntry else .ready) ∧
         (t.chip.cluster c).pc = x.entry.toNat ∧ (t.chip.cluster c).beat = 0 ∧ (t.chip.cluster c).bmask = 0xFFFFFFFF ∧
         (t.chip.cluster c).faultedFlag = false ∧ (t.chip.cluster c).abortedFlag = false ∧
         (∀ k : Fin 15, (t.chip.cluster c).s (clip 32 (k.val + 1)) = Table.read 0 x.args k) ∧
         (∀ r : Fin 32, 16 ≤ r.val → (t.chip.cluster c).s r = 0) ∧
         (∀ k, (t.chip.cluster c).ad k = {}) ∧ (∀ n, (t.chip.cluster c).lcv n = 0 ∧ ((t.chip.cluster c).level n).active = false) ∧
         (t.chip.cluster c).args = x.args ∧ (t.chip.cluster c).entry = x.entry ∧ (t.chip.cluster c).assigned = x.assigned ∧ (t.chip.cluster c).dome = x.dome ∧
         ∀ i, (t.chip.core (coreOf c i)).flags = 0 ∧ (t.chip.core (coreOf c i)).acc = none ∧ (t.chip.core (coreOf c i)).scaleA = 0x3F800000 ∧
           (t.chip.core (coreOf c i)).scaleB = 0x3F800000 ∧ (t.chip.core (coreOf c i)).tiles = (s.chip.core (coreOf c i)).tiles) ∧
  (∀ (s : State) (c : ClusterId), ClusterUp s c →
     ((s.chip.cluster c).running = true → (s.chip.cluster c).stop ≠ some .faulted →
       ∃ t, Runs (.abort c) s t ∧ SameMemory s t ∧ t.chip.cluster c = { s.chip.cluster c with phase := .ready, stop := some .aborted } ∧
         t.chip.heads = s.chip.heads ∧
         ∀ i e, ((t.chip.core (coreOf c i)).queue e).waiting = [] ∧ ((t.chip.core (coreOf c i)).queue e).running = ((s.chip.core (coreOf c i)).queue e).running) ∧
     ((s.chip.cluster c).running = false → Runs (.abort c) s s)) ∧
  (∀ (s : State) (c : ClusterId) (how : StopKind),
     ClusterUp s c → (s.chip.cluster c).running = true → (s.chip.cluster c).stop = some how → (s.chip.cluster c).phase = .ready → s.chip.drained c = true →
       ∃ t, Runs (.stepCompletion c) s t ∧ SameMemory s t ∧ (t.chip.cluster c).running = false ∧ (t.chip.cluster c).stop = none ∧
         (t.chip.cluster c).lastStepBeats = (s.chip.cluster c).stepBeats ∧
         ((t.chip.cluster c).faultedFlag = true ↔ how = .faulted) ∧ ((t.chip.cluster c).abortedFlag = true ↔ how = .aborted) ∧
         ∀ i, (t.chip.core (coreOf c i)).acc = none)

/-- OWNER and PSTORE_DATA while no step runs: OWNER's fields take the written bits; the word lands at PSTORE_ADDR, which moves on by one. While a step runs, either write is dropped and recorded as CONFIG_DROPPED. PORTHOLE_ACCESS within one line by an agent that R61 lets in joins the end of the core's gate; nothing else changes until a porthole beat serves it. It rests on the choices of log entry 32. -/
def Obligations.ClusterConfigurationAndPortholes : Prop :=
  (∀ (s : State) (c : ClusterId) (v : BitVec 32) (d : BitVec 64),
     let x := s.chip.cluster c
     (SeqIdle s c →
       (∃ t, Runs (.ownerWrite c v) s t ∧ OnlyCluster c s t ∧
         t.chip.cluster c = { x with fabricOpen := v.getLsbD 31, assigned := v.getLsbD 12, dome := v.extractLsb' 8 4, phPhase := v.extractLsb' 0 3 }) ∧
       (∃ t, Runs (.pstoreDataWrite c d) s t ∧ SameMemory s t ∧ t.chip.cluster c = { x with pstoreAddr := x.pstoreAddr + 1 } ∧
         ∀ k n, n < 32768 → t.chip.word k n = if k = c ∧ n = x.pstoreAddr.toNat then d else s.chip.word k n)) ∧
     (ClusterUp s c → x.running = true →
       (∃ t, Runs (.ownerWrite c v) s t ∧ t.chip.cluster c = x ∧ (t.chip.head (.clusterSeq c)).errStatus.getLsbD 10 = true) ∧
       (∃ t, Runs (.pstoreDataWrite c d) s t ∧ t.chip.cluster c = x ∧ t.chip.pstore = s.chip.pstore ∧ (t.chip.head (.clusterSeq c)).errStatus.getLsbD 10 = true))) ∧
  (∀ (s : State) (k : CoreId) (a : Agent) (x : PortholeReq),
     let n := match x.data with
       | some bs => bs.length
       | none => x.len
     s.chip.frozen = false → 1 ≤ n → x.off.toNat % 256 + n ≤ 256 → s.chip.scratchRefusal (whoOf a) k x.off.toNat n = none →
       ∃ t, Runs (.portholeAccess k a x) s t ∧ t = { s with chip := { s.chip with cores := t.chip.cores } } ∧
         (∀ j, j ≠ k → t.chip.core j = s.chip.core j) ∧
         t.chip.core k = { s.chip.core k with gate := (s.chip.core k).gate ++ [⟨a, x.off.toNat, n, x.data⟩] })

/-! ## Engines: the matrix engine and the tile queue -/

/-- mma, run to its end with no other engine at work: the accumulator takes the sum over its panel pairs, gathered or not; with HOLD it stays, and without it the tile leaves, scaled and masked, as the newest of the tile queue; the flags gained are those of the sums. MSCALE sets both tensor scales from its two words when both are positive and normal, and otherwise stops the step; so does a bad codeword under its operand (R415). An INT8 mma of one panel pair that starts from an empty accumulator pushes the exact products: element (r, c) is the sum over the 32 columns of row r of A times row c of B, and +0 outside ROWS and COLS. TQ_DROP removes the oldest tile and TQ_CLEAR every tile while no VE command has a tile latched; with SIG_EN the die's object rises by 1 at the end; TQ_DROP on an empty queue stops the step. It rests on the choices of log entry 27. -/
def Obligations.MatrixProductsAndTiles : Prop :=
  (∀ (s : State) (k : CoreId) (cmd : EngineCmd) (rest : List EngineCmd),
     let x := s.chip.core k
     let p := cmd.packet
     let idx := if pkAgm p then (s.chip.readIndices k false [] cmd 32).2 else []
     let sum := mmaSum s.chip k cmd
     (EngineReady s k .me 1 cmd rest → meChecks p = [] → x.meBegin cmd idx = none →
       (∀ i, i < mmaPanels p → ((s.chip.readPanels k false [] { cmd := cmd, idx := idx } i).2).badPanel = false) →
       (mmaHold p = true ∨ x.tiles.length < 4) →
       ∃ t, Runs (.mma k) s t ∧ SameMemory s t ∧ (∀ j, j ≠ k → t.chip.core j = s.chip.core j) ∧
         t.chip.core k =
           if mmaHold p then { x with me := ⟨none, rest⟩, acc := some sum.1, flags := x.flags ||| sum.2 }
           else { x with me := ⟨none, rest⟩, acc := none, tiles := x.tiles ++ [(x.leave p sum.1).1], flags := x.flags ||| sum.2 ||| (x.leave p sum.1).2 }) ∧
     (EngineReady s k .me 2 cmd rest →
       let a : Word32 := BitVec.ofNat 32 (leNat (s.chip.scratchRead k cmd.a.toNat 4))
       let b : Word32 := BitVec.ofNat 32 (leNat (s.chip.scratchRead k (cmd.a.toNat + 4) 4))
       (tensorScaleOk a = true → tensorScaleOk b = true →
         ∃ t, Runs (.mscale k) s t ∧ OnlyCore k s t ∧ t.chip.core k = { x with me := ⟨none, rest⟩, scaleA := a, scaleB := b }) ∧
       ((tensorScaleOk a && tensorScaleOk b) = false →
         ∃ t, Runs (.mscale k) s t ∧ SameMemory s t ∧ (t.chip.cluster (clusterOf k)).stop = some .faulted ∧
           (t.chip.core k).scaleA = x.scaleA ∧ (t.chip.core k).scaleB = x.scaleB)) ∧
     (∀ f, EngineWaits s k .me 2 cmd rest → s.chip.scratchBad k cmd.a.toNat 8 = some f →
       ∃ t, Runs (.mscale k) s t ∧ SameMemory s t ∧ (t.chip.cluster (clusterOf k)).stop = some .faulted ∧
         (t.chip.core k).scaleA = x.scaleA ∧ (t.chip.core k).scaleB = x.scaleB)) ∧
  (∀ (s : State) (k : CoreId) (cmd : EngineCmd) (rest : List EngineCmd),
     let p := cmd.packet
     EngineReady s k .me 1 cmd rest → meChecks p = [] → pkFmtA p = 8 → pkAgm p = false → mmaPanels p = 1 → mmaAcc p = false → mmaHold p = false →
     (s.chip.core k).tiles.length < 4 →
       ∃ t tile, Runs (.mma k) s t ∧ (t.chip.core k).tiles = (s.chip.core k).tiles ++ [tile] ∧ tile.isInt = true ∧
         ∀ r c : Fin 32, tile.data[32 * r.val + c.val]? = some (
           if r.val < mmaRows p ∧ c.val < mmaCols p then
             BitVec.ofInt 32 (((List.range 32).map (fun j =>
               intValue 8 (laneBits s k cmd.a.toNat 8 (32 * r.val + j)) * intValue 8 (laneBits s k cmd.b.toNat 8 (32 * c.val + j)))).foldl (· + ·) 0)
           else 0)) ∧
  (∀ (s : State) (k : CoreId) (cmd : EngineCmd) (rest : List EngineCmd),
     let x := s.chip.core k
     let o : ObjId := .die k.die (pkSigObj cmd.packet)
     (EngineReady s k .tq 1 cmd rest →
       (∀ tile more, x.tiles = tile :: more → ∃ t, Runs (.tqDrop k) s t ∧ OnlyCore k s t ∧ t.chip.core k = { x with tq := ⟨none, rest⟩, tiles := more }) ∧
       (x.tiles = [] → ∃ t, Runs (.tqDrop k) s t ∧ SameMemory s t ∧ (t.chip.cluster (clusterOf k)).stop = some .faulted ∧ (t.chip.core k).tiles = [])) ∧
     (EngineReady s k .tq 2 cmd rest →
       ∃ t, Runs (.tqClear k) s t ∧ OnlyCore k s t ∧ t.chip.core k = { x with tq := ⟨none, rest⟩, tiles := [] }) ∧
     (ClusterUp s (clusterOf k) → x.tq = ⟨none, cmd :: rest⟩ → cmd.fresh = false → pkOpcode cmd.packet = 2 → x.latched = none → pkSigEn cmd.packet = true →
       s.chip.markerPending (clusterOf k) = none → (s.chip.sync (unitOf o)).clearBusy = false →
       s.chip.objRefusal { whoOf (.sequencer (clusterOf k)) with tag := pkTag cmd.packet } o true (some (pkSigScope cmd.packet)) = none →
       ∃ t, Runs (.tqClear k) s t ∧ SameMemory s t ∧ (t.chip.core k).tiles = [] ∧ (t.chip.obj o).count = (s.chip.obj o).count + 1 ∧
         ∀ q, q ≠ o → t.chip.obj q = s.chip.obj q))

/-! ## Engines: the vector engine -/

/-- The arithmetic and function commands on up to 64 elements: an unmasked element of D takes the result of its lane, rounded once to FMT_D (for a function the FP32 value of R90 rounded to FMT_D); a masked one keeps its bytes; nothing else changes but the sticky flags and the queue. It rests on the choices of log entries 11 and 27. -/
def Obligations.VectorLanesComputeTheirElements : Prop :=
  ∀ (s : State) (k : CoreId) (cmd : EngineCmd) (rest : List EngineCmd) (n : Nat),
    let x := s.chip.core k
    let p := cmd.packet
    let a := cmd.a.toNat
    let d := cmd.d.toNat
    let fd := pkFmtD p
    let done (t : State) (v : Nat → Machine.Num) : Prop :=
      OnlyCoreBytes k d (n * (elemBits fd / 8)) s t ∧ t.chip.core k = { x with ve := ⟨none, rest⟩, flags := (t.chip.core k).flags } ∧
      ∀ i, i < n → laneBits t k d fd i = if x.masked p i then laneBits s k d fd i else (narrowTo fd .nearest (v i) .one).1
    (∀ e ∈ veArithmetic k, EngineReady s k .ve e.2.1 cmd rest → PlainVector p n → pkFmtB p ∈ byteFormats → fd ≤ 2 → veBMode p ≠ 3 →
      ∃ t, Runs e.1 s t ∧ done t (fun i =>
        e.2.2 (laneValue s k a (pkFmtA p) i) (laneValue s k cmd.b.toNat (pkFmtB p) (if veBMode p = 2 then 0 else i)) (laneValue s k d fd i))) ∧
    (∀ e ∈ veFunctions k, EngineReady s k .ve e.2.1 cmd rest → PlainVector p n → fd ≤ 2 →
      ∃ t, Runs e.1 s t ∧ done t (fun i => f32 (e.2.2 (toF32 (laneValue s k a (pkFmtA p) i)))))

/-- vcvt between byte-wide formats rounds each unmasked element to FMT_D; vredsum and vredmax write one FP32 word per group of up to 64, combined as a pairwise tree in lane order. vmask.cmp writes all 64 bits of its mask register from the comparisons; vmask.ld loads it; vseed loads the LFSR, mixed with the core's number under CORE_MIX, never with 0; vflags writes the flags word to D and clears the flags under CLEAR. It rests on the choices of log entries 27 and 36. -/
def Obligations.VectorConversionsAndMasks : Prop :=
  (∀ (s : State) (k : CoreId) (cmd : EngineCmd) (rest : List EngineCmd) (n : Nat),
     let x := s.chip.core k
     let p := cmd.packet
     let a := cmd.a.toNat
     let d := cmd.d.toNat
     let fd := pkFmtD p
     let g := veGLog2 p
     let after (t : State) (bytes : Nat) : Prop :=
       OnlyCoreBytes k d bytes s t ∧ t.chip.core k = { x with ve := ⟨none, rest⟩, flags := (t.chip.core k).flags }
     let leaf (isMax : Bool) (i : Nat) : Word32 :=
       if x.masked p i then (if isMax then 0xFF800000 else 0) else BitVec.ofNat 32 (fp32.narrow .nearest (laneValue s k a (pkFmtA p) i) .one).1
     PlainVector p n →
     (EngineReady s k .ve 0x10 cmd rest → fd ∈ byteFormats →
       ∃ t, Runs (.vcvt k) s t ∧ after t (n * (elemBits fd / 8)) ∧ ∀ i, i < n → laneBits t k d fd i =
         if x.masked p i then laneBits s k d fd i else (narrowTo fd .nearest (laneValue s k a (pkFmtA p) i) .one).1) ∧
     (∀ isMax : Bool, EngineReady s k .ve (if isMax then 0x12 else 0x11) cmd rest → 1 ≤ g → g ≤ 6 → n % 2 ^ g = 0 →
       ∃ t, Runs (if isMax then .vredmax k else .vredsum k) s t ∧ after t (n / 2 ^ g * 4) ∧
         ∀ j, j < n / 2 ^ g → laneBits t k d 0 j = (groupTree isMax g (leaf isMax) j).toNat)) ∧
  (∀ (s : State) (k : CoreId) (cmd : EngineCmd) (rest : List EngineCmd),
     let x := s.chip.core k
     let p := cmd.packet
     let a := cmd.a.toNat
     let word : Word32 := BitVec.ofNat 32 (leNat (s.chip.scratchRead k a 4))
     let mixed := if p.getLsbD 0 then word ^^^ BitVec.ofNat 32 k.idx.val else word
     (EngineReady s k .ve 0x19 cmd rest → PlainVector p 64 → pkFmtB p ∈ byteFormats → veBMode p ≠ 3 →
       ∃ t, Runs (.vmaskCmp k) s t ∧ OnlyCore k s t ∧ t.chip.core k = { x with ve := ⟨none, rest⟩, vm := (t.chip.core k).vm } ∧
         (∀ m, m ≠ veMreg p → Table.read (BitVec.allOnes 64) (t.chip.core k).vm m = Table.read (BitVec.allOnes 64) x.vm m) ∧
         ∀ l, l < 64 → (Table.read (BitVec.allOnes 64) (t.chip.core k).vm (veMreg p)).getLsbD l =
           veCompare (veCond p) (laneValue s k a (pkFmtA p) l) (laneValue s k cmd.b.toNat (pkFmtB p) (if veBMode p = 2 then 0 else l))) ∧
     (EngineReady s k .ve 0x1A cmd rest → veSrcTq p = false → pkAgm p = false →
       ∃ t, Runs (.vmaskLd k) s t ∧ OnlyCore k s t ∧
         t.chip.core k = { x with ve := ⟨none, rest⟩, vm := Table.write x.vm (veMreg p) (BitVec.ofNat 64 (leNat (s.chip.scratchRead k a 8))) }) ∧
     (EngineReady s k .ve 0x1C cmd rest → veSrcTq p = false → pkAgm p = false →
       ∃ t, Runs (.vseed k) s t ∧ OnlyCore k s t ∧ t.chip.core k = { x with ve := ⟨none, rest⟩, lfsr := if mixed = 0 then 1 else mixed }) ∧
     (EngineReady s k .ve 0x1D cmd rest → veSrcTq p = false → pkAgm p = false →
       ∃ t, Runs (.vflags k) s t ∧ OnlyCoreBytes k cmd.d.toNat 4 s t ∧
         t.chip.scratchRead k cmd.d.toNat 4 = leBytes 4 x.flags.toNat ∧
         t.chip.core k = { x with ve := ⟨none, rest⟩, flags := if p.getLsbD 0 then 0 else x.flags }))

/-! ## Engines: the data engine -/

/-- The DMA commands on one row within the core's own scratchpad, validated and not gathered: the destination takes the source's bytes, and the command waits for its completion. DE_ACCESS_RESPONSE answers the oldest access in flight of a command whose writes have all been issued; DE_COMPLETE, once nothing is in flight, presents the command's KV events at the die's tap, when the tap takes them all, frees the engine and keeps its tag. It rests on the choices of log entries 27 and 39. -/
def Obligations.DataEngineMovesAndCompletes : Prop :=
  (∀ (s : State) (k : CoreId) (cmd : EngineCmd) (rest : List EngineCmd) (src dst n : Nat),
     let d : BitVec 512 := BitVec.ofNat 512 (leNat (s.chip.scratchRead k cmd.a.toNat 64))
     let ctx : DeCtx := { core := k, packet := cmd.packet, desc := d, staging := cmd.b.toNat }
     ∀ e ∈ [(Instr.dmaLoad k, 1), (.dmaStore k, 2), (.dmaCopy k, 3), (.dmaT2d k, 4)],
       EngineReady s k .de e.2 cmd rest → PlainRow cmd.packet d src dst n → cmd.a.toNat % 64 = 0 → cmd.a.toNat ≤ 0x6FFFC0 →
       (src + n ≤ dst ∨ dst + n ≤ src) → s.chip.deFaults ctx cmd.x.toNat = [] →
         ∃ t j, Runs e.1 s t ∧ (t.chip.core k).job = some j ∧ j.cmd.packet = cmd.packet ∧ j.todo = [] ∧ j.flight = [] ∧ j.remote = 0 ∧ j.writing = true ∧ j.fault = none ∧
           (t.chip.core k).de.waiting = rest ∧ (∀ i, i ≠ k → t.chip.core i = s.chip.core i) ∧
           t.chip.dram = s.chip.dram ∧ t.chip.objs = s.chip.objs ∧ t.chip.clusters = s.chip.clusters ∧ t.hostMem = s.hostMem ∧
           t.chip.scratchRead k dst n = s.chip.scratchRead k src n ∧
           ∀ b, (b < scratchKey k dst ∨ scratchKey k dst + n ≤ b) → t.chip.scratch.byte b = s.chip.scratch.byte b) ∧
  (∀ (s : State) (k : CoreId) (j : DeJob) (a : Word64) (more : List Word64),
     let x := s.chip.core k
     s.chip.frozen = false → x.job = some j → j.writing = true → j.fault = none → j.todo = [] →
     (j.flight = a :: more →
       ∃ t, Runs (.deAccessResponse k) s t ∧ OnlyCore k s t ∧ t.chip.core k = { x with job := some { j with flight := more } }) ∧
     (j.flight = [] → j.remote = 0 → pkSigEn j.cmd.packet = false →
       ((s.chip.die k.die).tap.put 1 (s.chip.cluster (clusterOf k)).dome j.kvEvents).2 = j.kvEvents →
       ∃ t, Runs (.deComplete k) s t ∧ SameMemory s t ∧ (∀ i, i ≠ k → t.chip.core i = s.chip.core i) ∧
         t.chip.core k = { x with job := none, de := { x.de with running := none }, lastTag := pkTag j.cmd.packet } ∧
         t.chip.die k.die = { s.chip.die k.die with tap := ((s.chip.die k.die).tap.put 1 (s.chip.cluster (clusterOf k)).dome j.kvEvents).1 } ∧
         ∀ e, e ≠ k.die → t.chip.die e = s.chip.die e))

/-! ## Regions, fences and the paths into a stack -/

/-- REGION_ENTRY_WRITE of 64 bits by a Meridian core or the physical function that reaches the page: the entry takes the value with its reserved bits 0, and no other entry, and nothing else, changes. Of 32 bits: the first write stages the low word, and the next lands with it. Any other requester is refused, and no entry changes. A translate fence covers the reductions that its die has translated and that are still queued or held: TFENCE_GO marks every one and sets TFENCE_BUSY exactly when there is one; TFENCE_DONE performs those queued and clears TFENCE_BUSY. An access whose region entry is INVALID or malformed, or grants its agent nothing, changes no memory: REGION_INVALID or REGION_DENIED is answered and set on the page of the die that translated it, whichever path it takes. It rests on the choices of log entry 16. -/
def Obligations.RegionsAreWrittenFencedAndGuard : Prop :=
  (∀ (s : State) (q : Requester) (d : DieId) (r : Fin 2048) (v : Word64) (x : Word32), s.chip.frozen = false →
     (s.chip.pageRefusal q (.d2d d) = none →
       (∃ t, Runs (.regionEntryWrite q d r (.w64 v)) s t ∧ OnlyDie d s t ∧
         t.chip.die d = { s.chip.die d with regions := (t.chip.die d).regions } ∧
         ∀ i, Table.read 0 (t.chip.die d).regions i = if i = r then v &&& 0x3FFFFFFFFFFFF else Table.read 0 (s.chip.die d).regions i) ∧
       (s.chip.stagedFor q (regionReg d r) = none →
         ∃ t, Runs (.regionEntryWrite q d r (.w32 x)) s t ∧ t.chip.dies = s.chip.dies ∧ SameMemory s t ∧
           t.chip.stagedFor q (regionReg d r) = some x) ∧
       (∀ lo, s.chip.stagedFor q (regionReg d r) = some lo →
         ∃ t, Runs (.regionEntryWrite q d r (.w32 x)) s t ∧ SameMemory s t ∧ t.chip.stagedFor q (regionReg d r) = none ∧
           ∀ i, Table.read 0 (t.chip.die d).regions i = if i = r then (show Word64 from x ++ lo) &&& 0x3FFFFFFFFFFFF else Table.read 0 (s.chip.die d).regions i)) ∧
     (∀ a, q = .other a → ∃ t, Runs (.regionEntryWrite q d r (.w64 v)) s t ∧ t = { s with chip := { s.chip with out := .fault Code.regDenied } })) ∧
  (∀ (s : State) (d : DieId), RingUp s d →
     (∃ t, Runs (.tfenceGo d) s t ∧ SameMemory s t ∧
       ((t.chip.die d).tfenceBusy = true ↔ ∃ n r, (r ∈ (s.chip.stack n).redQueue ∨ r ∈ (s.chip.stack n).redWait) ∧ r.die = d) ∧
       (∀ n, (t.chip.stack n).redQueue = (s.chip.stack n).redQueue.map (fun r => if r.die = d then { r with fenced := true } else r)) ∧
       (∀ n, (t.chip.stack n).redWait = (s.chip.stack n).redWait.map (fun r => if r.die = d then { r with fenced := true } else r)) ∧
       (t.chip.die d).regions = (s.chip.die d).regions ∧ ∀ e, e ≠ d → t.chip.die e = s.chip.die e) ∧
     ((s.chip.die d).tfenceBusy = true →
       ∃ t, Runs (.tfenceDone d) s t ∧ (t.chip.die d).tfenceBusy = false ∧ t.chip.scratch = s.chip.scratch ∧ t.hostMem = s.hostMem ∧
         ∀ n r, r ∈ (t.chip.stack n).redQueue → ¬ (r.die = d ∧ r.fenced = true))) ∧
  (∀ (s : State) (a : Agent) (x : StackReq),
     let w : Who := { whoOf a with hint := hintOf a x.hint }
     let e := Table.read 0 (s.chip.die w.die).regions (clip 2048 (x.addr.toNat / 2 ^ 30))
     let n := match x.data with
       | some bs => bs.length
       | none => x.len
     s.chip.frozen = false → x.addr.toNat < 2 ^ 41 → 1 ≤ n → x.addr.toNat % 64 + n ≤ 64 →
     ∀ slit : Bool,
       let i : Instr := if slit then .slitAccess a x else .mainPathAccess a x
       (regionUsable e = false →
         ∃ t, Runs i s t ∧ SameMemory s t ∧ t.chip.cache = s.chip.cache ∧ t.chip.out = .fault Code.regionInvalid ∧
           (t.chip.head (.d2d w.die)).errStatus.getLsbD 0 = true) ∧
       (regionUsable e = true → s.chip.regionGrants e a x.data.isSome = false →
         ∃ t, Runs i s t ∧ SameMemory s t ∧ t.chip.cache = s.chip.cache ∧ t.chip.out = .fault Code.regionDenied ∧
           (t.chip.head (.d2d w.die)).errStatus.getLsbD 1 = true))

/-- SLIT_ACCESS within one codeword that the cache does not hold: a read answers the bytes of DRAM and changes no memory; a write puts its bytes there and nowhere else. The two together: a later read of the same bytes answers what was written. MAIN_PATH_ACCESS within a line that the die's cache holds, without a hint: a read answers the line's bytes and a write replaces them there and makes the line dirty; DRAM stays. A read that meets a bad codeword of the line answers its fault (R415). -/
def Obligations.StackAccessesByBothPaths : Prop :=
  (∀ (s : State) (a : Agent) (x : StackReq) (n : StackId) (y : Nat) (bs : List Byte),
     let w : Who := { whoOf a with hint := hintOf a x.hint }
     let at_ := x.addr.toNat
     s.chip.findLine n (y / 256) = none →
     (x.data = none → 1 ≤ x.len → at_ % 64 + x.len ≤ 64 → Reaches s w at_ false n y →
       ∃ t, Runs (.slitAccess a x) s t ∧ SameMemory s t ∧ t.chip.cache = s.chip.cache ∧ t.chip.out = .bytes (dramBytes s n y x.len)) ∧
     (x.data = some bs → 1 ≤ bs.length → at_ % 64 + bs.length ≤ 64 → Reaches s w at_ true n y →
       ∃ t, Runs (.slitAccess a x) s t ∧ OnlyDram n y bs.length s t ∧ t.chip.cache = s.chip.cache ∧ t.chip.out = .none ∧
         dramBytes t n y bs.length = bs)) ∧
  (∀ (s : State) (a : Agent) (x : StackReq) (n : StackId) (y : Nat) (l : CacheLine) (bs : List Byte),
     let w := whoOf a
     let at_ := x.addr.toNat
     x.hint = 0 → s.chip.findLine n (y / 256) = some l → l.data.length = 256 →
     (∀ f, x.data = none → 1 ≤ x.len → at_ % 64 + x.len ≤ 64 → Reaches s w at_ false n y → l.word (clip 4 (y % 256 / 64)) = .error f →
       ∃ t, Runs (.mainPathAccess a x) s t ∧ SameMemory s t ∧ t.chip.out = .fault f) ∧
     (l.errors = [] →
     (x.data = none → 1 ≤ x.len → at_ % 256 + x.len ≤ 256 → Reaches s w at_ false n y →
       ∃ t, Runs (.mainPathAccess a x) s t ∧ SameMemory s t ∧ t.chip.findLine n (y / 256) = some l ∧
         t.chip.out = .bytes ((l.data.drop (y % 256)).take x.len)) ∧
     (x.data = some bs → 1 ≤ bs.length → at_ % 256 + bs.length ≤ 256 → Reaches s w at_ true n y →
       ∃ t, Runs (.mainPathAccess a x) s t ∧ SameMemory s t ∧ t.chip.out = .none ∧
         t.chip.findLine n (y / 256) =
           some { l with data := l.data.take (y % 256) ++ bs ++ l.data.drop (y % 256 + bs.length), dirty := true })))

/-- While no request is held for want of an entry: a posted reduction of one integer element waits in its stack's queue, and REDUCTION_PERFORM applies the oldest one: the element takes old op operand, no other byte changes, and the rest still waits. A fetching atomic on an aligned integer element is performed at once: it answers the old bytes, the element takes its new value, and no other byte changes; CAS is for 64-bit elements. A misaligned one is refused with ATOMIC_ALIGN and changes no memory. It rests on the choices of log entry 31. -/
def Obligations.ReductionsAndAtomics : Prop :=
  (∀ (s : State) (a : Agent) (x : ReduceReq) (n : StackId) (y : Nat), ∀ e ∈ atomicOps, ∀ f ∈ [11, 12],
     let w := elemBits f
     (x.op.toNat = e.1 → e.1 ≤ 6 → x.fmt.toNat = f → x.data.length = w / 8 → y % (w / 8) = 0 → s.chip.findLine n (y / 256) = none →
       s.chip.frozen = false → x.addr.toNat < 2 ^ 41 → s.chip.resolve (whoOf a) x.addr.toNat true = .ok (n, y) →
       queueRoom n (s.chip.stack n).redQueue (portInput n (whoOf a)) = true → (s.chip.stack n).redWait = [] →
       ∃ t, Runs (.postedReduction a x) s t ∧ SameMemory s t ∧ t.chip.out = .none ∧
         (t.chip.stack n).redQueue = (s.chip.stack n).redQueue ++ [⟨a, y, x.op, x.fmt, x.data, 0, false, (whoOf a).die, false⟩] ∧
         ∀ m, m ≠ n → t.chip.stack m = s.chip.stack m) ∧
     (∀ r rest, s.chip.frozen = false → (s.chip.stack n).domainOn = true → (s.chip.stack n).redQueue = r :: rest → (s.chip.stack n).redWait = [] → r.op.toNat = e.1 → r.fmt.toNat = f →
       r.data.length = w / 8 → r.saddr % (w / 8) = 0 →
       Table.read [] s.chip.codeErrors (cwKey n ((s.chip.stack n).phys (r.saddr / 64 * 64))) = [] →
       ∃ t, Runs (.reductionPerform n) s t ∧ OnlyDram n r.saddr (w / 8) s t ∧ (t.chip.stack n).redQueue = rest ∧
         leNat (dramBytes t n r.saddr (w / 8)) =
           (e.2 w (BitVec.ofNat w (leNat (dramBytes s n r.saddr (w / 8)))) (BitVec.ofNat w (leNat r.data)) (BitVec.ofNat w r.newValue.toNat)).toNat)) ∧
  (∀ (s : State) (a : Agent) (x : AtomicReq) (n : StackId) (y : Nat), ∀ e ∈ atomicOps, ∀ f ∈ [11, 12],
     let w := elemBits f
     x.op.toNat = e.1 → x.fmt.toNat = f → (e.1 = 10 → f = 12) → s.chip.findLine n (y / 256) = none → Reaches s (whoOf a) x.addr.toNat true n y →
     (y % (w / 8) = 0 →
       ∃ t, Runs (.fetchingAtomic a x) s t ∧ OnlyDram n y (w / 8) s t ∧ (t.chip.stack n).redQueue = [] ∧
         t.chip.out = .bytes (dramBytes s n y (w / 8)) ∧
         leNat (dramBytes t n y (w / 8)) =
           (e.2 w (BitVec.ofNat w (leNat (dramBytes s n y (w / 8)))) (BitVec.ofNat w x.operand.toNat) (BitVec.ofNat w x.newValue.toNat)).toNat) ∧
     (y % (w / 8) ≠ 0 →
       ∃ t, Runs (.fetchingAtomic a x) s t ∧ SameMemory s t ∧ t.chip.out = .fault Code.atomicAlign))

/-- A range operation of a die's stack cache on a good range, none running: the lines in the range are written back by CLEAN with the check bytes they have, a bad codeword poisoned (R412, R415), dropped by INVAL, both by CLEAN_INVAL; a line outside it stays; RANGE_BUSY is set until RANGE_DONE clears it and raises its event. CLEAN_INVAL_ALL takes every line of the die. A bad range sets CMD_BAD and does nothing. It rests on the choices of log entry 49. -/
def Obligations.RangeOperationsActOnTheirLines : Prop :=
  ∀ (s : State) (d : DieId),
    let base := (s.chip.die d).rangeBase.toNat
    let size := (s.chip.die d).rangeSize.toNat
    let good : Prop := base % 256 = 0 ∧ size % 256 = 0 ∧ size ≠ 0 ∧ base + size ≤ 2 ^ 41
    let sound : Prop := (∀ l ∈ s.chip.cache, l.data.length = 256 ∧ l.line < 2 ^ 28 ∧ ∀ m ∈ s.chip.cache, l.stack = m.stack → l.line = m.line → l = m) ∧
      s.chip.cache.Nodup ∧ (∀ n, (s.chip.stack n).retireTable = [])
    RingUp s d → (s.chip.die d).rangeBusy = false →
    (∀ e ∈ [(Instr.stackCacheClean d, true, false, false), (.stackCacheInval d, false, true, false), (.stackCacheCleanInval d, true, true, false),
        (.cleanInvalAll d, true, true, true)], (e.2.2.2 = true ∨ good) → sound →
      let mine (l : CacheLine) : Prop := stackDie l.stack = d ∧ (e.2.2.2 = true ∨ s.chip.lineInRange d base size l = true)
      ∃ t, Runs e.1 s t ∧ (t.chip.die d).rangeBusy = true ∧ t.chip.scratch = s.chip.scratch ∧ t.hostMem = s.hostMem ∧
        (e.2.1 = false → t.chip.dram = s.chip.dram) ∧
        ∀ l ∈ s.chip.cache,
          (¬ mine l → l ∈ t.chip.cache) ∧
          (mine l → e.2.2.1 = true → t.chip.findLine l.stack l.line = none) ∧
          (mine l → e.2.1 = true → l.dirty = true → l.errors = [] → dramBytes t l.stack (l.line * 256) 256 = l.data) ∧
          (mine l → e.2.1 = true → l.dirty = true → l.errors ≠ [] → ∀ j : Fin 4, let a := l.line * 256 + 64 * j.val
            (∀ b, l.word j = .ok b → dramBytes t l.stack a 64 = l.raw j ∧ Table.read [] t.chip.codeErrors (cwKey l.stack a) = Table.read [] l.errors j) ∧
            (∀ f, l.word j = .error f → Table.read [] t.chip.codeErrors (cwKey l.stack a) = poisonPattern)) ∧
          (mine l → e.2.2.1 = false → { l with dirty := false } ∈ t.chip.cache)) ∧
    (∀ i ∈ [Instr.stackCacheClean d, .stackCacheInval d, .stackCacheCleanInval d], ¬ good →
      ∃ t, Runs i s t ∧ SameMemory s t ∧ t.chip.cache = s.chip.cache ∧ (t.chip.die d).rangeBusy = false ∧ (t.chip.head (.stackCache d)).errStatus.getLsbD 0 = true) ∧
    (∀ u : State, u.chip.frozen = false → (u.chip.die d).rangeBusy = true →
      ∃ t, Runs (.rangeDone d) u t ∧ SameMemory u t ∧ t.chip.cache = u.chip.cache ∧ (t.chip.die d).rangeBusy = false ∧
        (t.chip.head (.stackCache d)).irqEvents.getLsbD 1 = true)

/-! ## Stack controllers, refresh, scrubbing and retirement -/

/-- A write of STACK_CTRL.CTRL (ONLINE or LOOPBACK): dropped, with ERR_STATUS bit 0 set and no field changed, when it changes the loop-back mode of a stack that is online, sets ONLINE with a loop-back mode, or sets ONLINE with the domain off; otherwise every field takes its written value, and the stack is online exactly when ONLINE is set on a filled stack with its domain on. While the controller is offline, an access of its stack answers STACK_OFFLINE on either path, whatever the stack cache holds. -/
def Obligations.StackControlTakesOrDropsItsFields : Prop :=
  ∀ (s : State) (n : StackId) (v : Word32), RingUp s (stackDie n) →
    let x := s.chip.stack n
    let lb : BitVec 2 := v.extractLsb' 0 2
    let online := v.getLsbD 16
    let dropped : Prop := (x.onlineAck = true ∧ lbMode lb ≠ lbMode x.loopback) ∨ (online = true ∧ lbMode lb ≠ 0) ∨ (online = true ∧ x.domainOn = false)
    (∀ i ∈ [Instr.stackOnlineWrite n v, .loopbackWrite n v],
      (dropped → ∃ t, Runs i s t ∧ SameMemory s t ∧ t.chip.stk = s.chip.stk ∧ (t.chip.head (.stackCtrl n)).errStatus.getLsbD 0 = true) ∧
      (¬ dropped → ∃ t, Runs i s t ∧ OnlyStack n s t ∧
        t.chip.stack n = { x with online := online, onlineAck := online && x.domainOn && x.filled, lbRun := v.getLsbD 5, lbPattern := v.extractLsb' 2 3,
                                  loopback := lb, selfRefresh := (t.chip.stack n).selfRefresh } ∧
        (online = true → x.filled = true → (t.chip.stack n).selfRefresh = false))) ∧
    (∀ (a : Agent) (q : StackReq) (slit : Bool),
      let wh : Who := { whoOf a with hint := hintOf a q.hint }
      let e := Table.read 0 (s.chip.die wh.die).regions (clip 2048 (q.addr.toNat / 2 ^ 30))
      let len := match q.data with
        | some bs => bs.length
        | none => q.len
      x.onlineAck = false → q.addr.toNat < 2 ^ 41 → 1 ≤ len → q.addr.toNat % 64 + len ≤ 64 → regionUsable e = true →
      s.chip.regionGrants e a q.data.isSome = true → s.chip.route wh.die (stackDie n) = true → (translate e q.addr.toNat).1 = n →
        ∃ t, Runs (if slit then .slitAccess a q else .mainPathAccess a q) s t ∧ SameMemory s t ∧ t.chip.cache = s.chip.cache ∧
          t.chip.out = .fault Code.stackOffline)

/-- A loop-back run's mismatches are added to the count, which saturates, and to its channel's error bits, and LB_ERR_COUNT_READ answers the count and clears it. A stack that loses its controller enters self-refresh; one whose domain switches off loses its contents, its cached lines and its objects; the fill of a domain that comes up leaves every byte 0 and no codeword in error. No other stack is touched. Refreshes: each interval owes one more to every pseudo-channel, up to 8; an idle one serves one; at 8 owed one is forced and recorded. It rests on the choices of log entries 53 and 54. -/
def Obligations.LoopBackDomainsAndRefreshes : Prop :=
  (∀ (s : State) (n : StackId) (r : LaneErrors), RingUp s (stackDie n) →
     let x := s.chip.stack n
     (x.lbRun = true → lbMode x.loopback ≠ 0 → r.count ≠ 0 →
       ∃ t, Runs (.lbRun n r) s t ∧ SameMemory s t ∧ (∀ k, k ≠ n → t.chip.stack k = s.chip.stack k) ∧
         (t.chip.stack n).lbErrCount.toNat = (if x.lbErrCount.toNat + r.count.toNat < 2 ^ 32 then x.lbErrCount.toNat + r.count.toNat else 0xFFFFFFFF) ∧
         (∀ c : Fin 32, (t.chip.stack n).lbChanErr.getLsbD c.val = (x.lbChanErr.getLsbD c.val || decide (c = r.channel))) ∧
         Table.read 0 (t.chip.stack n).lbData r.channel = Table.read 0 x.lbData r.channel ||| r.dataLanes ∧
         Table.read 0 (t.chip.stack n).lbCheck r.channel = Table.read 0 x.lbCheck r.channel ||| r.checkLanes ∧
         (t.chip.head (.stackCtrl n)).errStatus.getLsbD 2 = true) ∧
     (∃ t, Runs (.lbErrCountRead n) s t ∧ SameMemory s t ∧ t.chip.out = .word x.lbErrCount.toNat ∧ t.chip.stack n = { x with lbErrCount := 0 } ∧
       ∀ k, k ≠ n → t.chip.stack k = s.chip.stack k)) ∧
  (∀ (s : State) (n : StackId),
     let others (t : State) : Prop := t.chip.scratch = s.chip.scratch ∧ t.hostMem = s.hostMem ∧ (∀ k, k ≠ n → t.chip.stack k = s.chip.stack k) ∧
       ∀ a, (a < dramKey n 0 ∨ dramKey n 0 + 2 ^ 36 ≤ a) → t.chip.dram.byte a = s.chip.dram.byte a
     ((s.chip.stack n).domainOn = true →
       (∃ t, Runs (.stackSelfRefresh n) s t ∧ OnlyStack n s t ∧ t.chip.stack n = { s.chip.stack n with selfRefresh := true, onlineAck := false }) ∧
       (∃ t, Runs (.stackDomainOff n) s t ∧ others t ∧ (t.chip.stack n).domainOn = false ∧ (t.chip.stack n).filled = false ∧ (t.chip.stack n).redQueue = [] ∧
         (∀ a, a < 2 ^ 36 → t.chip.dram.byte (dramKey n a) = 0) ∧ (∀ l ∈ t.chip.cache, l.stack ≠ n) ∧ (∀ k, t.chip.obj (.stack n k) = {}) ∧
         ∀ d k, t.chip.obj (.die d k) = s.chip.obj (.die d k))) ∧
     ((s.chip.stack n).filled = false →
       ∃ t, Runs (.stackFill n) s t ∧ others t ∧ t.chip.objs = s.chip.objs ∧ t.chip.stack n = { s.chip.stack n with domainOn := true, filled := true } ∧
         (∀ a, a < 2 ^ 36 → t.chip.dram.byte (dramKey n a) = 0 ∧ Table.read [] t.chip.codeErrors (cwKey n a) = []))) ∧
  (∀ (s : State) (n : StackId) (p : Fin 64), s.chip.frozen = false → (s.chip.stack n).domainOn = true →
     let owed (u : State) (q : Fin 64) : Nat := Table.read 0 (u.chip.stack n).owed q
     (∃ t, Runs (.refreshInterval n) s t ∧ OnlyStack n s t ∧ t.chip.stack n = { s.chip.stack n with owed := (t.chip.stack n).owed } ∧
       ∀ q, owed t q = if owed s q < 8 then owed s q + 1 else 8) ∧
     (owed s p ≠ 0 → (∀ e ∈ (s.chip.stack n).engines, e.2.openBlock = none) →
       ∃ t, Runs (.refreshServe n p) s t ∧ SameMemory s t ∧ (∀ k, k ≠ n → t.chip.stack k = s.chip.stack k) ∧
         ∀ q, owed t q = if q = p then owed s q - 1 else owed s q) ∧
     (8 ≤ owed s p →
       ∃ t, Runs (.forcedRefresh n p) s t ∧ SameMemory s t ∧ (∀ k, k ≠ n → t.chip.stack k = s.chip.stack k) ∧
         (∀ q, owed t q = if q = p then owed s q - 1 else owed s q) ∧ (t.chip.head (.stackCtrl n)).errStatus.getLsbD 1 = true))

/-- SCRUB_BURST, while no engine holds a block open, reads the sweep's next burst: a codeword with a pattern that decodes is written back with fresh check bytes, one that does not keeps it, no other codeword's pattern changes, and the sweep moves on by one burst, or a lap ends with the last one. Once the lap's age has passed STALL_MS, SCRUB_STALL sets STALLED and its error bit. It rests on the choices of log entries 55 and 56. -/
def Obligations.ScrubbingRewritesWhatItCorrects : Prop :=
  ∀ (s : State) (n : StackId) (p : Fin 64), s.chip.frozen = false → (s.chip.stack n).domainOn = true →
    let x := s.chip.stack n
    let i := Table.read 0 x.sweep p
    let pat (u : State) (c : Nat) : ErrorPattern := Table.read [] u.chip.codeErrors c
    let mine (c : Nat) : Prop := ∃ j, j < 4 ∧ c = cwKey n (sweepAddr p i + j * 64)
    (x.filled = true → x.scrubEn = true → x.anyOpen = false → i < sweepBursts → x.retireTable = [] →
      ∃ t, Runs (.scrubBurst n p) s t ∧ t.chip.scratch = s.chip.scratch ∧ t.hostMem = s.hostMem ∧ t.chip.cache = s.chip.cache ∧
        (∀ c, ¬ mine c → pat t c = pat s c) ∧
        (∀ c, mine c → (decodePattern (pat s c) = .clean ∨ ∃ k v, decodePattern (pat s c) = .corrected k v) → pat t c = []) ∧
        (∀ c, mine c → (decodePattern (pat s c) = .poisoned ∨ decodePattern (pat s c) = .uncorrectable) → pat t c = pat s c) ∧
        (if (∀ q, sweepBursts ≤ if q = p then i + 1 else Table.read 0 x.sweep q) then
          (t.chip.stack n).lapped = true ∧ (t.chip.stack n).laps = x.laps + 1 ∧ ∀ q, Table.read 0 (t.chip.stack n).sweep q = 0
        else ∀ q, Table.read 0 (t.chip.stack n).sweep q = if q = p then i + 1 else Table.read 0 x.sweep q)) ∧
    (x.stallMs.toNat < x.lapAge → ∃ t, Runs (.scrubStall n) s t ∧ SameMemory s t ∧ t.chip.stack n = { x with stalled := true } ∧ (t.chip.head (.scrub n)).errStatus.getLsbD 4 = true ∧
      ∀ k, k ≠ n → t.chip.stack k = s.chip.stack k)

/-- POISON_GO on a good range, none running: every codeword of the range, and no other, is poisoned; DRAM's bytes stay; BUSY is set until POISON_DONE. A bad range sets its error bit and poisons nothing. Retirement: RETIRE_GO of two different blocks that the table does not name begins one, and refuses others by its error bit; once no engine holds the block open, RETIRE_COPY moves its bytes: every stack address reads what it read before, and the block's addresses now reach the replacement. CE_LOG_READ answers and removes the oldest correction. It rests on the choices of log entries 49 and 57. -/
def Obligations.PoisonAndRetirement : Prop :=
  (∀ (s : State) (n : StackId), s.chip.frozen = false → (s.chip.stack n).domainOn = true →
     let x := s.chip.stack n
     let base := x.poisonBase.toNat
     let size := x.poisonSize.toNat
     let good : Prop := base % 4096 = 0 ∧ size % 4096 = 0 ∧ size ≠ 0 ∧ base + size ≤ 2 ^ 36 ∧ x.poisonBusy = false
     (good → x.retireTable = [] →
       ∃ t, Runs (.poisonGo n) s t ∧ SameMemory s t ∧ t.chip.stack n = { x with poisonBusy := true } ∧ (∀ k, k ≠ n → t.chip.stack k = s.chip.stack k) ∧
         ∀ c, Table.read [] t.chip.codeErrors c =
           if cwKey n base ≤ c ∧ c < cwKey n (base + size) then [(64, 0x5A), (71, 0x5A)] else Table.read [] s.chip.codeErrors c) ∧
     (¬ good → ∃ t, Runs (.poisonGo n) s t ∧ SameMemory s t ∧ t.chip.stk = s.chip.stk ∧ t.chip.codeErrors = s.chip.codeErrors ∧
       (t.chip.head (.scrub n)).errStatus.getLsbD 8 = true) ∧
     (∃ t, Runs (.poisonDone n) s t ∧ OnlyStack n s t ∧ t.chip.stack n = { x with poisonBusy := false })) ∧
  (∀ (s : State) (n : StackId), s.chip.frozen = false → (s.chip.stack n).domainOn = true →
     let x := s.chip.stack n
     let b := x.retireBlock.toNat
     let r := x.retireRepl.toNat
     let named (m : Nat) : Prop := ∃ e ∈ x.retireTable, e.1 = m ∨ e.2 = m
     (x.retireBusy = false → x.retireTable.length < 128 → b ≠ r → ¬ named b → ¬ named r →
       ∃ t, Runs (.retireGo n) s t ∧ OnlyStack n s t ∧ t.chip.stack n = { x with retireBusy := true }) ∧
     (x.retireBusy = false → x.retireTable.length < 128 → (b = r ∨ named b ∨ named r) →
       ∃ t, Runs (.retireGo n) s t ∧ SameMemory s t ∧ t.chip.stk = s.chip.stk ∧ (t.chip.head (.scrub n)).errStatus.getLsbD 6 = true) ∧
     (x.retireBusy = true → b ≠ r → ¬ named b → ¬ named r → (∀ e ∈ x.engines, e.2.openBlock ≠ some b) →
       (∀ i, i < 1024 → Table.read [] s.chip.codeErrors (cwKey n (b * 65536 + i * 64)) = []) →
       ∃ t, Runs (.retireCopy n) s t ∧ t.chip.scratch = s.chip.scratch ∧ t.hostMem = s.hostMem ∧
         t.chip.stack n = { x with retireBusy := false, retireTable := x.retireTable ++ [(b, r)] } ∧
         ∀ a, a < 2 ^ 36 → a / 65536 ≠ r → dramAt t n a = dramAt s n a) ∧
     ((s.chip.die (stackDie n)).ringOn = true →
       ∃ t, Runs (.ceLogRead n) s t ∧ SameMemory s t ∧
         (∀ e rest, x.ceLog = e :: rest → t.chip.out = .word (e.saddr % 2 ^ 32) ∧ t.chip.stack n = { x with ceLog := rest, ceLast := some e }) ∧
         (x.ceLog = [] → t.chip.out = .word 0 ∧ t.chip.stack n = { x with ceLast := none })))

/-! ## Temperature and power -/

/-- THERMAL_SAMPLE of a die with no broken sensor and no sensor that rises: every reading is taken. An array reading of 110 degrees C or more switches the core domain off, fences the die and loses its scratchpads and objects; an edge-ring reading of 110 or more switches the ring off and the standby controller records it; otherwise both domains stay, and the Guider throttles exactly when an array reading is 100 or more. STACK_SENSOR_SAMPLE with no broken sensor and none that rises: below the limits the refresh interval shortens at once to what the hottest DRAM reading asks for; from 110 degrees C in the base die or 105 in the DRAM the stack trips: it goes offline into self-refresh at the quartered interval and its running slots stop. STACK_TRIP_CLEARED, once every reading is below 85, clears the trip, and firmware puts the stack online again. It rests on the choices of log entries 135, 137 and 139. -/
def Obligations.ThermalTripsAndRecovery : Prop :=
  (∀ (s : State) (d : DieId) (r : List (BitVec 16)),
     let x := s.chip.die d
     let temp (i : Nat) : Int := (r.getD i 0).toInt
     (∀ i, (Table.read {} x.sensors i).broken = false ∧ (Table.read {} x.sensors i).deviations < 15 ∧ (Table.read {} x.sensors i).history.length < 20) →
     x.ringOn = true → x.coreOn = true → r.length = 64 →
     (∀ i, 48 ≤ i → i < 64 → temp i < 1760) →
     ((∀ i, i < 48 → temp i < 1760) →
       ∃ t, Runs (.thermalSample d r) s t ∧ SameMemory s t ∧ (t.chip.die d).coreOn = true ∧ (t.chip.die d).ringOn = true ∧
         (∀ i : Fin 64, (Table.read {} (t.chip.die d).sensors i).reading = r.getD i.val 0) ∧
         ((t.chip.die d).guider.throttling = true ↔ ∃ i, i < 48 ∧ 1600 ≤ temp i) ∧
         ((∃ i, i < 48 ∧ 1600 ≤ temp i) → (t.chip.die d).guider.dThermal = Nat.min 7 (x.guider.dThermal + 1) ∧ Nat.min 7 (x.guider.dThermal + 1) ≤ (t.chip.die d).guider.duty) ∧
         ∀ e, e ≠ d → t.chip.die e = s.chip.die e) ∧
     ((∃ i, i < 48 ∧ 1760 ≤ temp i) →
       ∃ t, Runs (.thermalSample d r) s t ∧ t.chip.dram = s.chip.dram ∧ (t.chip.die d).ringOn = true ∧ (t.chip.die d).coreOn = false ∧
         (t.chip.die d).tripped = true ∧ (t.chip.die d).fenced = true ∧ (∀ n, t.chip.obj (.die d n) = {}) ∧ (∀ k, k.die = d → t.chip.core k = {}) ∧
         ∀ a, scratchKey ⟨d, 0⟩ 0 ≤ a → a < scratchKey ⟨d, 0⟩ 0 + 2 ^ 32 → t.chip.scratch.byte a = 0)) ∧
  (∀ (s : State) (n : StackId) (r : List (BitVec 16)),
     let x := s.chip.stack n
     let temp (i : Nat) : Int := (r.getD i 0).toInt
     (x.domainOn = true → r.length = 24 → x.tripped = false →
       (∀ i, (Table.read {} x.sensors i).broken = false ∧ (Table.read {} x.sensors i).deviations < 15 ∧ (Table.read {} x.sensors i).history.length < 10) →
       ((∀ i, i < 8 → temp i < 1760) → (∀ i, 8 ≤ i → i < 24 → temp i < 1680) →
         ∃ t, Runs (.stackSensorSample n r) s t ∧ SameMemory s t ∧ (t.chip.stack n).tripped = false ∧ (t.chip.stack n).online = x.online ∧
           (∀ i : Fin 24, (Table.read {} (t.chip.stack n).sensors i).reading = r.getD i.val 0) ∧
           (∀ i, 8 ≤ i → i < 24 → refreshLevel (temp i) ≤ (t.chip.stack n).refreshRate) ∧
           ((∀ i, 8 ≤ i → i < 24 → temp i ≤ 1360) → x.refreshRate = 0 → (t.chip.stack n).refreshRate = 0)) ∧
       ((∃ i, i < 8 ∧ 1760 ≤ temp i) ∨ (∃ i, 8 ≤ i ∧ i < 24 ∧ 1680 ≤ temp i) →
         ∃ t, Runs (.stackSensorSample n r) s t ∧ SameMemory s t ∧ (t.chip.stack n).tripped = true ∧ (t.chip.stack n).online = false ∧
           (t.chip.stack n).onlineAck = false ∧ (t.chip.stack n).selfRefresh = true ∧ (t.chip.stack n).quarteredSelf = true ∧
           (t.chip.stack n).domainOn = true)) ∧
     (x.domainOn = true → x.tripped = true → (∀ e ∈ x.sensors, e.2.reading.toInt < 1360) → s.chip.running (stackDie n) = true → lbMode x.loopback = 0 →
       ∃ t, Runs (.stackTripCleared n) s t ∧ OnlyStack n s t ∧
         t.chip.stack n = { x with tripped := false, quarteredSelf := false, online := true, onlineAck := true, selfRefresh := false }))

/-- An edge-ring reading of 110 degrees C or more switches the die's ring off, with its core domain, and sets its RING_TRIP event; the ring comes back with its timer at 0 unless it has tripped three times within one hour. CORE_RESTART switches a tripped core domain on again once every reading of the die is below 85 degrees C, at thermal duty 7 and with its warning recorded, and does nothing while one is not. It rests on the choices of log entry 140. -/
def Obligations.RingsAndCoresReturn : Prop :=
  (∀ (s : State) (d : DieId) (r : List (BitVec 16)),
     let x := s.chip.die d
     let trips := Table.read [] s.chip.power.ringTrips d
     let recent := trips.filter (fun t => trips.headD 0 < t + standbyHour)
     ((∀ i, (Table.read {} x.sensors i).broken = false ∧ (Table.read {} x.sensors i).deviations < 15 ∧ (Table.read {} x.sensors i).history.length < 20) →
       x.ringOn = true → r.length = 64 → (∀ p, portDie p = d → (s.chip.port p).queue = []) → (∃ i, 48 ≤ i ∧ i < 64 ∧ 1760 ≤ (r.getD i 0).toInt) →
       ∃ t, Runs (.thermalSample d r) s t ∧ (t.chip.die d).ringOn = false ∧ (t.chip.die d).coreOn = false ∧
         t.chip.power.ringTripEv.getLsbD d.val = true ∧ s.chip.power.standby ∈ Table.read [] t.chip.power.ringTrips d ∧
         t.chip.dram = s.chip.dram ∧ ∀ l ∈ t.chip.cache, stackDie l.stack ≠ d) ∧
     (s.chip.frozen = false → x.ringOn = false → x.ringReturned = true → s.chip.power.lockout = false → trips ≠ [] →
       (recent.length < 3 → ∃ t, Runs (.ringRestart d) s t ∧ SameMemory s t ∧ (t.chip.die d).ringOn = true ∧ (t.chip.die d).timer = 0 ∧ (t.chip.die d).coreOn = false ∧
         ∀ e, e ≠ d → t.chip.die e = s.chip.die e) ∧
       (3 ≤ recent.length → Runs (.ringRestart d) s s))) ∧
  (∀ (s : State) (d : DieId), (s.chip.die d).ringOn = true → (s.chip.die d).tripped = true →
     ((∀ e ∈ (s.chip.die d).sensors, e.2.reading.toInt < 1360) →
       ∃ t, Runs (.coreRestart d) s t ∧ SameMemory s t ∧ (t.chip.die d).coreOn = true ∧ (t.chip.die d).tripped = false ∧ (t.chip.die d).fenced = (s.chip.die d).fenced ∧
         (t.chip.die d).guider.dThermal = 7 ∧ 7 ≤ (t.chip.die d).guider.duty ∧ (t.chip.head (.guider d)).errStatus.getLsbD 1 = true) ∧
     ((∃ e ∈ (s.chip.die d).sensors, 1360 ≤ e.2.reading.toInt) → Runs (.coreRestart d) s s))

/-- PWR_ALERT reaches every die whose edge ring is on: ALERT is set and its duty is at least 4, until PWR_ALERT_CLEAR; POINT_WRITE selects a point that firmware may select, at or above every floor of the die's domes and Peak only while the envelope allows it, and does nothing otherwise; the supply takes it when its slew is done. ENVELOPE_CHECK with firmware running: above the limit, dies at Peak go to Reference before anything else is done; with none at Peak, those at Reference go to the floor's point; calm checks count up, and a check between the two thresholds starts the count again. EVENTS_READ answers the latched events and clears them. It rests on the choices of log entry 142. -/
def Obligations.AlertsPointsAndEnvelope : Prop :=
  (∀ s : State,
     (∃ t, Runs .pwrAlert s t ∧ SameMemory s t ∧ t.chip.power.pwrAlert = true ∧ t.chip.power.lastAlert = some s.chip.power.standby ∧
       ∀ d, (s.chip.die d).ringOn = true → (t.chip.die d).alert = true ∧ 4 ≤ (t.chip.die d).guider.duty ∧ (t.chip.head (.power d)).errStatus.getLsbD 0 = true) ∧
     (∃ t, Runs .pwrAlertClear s t ∧ SameMemory s t ∧ t.chip.power.pwrAlert = false ∧
       ∀ d, (s.chip.die d).ringOn = true → (t.chip.die d).alert = false ∧ (t.chip.die d).guider.ctrlDuty = (s.chip.die d).guider.ctrlDuty) ∧
     (∀ d p, RingUp s d →
       let may : Prop := Reach.maySelect ⟨s.chip, s.fw, s.hostMem⟩ d p = true
       (may → ∃ t, Runs (.pointWrite d p) s t ∧ OnlyDie d s t ∧
         t.chip.die d = { s.chip.die d with point := p, slewing := decide ((if p = 3 then 1 else p) ≠ (s.chip.die d).pointActive) }) ∧
       (¬ may → Runs (.pointWrite d p) s s)) ∧
     (∀ d, (s.chip.die d).ringOn = true → (s.chip.die d).slewing = true →
       ∃ t, Runs (.supplySlewDone d) s t ∧ OnlyDie d s t ∧
         t.chip.die d = { s.chip.die d with slewing := false, pointActive := if (s.chip.die d).point = 3 then 1 else (s.chip.die d).point })) ∧
  (∀ (s : State) (avg : Word32),
     let limit := Nat.min 5200 s.chip.power.pLimit.toNat
     let peak (d : DieId) : Prop := (s.chip.die d).ringOn = true ∧ (s.chip.die d).point = 2
     let reference (d : DieId) : Prop := (s.chip.die d).ringOn = true ∧ ((s.chip.die d).point = 1 ∨ (s.chip.die d).point = 3)
     (s.chip.running 0 = true →
       (limit < avg.toNat → (∃ d, peak d) →
         ∃ t, Runs (.envelopeCheck avg) s t ∧ SameMemory s t ∧ t.chip.power.calmChecks = 0 ∧
           ∀ d, (peak d → (t.chip.die d).point = 1) ∧ (¬ peak d → t.chip.die d = s.chip.die d)) ∧
       (limit < avg.toNat → (∀ d, ¬ peak d) → (∃ d, reference d) →
         ∃ t, Runs (.envelopeCheck avg) s t ∧ SameMemory s t ∧ t.chip.power.calmChecks = 0 ∧
           ∀ d, (reference d → (t.chip.die d).point = 0) ∧ (¬ reference d → t.chip.die d = s.chip.die d)) ∧
       (20 * avg.toNat ≤ 19 * limit → s.chip.power.calmChecks < 999 →
         ∃ t, Runs (.envelopeCheck avg) s t ∧ SameMemory s t ∧ t.chip.dies = s.chip.dies ∧ t.chip.power.calmChecks = s.chip.power.calmChecks + 1 ∧
           t.chip.power.inputAvg = avg) ∧
       (avg.toNat ≤ limit → 19 * limit < 20 * avg.toNat →
         ∃ t, Runs (.envelopeCheck avg) s t ∧ SameMemory s t ∧ t.chip.dies = s.chip.dies ∧ t.chip.power.calmChecks = 0)) ∧
     (RingUp s 0 →
       ∃ t, Runs .eventsRead s t ∧
         t = { s with chip := { s.chip with
                 power := { s.chip.power with ringTripEv := 0, ovloEv := false, uvloEv := false },
                 out := .word (s.chip.power.ringTripEv.toNat * 256 + (if s.chip.power.ovloEv then 2 else 0) + (if s.chip.power.uvloEv then 1 else 0)) } }))

/-- An input lockout switches every edge ring, core domain and stack domain off and latches its cause; while it lasts a cold module reset does nothing; it clears into a cold module reset, which fills every stack and keeps the fused floors, the Photometer and the host's memory. A cold reset empties every memory of the module, forgets firmware's state but the flash, and boots each die present from the first bank whose image passes, or into recovery; fuses, Photometer and the host's memory stay. A warm reset with nothing dirty and no run active keeps stack memory and the timers. Power-up turns rings and stacks on; the explicit power-down turns the rings off and keeps the stacks. MODULE_RESET does the reset that it names. It rests on the choices of log entries 143 and 155. -/
def Obligations.LockoutsAndModuleResets : Prop :=
  (∀ s : State,
     (∀ over_ : Bool, ∃ t, Runs (if over_ then .ovlo else .uvlo) s t ∧ t.phot = s.phot ∧ t.fuses = s.fuses ∧ t.hostMem = s.hostMem ∧
       t.chip.power.lockout = true ∧ (if over_ then t.chip.power.ovloEv else t.chip.power.uvloEv) = true ∧ t.chip.ready = false ∧
       (∀ d, (t.chip.die d).ringOn = false ∧ ((s.chip.die d).ringOn = true → (t.chip.die d).coreOn = false)) ∧ ∀ n, (t.chip.stack n).domainOn = false) ∧
     (s.chip.power.lockout = true → ∀ b,
       Runs (.coldModuleReset b) s s ∧ Runs (.warmModuleReset b) s s ∧ Runs (.powerUp b) s s ∧
       ∃ t, Runs .lockoutClear s t ∧ t.chip.power.lockout = false ∧ t.phot = s.phot ∧ t.fuses = s.fuses ∧
         (∀ n, (t.chip.stack n).domainOn = true ∧ (t.chip.stack n).filled = true) ∧ (∀ a, t.chip.dram.byte a = 0) ∧ t.pending = s.pending)) ∧
  (∀ (s : State) (b : BringUp),
     let kept (t : State) : Prop := t.fuses = s.fuses ∧ t.hostMem = s.hostMem ∧ t.pending = s.pending ∧ t.fw = { banks := s.fw.banks }
     let passes (d : DieId) : Prop := ∃ k, imageCheck (s.fw.bank k).image (Table.read 0 s.fuses.svnMin d) = none
     (s.chip.power.lockout = false →
       ∃ t, Runs (.coldModuleReset b) s t ∧ kept t ∧ t.phot = s.phot ∧ t.chip.dram = [] ∧ t.chip.scratch = [] ∧ t.chip.engineStore = [] ∧ t.chip.cache = [] ∧
         (∀ k, (t.chip.stack k).domainOn = true ∧ (t.chip.stack k).filled = true) ∧
         ∀ d, if b.absent.getLsbD d.val then (d ≠ 0 → (t.chip.die d).ringOn = false)
           else (t.chip.die d).ringOn = true ∧ (passes d → (t.chip.die d).fwState = 1 ∧ (t.chip.die d).verified = true) ∧
             (¬ passes d → (t.chip.die d).fwState = 4 ∧ (t.chip.die d).recovery = true)) ∧
     (s.chip.power.lockout = false → s.chip.frozen = false → s.chip.cache = [] → (∀ k, ∀ e ∈ (s.chip.stack k).slots, e.2.active = none) →
       (∀ k, (s.chip.stack k).domainOn = true ∧ (s.chip.stack k).filled = true) →
       ∃ t, Runs (.warmModuleReset b) s t ∧ kept t ∧ t.chip.dram = s.chip.dram ∧ t.chip.scratch = [] ∧
         ∀ d, (s.chip.die d).ringOn = true → b.absent.getLsbD d.val = false → (t.chip.die d).timer = (s.chip.die d).timer) ∧
     (s.chip.power.lockout = false → s.chip.frozen = false → s.chip.ready = false →
       ∃ t, Runs (.powerUp b) s t ∧ t.fuses = s.fuses ∧ t.hostMem = s.hostMem ∧ t.phot = s.phot ∧
         (∀ k, (t.chip.stack k).domainOn = true ∧ (t.chip.stack k).filled = true) ∧ ∀ d, b.absent.getLsbD d.val = false → (t.chip.die d).ringOn = true) ∧
     (s.chip.frozen = false →
       ∃ t, Runs .explicitPowerDown s t ∧ kept t ∧ t.phot = s.phot ∧ t.chip.ready = false ∧ (∀ d, (t.chip.die d).ringOn = false) ∧
         (∀ k, (t.chip.stack k).domainOn = (s.chip.stack k).domainOn) ∧ (s.chip.cache = [] → t.chip.dram = s.chip.dram)) ∧
     (CallWaits s 0 0x54 [(8, 1)] →
       (callArg s 8 1 = 1 → ∃ t, Runs (.moduleReset (.fn .pf)) s t ∧ Runs (.coldModuleReset ⟨0, 0, 0⟩) s t) ∧
       (callArg s 8 1 = 0 → ∃ t, Runs (.moduleReset (.fn .pf)) s t ∧ Runs (.warmModuleReset ⟨0, 0, 0⟩) s t)))

/-! ## Ulizen -/

/-- Command slots: a CTRL write that enables a sound slot takes its fields and queues the runs its doorbell has made pending; a malformed slot or a doorbell in use is refused by its own error bit; a busy slot takes nothing but the clearing of EN, which takes its runs out of the queue. RUN_START takes the slot's next run when it heads the queue and its engines are idle, with the argument block in u16 to u23. RUN_END writes the record, signals, and frees the engines. It rests on the choices of log entries 58, 63 and 65. -/
def Obligations.SlotsStartAndEndTheirRuns : Prop :=
  ∀ (s : State) (d : StackId) (n : Fin 1024) (v : Word32), s.chip.frozen = false → (s.chip.stack d).domainOn = true →
    let x := s.chip.slotOf d n
    let y := s.chip.stack d
    let new : Slot := { x with cplScope := v.extractLsb' 27 3, dbObj := v.extractLsb' 16 8, dome := v.extractLsb' 12 4, entry := v.extractLsb' 0 12 }
    let count := (s.chip.obj (.stack d (clip 256 new.dbObj.toNat))).count.toNat
    let bad : Prop := x.engines = 0 ∨ 5 ≤ new.cplScope.toNat ∨ 128 < x.preLen.toNat ∨ 8 < x.cplDepth.toNat ∨ 8 < x.argDepth.toNat ∨ x.argBase.toNat % 64 ≠ 0 ∨ x.cplBase.toNat % 64 ≠ 0
    let taken : Prop := ∃ e ∈ y.slots, e.1 ≠ n ∧ e.2.en = true ∧ e.2.dbObj = new.dbObj
    let busy : Prop := x.en = true ∨ x.active ≠ none
    let error (t : State) (bit : Nat) : Prop := SameMemory s t ∧ (∀ m, t.chip.slotOf d m = s.chip.slotOf d m) ∧ (t.chip.head (.ulizen d)).errStatus.getLsbD bit = true
    (v.getLsbD 31 = true → ¬ busy → ¬ bad → ¬ taken → y.resetBusy = false → (∀ e ∈ y.runQueue, e.1 ≠ n) →
      ∃ t, Runs (.slotCtrlWrite d n v) s t ∧ OnlyStack d s t ∧
        (t.chip.stack d) = { y with slots := (t.chip.stack d).slots, runQueue := (t.chip.stack d).runQueue } ∧
        (∀ m, t.chip.slotOf d m = if m = n then { new with en := true } else s.chip.slotOf d m) ∧
        (t.chip.stack d).runQueue = y.runQueue ++ (if x.runSeq.toNat < count then [(n, x.runSeq.toNat, count - x.runSeq.toNat)] else [])) ∧
    (v.getLsbD 31 = true → ¬ busy → bad → ∃ t, Runs (.slotCtrlWrite d n v) s t ∧ error t 10) ∧
    (v.getLsbD 31 = true → ¬ busy → taken → ∃ t, Runs (.slotCtrlWrite d n v) s t ∧ error t 9) ∧
    (v.getLsbD 31 = true → busy → ∃ t, Runs (.slotCtrlWrite d n v) s t ∧ error t 8) ∧
    (v.getLsbD 31 = false → busy → ∃ t, Runs (.slotCtrlWrite d n v) s t ∧ SameMemory s t ∧
        (∀ m, t.chip.slotOf d m = if m = n then { x with en := false } else s.chip.slotOf d m) ∧
        (t.chip.stack d).runQueue = y.runQueue.filter (fun e => e.1 ≠ n)) ∧
    (∀ r : Word64, (¬ busy → ∃ t, Runs (.slotRunSeqWrite d n r) s t ∧ OnlyStack d s t ∧
        (∀ m, t.chip.slotOf d m = if m = n then { x with runSeq := r } else s.chip.slotOf d m)) ∧
      (busy → ∃ t, Runs (.slotRunSeqWrite d n r) s t ∧ error t 8)) ∧
    (∀ run k rest m a, y.runQueue = (n, run, k) :: rest → x.en = true → y.resetBusy = false → x.active = none → (∀ e : Fin 32, x.engines.getLsbD e.val = true → (y.engine e).slot = none) →
      x.preLen = 0 → a % 64 = 0 → s.chip.findLine m (a / 256) = none →
      Reaches s (s.chip.runWho d n) (x.argBase.toNat + x.runSeq.toNat % 2 ^ x.argDepth.toNat * 64) false m a →
      (x.argBase.toNat + x.runSeq.toNat % 2 ^ x.argDepth.toNat * 64) % 64 = 0 →
      ∃ t, Runs (.runStart d n) s t ∧ t.chip.dram = s.chip.dram ∧ t.chip.scratch = s.chip.scratch ∧
        (t.chip.slotOf d n) = { x with runSeq := x.runSeq + 1, active := some x.runSeq.toNat, runFault := none, torn := false, stopped := 0, ended := 0,
                                       corrected := false, forced := false, userA := 0, userB := 0, headers := [] } ∧
        (t.chip.stack d).runQueue = (if k ≤ 1 then [] else [(n, run + 1, k - 1)]) ++ rest ∧
        (∀ e : Fin 32, x.engines.getLsbD e.val = false → t.chip.engineOf d e = s.chip.engineOf d e) ∧
        ∀ e : Fin 32, x.engines.getLsbD e.val = true →
          let g := t.chip.engineOf d e
          g.slot = some n ∧ g.upc = x.entry.toNat ∧ g.rep = none ∧ g.openBlock = none ∧ g.reg 1 = BitVec.ofNat 64 e.val ∧ g.reg 4 = x.runSeq ∧
          g.reg 2 = BitVec.ofNat 64 (((List.range e.val).filter (fun i => x.engines.getLsbD i)).length) ∧
          g.reg 3 = BitVec.ofNat 64 (((List.range 32).filter (fun i => x.engines.getLsbD i)).length) ∧
          ∀ i : Fin 8, g.reg (16 + i.val) = BitVec.ofNat 64 (leNat (dramBytes s m (a + 8 * i.val) 8))) ∧
    (∀ run m a o, x.active = some run → run < 2 ^ 64 → x.engines &&& ~~~(x.stopped ||| x.ended) = 0 → x.runFault = none → x.torn = false → x.stopped = 0 →
      let at_ := x.cplBase.toNat + run % 2 ^ x.cplDepth.toNat * 64
      let w := s.chip.runWho d n
      at_ % 64 = 0 → a % 64 = 0 → s.chip.findLine m (a / 256) = none → Reaches s w at_ true m a →
      s.chip.signalTarget x.cplSig = .ok (some o) → s.chip.objRefusal w o true (some x.cplScope) = none → (s.chip.sync (unitOf o)).clearBusy = false →
      ∃ t, Runs (.runEnd d n) s t ∧ OnlyDram m a 64 s t ∧
        (t.chip.obj o).count = (s.chip.obj o).count + 1 ∧ (∀ q, q ≠ o → t.chip.obj q = s.chip.obj q) ∧ (t.chip.slotOf d n).active = none ∧
        (∀ e, (t.chip.engineOf d e).slot ≠ some n) ∧
        dramBytes t m a 24 = leBytes 8 run ++ leBytes 2 n.val ++ leBytes 2 x.tag.toNat ++ [1, BitVec.ofNat 8 ((if x.corrected then 1 else 0) + (if x.forced then 2 else 0))] ++
          leBytes 2 0 ++ leBytes 4 x.engines.toNat ++ leBytes 4 0 ∧
        dramBytes t m (a + 26) 2 = [0xFF, 0] ∧ dramBytes t m (a + 40) 24 = leBytes 8 0 ++ leBytes 8 x.userA.toNat ++ leBytes 8 x.userB.toNat)

/-- UNIT_RESET stops every run of which an engine still executes as TORN, moves every slot's RUN_SEQ to its doorbell's count, and empties the queue of runs, the look-aside buffer and the engine stores of its stack alone. LAB_INVAL drops the entries of one handle and LAB_INVAL_ALL all of them. The first three parts of a micro-program word wait at the requester's latch, and the fourth lands the whole word. It rests on the choices of log entry 34. -/
def Obligations.UnitResetsAndInvalidations : Prop :=
  ∀ (s : State) (d : StackId), s.chip.frozen = false → (s.chip.stack d).domainOn = true →
    let y := s.chip.stack d
    let lookAside (t : State) (keep : BitVec 32 → Prop) : Prop :=
      OnlyStack d s t ∧ (t.chip.stack d) = { y with lab := (t.chip.stack d).lab, labBusy := (t.chip.stack d).labBusy } ∧
      (y.labBusy = true → (t.chip.stack d).labBusy = true) ∧ ∀ e, e ∈ (t.chip.stack d).lab ↔ e ∈ y.lab ∧ keep e.1
    (∃ t, Runs (.unitReset d) s t ∧ t.chip.dram = s.chip.dram ∧ t.chip.scratch = s.chip.scratch ∧ (∀ k, k ≠ d → t.chip.stack k = s.chip.stack k) ∧
      (t.chip.stack d).runQueue = [] ∧ (t.chip.stack d).lab = [] ∧ (t.chip.stack d).labBusy = false ∧
      ((t.chip.stack d).resetBusy = true ↔ ∃ e ∈ y.slots, e.2.active ≠ none) ∧
      (∀ n, (t.chip.slotOf d n).runSeq = (s.chip.obj (.stack d (clip 256 (s.chip.slotOf d n).dbObj.toNat))).count ∧
        ((∃ i, (s.chip.slotOf d n).executes i = true) → (t.chip.slotOf d n).torn = true ∧ (t.chip.slotOf d n).stopped = (s.chip.slotOf d n).stopped ||| ((s.chip.slotOf d n).engines &&& ~~~(s.chip.slotOf d n).ended))) ∧
      ∀ a, t.chip.engineStore.byte a = if storeKey d 0 0 ≤ a ∧ a < storeKey d 0 0 + 2 ^ 21 then 0 else s.chip.engineStore.byte a) ∧
    (∃ t, Runs (.labInvalAll d) s t ∧ lookAside t (fun _ => False)) ∧
    (∀ h, ∃ t, Runs (.labInval d h) s t ∧ lookAside t (fun x => x ≠ h)) ∧
    (∃ t, Runs (.labInvalComplete d) s t ∧ OnlyStack d s t ∧ t.chip.stack d = { y with labBusy := false }) ∧
    ∀ (q : Requester) (w : Fin 4096) (p : Fin 4) (v : Word32), s.chip.pageRefusal q (.ulizen d) = none →
      let latch := Table.read (0, []) y.stage q
      let old : BitVec 128 := Table.read 0 y.ustore w
      let part (i : Fin 3) : Word32 := if latch.1 = w.val then Table.read (old.extractLsb' (32 * i.val) 32) latch.2 i else old.extractLsb' (32 * i.val) 32
      ∃ t, Runs (.microprogramWordWrite q d w p v) s t ∧ OnlyStack d s t ∧
        (t.chip.stack d) = { y with ustore := (t.chip.stack d).ustore, stage := (t.chip.stack d).stage } ∧
        (∀ r, r ≠ q → Table.read (0, []) (t.chip.stack d).stage r = Table.read (0, []) y.stage r) ∧
        (p.val = 3 → (∀ z, Table.read 0 (t.chip.stack d).ustore z = if z = w then v ++ part 2 ++ part 1 ++ part 0 else Table.read 0 y.ustore z) ∧
          Table.read (0, []) (t.chip.stack d).stage q = (0, [])) ∧
        (∀ i : Fin 3, p.val = i.val → (t.chip.stack d).ustore = y.ustore ∧ (Table.read (0, []) (t.chip.stack d).stage q).1 = w.val ∧
          ∀ j : Fin 3, Table.read (old.extractLsb' (32 * j.val) 32) (Table.read (0, []) (t.chip.stack d).stage q).2 j = if j = i then v else part j)

/-- The scalar operations of an engine: SETI, ALU, BR, LD, ST, REP, YIELD and END change its registers, its place and its store as the table of operations says, and nothing else; a word with a field out of place stops the run with ULZ_ILLEGAL. -/
def Obligations.EngineScalarOperations : Prop :=
  ∀ (s : State) (e : EngineId) (n : Fin 1024) (w : BitVec 128),
    let g := s.chip.engineOf e.stack e.idx
    let x := s.chip.slotOf e.stack n
    let a := g.reg (uA w)
    let b := g.reg (uB w)
    let imm := uImm w
    let body := imm.toNat % 65536
    let size := 2 ^ uMode w
    let at_ := (a + imm).toNat
    let inside (goal : Int) : Prop := 0 ≤ goal ∧ goal ≤ 4095 ∧ ∀ r, g.rep = some r → (r.first : Int) ≤ goal ∧ goal ≤ r.last
    let goal : Int := (g.upc : Int) + imm.toInt
    let engine (t : State) : Engine := t.chip.engineOf e.stack e.idx
    let put (t : State) (r : Nat) (v : Word64) : Prop :=
      OnlyEngine e 0 0 s t ∧ Follows g (engine t) ∧ engine t = { g with u := (engine t).u, upc := (engine t).upc, rep := (engine t).rep } ∧
      ∀ q, q < 32 → (engine t).reg q = if q = r ∧ q ≠ 0 then v else g.reg q
    (UopReady s e 0x01 n w → FollowOk g → ∃ t, Runs (.seti e) s t ∧ put t (uD w) imm) ∧
    (UopReady s e 0x02 n w → FollowOk g → ∀ m ∈ aluTable, uMode w = m.1 → ∃ t, Runs (.alu e) s t ∧ put t (uD w) (m.2 a (b + imm))) ∧
    (UopReady s e 0x03 n w → ∀ m ∈ brTable, uMode w = m.1 →
      (¬ m.2 a b → FollowOk g → ∃ t, Runs (.br e) s t ∧ OnlyEngine e 0 0 s t ∧ Follows g (engine t) ∧ engine t = { g with upc := (engine t).upc, rep := (engine t).rep }) ∧
      (m.2 a b → inside goal → ∃ t, Runs (.br e) s t ∧ OnlyEngine e 0 0 s t ∧ engine t = { g with upc := goal.toNat }) ∧
      (m.2 a b → ¬ inside goal → x.runFault = none → ∃ t, Runs (.br e) s t ∧ (t.chip.slotOf e.stack n).runFault = some (Code.ulzPc, e.idx, g.upc % 4096, 0))) ∧
    (UopReady s e 0x04 n w → FollowOk g → at_ + size ≤ 65536 → at_ % size = 0 →
      ∃ t, Runs (.ld e) s t ∧ put t (uD w) (BitVec.ofNat 64 (leNat (s.chip.storeRead e.stack e.idx at_ size)))) ∧
    (UopReady s e 0x05 n w → FollowOk g → at_ + size ≤ 65536 → at_ % size = 0 →
      ∃ t, Runs (.st e) s t ∧ OnlyEngine e at_ size s t ∧ Follows g (engine t) ∧ engine t = { g with upc := (engine t).upc, rep := (engine t).rep } ∧
        t.chip.storeRead e.stack e.idx at_ size = leBytes size b.toNat) ∧
    (UopReady s e 0x06 n w → g.rep = none → 1 ≤ body → body ≤ 64 → g.upc + body ≤ 4095 →
      let count := a + BitVec.ofNat 64 (uN w)
      (count = 0 → g.upc + body < 4095 → ∃ t, Runs (.rep e) s t ∧ OnlyEngine e 0 0 s t ∧ engine t = { g with upc := g.upc + body + 1 }) ∧
      (count ≠ 0 → ∃ t, Runs (.rep e) s t ∧ OnlyEngine e 0 0 s t ∧ engine t = { g with upc := g.upc + 1, rep := some ⟨count, g.upc + 1, g.upc + body⟩ })) ∧
    (UopReady s e 0x24 n w → FollowOk g → ∃ t, Runs (.yield e) s t ∧ OnlyEngine e 0 0 s t ∧ Follows g (engine t) ∧
      engine t = { g with upc := (engine t).upc, rep := (engine t).rep, openBlock := none }) ∧
    (UopReady s e 0x3F n w → ∃ t, Runs (.ulzEnd e) s t ∧ t = { s with chip := { s.chip with stk := t.chip.stk } } ∧ (∀ k, k ≠ e.stack → t.chip.stack k = s.chip.stack k) ∧
      engine t = { g with openBlock := none } ∧
      let z := t.chip.slotOf e.stack n
      z = { x with ended := z.ended, userA := z.userA, userB := z.userB } ∧ (∀ i, i < 32 → z.ended.getLsbD i = (x.ended.getLsbD i || decide (i = e.idx.val))) ∧
      ((∀ i, i < e.idx.val → x.engines.getLsbD i = false) → z.userA = a ∧ z.userB = b) ∧
      ((∃ i, i < e.idx.val ∧ x.engines.getLsbD i = true) → z.userA = x.userA ∧ z.userB = x.userB)) ∧
    (s.chip.frozen = false → (s.chip.stack e.stack).domainOn = true → (s.chip.stack e.stack).resetBusy = false → g.slot = some n → x.executes e.idx = true →
      (s.chip.stack e.stack).uword g.upc = w → uopOf w = 0x01 → (uA w ≠ 0 ∨ uN w ≠ 0 ∨ uMode w ≠ 0) → x.runFault = none →
      ∃ t, Runs (.seti e) s t ∧ (t.chip.slotOf e.stack n).runFault = some (Code.ulzIllegal, e.idx, g.upc % 4096, 0) ∧
        (t.chip.slotOf e.stack n).stopped = x.stopped ||| (x.engines &&& ~~~x.ended) ∧ SameMemory s t)

/-- The vector operations of an engine on full registers: each lane of each group member takes what the table of operations gives it from the registers as they were; lanes outside the result stay; u[C] moves under INC; LDV and STV convert their store elements; sums round to FP32 at every node of the pairwise tree, and DOT and ACC round their inputs to BF16. It rests on the choices of log entries 11 and 60. -/
def Obligations.EngineVectorOperations : Prop :=
  ∀ (s : State) (e : EngineId) (n : Fin 1024) (w : BitVec 128),
    let g := s.chip.engineOf e.stack e.idx
    let base := (g.reg (uC w) + uImm w).toNat
    let seg := uSeg w
    let size := 2 ^ seg
    let segs := 256 / size
    let fmt := uFmt w
    let width := elemBits fmt / 8
    let engine (t : State) : Engine := t.chip.engineOf e.stack e.idx
    let y (h l : Nat) : Word32 := g.lane (bPlace w base h l).1 (bPlace w base h l).2
    let yOk : Prop := ∀ h l, h < uH w → l < 256 → (bPlace w base h l).2 ≤ 255
    let store (h l : Nat) : Nat := base + h * uN w + l * width
    let plain (t : State) : Prop := OnlyEngine e 0 0 s t ∧ Follows g (engine t) ∧
      engine t = { g with u := (engine t).u, v := (engine t).v, upc := (engine t).upc, rep := (engine t).rep }
    let same (t : State) : Prop := ∀ q, q < 32 → (engine t).reg q = g.reg q
    let moved (t : State) : Prop := ∀ q, q < 32 → (engine t).reg q = if uInc w = true ∧ q = uC w ∧ q ≠ 0 then g.reg q + BitVec.ofNat 64 (uN w) else g.reg q
    let group (t : State) (f : Nat → Nat → Word32 → Word32) : Prop := ∀ r l, r < 32 → l < 256 →
      (engine t).lane r l = if uD w ≤ r ∧ r < uD w + uH w then f (r - uD w) l (g.lane r l) else g.lane r l
    let product (h l : Nat) : Machine.Num := Machine.Num.mul (asBf16 (g.lane (uA w) l)) (asBf16 (g.lane (uB w + h) l))
    FullLanes g → FollowOk g →
    (UopReady s e 0x08 n w → fmt < 5 → (∀ h, h < uH w → store h 0 + size * width ≤ 65536 ∧ store h 0 % width = 0) →
      ∃ t, Runs (.ldv e) s t ∧ plain t ∧ same t ∧ group t (fun h l old => if l < size then toF32 (elemValue fmt (leNat (s.chip.storeRead e.stack e.idx (store h l) width))) else old)) ∧
    (UopReady s e 0x09 n w → fmt < 5 → (uH w = 1 ∨ size * width ≤ uN w) → (∀ h, h < uH w → store h 0 + size * width ≤ 65536 ∧ store h 0 % width = 0) →
      ∃ t, Runs (.stv e) s t ∧ OnlyEngine e base ((uH w - 1) * uN w + size * width) s t ∧ Follows g (engine t) ∧ engine t = { g with upc := (engine t).upc, rep := (engine t).rep } ∧
        ∀ h l, h < uH w → l < size → leNat (t.chip.storeRead e.stack e.idx (store h l) width) = (narrowTo fmt .nearest (f32 (g.lane (uA w + h) l)) .one).1) ∧
    (UopReady s e 0x0A n w → yOk → ∀ m ∈ vopTable, uMode w = m.1 →
      ∃ t, Runs (.vop e) s t ∧ plain t ∧ moved t ∧ group t (fun h l _ => toF32 (m.2 (f32 (g.lane (uA w + h) l)) (f32 (y h l))))) ∧
    (UopReady s e 0x0B n w → yOk →
      ∃ t, Runs (.exp2 e) s t ∧ plain t ∧ moved t ∧ group t (fun h l _ => ulzExp2Of (toF32 (Machine.Num.add (f32 (g.lane (uA w + h) l)) (f32 (y h l)).negate)))) ∧
    (UopReady s e 0x0C n w → uStr w = false → base + segs ≤ 256 →
      ∃ t, Runs (.dot e) s t ∧ plain t ∧ moved t ∧ group t (fun h l old =>
        if base ≤ l ∧ l < base + segs then toF32 (laneTree add32 seg (product h) (l - base)) else old)) ∧
    (UopReady s e 0x0D n w → uStr w = false → yOk →
      ∃ t, Runs (.acc e) s t ∧ plain t ∧ moved t ∧ group t (fun h l old => toF32 (Machine.Num.add (f32 old) (Machine.Num.mul (asBf16 (g.lane (uA w) l)) (asBf16 (y h l)))))) ∧
    (∀ isMax : Bool, UopReady s e (if isMax then 0x0E else 0x0F) n w → base + uH w * segs ≤ 256 →
      ∃ t, Runs (if isMax then .maxred e else .sumred e) s t ∧ plain t ∧ same t ∧ ∀ r l, r < 32 → l < 256 →
        (engine t).lane r l = if r = uD w ∧ base ≤ l ∧ l < base + uH w * segs then
            toF32 (laneTree (if isMax then Machine.Num.max else add32) seg (fun i => f32 (g.lane (uA w + (l - base) / segs) i)) ((l - base) % segs))
          else g.lane r l) ∧
    (UopReady s e 0x10 n w → ∃ t, Runs (.fold e) s t ∧ plain t ∧ same t ∧ group t (fun h l _ =>
      if l < 128 then toF32 (Machine.Num.add (f32 (g.lane (uA w + h) l)) (f32 (g.lane (uA w + h) (l + 128)))) else 0)) ∧
    (UopReady s e 0x11 n w → base ≤ 256 → ∃ t, Runs (.fill e) s t ∧ plain t ∧ same t ∧ group t (fun _ l old =>
      if base ≤ l then (if uMode w = 0 then 0xFF800000 else 0) else old)) ∧
    (UopReady s e 0x31 n w → (fmt = 3 ∨ fmt = 4) →
      let bit := (g.reg (uB w)).getLsbD 0
      let cur := (g.reg (uC w)).toNat
      (bit = true → cur + 256 ≤ 65536) →
      ∃ t, Runs (.delta e) s t ∧ plain t ∧
        (∀ q, q < 32 → let moved := if q = uC w ∧ q ≠ 0 ∧ bit = true then g.reg q + 256 else g.reg q
          (engine t).reg q = if q = uB w ∧ q ≠ 0 then BitVec.ofNat 64 (moved.toNat / 2) else moved) ∧
        ∀ r l, r < 32 → l < 256 → (engine t).lane r l = if r = uD w ∧ bit = true then
            toF32 (Machine.Num.add (f32 (g.lane r l)) (f32 (toF32 (elemValue fmt (leNat (s.chip.storeRead e.stack e.idx (cur + l) 1))))))
          else g.lane r l)

/-- The memory operations of an engine. ROW_OPEN opens a granted block once no refresh is owed. STREAM widens 256 elements of the open block, and a malformed block scale among them stops the run; DOT and ACC take the same lanes as their A operand under STR, STASH copies bytes of it to the store, WRITE puts the converted lanes there and is counted in bursts; a frame that is not granted denies them. FETCH and SEND move bytes between the store and one codeword of stack memory. PAGE answers from the look-aside buffer once its header has been read. KV_COMPACT of one position moves its K and V entries and nothing else. It rests on the choices of log entries 62 and 64. -/
def Obligations.EngineMemoryOperations : Prop :=
  ∀ (s : State) (e : EngineId) (n : Fin 1024) (w : BitVec 128),
    let g := s.chip.engineOf e.stack e.idx
    let x := s.chip.slotOf e.stack n
    let y := s.chip.stack e.stack
    let off := (g.reg (uC w) + uImm w).toNat
    let fmt := uFmt w
    let width := elemBits fmt / 8
    let at_ := (g.reg (uA w) + uImm w).toNat
    let st := (g.reg (uC w)).toNat
    let open_ := g.openBlock.getD 0 * 65536
    let engine (t : State) : Engine := t.chip.engineOf e.stack e.idx
    let still (t : State) : Prop := engine t = { g with upc := (engine t).upc, rep := (engine t).rep } ∧ Follows g (engine t)
    let bump (t : State) (inc : Bool) : Prop := ∀ q, q < 32 → (engine t).reg q = if inc = true ∧ q = uC w ∧ q ≠ 0 then g.reg q + BitVec.ofNat 64 (uN w) else g.reg q
    let granted (mask : Word64) (a : Nat) : Prop := a < 2 ^ 36 ∧ mask.getLsbD (a / 2 ^ 30) = true
    (UopReady s e 0x20 n w → FollowOk g → granted x.rdFrames at_ → (∀ p, Table.read 0 y.owed p = 0) → y.retireBusy = false →
      ∃ t, Runs (.rowOpen e) s t ∧ SameMemory s t ∧ Follows g (engine t) ∧ engine t = { g with upc := (engine t).upc, rep := (engine t).rep, openBlock := some (at_ / 65536) }) ∧
    (UopReady s e 0x20 n w → ¬ granted x.rdFrames at_ → x.runFault = none →
      ∃ t, Runs (.rowOpen e) s t ∧ SameMemory s t ∧ (t.chip.slotOf e.stack n).runFault = some (Code.frameDenied, e.idx, g.upc % 4096, BitVec.ofNat 64 at_)) ∧
    (UopReady s e 0x21 n w → streamOk fmt off → BlockReads s e off (streamBytes fmt) → ¬ scalesOk fmt (blockBytesAt s e off (streamBytes fmt)) → x.runFault = none →
      ∃ t, Runs (.stream e) s t ∧ SameMemory s t ∧ (t.chip.slotOf e.stack n).runFault = some (Code.scaleMalformed, e.idx, g.upc % 4096, BitVec.ofNat 64 (open_ + off))) ∧
    (UopReady s e 0x21 n w → FollowOk g → streamOk fmt off → BlockReads s e off (streamBytes fmt) → scalesOk fmt (blockBytesAt s e off (streamBytes fmt)) →
      ∃ t, Runs (.stream e) s t ∧ OnlyEngine e 0 0 s t ∧ Follows g (engine t) ∧ bump t (uInc w) ∧
        ∀ r l, r < 32 → l < 256 → (engine t).lane r l = if r = uD w then streamLane fmt (blockBytesAt s e off (streamBytes fmt)) l else g.lane r l) ∧
    (FullLanes g → FollowOk g → uStr w = true → uInc w = false → uA w ≠ 0 →
      let src := (g.reg (uA w)).toNat
      let lanes (l : Nat) : Machine.Num := asBf16 (streamLane fmt (blockBytesAt s e src (streamBytes fmt)) l)
      let on (t : State) : Prop := OnlyEngine e 0 0 s t ∧ Follows g (engine t) ∧
        ∀ q, q < 32 → (engine t).reg q = if q = uA w then g.reg q + BitVec.ofNat 64 (streamBytes fmt) else g.reg q
      streamOk fmt src → BlockReads s e src (streamBytes fmt) → scalesOk fmt (blockBytesAt s e src (streamBytes fmt)) →
      (UopReady s e 0x0C n w → off + 256 / 2 ^ uSeg w ≤ 256 → ∃ t, Runs (.dot e) s t ∧ on t ∧ ∀ r l, r < 32 → l < 256 →
        (engine t).lane r l = if uD w ≤ r ∧ r < uD w + uH w ∧ off ≤ l ∧ l < off + 256 / 2 ^ uSeg w then
            toF32 (laneTree add32 (uSeg w) (fun i => Machine.Num.mul (lanes i) (asBf16 (g.lane (uB w + (r - uD w)) i))) (l - off))
          else g.lane r l) ∧
      (UopReady s e 0x0D n w → (∀ h l, h < uH w → l < 256 → (bPlace w off h l).2 ≤ 255) → ∃ t, Runs (.acc e) s t ∧ on t ∧ ∀ r l, r < 32 → l < 256 →
        (engine t).lane r l = if uD w ≤ r ∧ r < uD w + uH w then
            toF32 (Machine.Num.add (f32 (g.lane r l)) (Machine.Num.mul (lanes l) (asBf16 (g.lane (bPlace w off (r - uD w) l).1 (bPlace w off (r - uD w) l).2))))
          else g.lane r l)) ∧
    (UopReady s e 0x22 n w → FollowOk g →
      let len := (g.reg (uB w) + BitVec.ofNat 64 (uN w)).toNat
      let dst := (g.reg (uA w)).toNat
      len % 32 = 0 → dst + len ≤ 65536 → BlockReads s e off len →
      ∃ t, Runs (.stash e) s t ∧ OnlyEngine e dst len s t ∧ still t ∧ t.chip.storeRead e.stack e.idx dst len = blockBytesAt s e off len) ∧
    (UopReady s e 0x23 n w → FollowOk g → fmt < 5 → FullLanes g → granted x.wrFrames (open_ + off) → BlockReads s e off (256 * width) → y.foreignReads e.idx = [] →
      ∃ t, Runs (.write e) s t ∧ OnlyDram e.stack (open_ + off) (256 * width) s t ∧ Follows g (engine t) ∧ bump t (uInc w) ∧
        engine t = { g with u := (engine t).u, upc := (engine t).upc, rep := (engine t).rep, wrote := (engine t).wrote,
                            bursts := g.bursts + BitVec.ofNat 32 ((off % 256 + 256 * width + 255) / 256),
                            lastRow := BitVec.ofNat 64 ((open_ + off + 256 * width - 1) / 256 * 256) } ∧
        ∀ l, l < 256 → leNat (dramBytes t e.stack (open_ + off + l * width) width) = (narrowTo fmt .nearest (f32 (g.lane (uA w) l)) .one).1) ∧
    (∀ m a, UopReady s e 0x29 n w → FollowOk g → uN w % 32 = 0 → 1 ≤ uN w → at_ % 64 + uN w ≤ 64 → st + uN w ≤ 65536 → s.chip.findLine m (a / 256) = none →
      Reaches s (s.chip.runWho e.stack n) at_ false m a →
      ∃ t, Runs (.fetch e) s t ∧ t.chip.dram = s.chip.dram ∧ t.chip.scratch = s.chip.scratch ∧ still t ∧ t.chip.storeRead e.stack e.idx st (uN w) = dramBytes s m a (uN w) ∧
        ∀ b, (b < storeKey e.stack e.idx st ∨ storeKey e.stack e.idx st + uN w ≤ b) → t.chip.engineStore.byte b = s.chip.engineStore.byte b) ∧
    (∀ m a, UopReady s e 0x2A n w → FollowOk g → 1 ≤ uN w → at_ % 64 + uN w ≤ 64 → st + uN w ≤ 65536 → s.chip.findLine m (a / 256) = none →
      Reaches s (s.chip.runWho e.stack n) at_ true m a →
      ∃ t, Runs (.send e) s t ∧ OnlyDram m a (uN w) s t ∧ still t ∧ dramBytes t m a (uN w) = s.chip.storeRead e.stack e.idx st (uN w)) ∧
    (∀ list entries len page, UopReady s e 0x28 n w → FollowOk g →
      let handle := (g.reg (uA w)).toNat
      let o := (g.reg (uB w) + uImm w).toNat
      x.headers.find? (fun h => h.1.toNat = handle) = some (BitVec.ofNat 32 handle, list, entries, len) → 256 * o < len →
      y.lab.find? (fun h => h.1.toNat = handle ∧ h.2.1 = o) = some (BitVec.ofNat 32 handle, o, page) →
      page.extractLsb' 24 3 = 0 → (page.extractLsb' 27 5).toNat = e.stack.val →
      ∃ t, Runs (.page e) s t ∧ OnlyEngine e 0 0 s t ∧ Follows g (engine t) ∧ ∀ q, q < 32 → (engine t).reg q =
        if q = uD w + 2 ∧ uMode w = 1 then BitVec.ofNat 64 o else if q = uD w + 1 then BitVec.ofNat 64 (Nat.min 256 (len - 256 * o)) else if q = uD w ∧ q ≠ 0 then BitVec.ofNat 64 ((page.extractLsb' 0 24).toNat * 4096) else g.reg q) ∧
    (∀ list entries len page, UopReady s e 0x30 n w → FollowOk g → uMode w = 0 → uN w = 1 → fmt < 5 →
      let d := (uImm w).toNat
      let ent := d * width
      let handle := (g.reg (uA w)).toNat
      let p := leNat (s.chip.storeRead e.stack e.idx (g.reg (uB w)).toNat 4)
      let q := (g.reg (uC w)).toNat
      let at0 := (page.extractLsb' 0 24).toNat * 4096
      let k := at0 + q % 256 * ent
      let v := at0 + 256 * ent + q % 256 * ent
      let key := dramKey e.stack
      d % 16 = 0 → 16 ≤ d → d ≤ 512 → (g.reg (uB w)).toNat + 4 ≤ 65536 → (g.reg (uB w)).toNat % 4 = 0 → q ≤ p → p / 256 = q / 256 → g.kvNext = 0 → g.kvOwed = false →
      x.headers.find? (fun h => h.1.toNat = handle) = some (BitVec.ofNat 32 handle, list, entries, len) → p / 256 < entries →
      y.lab.find? (fun h => h.1.toNat = handle ∧ h.2.1 = p / 256) = some (BitVec.ofNat 32 handle, p / 256, page) →
      page.extractLsb' 24 3 = 0 → (page.extractLsb' 27 5).toNat = e.stack.val → granted x.rdFrames at0 → granted x.wrFrames at0 → y.retireTable = [] → y.retireBusy = false → (∀ i, Table.read 0 y.owed i = 0) → y.foreign e.idx = [] → y.foreignReads e.idx = [] →
      (∀ a, Table.read [] s.chip.codeErrors a = []) →
      ∃ t, Runs (.kvCompact e) s t ∧ t.chip.scratch = s.chip.scratch ∧ t.hostMem = s.hostMem ∧ Follows g (engine t) ∧ (engine t).openBlock = none ∧
        (engine t).lastRow = BitVec.ofNat 64 ((v + ent - 1) / 256 * 256) ∧
        dramBytes t e.stack k ent = dramBytes s e.stack (at0 + p % 256 * ent) ent ∧ dramBytes t e.stack v ent = dramBytes s e.stack (at0 + 256 * ent + p % 256 * ent) ent ∧
        ∀ b, (b < key k ∨ key k + ent ≤ b) → (b < key v ∨ key v + ent ≤ b) → t.chip.dram.byte b = s.chip.dram.byte b)

/-! ## Synchronisation objects and host-class cores -/

/-- READ answers COUNT and the word at 0x8; SIGNAL adds, SET stores and disarms, ARM arms with its threshold, DISARM only disarms; after a SIGNAL or an ARM an armed object at its threshold disarms and queues a notification, or keeps it pending when 64 are queued. A refused operation and an operation the requester does not issue change no object. -/
def Obligations.ObjectsTakeTheirOperations : Prop :=
  ∀ (s : State) (a : Agent) (o : ObjId), s.chip.frozen = false → (s.chip.sync (unitOf o)).clearBusy = false →
    let x := s.chip.obj o
    let u := unitOf o
    let old := x.count.toNat
    let only (t : State) : Prop := SameMemory s t ∧ t.phot = s.phot ∧ t.fw = s.fw ∧ (∀ q, q ≠ o → t.chip.obj q = s.chip.obj q) ∧ t.chip.heads = s.chip.heads ∧ t.chip.harts = s.chip.harts
    let checked (t : State) (y : SyncObj) : Prop :=
      if y.arm = true ∧ y.threshold.toNat ≤ y.count.toNat then
        (if (s.chip.sync u).notes.length < 64 then (t.chip.sync u).notes = (s.chip.sync u).notes ++ [numOf o] ∧ t.chip.obj o = { y with arm := false }
         else (t.chip.sync u).notes = (s.chip.sync u).notes ∧ t.chip.obj o = { y with arm := false, notesPending := y.notesPending + 1 })
      else (t.chip.sync u).notes = (s.chip.sync u).notes ∧ t.chip.obj o = y
    (mayIssue a .read = true → s.chip.objRefusal (whoOf a) o false none = none →
      ∃ t, Runs (.objRead a o) s t ∧ t = { s with chip := { s.chip with
        out := .word (old + (x.threshold.toNat + (if x.arm then 2 ^ 63 else 0)) * 2 ^ 64) } }) ∧
    (∀ v sc, mayIssue a .signal = true → s.chip.objRefusal (whoOf a) o true sc = none →
      ∃ t, Runs (.objSignal a o v sc) s t ∧ only t ∧ checked t { x with count := BitVec.ofNat 64 (old + v.toNat) } ∧ t.chip.out = .word old) ∧
    (mayIssue a .set = true → s.chip.objRefusal (whoOf a) o false none = none → ∀ v,
      ∃ t, Runs (.objSet a o v) s t ∧ only t ∧ t.chip.obj o = { x with count := v, arm := false } ∧ (t.chip.sync u).notes = (s.chip.sync u).notes) ∧
    (mayIssue a .arm = true → s.chip.objRefusal (whoOf a) o false none = none → ∀ l,
      ∃ t, Runs (.objArm a o l) s t ∧ only t ∧ checked t { x with arm := true, threshold := l } ∧ t.chip.out = .word old) ∧
    (mayIssue a .disarm = true → s.chip.objRefusal (whoOf a) o false none = none →
      ∃ t, Runs (.objDisarm a o) s t ∧ only t ∧ t.chip.obj o = { x with arm := false } ∧ (t.chip.sync u).notes = (s.chip.sync u).notes) ∧
    (∀ (h : HartId) c v, a = .hart h → s.chip.objRefusal (whoOf a) o false none = some c →
      (∃ t, Runs (.objRead a o) s t ∧ t.chip.objs = s.chip.objs ∧ (t.chip.hart h).exception = some 5) ∧
      (∃ t, Runs (.objSet a o v) s t ∧ t.chip.objs = s.chip.objs ∧ (t.chip.hart h).exception = some 7)) ∧
    (∀ k : CoreId, a = .de k → s.chip.objRefusal (whoOf a) o false none = none →
      ∃ t, Runs (.objRead a o) s t ∧ t.chip.objs = s.chip.objs ∧ t.chip.out = .fault Code.syncOp ∧ (t.chip.head (.sync u)).errStatus.getLsbD 1 = true)

/-- CLEAR_ALL of a block sets every object of it, and no other, as at power-on, and empties its notification queue; CLEAR_ALL_DONE applies what waited. NOTE_READ answers and removes the oldest notification, and the lowest pending one follows into the queue. NOTIFICATION_FORWARD sends it to its object's target, a hart or a vector, or discards it. It rests on the choices of log entries 66 and 159. -/
def Obligations.NotificationsAreClearedReadAndForwarded : Prop :=
  ∀ (s : State) (u : SyncUnit), s.chip.frozen = false → s.chip.pageRefusal (.meridian (syncDie u)) (.sync u) = none →
    let x := s.chip.sync u
    let none_ : Prop := ∀ e ∈ s.chip.objs, unitOf e.1 = u → e.2.notesPending = 0
    (x.clearBusy = false →
      ∃ t, Runs (.clearAll u) s t ∧ SameMemory s t ∧ (t.chip.sync u) = { x with notes := [], clearBusy := true } ∧
        (∀ q, t.chip.obj q = if unitOf q = u then {} else s.chip.obj q) ∧ ∀ n, u = .stack n → (t.chip.stack n).runQueue = []) ∧
    (x.clearBusy = true → x.held = [] →
      ∃ t, Runs (.clearAllDone u) s t ∧ OnlyChip s t ∧ t.chip.objs = s.chip.objs ∧ (t.chip.sync u) = { x with clearBusy := false }) ∧
    (∀ a o v sc, x.clearBusy = true → x.held = [(a, o, .signal v sc)] → unitOf o = u → s.chip.objRefusal (whoOf a) o true sc = none →
      ∃ t, Runs (.clearAllDone u) s t ∧ SameMemory s t ∧ (t.chip.sync u).held = [] ∧ (t.chip.sync u).clearBusy = false ∧
        (t.chip.obj o).count = (s.chip.obj o).count + v ∧ ∀ q, q ≠ o → t.chip.obj q = s.chip.obj q) ∧
    (x.notes = [] → ∃ t, Runs (.noteRead u) s t ∧ t = { s with chip := { s.chip with out := .word 0 } }) ∧
    (∀ n rest, x.notes = n :: rest → none_ →
      ∃ t, Runs (.noteRead u) s t ∧ t = { s with chip := { s.chip with syncs := t.chip.syncs, out := .word (2 ^ 31 + n) } } ∧ t.chip.sync u = { x with notes := rest } ∧
        ∀ w, w ≠ u → t.chip.sync w = s.chip.sync w) ∧
    (∀ n rest o y, x.notes = n :: rest → (o, y) ∈ s.chip.objs → unitOf o = u → s.chip.obj o = y → 0 < y.notesPending →
      (∀ e ∈ s.chip.objs, unitOf e.1 = u → 0 < e.2.notesPending → numOf o ≤ numOf e.1) →
      ∃ t, Runs (.noteRead u) s t ∧ SameMemory s t ∧ t.chip.out = .word (2 ^ 31 + n) ∧ t.chip.sync u = { x with notes := rest ++ [numOf o] } ∧
        t.chip.obj o = { y with notesPending := y.notesPending - 1 } ∧ ∀ q, q ≠ o → t.chip.obj q = s.chip.obj q) ∧
    (∀ n rest, x.notes = n :: rest → none_ → s.chip.running (syncDie u) = true →
      (Table.read none s.fw.routes (objIn u n) = none →
        ∃ t, Runs (.notificationForward u) s t ∧ t = { s with chip := { s.chip with syncs := t.chip.syncs } } ∧ t.chip.sync u = { x with notes := rest }) ∧
      (∀ w : Word32, Table.read none s.fw.routes (objIn u n) = some w →
        (w.getLsbD 31 = true → ∃ t, Runs (.notificationForward u) s t ∧ t.chip.sync u = { x with notes := rest } ∧
          t.fw = { s.fw with imsicSent := s.fw.imsicSent ++ [(⟨clip 8 ((w.extractLsb' 16 8).toNat / 16), clip 16 (w.extractLsb' 16 8).toNat⟩, w.extractLsb' 0 16)] }) ∧
        (w.getLsbD 31 = false → (w.extractLsb' 16 8).toNat = 0 → (w.extractLsb' 0 16).toNat < 128 → (s.chip.fn .pf).msixEnable = true →
          (Table.read 1 (s.chip.fn .pf).msixTable (4 * (w.extractLsb' 0 16).toNat + 3)).getLsbD 0 = false →
          ∃ t, Runs (.notificationForward u) s t ∧ t.fw = s.fw ∧ t.chip.sync u = { x with notes := rest } ∧
            (t.chip.fn .pf).sentMsix = (s.chip.fn .pf).sentMsix ++ [(w.extractLsb' 0 16).toNat])))

/-- Accesses of a running host-class core to stack memory, within one block of 64 bytes. Uncached: a load takes the bytes of DRAM, a store puts them there and nowhere else. Cached and held by its die's host caches: a load reads the block, a store changes the block alone and ends the other harts' reservations on it; the Zicbom operations write a dirty block to its stack, drop it, or both, where the envcfg controls of the hart's privilege allow them, and raise the illegal-instruction exception where they do not. LR reserves the block, and SC stores only under the reservation. An AMO answers the old element. A region that cannot be used raises the access-fault exception. It rests on the choices of log entries 51, 52, 67, 68 and 69. -/
def Obligations.HartsAccessStackMemory : Prop :=
  ∀ (s : State) (h : HartId) (m : StackId) (y : Nat), HartUp s h →
    let x := s.chip.hart h
    let w := whoOf (.hart h)
    let line (t : State) (b : Nat) : Option HostLine := t.chip.hostLine h.die b
    let hit (a : Nat) (write : Bool) (l : HostLine) : Prop := a < 2 ^ 41 ∧ line s (a / 64) = some l ∧ l.data.length = 64 ∧ s.chip.cachedRefusal w (a / 64 * 64) write = none
    let others (t : State) (b : Nat) : Prop := ∀ k, k ≠ h → t.chip.hart k =
      if k.die = h.die ∧ (s.chip.hart k).reservation = some b then { s.chip.hart k with reservation := none } else s.chip.hart k
    let value (l : HostLine) (a n : Nat) : Nat := leNat ((l.data.drop (a % 64)).take n)
    (∀ r : HartReq, let a := r.addr.toNat; let n := 2 ^ r.size.val
      a % 64 + n ≤ 64 →
      (r.cached = false → r.data = none → s.chip.findLine m (y / 256) = none → Reaches s w a false m y →
        ∃ t, Runs (.hartMemoryAccess h r) s t ∧ SameMemory s t ∧ t.chip.hart h = { x with rd := BitVec.ofNat 64 (leNat (dramBytes s m y n)), exception := none } ∧ ∀ k, k ≠ h → t.chip.hart k = s.chip.hart k) ∧
      (∀ v, r.cached = false → r.data = some v → s.chip.findLine m (y / 256) = none → Reaches s w a true m y →
        ∃ t, Runs (.hartMemoryAccess h r) s t ∧ OnlyDram m y n s t ∧ dramBytes t m y n = leBytes n v.toNat ∧ t.chip.hart h = { x with exception := none }) ∧
      (∀ l, r.cached = true → r.data = none → hit a false l →
        ∃ t, Runs (.hartMemoryAccess h r) s t ∧ OnlyHart h s t ∧ t.chip.hart h = { x with rd := BitVec.ofNat 64 (value l a n), exception := none }) ∧
      (∀ l v, r.cached = true → r.data = some v → hit a true l →
        ∃ t, Runs (.hartMemoryAccess h r) s t ∧ SameMemory s t ∧ t.chip.hart h = { x with exception := none } ∧ others t (a / 64) ∧
          line t (a / 64) = some { l with dirty := true, data := l.data.take (a % 64) ++ leBytes n v.toNat ++ l.data.drop (a % 64 + n) } ∧
          ∀ b, b ≠ a / 64 → line t b = line s b) ∧
      (a < 2 ^ 41 → regionUsable (Table.read 0 (s.chip.die h.die).regions (clip 2048 (a / 2 ^ 30))) = false →
        ∃ t, Runs (.hartMemoryAccess h r) s t ∧ SameMemory s t ∧ (t.chip.hart h).exception = some (if r.data.isSome then 7 else 5) ∧ (t.chip.hart h).rd = x.rd)) ∧
    (∀ r : AmoReq, ∀ e ∈ atomicOps, let n := if r.dbl then 8 else 4; let bits := 8 * n
      r.op.toNat = e.1 → e.1 ≤ 9 → y % n = 0 → s.chip.findLine m (y / 256) = none → line s (r.addr.toNat / 64) = none → Reaches s w r.addr.toNat true m y → QueuesQuiet s →
        let old := BitVec.ofNat bits (leNat (dramBytes s m y n))
        ∃ t, Runs (.hartAmo h r) s t ∧ OnlyDram m y n s t ∧ t.chip.hart h = { x with rd := BitVec.ofInt 64 (if r.dbl then (old.toNat : Int) else old.toInt), exception := none } ∧
          leNat (dramBytes t m y n) = (e.2 bits old (BitVec.ofNat bits r.operand.toNat) 0).toNat) ∧
    (∀ (addr : BitVec 56), let a := addr.toNat
      let writes := x.cboAllowed true true
      let drops := x.cboAllowed false true
      (∀ i ∈ [Instr.cboClean h addr, .cboFlush h addr], writes = none → ∃ t, Runs i s t ∧ OnlyHart h s t ∧ t.chip.hart h = { x with exception := some 2 }) ∧
      (drops = none → ∃ t, Runs (.cboInval h addr) s t ∧ OnlyHart h s t ∧ t.chip.hart h = { x with exception := some 2 }) ∧
      (a < 2 ^ 41 → (s.chip.cachedRefusal w (a / 64 * 64) false = none ∨ s.chip.cachedRefusal w (a / 64 * 64) true = none) →
        (line s (a / 64) = none → ∀ i ∈ (if writes = none then [] else [Instr.cboClean h addr, .cboFlush h addr]) ++ (if drops = none then [] else [.cboInval h addr]),
          ∃ t, Runs i s t ∧ OnlyHart h s t ∧ t.chip.hart h = { x with exception := none }) ∧
        (∀ l, line s (a / 64) = some l →
          (drops = some false → ∃ t, Runs (.cboInval h addr) s t ∧ SameMemory s t ∧ t.chip.hart h = { x with exception := none } ∧ line t (a / 64) = none ∧
            ∀ b, b ≠ a / 64 → line t b = line s b) ∧
          (l.dirty = true → l.data.length = 64 → y % 64 = 0 → s.chip.findLine m (y / 256) = none → Reaches s (whoOf (.meridian h.die)) (a / 64 * 64) true m y →
            (writes ≠ none → ∃ t, Runs (.cboClean h addr) s t ∧ OnlyDram m y 64 s t ∧ dramBytes t m y 64 = l.data ∧ line t (a / 64) = some { l with dirty := false } ∧
              t.chip.hart h = { x with exception := none }) ∧
            ∀ i ∈ (if writes = none then [] else [Instr.cboFlush h addr]) ++ (if drops = some true then [.cboInval h addr] else []),
              ∃ t, Runs i s t ∧ OnlyDram m y 64 s t ∧ dramBytes t m y 64 = l.data ∧ line t (a / 64) = none ∧ t.chip.hart h = { x with exception := none })))) ∧
    (∀ (addr : BitVec 56) (dbl : Bool) (v : Word64) (l : HostLine), let a := addr.toNat; let n := if dbl then 8 else 4
      (∃ t, Runs (.lr h addr dbl false) s t ∧ OnlyHart h s t ∧ t.chip.hart h = { x with exception := some 7 }) ∧
      (∃ t, Runs (.sc h addr dbl false v) s t ∧ OnlyHart h s t ∧ t.chip.hart h = { x with exception := some 7 }) ∧
      (a % n = 0 → hit a false l →
        ∃ t, Runs (.lr h addr dbl true) s t ∧ OnlyHart h s t ∧ t.chip.hart h =
          { x with reservation := some (a / 64), exception := none,
                   rd := BitVec.ofInt 64 (if dbl then (value l a 8 : Int) else (BitVec.ofNat 32 (value l a 4)).toInt) }) ∧
      (a % n = 0 → a < 2 ^ 41 → x.reservation ≠ some (a / 64) →
        ∃ t, Runs (.sc h addr dbl true v) s t ∧ OnlyHart h s t ∧ t.chip.hart h = { x with reservation := none, exception := none, rd := 1 }) ∧
      (a % n = 0 → hit a true l → x.reservation = some (a / 64) →
        ∃ t, Runs (.sc h addr dbl true v) s t ∧ SameMemory s t ∧ t.chip.hart h = { x with reservation := none, exception := none, rd := 0 } ∧ others t (a / 64) ∧
          line t (a / 64) = some { l with dirty := true, data := l.data.take (a % 64) ++ leBytes n v.toNat ++ l.data.drop (a % 64 + n) }))

/-- HOSTCORE_RUN and HOSTCORE_RESET start and hold a hart; a fence retires, and FENCE iorw,iorw first has the accepted tokens written; EMIT accepts a token and presents its event at the die's tap, an unassigned hart or a value with high bits takes the illegal-instruction exception; EMIT_TOKEN_WRITE writes the oldest token to stack memory, or to the server host through the copy channels. It rests on the choices of log entries 70, 71 and 72. -/
def Obligations.HartsRunFenceAndEmit : Prop :=
  ∀ (s : State) (h : HartId),
    let x := s.chip.hart h
    let tap := (s.chip.die h.die).tap.put 2 x.dome 1
    (RingUp s h.die →
      (∀ v : Bool, ∃ t, Runs (.hostcoreRun h v) s t ∧ OnlyHart h s t ∧ t.chip.hart h = { x with run := v, fetching := v && !x.inReset }) ∧
      (∃ t, Runs (.hostcoreReset h true) s t ∧ OnlyHart h s t ∧ (t.chip.hart h).inReset = true ∧ (t.chip.hart h).fetching = false ∧ (t.chip.hart h).reservation = none ∧ (t.chip.hart h).pc = 0) ∧
      (x.inReset = true → ∃ t, Runs (.hostcoreReset h false) s t ∧ OnlyHart h s t ∧
        t.chip.hart h = { x with inReset := false, pc := x.resetPc, priv := 3, fetching := x.run }) ∧
      (∀ tok rest, x.tokens = tok :: rest →
        (∀ m y, x.emitHost = false → x.emitDst.toNat % 4 = 0 → s.chip.findLine m (y / 256) = none → Reaches s (whoOf (.hart h)) x.emitDst.toNat true m y →
          ∃ t, Runs (.emitTokenWrite h) s t ∧ OnlyDram m y 4 s t ∧ dramBytes t m y 4 = leBytes 4 tok.toNat ∧ t.chip.hart h = { x with tokens := rest, emitDst := x.emitDst + 4 }) ∧
        (x.emitHost = true → x.emitFn = 0 → s.chip.route h.die 0 = true → (s.chip.die 0).ringOn = true → s.chip.link.link0Up = true →
          ∃ t, Runs (.emitTokenWrite h) s t ∧ t.chip.hart h = { x with tokens := rest, emitDst := x.emitDst + 4 } ∧ t.chip.dram = s.chip.dram ∧ t.chip.scratch = s.chip.scratch ∧
            t.chip.link.copyPending = s.chip.link.copyPending ++ [(.pf, .token h)] ∧ t.hostMem.bytes x.emitDst.toNat 4 = leBytes 4 tok.toNat ∧
            ∀ b, (b < x.emitDst.toNat ∨ x.emitDst.toNat + 4 ≤ b) → t.hostMem.byte b = s.hostMem.byte b))) ∧
    (HartUp s h →
      (∀ p q, ¬ (p = 15 ∧ q = 15) ∨ x.tokens = [] → ∃ t, Runs (.hartFence h p q) s t ∧ OnlyHart h s t ∧ t.chip.hart h = { x with exception := none }) ∧
      (∃ t, Runs (.hartFence h 15 15) s t ∧ (t.chip.hart h).tokens = [] ∧ (t.chip.hart h).exception = none) ∧
      (∀ v : Word64, x.assigned = true → x.emitFn = 0 → v.toNat < 2 ^ 32 → tap.2 = 1 →
        ∃ t, Runs (.emit h v) s t ∧ SameMemory s t ∧ t.chip.hart h = { x with tokens := x.tokens ++ [BitVec.ofNat 32 v.toNat], exception := none } ∧
          t.chip.die h.die = { s.chip.die h.die with tap := tap.1 } ∧ (∀ e, e ≠ h.die → t.chip.die e = s.chip.die e) ∧ ∀ k, k ≠ h → t.chip.hart k = s.chip.hart k) ∧
      (∀ v : Word64, (x.assigned = false ∨ 2 ^ 32 ≤ v.toNat) → ∃ t, Runs (.emit h v) s t ∧ OnlyHart h s t ∧ t.chip.hart h = { x with exception := some 2 }) ∧
      (∀ v : Word64, x.assigned = true →
        (v.toNat % 4 = 0 → ∃ t, Runs (.emitdstWrite h v) s t ∧ OnlyHart h s t ∧ t.chip.hart h = { x with emitDst := v, exception := none }) ∧
        (∃ t, Runs (.emitcfgWrite h v) s t ∧ OnlyHart h s t ∧
          t.chip.hart h = { x with emitHost := v.getLsbD 0, emitFn := v.extractLsb' 8 7, dfault := x.dfault && v.getLsbD 63, exception := none })) ∧
      (∀ v : Word64, x.assigned = false → ∃ t, Runs (.emitdstWrite h v) s t ∧ OnlyHart h s t ∧ t.chip.hart h = { x with exception := some 2 }))

/-! ## The fabric -/

/-- A port trains step by step: enabled, its lanes probed, equalised, locked by 64 good codewords each, its width agreed with the neighbour, and ACTIVE with the first Finder frame; a time-out or no lane left starts again. An ACTIVE link that loses a lane narrows to the lanes of R343 and keeps them; RETRAIN and WIDEN take it down to step 1. On an ACTIVE link a DATA flit in order, clean, advances the receive number and what it acknowledges leaves the retry buffer; a bad one only owes a NAK; another number delivers nothing. EGRESS_GRANT sends the one waiting packet whose credits suffice, with its DOWN bit by its channel and its ACTIVE count, keeps it for resending, takes its credits, and owes the credits of its buffer to the port it came in by; word 0 of a flit that leaves tells what the port expects, the NAK and the credits owed (R341, R354). It rests on the choices of log entries 96, 98, 99, 100 and 184. -/
def Obligations.LinksTrainAndCarryPackets : Prop :=
  (∀ (s : State) (p : PortId), s.chip.portLive p = true →
     let x := s.chip.port p
     let again : Port := { x with state := 1, lanes := 0, width := 0, candidate := 0, locks := [] }
     let good (w : Codeword) : Prop := w = .clean
     (x.enable = false → ∃ t, Runs (.portEnable p) s t ∧ OnlyPort p s t ∧ t.chip.port p = { x with enable := true, state := 1 }) ∧
     (∀ m, x.state = 1 → m &&& x.laneMask ≠ 0 → ∃ t, Runs (.detectProbe p m) s t ∧ OnlyPort p s t ∧ t.chip.port p = { x with state := 2, candidate := m &&& x.laneMask }) ∧
     (∀ m, x.state = 2 →
       (x.candidate &&& m ≠ 0 → ∃ t, Runs (.equaliseTimeout p m) s t ∧ OnlyPort p s t ∧ t.chip.port p = { x with state := 3, candidate := x.candidate &&& m, locks := [] }) ∧
       (x.candidate &&& m = 0 → ∃ t, Runs (.equaliseTimeout p m) s t ∧ OnlyPort p s t ∧ t.chip.port p = again)) ∧
     (x.state = 2 → x.candidate ≠ 0 → ∃ t, Runs (.receiveMarginMet p) s t ∧ OnlyPort p s t ∧ t.chip.port p = { x with state := 3, locks := [] }) ∧
     (∀ (l : Fin 4) w f, x.state = 3 → x.candidate.getLsbD l.val = true → good w →
       ∃ t, Runs (.idleFlit p l w f) s t ∧ OnlyPort p s t ∧ t.chip.port p = { x with locks := (t.chip.port p).locks, state := (t.chip.port p).state } ∧
         (∀ k, Table.read 0 (t.chip.port p).locks k = if k = l then Nat.min 64 (Table.read 0 x.locks l + 1) else Table.read 0 x.locks k) ∧
         ((∀ k : Fin 4, x.candidate.getLsbD k.val = true → Table.read 0 (t.chip.port p).locks k = 64) → (t.chip.port p).state = 4) ∧
         ((∃ k : Fin 4, x.candidate.getLsbD k.val = true ∧ Table.read 0 (t.chip.port p).locks k ≠ 64) → (t.chip.port p).state = 3)) ∧
     (∀ f m, x.state = 4 → let both := x.candidate &&& m; let r := lanesKept both
       (both ≠ 0 → ∃ t, Runs (.ctrlFlit p f m) s t ∧ SameMemory s t ∧ t.chip.port p = { x with state := 5, candidate := both, lanes := r.1, width := r.2 } ∧
         ∀ k, k ≠ p → t.chip.port k = s.chip.port k) ∧
       (both = 0 → ∃ t, Runs (.ctrlFlit p f m) s t ∧ OnlyPort p s t ∧ t.chip.port p = again)) ∧
     (∀ f, (x.state = 5 ∨ x.state = 6) → ∃ t, Runs (.finderFrame p f) s t ∧ SameMemory s t ∧ t.chip.port p = { x with nbr := some f, nbrValid := true, state := 6, creditOwed := (t.chip.port p).creditOwed } ∧
        (x.state = 6 → (t.chip.port p).creditOwed = x.creditOwed) ∧
        (x.state = 5 → (∀ q, (s.chip.port q).queue = []) → ∀ vc, Table.read 0 (t.chip.port p).creditOwed vc = 2048) ∧
       ∀ k, k ≠ p → t.chip.port k = s.chip.port k) ∧
     ((x.state = 5 ∨ x.state = 6) → ∃ t f, Runs (.finderSend p) s t ∧ OnlyPort p s t ∧ t.chip.port p = { x with finderSent := some f, sent := (t.chip.port p).sent, nakOwed := false, creditOwed := (t.chip.port p).creditOwed } ∧ Told x (t.chip.port p) ∧
       f.uid = Config.uid ∧ f.port.toNat = p.val ∧ f.lanes = x.lanes ∧ f.width = x.width ∧ f.moduleId = s.chip.fabric.moduleId ∧ f.idValid = s.chip.fabric.idValid ∧ f.direction = x.direction) ∧
     (x.state = 6 → ∃ t, Runs (.finderLost p) s t ∧ SameMemory s t ∧ t.chip.ports = s.chip.ports ∧ (t.chip.head (.kuzopaPort p)).errStatus.getLsbD 4 = true) ∧
     (x.state ≠ 0 → x.state ≠ 6 → ∃ t, Runs (.trainingTimeout p) s t ∧ OnlyPort p s t ∧ t.chip.port p = again) ∧
     (∀ i ∈ [Instr.retrain p, .widen p], x.enable = true → x.queue = [] →
       ∃ t, Runs i s t ∧ SameMemory s t ∧ (t.chip.port p).state = 1 ∧ (t.chip.port p).lanes = 0 ∧ (t.chip.port p).retry = [] ∧ (t.chip.port p).credits = [] ∧
         (x.state = 6 → (t.chip.head (.kuzopaPort p)).errStatus.getLsbD 1 = true) ∧ ∀ k, k ≠ p → t.chip.port k = s.chip.port k) ∧
     (∀ l : Fin 4, let left := x.candidate &&& ~~~(BitVec.ofNat 4 (2 ^ l.val)); let r := lanesKept left
       (x.state = 6 → r.1 ≠ x.lanes → left ≠ 0 → x.resends < 15 →
         ∃ t, Runs (.laneLockLost p l) s t ∧ SameMemory s t ∧ t.chip.port p = { x with candidate := left, lanes := r.1, width := r.2, uncorr := [], resends := if x.retry = [] then x.resends else x.resends + 1 } ∧
           (t.chip.head (.kuzopaPort p)).errStatus.getLsbD 0 = true ∧ ∀ k, k ≠ p → t.chip.port k = s.chip.port k) ∧
       (x.state = 6 → r.1 = x.lanes → ∃ t, Runs (.laneLockLost p l) s t ∧ OnlyPort p s t ∧ t.chip.port p = { x with candidate := left }))) ∧
  (∀ (s : State) (p : PortId), LinkUp s p →
     let x := s.chip.port p
     (∀ (l : Fin 4) (f : FlitHead), x.lanes.getLsbD l.val = true → f.crUnits = 0 → f.nak = false → f.ack = x.txSeq →
       (f.seq = x.rxSeq → ∃ t, Runs (.dataFlit p l .clean f []) s t ∧ OnlyPort p s t ∧
         t.chip.port p = { x with rxSeq := x.rxSeq + 1, nakOwed := false, retry := [], resends := if x.retry = [] then x.resends else 0 }) ∧
       (∀ ms, f.seq ≠ x.rxSeq → ∃ t, Runs (.dataFlit p l .clean f ms) s t ∧ OnlyPort p s t ∧
         t.chip.port p = { x with retry := [], resends := if x.retry = [] then x.resends else 0 })) ∧
     (∀ (l : Fin 4) (f : FlitHead) ms, x.lanes.getLsbD l.val = true →
       ∃ t, Runs (.dataFlit p l .badCrc f ms) s t ∧ OnlyPort p s t ∧ t.chip.port p = { x with nakOwed := true }) ∧
     (∀ (vc : Fin 4) (input : Nat) (m : FabricReq), let n := msgLength (.req m); let act := if h : input < 16 then (s.chip.port ⟨input, h⟩).activeIn else 1
       x.mgmtBuf = none → x.retry.length < 256 → x.orientOk = true → x.queue = [(vc, input, .req m)] → vc.val ≤ 1 → input ≤ 16 → m.data.length ≤ 256 → 1 ≤ act →
       n ≤ 16 * Table.read 0 x.credits vc →
       ∃ t, Runs (.egressGrant p vc) s t ∧ t = { s with chip := { s.chip with ports := t.chip.ports } } ∧ (∀ k, k ≠ p → k.val ≠ input → t.chip.port k = s.chip.port k) ∧
         (∀ k, k ≠ p → k.val = input → let y := s.chip.port k; let c : Fin 4 := if m.down then 1 else 0
           t.chip.port k = { y with creditOwed := (t.chip.port k).creditOwed } ∧ ∀ v, Table.read 0 (t.chip.port k).creditOwed v = Table.read 0 y.creditOwed v + if v = c then n / 16 else 0) ∧
         (p.val ≠ input → Told x (t.chip.port p)) ∧ (t.chip.port p).queue = [] ∧ (t.chip.port p).txSeq = x.txSeq + 1 ∧
         (t.chip.port p).retry = x.retry ++ [⟨x.txSeq, [.req { m with down := decide (vc.val = 1), active := BitVec.ofNat 12 (Nat.min 4095 act) }]⟩] ∧
         Table.read 0 (t.chip.port p).credits vc = Table.read 0 x.credits vc - n / 16))

/-- MODULE_ID and route entries take their written values but for 0xFFF and reserved bits; RELEASE_MGR ends the claim. MGMT_GO sends the packet of MGMT_BUF out of the first port of its list, or keeps it in that port's buffer while the link is busy, and with no hops applies it here and puts the response in MGMT_BUF; while one is out it does nothing. A management READ or WRITE at the end of its hops is applied and its response goes back by the port it came from; a locked module refuses it and changes nothing; a response that is home fills MGMT_BUF. It rests on the choices of log entries 101, 102, 104 and 105. -/
def Obligations.ManagementReadsAndWrites : Prop :=
  ∀ (s : State), s.chip.frozen = false →
    let f := s.chip.fabric
    let fabric (t : State) (g : Fabric) : Prop := t = { s with chip := { s.chip with fabric := g } }
    (∀ v : Word32, ∃ t, Runs (.moduleIdWrite v) s t ∧
      fabric t (if (v.extractLsb' 0 12).toNat = 0xFFF then f else { f with idValid := v.getLsbD 12, moduleId := v.extractLsb' 0 12 })) ∧
    (∀ n (v : Word32), ∃ t, Runs (.routeEntryWrite n v) s t ∧ fabric t { f with routes := t.chip.fabric.routes } ∧
      ∀ k, Table.read 0 t.chip.fabric.routes k = if k = n then v &&& 0x8003FFFF else Table.read 0 f.routes k) ∧
    (∃ t, Runs .releaseMgr s t ∧ fabric t { f with mgrClaimed := false, mgrUid := 0 }) ∧
    (f.mgmtBusy = false → f.mgmtLock = false → f.mgrClaimed = false → let m := mgmtOf f.mgmtBuf
      m.op = 0x31 → m.hops = 0 → m.ptr = 0 → m.target.extractLsb' 0 2 = 1 → m.flags.getLsbD 0 = true →
      ∃ t, Runs .mgmtGo s t ∧ t.chip.fabric.mgmtBusy = false ∧ t.chip.fabric.mgrClaimed = true ∧ t.chip.fabric.mgrUid = m.srcUid ∧ mgmtOf t.chip.fabric.mgmtBuf = { m with op := 0x38, fault := 0 } ∧
        ∀ k, Table.read 0 t.chip.fabric.routes k = if k = clip 4096 (m.offset.toNat / 4) then m.data &&& 0x8003FFFF else Table.read 0 f.routes k) ∧
    (f.mgmtBusy = true → Runs .mgmtGo s s) ∧
    (f.mgmtBusy = false → let m := mgmtOf f.mgmtBuf; let q : PortId := clip 16 (m.fwd.toNat / 16 ^ m.ptr.toNat % 16); let y := s.chip.port q; let on_ := { m with ptr := m.ptr + 1 }
      m.ptr.toNat < m.hops.toNat → (s.chip.die (portDie q)).ringOn = true →
      ∃ t, Runs .mgmtGo s t ∧ t = { s with chip := { s.chip with fabric := { f with mgmtBusy := true }, ports := t.chip.ports } } ∧ (∀ k, k ≠ q → t.chip.port k = s.chip.port k) ∧
        t.chip.port q = if y.state = 6 ∧ y.retry.length < 256 then { y with retry := y.retry ++ [⟨y.txSeq, [.mgmt on_]⟩], txSeq := y.txSeq + 1, sent := (t.chip.port q).sent, nakOwed := false, creditOwed := (t.chip.port q).creditOwed }
          else if y.mgmtBuf = none then { y with mgmtBuf := some on_ } else y) ∧
    (f.mgmtBusy = false → let m := mgmtOf f.mgmtBuf
      m.hops.toNat ≤ m.ptr.toNat →
      (f.mgmtLock = false → m.op = 0x30 → m.target.extractLsb' 0 2 = 1 → ∃ t, Runs .mgmtGo s t ∧ SameMemory s t ∧ t.chip.ports = s.chip.ports ∧
        t.chip.fabric = { f with mgmtBuf := t.chip.fabric.mgmtBuf } ∧
        mgmtOf t.chip.fabric.mgmtBuf = { m with op := 0x38, fault := 0, data := Table.read 0 f.routes (clip 4096 (m.offset.toNat / 4)) }) ∧
      (f.mgmtLock = true → ∃ t, Runs .mgmtGo s t ∧ SameMemory s t ∧ t.chip.fabric = { f with mgmtBuf := t.chip.fabric.mgmtBuf } ∧
        mgmtOf t.chip.fabric.mgmtBuf = { m with op := 0x38, fault := Code.mgmtDenied })) ∧
    (∀ (p : PortId) (m : MgmtPacket), LinkUp s p → (s.chip.port p).mgmtBuf = none → (s.chip.port p).retry.length < 256 → m.ptr = m.hops → m.ptr ≠ 0 →
      m.target.extractLsb' 0 2 = 1 → (s.chip.die (portDie p)).coel.armed = false →
      let back (t : State) (fault : BitVec 16) (data : Word32) : Prop := ∃ r : MgmtPacket, r = { m with op := 0x38, fault := fault, data := data, ptr := m.ptr - 1, rev := r.rev } ∧
        (r.rev.extractLsb' (4 * m.ptr.toNat) 4).toNat = p.val ∧
        t.chip.port p = { s.chip.port p with retry := (s.chip.port p).retry ++ [⟨(s.chip.port p).txSeq, [.mgmt r]⟩], txSeq := (s.chip.port p).txSeq + 1,
                                             sent := (t.chip.port p).sent, nakOwed := false, creditOwed := (t.chip.port p).creditOwed } ∧ Told (s.chip.port p) (t.chip.port p)
      let entry := Table.read 0 f.routes (clip 4096 (m.offset.toNat / 4))
      (f.mgmtLock = false → ∃ t, Runs (.mgmtRead p m) s t ∧ OnlyPort p s t ∧ back t 0 entry) ∧
      (f.mgmtLock = false → f.mgrClaimed = true → m.srcUid = f.mgrUid → ∃ t, Runs (.mgmtWrite p m) s t ∧ SameMemory s t ∧ back t 0 m.data ∧
        Table.read 0 t.chip.fabric.routes (clip 4096 (m.offset.toNat / 4)) = m.data &&& 0x8003FFFF) ∧
      (f.mgmtLock = true → ∃ t, Runs (.mgmtWrite p m) s t ∧ t.chip.fabric = f ∧ back t Code.mgmtDenied m.data)) ∧
    (∀ (p : PortId) (m : MgmtPacket), LinkUp s p → m.ptr = 0 → f.mgmtBusy = true → (m.fault = 0 ∨ ∀ d, (s.chip.die d).coel.armed = false) →
      ∃ t, Runs (.mgmtResponse p m) s t ∧ SameMemory s t ∧ t.chip.fabric.mgmtBusy = false ∧ mgmtOf t.chip.fabric.mgmtBuf = { m with op := 0x38 } ∧ t.chip.ports = s.chip.ports) ∧
    (∀ p, s.chip.portLive p = true → ∃ t, Runs (.mgmtDiscard p) s t ∧ OnlyPort p s t ∧ t.chip.port p = { s.chip.port p with mgmtBuf := none }) ∧
    (∃ t, Runs .mgmtTimeout s t ∧ SameMemory s t ∧ t.chip.fabric = { f with mgmtBusy := false })

/-- Requests of another module, admitted, act on this one's memory and objects and are answered: a load by the bytes, a store, a reduction and a signal by an acknowledgement, an atomic by the old element, a doorbell until 16 wait. A module that admits none answers INGRESS_CLOSED. Responses and time-outs end their transaction and reach its waiter; doorbells are sent and taken in order, and one to MODULE 0xFFF rings this module's own die without entering the fabric. It rests on the choices of log entries 97, 103, 105 and 107. -/
def Obligations.RemoteRequestsAreServedAndAnswered : Prop :=
  ∀ (s : State) (p : PortId) (m : FabricReq),
    let w := remoteWho p m
    let a := localOf m.addr
    let n := m.lenM1.toNat + 1
    (Admitted s p m →
      (∀ st y, a % 64 + n ≤ 64 → s.chip.findLine st (y / 256) = none → Reaches s w a false st y →
        ∃ t, Runs (.remoteLoad p m) s t ∧ SameMemory s t ∧ Responds s t m 0x21 0 (dramBytes s st y n)) ∧
      (∀ st y, 1 ≤ m.data.length → a % 64 + m.data.length ≤ 64 → s.chip.findLine st (y / 256) = none → Reaches s w a true st y →
        ∃ t, Runs (.remoteStore p m) s t ∧ OnlyDram st y m.data.length s t ∧ dramBytes t st y m.data.length = m.data ∧ Responds s t m 0x22 0 []) ∧
      (∀ st y, ∀ e ∈ atomicOps, ∀ f ∈ [11, 12], let size := elemBits f / 8
        m.aop.toNat = e.1 → m.fmt.toNat = f → y % size = 0 → s.chip.findLine st (y / 256) = none → Reaches s w a true st y →
        (e.1 ≤ 6 → m.data.length = size → ∃ t, Runs (.remoteReduce p m) s t ∧ SameMemory s t ∧ Responds s t m 0x22 0 [] ∧
          (t.chip.stack st).redQueue = [⟨.remote m.src, y, m.aop, m.fmt, m.data, 0, false, portDie p, false⟩]) ∧
        ((e.1 = 10 → f = 12) → ∃ t, Runs (.remoteAtomic p m) s t ∧ OnlyDram st y size s t ∧ Responds s t m 0x24 0 (dramBytes s st y size) ∧
          leNat (dramBytes t st y size) =
            (e.2 (8 * size) (BitVec.ofNat (8 * size) (leNat (dramBytes s st y size))) (BitVec.ofNat (8 * size) m.operand.toNat) (BitVec.ofNat (8 * size) m.operand2.toNat)).toNat)) ∧
      (∀ o, place a = .obj o 0 → s.chip.objRefusal w o true none = none → (s.chip.sync (unitOf o)).clearBusy = false →
        ∃ t, Runs (.remoteSignal p m) s t ∧ SameMemory s t ∧ (t.chip.obj o).count = (s.chip.obj o).count + m.operand ∧ (∀ q, q ≠ o → t.chip.obj q = s.chip.obj q) ∧
          Responds s t m 0x22 0 []) ∧
      ((s.chip.die (portDie p)).dbRx.length < 16 →
        ∃ t, Runs (.remoteDoorbell p m) s t ∧ SameMemory s t ∧ (t.chip.die (portDie p)).dbRx = (s.chip.die (portDie p)).dbRx ++ [(m.src, m.operand.extractLsb' 0 32)] ∧ Responds s t m 0x22 0 [])) ∧
    (LinkUp s p → s.chip.fabric.idValid = true → m.dst = s.chip.fabric.moduleId → m.src ≠ s.chip.fabric.moduleId → s.chip.fabric.ingressEn = false → Routed s m.src →
      (s.chip.die (portDie p)).coel.armed = false →
      ∃ t, Runs (.remoteStore p m) s t ∧ SameMemory s t ∧ t.chip.objs = s.chip.objs ∧ Responds s t m 0x22 Code.ingressClosed []) ∧
    (∀ (r : FabricRsp) (x : Txn), let d : DieId := clip 8 r.die.toNat
      LinkUp s p → s.chip.fabric.idValid = true → r.dst = s.chip.fabric.moduleId → r.src ≠ s.chip.fabric.moduleId → s.chip.route (portDie p) d = true →
      (s.chip.die d).txns.find? (fun t => t.num = r.txn) = some x → x.waiter = .doorbell d → (r.fault = 0 ∨ (s.chip.die d).coel.armed = false) →
      ∀ i ∈ [Instr.loadRsp p r, .ack p r, .atomicRsp p r],
        ∃ t, Runs i s t ∧ SameMemory s t ∧ t.chip.out = (if r.fault = 0 then .bytes r.data else .fault r.fault) ∧
          t.chip.die d = { s.chip.die d with txns := (s.chip.die d).txns.filter (fun t => t.num ≠ r.txn) } ∧ ∀ e, e ≠ d → t.chip.die e = s.chip.die e) ∧
    (∀ (d : DieId) (k : BitVec 16) (x : Txn), RingUp s d → (s.chip.die d).txns.find? (fun t => t.num = k) = some x → x.waiter = .doorbell d → (s.chip.die d).coel.armed = false →
      ∃ t, Runs (.respTimeout d k) s t ∧ SameMemory s t ∧ t.chip.out = .fault Code.respTimeout ∧
        t.chip.die d = { s.chip.die d with txns := (s.chip.die d).txns.filter (fun t => t.num ≠ k), retired := (s.chip.die d).retired ++ [k] }) ∧
    (∀ (d : DieId) (v : Word32), s.chip.frozen = false → d ∈ [1, 2, 5, 6] → (∀ e, (s.chip.die e).ringOn = true) → (s.chip.die d).dbTxDst.toNat = 0xFFF → (s.chip.die d).dbRx.length < 16 →
      ∃ t, Runs (.dbTxDataWrite d v) s t ∧ SameMemory s t ∧ t.chip.ports = s.chip.ports ∧
        t.chip.die d = { s.chip.die d with dbRx := (s.chip.die d).dbRx ++ [(if s.chip.fabric.idValid then s.chip.fabric.moduleId else 0xFFF, v)] }) ∧
    (∀ (d : DieId) (v : Word32), s.chip.frozen = false → d ∈ [1, 2, 5, 6] → (∀ e, (s.chip.die e).ringOn = true) →
      (s.chip.die d).dbTxDst.toNat ≠ 0xFFF → (s.chip.fabric.idValid = true → (s.chip.die d).dbTxDst ≠ s.chip.fabric.moduleId) →
      (s.chip.fabric.idValid = true → (s.chip.die d).txns.length + (s.chip.die d).retired.length < 65536 → Routed s (s.chip.die d).dbTxDst →
        ∃ t q vc r, Runs (.dbTxDataWrite d v) s t ∧ SameMemory s t ∧ (t.chip.port q).queue = (s.chip.port q).queue ++ [(vc, 16, .req r)] ∧
          r.op = 6 ∧ r.dst = (s.chip.die d).dbTxDst ∧ r.src = s.chip.fabric.moduleId ∧ r.operand.toNat = v.toNat ∧ r.txn ∉ (s.chip.die d).retired ∧
          (t.chip.die d).txns = (s.chip.die d).txns ++ [⟨r.txn, .doorbell d, r.addr, 0⟩]) ∧
      (s.chip.fabric.idValid = false → (s.chip.die d).coel.armed = false → ∃ t, Runs (.dbTxDataWrite d v) s t ∧ t.chip.ports = s.chip.ports ∧ t.chip.out = .fault Code.idUnassigned)) ∧
    (∀ d, s.chip.frozen = false →
      (∀ e rest, (s.chip.die d).dbRx = e :: rest → ∃ t, Runs (.dbRxSrcRead d) s t ∧ SameMemory s t ∧ t.chip.out = .word (2 ^ 31 + e.1.toNat) ∧
        t.chip.die d = { s.chip.die d with dbRx := rest, dbRxData := e.2 }) ∧
      ((s.chip.die d).dbRx = [] → ∃ t, Runs (.dbRxSrcRead d) s t ∧ t = { s with chip := { s.chip with out := .word 0 } }))

/-! ## The host link -/

/-- PERST# rises and the strap is sampled; a trained link has its width and rate. PERST#, a hot reset, a link going down and an FLR reset the functions they reach, and no other: their configuration and vectors go, their mailbox keeps its block, a queue whose rings lie with them is stopped with its entries and owed records dropped. It rests on the choices of log entries 113 and 114. -/
def Obligations.HostLinkTrainsAndResets : Prop :=
  ∀ (s : State), HostUp s →
    let x := s.chip.link
    let isOnly (t : State) (l : HostLink) : Prop := t = { s with chip := { s.chip with link := l } }
    let resets (t : State) (gone : HostFn → Prop) : Prop :=
      OnlyLink s t ∧ (∀ f, (gone f → FnReset (s.chip.fn f) (t.chip.fn f)) ∧ (¬ gone f → t.chip.fn f = s.chip.fn f)) ∧
      t.chip.link.vfDome = x.vfDome ∧ t.chip.link.bifurcated = x.bifurcated ∧
      ∀ k q, s.fw.queue k = some q →
        (∀ f, q.configured = true → q.hostRings = true → q.fn = some f → gone f →
          t.fw.queue k = some { q with stopped := true, subHead := q.subTail, owed := [], cancels := [] }) ∧
        ((∀ f, q.fn = some f → ¬ gone f) → t.fw.queue k = some q)
    (x.perst = true → ∀ b, ∃ t, Runs (.perstDeassert b) s t ∧ isOnly t { x with perst := false, bifurcated := b }) ∧
    (x.perst = false → ∀ (w : BitVec 5) (v : BitVec 3), w.toNat ∈ [1, 2, 4, 8] ∨ (w = 16 ∧ x.bifurcated = false) → v.toNat ≤ 3 →
      (∃ t, Runs (.hostLinkUp 0 w v) s t ∧ isOnly t { x with link0Up := true, width := w, speed := v }) ∧
      (x.bifurcated = true → ∃ t, Runs (.hostLinkUp 1 w v) s t ∧ isOnly t { x with link1Up := true, speed1 := v })) ∧
    (∃ t, Runs .perst s t ∧ resets t (fun _ => True) ∧ t.chip.link.perst = true ∧ t.chip.link.link0Up = false ∧ t.chip.link.link1Up = false) ∧
    (∀ l, ∀ i ∈ [Instr.hotReset l, .hostLinkDown l], ∃ t, Runs i s t ∧ resets t (fun f => s.chip.fnLink f = l) ∧ t.chip.link.perst = x.perst ∧
      t.chip.link.link0Up = (x.link0Up && decide (l ≠ 0)) ∧ t.chip.link.link1Up = (x.link1Up && decide (l ≠ 1))) ∧
    (∀ n, s.chip.fnUp (.vf n) = true → ∃ t, Runs (.vfFlr n) s t ∧ resets t (fun f => f = .vf n) ∧ t.chip.link.link0Up = x.link0Up ∧ t.chip.link.vfEnable = x.vfEnable) ∧
    (s.chip.fnUp .pf = true → ∃ t, Runs .pfFlr s t ∧ resets t (fun f => f ≠ .pf1) ∧ t.chip.link.link0Up = x.link0Up ∧ t.chip.link.vfEnable = false)

/-- A configuration request is answered with retry until CD0 runs firmware, a missing function with unsupported, and a write sets its field in that function alone. VF_DOME is written unless a queue names one of its functions. The answer to a copy channel's oldest write frees it; a refusal is counted and sets DFAULT of the hart whose token it was. It rests on the choices of log entries 110, 111 and 112. -/
def Obligations.HostLinkConfigures : Prop :=
  ∀ (s : State), HostUp s →
    let x := s.chip.link
    let fnOnly (t : State) (f : HostFn) (y : Function) : Prop :=
      t = { s with chip := { s.chip with link := t.chip.link, out := .none } } ∧ t.chip.fn f = y ∧ ∀ g, g ≠ f → t.chip.fn g = s.chip.fn g
    (∀ f c, (if s.chip.fnLink f = 0 then x.link0Up else x.link1Up) = true →
      ((s.chip.die 0).fwState = 0 → ∃ t, Runs (.configRequest f c) s t ∧ t = { s with chip := { s.chip with out := .retryStatus } }) ∧
      ((s.chip.die 0).fwState ≠ 0 → s.chip.fnExists f = false → ∃ t, Runs (.configRequest f c) s t ∧ t = { s with chip := { s.chip with out := .unsupported } })) ∧
    (∀ f, s.chip.fnUp f = true → (s.chip.die 0).fwState = 1 →
      (∀ v, ∃ t, Runs (.configRequest f (.d3hot v)) s t ∧ fnOnly t f { s.chip.fn f with d3hot := v }) ∧
      (∀ n, (f = .pf ∧ 30 ≤ n ∧ n ≤ 36) ∨ (f ≠ .pf ∧ f ≠ .pf1 ∧ 28 ≤ n ∧ n ≤ 30) →
        ∃ t, Runs (.configRequest f (.bar2Size n)) s t ∧ fnOnly t f { s.chip.fn f with bar2SizeLog2 := n }) ∧
      (f ≠ .pf1 → ∃ t, Runs (.configRequest f (.msixEnable false)) s t ∧ fnOnly t f { s.chip.fn f with msixEnable := false })) ∧
    (s.chip.fnUp .pf = true → (s.chip.die 0).fwState = 1 →
      ∃ t, Runs (.configRequest .pf (.vfEnable true)) s t ∧ t = { s with chip := { s.chip with out := .none, link := { x with vfEnable := true } } }) ∧
    (∀ (k : Fin 16) (v : Word32), let vf (j : Fin 4) : Fin 64 := clip 64 (4 * k.val + j.val)
      ((∀ e ∈ s.fw.queues, ∀ q j, e.2 = some q → q.configured = true → q.fn ≠ some (.vf (vf j))) →
        ∃ t, Runs (.vfDomeWrite k v) s t ∧ t = { s with chip := { s.chip with link := { x with vfDome := t.chip.link.vfDome } } } ∧
          (∀ j, Table.read 0 t.chip.link.vfDome (vf j) = v.extractLsb' (8 * j.val) 8 &&& 0x8F) ∧
          ∀ n, (∀ j, n ≠ vf j) → Table.read 0 t.chip.link.vfDome n = Table.read 0 x.vfDome n) ∧
      (∀ m q j, s.fw.queue m = some q → q.configured = true → q.fn = some (.vf (vf j)) → Table.read 0 x.vfDome (vf j) ≠ v.extractLsb' (8 * j.val) 8 &&& 0x8F →
        ∃ t, Runs (.vfDomeWrite k v) s t ∧ t = { s with chip := { s.chip with heads := t.chip.heads } } ∧ (t.chip.head .hostlink).errStatus.getLsbD 3 = true)) ∧
    (∀ e rest, x.copyPending = e :: rest →
      (∃ t, Runs (.copyChannelResponse true) s t ∧ t = { s with chip := { s.chip with link := { x with copyPending := rest } } }) ∧
      (∃ t, Runs (.copyChannelResponse false) s t ∧ SameMemory s t ∧ t.chip.link.copyPending = rest ∧ t.chip.link.copyFailed = x.copyFailed + 1 ∧
        (∀ h, e.2 = .token h → t.chip.hart h = { s.chip.hart h with dfault := true }) ∧ ∀ h, e.2 ≠ .token h → t.chip.hart h = s.chip.hart h))

/-- BAR2 reads, writes and atomics reach stack memory through the function's window: a read answers the bytes, a write replaces them, an atomic answers the old value and leaves the new one; a poisoned write stores nothing and is counted. It rests on the choices of log entries 108 and 109. -/
def Obligations.BarTwoReachesStackMemory : Prop :=
  ∀ (s : State) (f : HostFn) (st : StackId) (y : Nat) (off : BitVec 36), BarUp s f → f ≠ .pf1 →
    let a := s.chip.bar2Addr f off.toNat
    let reaches (n : Nat) (write : Bool) : Prop :=
      off.toNat + n ≤ 2 ^ s.chip.bar2Log f ∧ s.chip.findLine st (y / 256) = none ∧ Reaches s (whoOf (.host f)) a write st y
    (∀ n, 1 ≤ n → a % 64 + n ≤ 64 → reaches n false → ∃ t, Runs (.bar2Read f off n) s t ∧ SameMemory s t ∧ t.chip.out = .bytes (dramBytes s st y n)) ∧
    (∀ bs : List Byte, QueuesQuiet s → 1 ≤ bs.length → a % 64 + bs.length ≤ 64 → reaches bs.length true →
      ∃ t, Runs (.bar2Write f off bs false) s t ∧ OnlyDram st y bs.length s t ∧ dramBytes t st y bs.length = bs ∧ t.chip.out = .none) ∧
    (∀ bs : List Byte, QueuesQuiet s → 1 ≤ bs.length → bs.length ≤ 512 → off.toNat + bs.length ≤ 2 ^ s.chip.bar2Log f →
      ∃ t, Runs (.bar2Write f off bs true) s t ∧ SameMemory s t ∧ t.chip.link = { s.chip.link with poisonedTlp := s.chip.link.poisonedTlp + 1 } ∧
        (t.chip.head .hostlink).errStatus.getLsbD 1 = true) ∧
    (∀ x : PcieAtomic, let n := 2 ^ x.sizeLog2.val; let old := leNat (dramBytes s st y n)
      QueuesQuiet s → n = 8 ∨ (n = 4 ∧ x.kind ≠ .cas) → y % n = 0 → reaches n true →
      ∃ t, Runs (.atomicOp f off x) s t ∧ OnlyDram st y n s t ∧ t.chip.out = .bytes (dramBytes s st y n) ∧
        leNat (dramBytes t st y n) = (match x.kind with
          | .fetchAdd => (old + x.operand.toNat) % 2 ^ (8 * n)
          | .swap => x.operand.toNat % 2 ^ (8 * n)
          | .cas => if old = x.operand.toNat then x.newValue.toNat else old))

/-- BAR0 reads and writes the function's mailbox, and the physical function's register pages; a doorbell moves its queue's tail, breaks a queue it overruns, and at a wrong place only records DOORBELL_BAD; MAILBOX_GO submits the block; VIEW_SEL keeps its fields. -/
def Obligations.HostPagesTakeTheirWrites : Prop :=
  ∀ (s : State) (f : HostFn), s.chip.barOpen f = true → let x := s.chip.fn f
    let fnOnly (t : State) (y : Function) : Prop :=
      t = { s with chip := { s.chip with link := t.chip.link, out := t.chip.out } } ∧ t.chip.fn f = y ∧ ∀ g, g ≠ f → t.chip.fn g = s.chip.fn g
    (f ≠ .pf → ∀ (i : Fin 16) (v : Word32), let o : BitVec 26 := BitVec.ofNat 26 (4 * i.val)
      (∃ t, Runs (.bar0Access f o .read32) s t ∧ t = { s with chip := { s.chip with out := .word (x.block.extractLsb' (32 * i.val) 32).toNat } }) ∧
      (x.busy = false → ∃ t, Runs (.bar0Access f o (.write (.w32 v))) s t ∧ fnOnly t { x with block := (t.chip.fn f).block } ∧
        ∀ j : Fin 16, (t.chip.fn f).block.extractLsb' (32 * j.val) 32 = if j = i then v else x.block.extractLsb' (32 * j.val) 32) ∧
      (x.busy = true → ∃ t, Runs (.bar0Access f o (.write (.w32 v))) s t ∧ fnOnly t { x with callBusy := true })) ∧
    (f = .pf → QueuesQuiet s → ∀ v : Word32,
      (∃ t, Runs (.bar0Access .pf 0x1110C (.write (.w32 v))) s t ∧ t = { s with chip := { s.chip with out := .none, power := { s.chip.power with pLimit := v } } }) ∧
      (∃ t, Runs (.bar0Access .pf 0x1110C .read32) s t ∧ t = { s with chip := { s.chip with out := .word s.chip.power.pLimit.toNat } })) ∧
    (∀ page (v : Word32) n q, f ≠ .pf1 → s.reach.pageQueue f page = some n → s.fw.queue n = some q → q.configured = true → q.broken = false → q.fn = some f →
      let ahead := (v.toNat + 2 ^ 32 - q.subHead) % 2 ^ 32
      let before := (q.subTail + 2 ^ 32 - q.subHead) % 2 ^ 32
      (before ≤ ahead → ahead ≤ 2 ^ q.subLog2 → ∃ t r, Runs (.queueDoorbell f page 0 4 v) s t ∧ t.fw.queue n = some r ∧ r.subTail = v.toNat ∧ r.stopped = q.stopped ∧ r.broken = false) ∧
      (ahead < before → ∃ t r, Runs (.queueDoorbell f page 0 4 v) s t ∧ t.fw.queue n = some r ∧ r.broken = true ∧ r.stopped = true ∧ r.subTail = q.subTail)) ∧
    (∀ page (off : BitVec 12) size v, f ≠ .pf1 → off ≠ 0 ∨ size ≠ 4 →
      ∃ t, Runs (.queueDoorbell f page off size v) s t ∧ t = { s with chip := { s.chip with heads := t.chip.heads, out := .none } } ∧ (t.chip.head .hostlink).errStatus.getLsbD 2 = true) ∧
    (x.busy = true → ∃ t, Runs (.mailboxGo f) s t ∧ fnOnly t { x with callBusy := true }) ∧
    (x.busy = false → f ≠ .pf1 → x.block.toNat % 65536 ∈ callCodes → ∃ t, Runs (.mailboxGo f) s t ∧ fnOnly t { x with busy := true, done := false }) ∧
    (x.busy = false → x.discardReply = false → f ≠ .pf1 → x.block.toNat % 65536 ∉ callCodes → s.chip.ready = true → s.chip.running 0 = true →
      ∃ t, Runs (.mailboxGo f) s t ∧ SameMemory s t ∧ (t.chip.fn f).busy = false ∧ (t.chip.fn f).done = true ∧
        (t.chip.fn f).block.extractLsb' 0 16 = x.block.extractLsb' 0 16 ∧ (t.chip.fn f).block.extractLsb' 16 16 = Code.callMalformed) ∧
    (∀ n v, f = .vf n → ∃ t, Runs (.viewSelWrite n v) s t ∧ fnOnly t { x with viewSel := v &&& 0xC000FFFF })

/-- REGISTER_WRITE: a word of the exchange area takes its value; a 64-bit write lands a hart's RESET_PC, and a 32-bit write of its high word lands with the low word staged before; an agent that is neither Meridian core nor physical function is denied. It rests on the choices of log entries 16 and 18. -/
def Obligations.RegisterWritesLand : Prop :=
  ∀ (s : State) (d : DieId), RingUp s d → QueuesQuiet s →
    let at_ (p off : Nat) : BitVec 52 := BitVec.ofNat 52 (0x200000000000 + d.val * 2 ^ 24 + p * 4096 + off)
    (∀ (p : Fin 16) (i : Fin 1024) (v : Word32), 1 ≤ p.val →
      ∃ t, Runs (.registerWrite (.meridian d) (at_ p.val (4 * i.val)) (.w32 v)) s t ∧
        t = { s with chip := { s.chip with dies := t.chip.dies, out := .none } } ∧ (∀ e, e ≠ d → t.chip.die e = s.chip.die e) ∧
        t.chip.die d = { s.chip.die d with exchange := (t.chip.die d).exchange } ∧
        ∀ k, Table.read 0 (t.chip.die d).exchange k = if k = p.val * 1024 + i.val then v else Table.read 0 (s.chip.die d).exchange k) ∧
    (∀ (h : Fin 16), let hart : HartId := ⟨d, h⟩; let pg := 0x600 + h.val
      let lands (t : State) (v : Word64) : Prop := t.chip.hart hart = { s.chip.hart hart with resetPc := v } ∧ ∀ k, k ≠ hart → t.chip.hart k = s.chip.hart k
      (∀ v : Word64, ∃ t, Runs (.registerWrite (.meridian d) (at_ pg 0x100) (.w64 v)) s t ∧ SameMemory s t ∧ lands t v) ∧
      (∀ lo hi : Word32, ∃ t u, Runs (.registerWrite (.meridian d) (at_ pg 0x100) (.w32 lo)) s t ∧ t.chip.harts = s.chip.harts ∧
        Runs (.registerWrite (.meridian d) (at_ pg 0x104) (.w32 hi)) t u ∧ lands u (hi ++ lo)) ∧
      (∀ (w : Word64) (a : Agent), agentDie a = d → ∃ t, Runs (.registerWrite (.other a) (at_ pg 0x100) (.w64 w)) s t ∧
        t = { s with chip := { s.chip with out := .fault Code.regDenied } }))

/-! ## Resets and the boot -/

/-- The mask ROM starts the first image that passes, or stays in recovery and tells the check that failed; a die that does not answer counts as one whose ring is off; SVN_CMD.GO latches a larger value and refuses any other, and the fuse write raises the floor to it and never lowers it. It rests on the choices of log entries 10, 118, 119 and 152. -/
def Obligations.BootAndSecurityVersions : Prop :=
  ∀ (s : State) (d : DieId), RingUp s d →
    let x := s.chip.die d
    let floor (t : State) (e : DieId) : Word64 := Table.read 0 t.fuses.svnMin e
    let check (b : Bool) : Option Nat := imageCheck (s.fw.bank b).image (floor s d)
    (x.fwState = 0 → x.ringReturned = false → s.chip.route 0 d = true →
      (∀ b, s.fw.bootOrder.find? (fun k => (check k).isNone) = some b →
        ∃ t, Runs (.maskRomBoot d) s t ∧ OnlyDie d s t ∧ (t.chip.die d).fwState = 1 ∧ (t.chip.die d).verified = true ∧ (t.chip.die d).recovery = false ∧
          (t.chip.die d).bank = b ∧ (t.chip.die d).gen = (s.fw.bank b).gen ∧ (t.chip.die d).timer = x.timer) ∧
      ((∀ b, (check b).isSome) →
        ∃ t, Runs (.maskRomBoot d) s t ∧ SameMemory s t ∧ (t.chip.die d).fwState = 4 ∧ (t.chip.die d).recovery = true ∧ (t.chip.die d).verified = false ∧
          some (t.chip.die d).failCheck = (s.fw.bootOrder.getLast?.bind check) ∧ ∀ e, e ≠ d → t.chip.die e = s.chip.die e)) ∧
    (d ≠ 0 → s.chip.running 0 = true → x.fwState = 0 →
      ∃ t, Runs (.dieAbsent d) s t ∧ t.chip.dram = s.chip.dram ∧ (t.chip.die d).ringOn = false ∧ (t.chip.die d).coreOn = false ∧ (∀ e, e ≠ d → e ≠ 0 → t.chip.die e = s.chip.die e) ∧
        (∃ e, (t.chip.die 0).log.getLast? = some e ∧ e.code = Code.dieAbsent ∧ e.detail.toNat = d.val)) ∧
    (x.svnBusy = false →
      (floor s d < x.svnNew → ∃ t, Runs (.svnGo d) s t ∧ OnlyDie d s t ∧ t.chip.die d = { x with svnBusy := true, svnLatched := x.svnNew }) ∧
      (x.svnNew ≤ floor s d → ∃ t, Runs (.svnGo d) s t ∧ t = { s with chip := { s.chip with heads := t.chip.heads } } ∧ (t.chip.head (.security d)).errStatus.getLsbD 0 = true)) ∧
    (x.svnBusy = true →
      ∃ t, Runs (.svnFuseDone d) s t ∧ t = { s with chip := { s.chip with dies := t.chip.dies }, fuses := t.fuses } ∧ t.chip.die d = { x with svnBusy := false } ∧
        (floor t d).toNat = Nat.max (floor s d).toNat x.svnLatched.toNat ∧ ∀ e, e ≠ d → floor t e = floor s e ∧ t.chip.die e = s.chip.die e)

/-! ## Trust: SPDM, PLDM, updates -/

/-- CD0 answers each SPDM request that is in order with the outside standard's reply under a fresh nonce, and its session takes the request's step; one out of order gets the error reply and moves nothing. GET_MEASUREMENTS answers the number of blocks and each block. IDE_KM sets up a stream inside a session; the order rules are the model's reading of DSP0274. It rests on the choices of log entries 10, 30 and 115. -/
def Obligations.SpdmAnswersInOrder : Prop :=
  ∀ (s : State), s.chip.answers = true →
    let x := s.chip.link.spdm
    let answered (t : State) (bs : List Byte) (y : Spdm) : Prop :=
      t = { s with chip := { s.chip with out := .bytes bs, link := { s.chip.link with spdm := { y with nonces := x.nonces + 1 } } } }
    (∀ m : List Byte,
      ∀ e ∈ [(Instr.getVersion m, 0x84, true, ({ version := true, keyEpoch := x.keyEpoch } : Spdm)),
          (.getCapabilities m, 0xE1, x.version, { x with capabilities := true, algorithms := false }),
          (.negotiateAlgorithms m, 0xE3, x.capabilities, { x with algorithms := true }),
          (.getDigests m, 0x81, x.algorithms, x), (.getCertificate m, 0x82, x.algorithms, x), (.challenge m, 0x83, x.algorithms, x),
          (.keyExchange m, 0xE4, x.algorithms && !x.session, { x with handshake := true }),
          (.finish m, 0xE5, x.handshake, { x with handshake := false, session := true }),
          (.keyUpdate m, 0xE9, x.session, { x with keyEpoch := x.keyEpoch + 1 }), (.endSession m, 0xEC, x.session, { x with session := false })],
        (e.2.2.1 = true → ∃ t, Runs e.1 s t ∧ answered t (Config.spdmReply e.2.1 m x.nonces) e.2.2.2) ∧
        (e.2.2.1 = false → ∃ t, Runs e.1 s t ∧ answered t (Config.spdmReply 0x7F m x.nonces) x)) ∧
    (x.algorithms = true →
      (∃ t, Runs (.getMeasurements 0) s t ∧ answered t [5] x) ∧
      (∃ t, Runs (.getMeasurements 2) s t ∧ answered t (leBytes 48 (Config.sha384 (s.fw.bank (s.chip.die 0).bank).image).toNat) x) ∧
      (∀ i : Byte, i ∈ [1, 3, 4, 5] → ∃ t, Runs (.getMeasurements i) s t ∧ answered t ((Config.measurement i.toNat (measured s.fuses s.reach i.toNat)).take 48) x)) ∧
    (∀ l k f r, x.session = true → (if s.chip.link.bifurcated then k.val < 4 else l = 0) → r.length ≤ 4 → s.chip.fnExists f = true →
      ∃ t st, Runs (.ideKm l k f r) s t ∧ t = { s with chip := { s.chip with out := .word 1, link := { s.chip.link with ide := t.chip.link.ide } } } ∧
        t.chip.link.ide = s.chip.link.ide.filter (fun e => e.1 ≠ (l, k)) ++ [((l, k), st)] ∧ st.fn = f ∧ st.ranges = r)

/-- PLDM answers discovery and one sensor's reading. An update writes the bank that does not run, without its committed mark, and is staged when its image passes the checks. An activation parks every die for a staged image that every die's mask ROM verifies, and is abandoned otherwise; the last die's import commits it under the next GEN; a refused import or HANDOFF_ABORT lets every die go on under the old image. It rests on the choices of log entries 10, 116, 117 and 133. -/
def Obligations.UpdatesAndHandoffs : Prop :=
  ∀ (s : State),
    let running := (s.chip.die 0).bank
    let image := (s.fw.bank (!running)).image
    let goesOn (t : State) : Prop := t.fw.handoff = none ∧ t.fw.staged = false ∧ t.fuses = s.fuses ∧ t.phot = s.phot ∧ t.fw.banks = s.fw.banks ∧
      ∀ e, (s.chip.die e).fwState = 2 ∨ (s.chip.die e).fwState = 3 → (t.chip.die e).fwState = 1 ∧ (t.chip.die e).bank = (s.chip.die e).bank
    (s.chip.running 0 = true →
      (∀ m, ∃ t, Runs (.pldmDiscovery m) s t ∧ t = { s with chip := { s.chip with out := .bytes (Config.pldmReply 0 m) } }) ∧
      (∃ t, Runs (.pldmPlatformMonitoring 0) s t ∧ t = { s with chip := { s.chip with out := .word s.chip.power.inputMv.toNat } }) ∧
      (∃ t, Runs (.pldmPlatformMonitoring 1) s t ∧ t = { s with chip := { s.chip with out := .word s.chip.power.inputMa.toNat } }) ∧
      (∀ (d : DieId) (n : Fin 64), ∃ t, Runs (.pldmPlatformMonitoring (4 + 64 * d.val + n.val)) s t ∧
        t = { s with chip := { s.chip with out := .word (Table.read {} (s.chip.die d).sensors n).reading.toNat } })) ∧
    (s.chip.answers = true → s.fw.handoff = none → ∀ img : List Byte,
      ∃ t b, Runs (.pldmFirmwareUpdate img) s t ∧ SameMemory s t ∧ Table.read none t.fw.banks (!running) = some b ∧ b.image = img ∧ b.marked = false ∧
        Table.read none t.fw.banks running = Table.read none s.fw.banks running ∧
        t.fw.staged = (imageCheck img (Table.read 0 s.fuses.svnMin 0)).isNone) ∧
    (s.chip.running 0 = true → s.fw.handoff = none → s.fw.staged = true →
      ∃ t, Runs .activateFirmware s t ∧
        if (∀ d, s.chip.running d = true ∧ (imageCheck image (Table.read 0 s.fuses.svnMin d)) = none) then
          SameMemory s t ∧ t.fw = { s.fw with handoff := some { step := 4, imported := [], image := image } } ∧
            ∀ d, t.chip.die d = { s.chip.die d with fwState := 3, handoffStep := 4 }
        else goesOn t) ∧
    (s.chip.frozen = false → ∀ h, s.fw.handoff = some h →
      (∃ t, Runs .handoffAbort s t ∧ goesOn t) ∧
      (∀ d, (s.chip.die d).fwState = 3 → d ∉ h.imported →
        (∃ t, Runs (.dieImported d false) s t ∧ goesOn t) ∧
        ((∃ e, e ≠ d ∧ e ∉ h.imported) → ∃ t, Runs (.dieImported d true) s t ∧ t = { s with fw := { s.fw with handoff := some { h with imported := d :: h.imported } } }) ∧
        ((∀ e, e ≠ d → e ∈ h.imported) → (∀ e, (s.chip.die e).fwState = 3) →
          ∃ t b, Runs (.dieImported d true) s t ∧ t.fw.handoff = none ∧ t.fw.staged = false ∧
            (∀ e, (t.chip.die e).fwState = 1 ∧ (t.chip.die e).bank = !running ∧ (t.chip.die e).gen = (s.chip.die 0).gen + 1) ∧
            Table.read none t.fw.banks (!running) = some b ∧ b.image = h.image ∧ b.gen = (s.chip.die 0).gen + 1 ∧ b.marked = true)))

/-! ## Firmware calls -/

/-- Calls that keep firmware's settings: what each writes in firmware's account, with every other entry as it was, and the reply with RESULT 0. It rests on the choices of log entries 41, 83, 148 and 158. -/
def Obligations.CallsSetFirmwareState : Prop :=
  ∀ (s : State),
    let pf : Caller := .fn .pf
    let answers (t : State) (fw : Firmware) : Prop := t = { s with chip := { s.chip with link := t.chip.link }, fw := fw } ∧ Replied s t 0 0 []
    (∀ (id : DomeId) (m : Dome), s.fw.dome id = some m →
      (CallWaits s 0 0x03 [(8, 1)] → callArg s 8 1 = id.val → s.chip.domeHeld m = false →
        ∃ t, Runs (.domeDrain pf) s t ∧ answers t { s.fw with domes := t.fw.domes } ∧
          ∀ k, t.fw.dome k = if k = id then some { m with draining := true } else s.fw.dome k) ∧
      (CallWaits s 0 0x31 [(8, 1), (0xA, 2)] → callArg s 8 1 = id.val → ∀ n, callArg s 0xA 2 = n → 1 ≤ n → n ≤ 1023 →
        ∃ t, Runs (.adapterDrop pf) s t ∧ answers t { s.fw with adapters := t.fw.adapters } ∧
          (Table.read {} t.fw.adapters (id, n)).dropped = true ∧ (Table.read {} t.fw.adapters (id, n)).current = none) ∧
      (CallWaits s 1 0x30 [(8, 1), (0xA, 6), (0x10, 8), (0x18, 8)] → s.chip.fnUp .pf = true → s.chip.route m.home 0 = true → callArg s 8 1 = id.val →
        ∀ n, callArg s 0xA 2 = n → 1 ≤ n → n ≤ 1023 → callArg s 0xC 4 ≤ 2 → Table.read {} s.fw.adapters (id, n) = {} →
        let held := sumNat ((s.fw.adapters.filter (fun e => e.1.1 = id)).map (fun e => e.2.versions.length))
        let parts := placePackage 0 (Config.adapterPackage (s.hostMem.bytes (callArg s 0x10 8) (callArg s 0x18 8)))
        let noRoom : Prop := ∃ t, Runs (.adapterLoad pf) s t ∧ t.fw = s.fw ∧ SameMemory s t ∧ Replied s t Code.adapterNoRoom 0 []
        (held < 512 → match s.fw.placeAdapter id m parts.1 with
          | some p => ∃ t v, Runs (.adapterLoad pf) s t ∧ t.fw = { s.fw with adapters := t.fw.adapters, poisoned := t.fw.poisoned } ∧ t.hostMem = s.hostMem ∧ Replied s t 0 0 (leBytes 2 1) ∧
              (Table.read {} t.fw.adapters (id, n)).current = some 1 ∧ (Table.read {} t.fw.adapters (id, n)).versions = [v] ∧ v.number = 1 ∧ v.form = callArg s 0xC 4 ∧
              v.place = (p.1, p.2, parts.1) ∧ v.experts = parts.2 ∧ v.landed = decide (callArg s 0xC 4 = 1)
          | none => noRoom) ∧
        (512 ≤ held → noRoom)) ∧
      (CallWaits s 0 0x61 [(8, 1), (0x10, 8)] → callArg s 8 1 = id.val →
        ∃ t, Runs (.tracePoints pf) s t ∧ t.fw = s.fw ∧ SameMemory s t ∧ Replied s t 0 0 [] ∧
          ∀ k, t.chip.trace k = if k = id then { s.chip.trace id with points := BitVec.ofNat 64 (callArg s 0x10 8) } else s.chip.trace k) ∧
      (CallWaits s 0 0x60 [(8, 1), (9, 1), (0xA, 2), (0x10, 8), (0x18, 8)] → callArg s 8 1 = id.val → (s.chip.trace id).held = [] →
        let u := s.chip.trace id; let size := callArg s 9 1; let base := callArg s 0x10 8; let ctl := callArg s 0x18 8
        let others (t : State) : Prop := ∀ k, k ≠ id → t.chip.trace k = s.chip.trace k
        (size = 0 → ∃ t, Runs (.traceSet pf) s t ∧ t.fw = s.fw ∧ SameMemory s t ∧ Replied s t 0 0 [] ∧ others t ∧
          t.chip.trace id = { u with sizeLog2 := 0, queue := [], dropped := 0, fenceLost := false }) ∧
        (10 ≤ size → size ≤ 20 → callArg s 0xA 2 < 64 → base % 4096 = 0 → ctl % 64 = 0 →
          ∃ t, Runs (.traceSet pf) s t ∧ t.fw = s.fw ∧ SameMemory s t ∧ Replied s t 0 0 [] ∧ others t ∧
            t.chip.trace id = { u with sizeLog2 := size, sources := BitVec.ofNat 16 (callArg s 0xA 2), base := BitVec.ofNat 64 base, ctl := BitVec.ofNat 64 ctl, written := 0,
                                       queue := [], dropped := 0, fenceLost := false }))) ∧
    (CallWaits s 0 0x04 [(8, 4)] → (∀ e ∈ s.fw.domes, e.2 = none) →
      ∃ t, Runs (.sharedSet pf) s t ∧ answers t { s.fw with sharedSet := BitVec.ofNat 32 (callArg s 8 4) }) ∧
    (CallWaits s 0 0x11 [(8, 2)] → ∀ n q, callArg s 8 2 = n → s.fw.queue n = some q →
      ∃ t, Runs (.queueStop pf) s t ∧ answers t { s.fw with queues := t.fw.queues } ∧ ∀ k, t.fw.queue k = if k = n then some { q with stopped := true } else s.fw.queue k) ∧
    (CallWaits s 0 0x20 [(8, 2), (0x10, 8)] → ∀ n q x m, callArg s 8 2 = n → s.fw.queue n = some q →
      s.fw.seqs.find? (fun y => y.submitted = n ∧ y.cookie = BitVec.ofNat 64 (callArg s 0x10 8) ∧ y.ended = false) = some x → s.fw.seq x.index = some x →
      x.replayHeld = false → s.fw.dome q.dome = some m → m.inStep x.index = true → (s.chip.trace q.dome).points = 0 →
      ∃ t, Runs (.cancel pf) s t ∧ answers t { s.fw with seqs := t.fw.seqs } ∧ t.fw.seq x.index = some { x with cancelled := true } ∧
        ∀ i, i ≠ x.index → t.fw.seq i = s.fw.seq i) ∧
    (CallWaits s 0 0x41 [(8, 4), (0xC, 4)] → ∀ o m, namedObject (callArg s 8 4) = some o → (s.chip.obj o).assigned = true → s.fw.dome (clip 16 (s.chip.obj o).dome.toNat) = some m →
      let v : Word32 := BitVec.ofNat 32 (callArg s 0xC 4)
      v = 0xFFFFFFFF ∨ targetGood m v = true →
      ∃ t, Runs (.notifyRoute pf) s t ∧ answers t { s.fw with routes := t.fw.routes } ∧
        ∀ k, Table.read none t.fw.routes k = if k = o then (if v = 0xFFFFFFFF then none else some v) else Table.read none s.fw.routes k) ∧
    (CallWaits s 0 0x50 [(8, 2), (0xA, 1), (0x10, 8)] → ∀ n : Fin 2048, callArg s 8 2 = n.val → callArg s 0xA 1 ≤ 2 →
      let k := callArg s 0xA 1
      ∃ t, Runs (.sourceSet pf) s t ∧ answers t { s.fw with sources := t.fw.sources } ∧
        ∀ j, Table.read none t.fw.sources j = if j = n then (if k = 0 then none else some ⟨BitVec.ofNat 8 k, BitVec.ofNat 64 (callArg s 0x10 8)⟩) else Table.read none s.fw.sources j)

/-- DOME_DEFINE with a descriptor that is neither malformed nor in conflict makes the dome, gives it its clusters and queues and writes the bitmap of its queues; DOME_RELEASE of a dome with no step and no request frees them; IMAGE_LOAD loads the image or answers the first check that fails; EPHEMERIS_SET takes a table that fits; QUEUE_SET configures a queue that is idle. It rests on the choices of log entries 73, 74, 75, 76, 78, 80, 81 and 83. -/
def Obligations.CallsSetUpDomes : Prop :=
  ∀ (s : State),
    let pf : Caller := .fn .pf
    let mem (off n : Nat) : List Byte := s.hostMem.bytes (callArg s off 8) n
    (CallWaits s 1 0x01 [(8, 8), (0x10, 8)] → s.chip.fnUp .pf = true → s.chip.route 0 0 = true →
      let b : BitVec 2048 := BitVec.ofNat 2048 (leNat (mem 8 256)); let id : DomeId := clip 16 (descF b 0 1)
      descMalformed b s.fw.sharedSet = false → s.fw.conflict id b = false → s.fw.dome id = none → (∀ c ∈ descClusters b, (s.chip.cluster c).running = false) →
      ∃ t m, Runs (.domeDefine pf) s t ∧ Replied s t 0 0 [] ∧ t.fw.dome id = some m ∧ m.desc = b ∧ m.image = none ∧ (∀ k, k ≠ id → t.fw.dome k = s.fw.dome k) ∧
        (∀ c ∈ descClusters b, (s.chip.die c.die).coreOn = true → (t.chip.cluster c).assigned = true ∧ (t.chip.cluster c).dome.toNat = id.val) ∧
        (∀ c, c ∉ descClusters b → t.chip.cluster c = s.chip.cluster c) ∧
        (∀ q ∈ m.queues, s.fw.queue q = none ∧ t.fw.queue q = some { dome := id, next := q }) ∧
        t.hostMem.bytes (callArg s 0x10 8) 128 = leBytes 128 (m.queues.foldl (fun n q => n ||| 2 ^ q) 0)) ∧
    (∀ (id : DomeId) (m : Dome), s.fw.dome id = some m → m.step = none → m.reporting = none → (∀ q ∈ s.fw.seqs, q.dome ≠ id) →
      (CallWaits s 0 0x02 [(8, 1)] → callArg s 8 1 = id.val → (∀ c ∈ m.clusters, (s.chip.cluster c).running = false) →
        ∃ t, Runs (.domeRelease pf) s t ∧ Replied s t 0 0 [] ∧ t.chip.scratch = s.chip.scratch ∧ t.chip.engineStore = s.chip.engineStore ∧ t.hostMem = s.hostMem ∧
          (m.privateStacks = [] → t.chip.dram = s.chip.dram) ∧ (∀ k, t.fw.dome k = if k = id then none else s.fw.dome k) ∧
          (∀ k, t.fw.queue k = if k ∈ m.queues then none else s.fw.queue k) ∧
          ∀ c ∈ m.clusters, (s.chip.die c.die).coreOn = true → (t.chip.cluster c).assigned = false) ∧
      (CallWaits s 1 0x05 [(8, 1), (0x10, 8), (0x18, 8)] → s.chip.fnUp .pf = true → s.chip.route m.home 0 = true → callArg s 8 1 = id.val → let img := mem 0x10 (callArg s 0x18 8)
        ∃ t, Runs (.imageLoad pf) s t ∧
          match imageRefusal s.reach img (targetOf s.reach id m) with
          | some f => Replied s t f.1 f.2.toNat [] ∧ t.fw = s.fw
          | none => Replied s t 0 0 [] ∧ ∃ y i, t.fw.dome id = some y ∧ y.image = some i ∧ y.desc = m.desc ∧ y.table = m.table ∧ i.steps = 0 ∧ i.digest = imageDigest img ∧
              i.kinds.length = kindsCount img) ∧
      (CallWaits s 1 0x06 [(8, 1), (0x10, 8), (0x18, 8)] → s.chip.fnUp .pf = true → s.chip.route m.home 0 = true → callArg s 8 1 = id.val → ∀ n, callArg s 0x18 8 = n → 1 ≤ n → n ≤ 256 →
        let table : List Word64 := (List.range n).map (fun i => BitVec.ofNat 64 (leNat (s.hostMem.bytes (callArg s 0x10 8 + 8 * i) 8)))
        table.any (slotMalformed m) = false → slotOverrun s.fw m ((m.image.map (fun i => i.kinds)).getD []) table = none →
        ∃ t, Runs (.ephemerisSet pf) s t ∧ Replied s t 0 0 [] ∧ t.fw = { s.fw with domes := t.fw.domes } ∧
          ∀ k, t.fw.dome k = if k = id then some { m with nextTable := some table } else s.fw.dome k)) ∧
    (CallWaits s 0 0x10 [(8, 8), (0x10, 8), (0x18, 8), (0x20, 8), (0x28, 8), (0x30, 5), (0x36, 4)] →
      ∀ n q0, callArg s 8 2 = n → s.fw.queue n = some q0 → q0.configured = false → q0.owed = [] → (∀ q ∈ s.fw.seqs, q.queue ≠ n ∧ q.submitted ≠ n) →
      (s.fw.dome q0.dome).bind (fun m => m.image) = none → callArg s 0xE 2 = n → 4 ≤ callArg s 0xA 1 → callArg s 0xA 1 ≤ 12 → 4 ≤ callArg s 0xB 1 → callArg s 0xB 1 ≤ 12 →
      callArg s 0xC 1 < 64 → 1 ≤ callArg s 0xD 1 → callArg s 0xD 1 ≤ 64 → callArg s 0x10 8 % 64 = 0 → callArg s 0x18 8 % 64 = 0 → (callArg s 0x2C 2 = 0xFFFF ∨ callArg s 0x2C 2 < 128) →
      callArg s 0x28 4 ≤ 1 → callArg s 0x34 1 = 1 → 16 ≤ callArg s 0x36 2 → callArg s 0x36 2 ≤ 8192 → callArg s 0x38 2 = 0xFFFF →
      ∃ t q, Runs (.queueSet pf) s t ∧ Replied s t 0 0 [] ∧ t.fw = { s.fw with queues := t.fw.queues } ∧ (∀ k, t.fw.queue k = if k = n then some q else s.fw.queue k) ∧
        q.dome = q0.dome ∧ q.configured = true ∧ q.subLog2 = callArg s 0xA 1 ∧ q.cplLog2 = callArg s 0xB 1 ∧ q.kind = callArg s 0xC 1 ∧ q.maxRows = callArg s 0xD 1 ∧ q.next = n ∧
        q.subBase.toNat = callArg s 0x10 8 ∧ q.cplBase.toNat = callArg s 0x18 8 ∧ q.ctlBase.toNat = callArg s 0x20 8 ∧ q.hostRings = decide (callArg s 0x28 4 = 1) ∧
        q.msix.toNat = callArg s 0x2C 2 ∧ q.maxLen = callArg s 0x30 4 ∧ q.chunk = callArg s 0x36 2 ∧ q.subTail = 0 ∧ q.subHead = 0 ∧ q.records = 0 ∧ q.stopped = false ∧ q.broken = false)

/-- DIE_FENCE switches a die's core domain off and DIE_ADMIT on again; DIE_RESET leaves the core domain of a die on unless it is fenced, with empty scratchpads; NIGHTLOG_READ copies the entries from a number on; COUNTER_READ copies a snapshot; a hart's CACHE_RANGE runs on every die its range reaches; an SBI call waits for its row's command, or is turned away for its address. It rests on the choices of log entries 84, 86, 87, 132, 145, 151, 156 and 157. -/
def Obligations.CallsAdministerDies : Prop :=
  ∀ (s : State),
    let pf : Caller := .fn .pf
    (∀ d : DieId, callArg s 8 1 = d.val → (s.chip.die d).ringOn = true →
      (CallWaits s 0 0x51 [(8, 1)] →
        ∃ t, Runs (.dieFence pf) s t ∧ Replied s t 0 0 [] ∧ t.fw = s.fw ∧ t.chip.dram = s.chip.dram ∧ (t.chip.die d).coreOn = false ∧ (t.chip.die d).fenced = true ∧
          (∀ e, e ≠ d → t.chip.die e = s.chip.die e) ∧ ((s.chip.die d).coreOn = true → ∀ c, c.die = d → t.chip.cluster c = {})) ∧
      (CallWaits s 0 0x52 [(8, 1)] → (s.chip.die d).fenced = true →
        ∃ t, Runs (.dieAdmit pf) s t ∧ Replied s t 0 0 [] ∧ (t.chip.die d).coreOn = true ∧ (t.chip.die d).fenced = false) ∧
      (CallWaits s 0 0x53 [(8, 1)] → s.fw.handoff = none → (∀ h : HartId, h.die = d → (s.chip.hart h).call = none) →
        ∃ t, Runs (.dieReset pf) s t ∧ Replied s t (if d = 0 then Code.callReset else 0) 0 [] ∧
          ((s.chip.die d).coreOn = true → (t.chip.die d).coreOn = !(s.chip.die d).fenced ∧
            ∀ (k : CoreId) (o : Nat), k.die = d → o < scratchSize → t.chip.scratch.byte (scratchKey k o) = 0)) ∧
      (CallWaits s 1 0x62 [(8, 1), (0x10, 8), (0x18, 8), (0x20, 8)] → s.chip.fnUp .pf = true → s.chip.route 0 0 = true → s.chip.route 0 d = true → 1 ≤ callArg s 0x18 8 → callArg s 0x18 8 ≤ 4096 →
        let log := (s.chip.die d).log; let l := (log.filter (fun e => callArg s 0x10 8 ≤ e.seq)).take (callArg s 0x18 8); let bs := l.flatMap (fun e => e.bytes d)
        ∃ t, Runs (.nightlogRead pf) s t ∧ t.fw = s.fw ∧ t.chip.dies = s.chip.dies ∧ t.hostMem.bytes (callArg s 0x20 8) bs.length = bs ∧
          (∀ a, (a < callArg s 0x20 8 ∨ callArg s 0x20 8 + bs.length ≤ a) → t.hostMem.byte a = s.hostMem.byte a) ∧
          Replied s t 0 0 (leBytes 8 ((log.head?.map (fun e => e.seq)).getD 0) ++ leBytes 8 ((log.getLast?.map (fun e => e.seq)).getD 0) ++ leBytes 4 l.length))) ∧
    (∀ (c : ClusterId) (st : StackId) (y : Nat), CallWaits s 0 0x63 [(8, 4), (0x10, 8)] → callArg s 8 4 = c.die.val * 16 + c.idx.val → ClusterUp s c →
      callArg s 0x10 8 % 64 = 0 → s.chip.findLine st (y / 256) = none → Reaches s (whoOf (.meridian 0)) (callArg s 0x10 8) true st y →
      ∃ t, Runs (.counterRead pf) s t ∧ Replied s t 0 0 [] ∧ OnlyDram st y 64 s t ∧
        dramBytes t st y 64 = (List.range 16).flatMap (fun i => leBytes 4 (Table.read 0 (s.chip.head (.perf (.cluster c))).counters i).toNat)) ∧
    (∀ (h : HartId) (st : StackId) (y : Nat) (a0 : BitVec 56), HartUp s h → s.chip.running h.die = true →
      ((s.chip.hart h).call = none → a0.toNat % 64 ≠ 0 → ∃ t, Runs (.sbiFirmwareCall h a0) s t ∧ OnlyHart h s t ∧ t.chip.hart h = { s.chip.hart h with sbiResult := some (-5) }) ∧
      (a0.toNat % 64 = 0 → s.chip.findLine st (y / 256) = none → Reaches s (whoOf (.meridian h.die)) a0.toNat false st y → let block := dramBytes s st y 64
        ((s.chip.hart h).call = none → bytesAt block 0 2 ∈ callCodes →
          ∃ t, Runs (.sbiFirmwareCall h a0) s t ∧ SameMemory s t ∧ t.chip.hart h = { s.chip.hart h with call := some a0, sbiResult := none } ∧ ∀ k, k ≠ h → t.chip.hart k = s.chip.hart k) ∧
        ((s.chip.hart h).call = some a0 → (s.chip.hart h).assigned = true → bytesAt block 0 4 = 0x40 → (∀ i, 0x20 ≤ i → i < 64 → bytesAt block i 1 = 0) →
          let base := bytesAt block 8 8; let size := bytesAt block 0x10 8
          (bytesAt block 0x18 8 = 1 ∨ bytesAt block 0x18 8 = 2 ∨ bytesAt block 0x18 8 = 3) → base % 256 = 0 → size % 256 = 0 → 0 < size → base + size ≤ 2 ^ 41 →
          ∃ t, Runs (.cacheRange (.hart h)) s t ∧ (t.chip.hart h).call = none ∧ (t.chip.hart h).sbiResult.isSome = true ∧ t.hostMem = s.hostMem ∧ t.chip.scratch = s.chip.scratch ∧
            ∀ d ∈ s.chip.rangeDies h.die base size, (s.chip.die d).ringOn = true →
              (t.chip.die d).rangeBase.toNat = base ∧ (t.chip.die d).rangeSize.toNat = size ∧ (t.chip.die d).rangeBusy = false)))

/-! ## Frames, steps, reports -/

/-- FRAME_START of a dome whose turn has come begins a frame at its anchor: a new table takes effect, missed frames are skipped, a late start is counted, whatever the table, the queues and the requests are. Slots with nothing to run are dropped, and a REALTIME slot whose queue is ready starts its step on every cluster of the dome. Before the anchor nothing happens, and while a step runs the frame waits for its end. It rests on the choices of log entries 82 and 91. -/
def Obligations.FramesStartTheirSteps : Prop :=
  ∀ (s : State) (id : DomeId) (m : Dome), s.fw.dome id = some m →
    let table := m.nextTable.getD m.table
    let now := (s.chip.die m.home).timer.toNat
    let due := m.frameEnd.toNat
    let lost := if m.anchor = none ∨ now ≤ due + m.frameLen then 0 else (now - due) / m.frameLen
    let anchor := if m.anchor = none then now else due + lost * m.frameLen
    let begun (y : Dome) : Prop := y.desc = m.desc ∧ y.home = m.home ∧ y.queues = m.queues ∧ y.table = table ∧ y.nextTable = none ∧ y.anchor = some (BitVec.ofNat 64 anchor) ∧
      y.frame = (if m.nextTable.isSome then 0 else m.frame + 1 + lost) ∧ y.rotation = m.rotation + 1 ∧ y.frameLate = m.frameLate + (if m.anchor.isSome ∧ anchor < now then 1 else 0) ∧
      y.frameEnd = BitVec.ofNat 64 (anchor + m.frameLen) ∧ y.statusWord = m.statusWord ∧ y.counts = m.counts ∧ y.reporting = none
    let turn : Prop := s.reach.serves id = true ∧ m.step = none ∧ m.reporting = none ∧ (∀ d, (s.chip.die d).coel.armed = false)
    let starts : Prop := table ≠ [] ∧ m.image.isSome = true ∧ (m.anchor = none ∨ due ≤ now)
    (turn → starts → ∃ t y, Runs (.frameStart id) s t ∧ t.fw.dome id = some y ∧ begun y ∧ ∀ k, k ≠ id → t.fw.dome k = s.fw.dome k) ∧
    (turn → QueuesQuiet s → s.chip.domeHeld m = false → (s.chip.trace id).points = 0 →
      (starts → (∀ w ∈ table, s.fw.ready m (slotQueue w) = false) →
        ∃ t y, Runs (.frameStart id) s t ∧ t.fw = { s.fw with domes := t.fw.domes } ∧ SameMemory s t ∧ t.fw.dome id = some y ∧ begun y ∧ y.plan = [] ∧ y.step = none ∧ y.replays = m.replays ∧
          y.image = m.image) ∧
      (∀ w i q, starts → table = [w] → slotClass w = 1 → 1 ≤ slotQuantum w → m.image = some i → m.replays = [] → s.fw.ready m (slotQueue w) = true →
        s.fw.queue (slotQueue w) = some q → 1 ≤ q.maxRows → 1 ≤ s.chip.rowObjects id m →
        ∃ t y x, Runs (.frameStart id) s t ∧ t.fw.dome id = some y ∧ begun y ∧ y.step = some x ∧ x.queue = slotQueue w ∧ x.kind = q.kind ∧ x.number = i.steps ∧ x.replay = false ∧
          y.image = some { i with steps := i.steps + 1 } ∧
          x.rows.map (fun r => r.seq) =
            (batchOf { q with maxRows := Nat.min q.maxRows (s.chip.rowObjects id m) } (s.fw.candidates m (slotQueue w))).1.map (fun a => a.index) ∧
          ∀ c ∈ m.clusters, (t.chip.cluster c).running = true) ∧
      (m.anchor.isSome = true → now < due → Runs (.frameStart id) s s)) ∧
    (m.step.isSome = true ∨ m.reporting.isSome = true ∨ s.reach.serves id = false → Runs (.frameStart id) s s)

/-- DOME_STEP_END of a step of one row that ended well moves the row's position, sets its commit mark, adds the counts and waits for the row's report when it samples; after a fault the row is held for a replay with its commit mark. A step past its watchdog is aborted on every cluster. A row's report adds its tokens, passes a finished prompt on, and ends the request at END or MAX_NEW. It rests on the choices of log entries 92, 93 and 94. -/
def Obligations.StepsEndAndReport : Prop :=
  ∀ (s : State) (id : DomeId) (m : Dome) (x : StepRun) (w : Row) (q : Sequence), s.fw.dome id = some m → s.reach.serves id = true → QueuesQuiet s →
    m.plan = [] → m.anchor = none → x.rows = [w] → s.fw.seqs.filter (fun y => y.index = w.seq) = [q] → q.ended = false → q.cancelled = false →
    let mark := if w.verify then w.commitFrom else commitMark w (s.chip.commits w)
    (m.step = some x → (∀ c ∈ m.clusters, (s.chip.cluster c).running = false) →
      (s.chip.stepFault id m x = none → w.verify = false →
        ∃ t y, Runs (.domeStepEnd id) s t ∧ t.fw.dome id = some y ∧ y.step = none ∧ y.statusWord.toNat = (x.number * 2 ^ 32 + 1) % 2 ^ 64 ∧ y.replays = m.replays ∧
          y.counts = m.counts.mapIdx (fun j c => c + (((m.image.map (fun i => i.counters)).getD []).map (fun e => e.2.2.getD x.kind 0)).getD j 0) ∧
          y.reporting = (if w.sample then some { x with rows := [{ w with committed := mark }] } else none) ∧
          t.fw.seq w.seq = some { q with pos := w.pos + w.count, committed := mark }) ∧
      (∀ c, s.chip.stepFault id m x = some c → (∀ k ∈ m.clusters, s.chip.outstanding k = false) → s.chip.countsLost m x = false → c ≠ Code.uncorrectable → c ≠ Code.poisoned → w.runs < 2 →
        ∃ t y, Runs (.domeStepEnd id) s t ∧ t.fw.dome id = some y ∧ y.step = none ∧ y.reporting = m.reporting ∧ y.statusWord.toNat = (x.number * 2 ^ 32 + 3) % 2 ^ 64 ∧ y.counts = m.counts ∧
          y.replays = m.replays ++ [{ x with rows := [{ w with commitFrom := mark, committed := mark, runs := w.runs + 1 }], fault := c }] ∧
          t.fw.seq w.seq = some { q with committed := if w.verify then q.committed else mark, faultCode := c, replayed := true, replayHeld := true })) ∧
    (m.step = some x → x.fault = 0 → m.watchdog * 100 < ((s.chip.die m.home).timer - x.started).toNat →
      ∃ t, Runs (.stepWatchdog id) s t ∧ SameMemory s t ∧ (∀ k, t.fw.dome k = if k = id then some { m with step := some { x with fault := Code.stepWatchdog } } else s.fw.dome k) ∧
        ∀ c ∈ m.clusters, ClusterUp s c → (s.chip.cluster c).running = true → (s.chip.cluster c).stop ≠ some .faulted → (t.chip.cluster c).stop = some .aborted) ∧
    (∀ (p : RowReport) qq, m.step = none → m.reporting = some x → w.sample = true → w.verify = false → s.fw.queue x.queue = some qq → reportGood false w.count none p = true →
      (p.flags.getLsbD 0 = false → q.emitted + p.emitted.toNat < q.maxNew →
        ∃ t y, Runs (.rowReports id [p]) s t ∧ (w.report = 0 → SameMemory s t) ∧ t.fw.dome id = some y ∧ y = { m with reporting := none } ∧
          t.fw.seq w.seq = some { q with emitted := q.emitted + p.emitted.toNat, queue := if qq.prefill then qq.next else q.queue }) ∧
      (p.flags.getLsbD 0 = true ∨ q.maxNew ≤ q.emitted + p.emitted.toNat →
        ∃ t, Runs (.rowReports id [p]) s t ∧ ∀ y, t.fw.seq w.seq = some y → y.ended = true))

/-! ## The Photometer -/

/-- Each sample adds its energy and its tick. A good frame is acknowledged and applied once: its count goes to its dome and kind, a repeated TOGGLE adds nothing, a resynchronisation clears the TOGGLE; a bad frame counts nothing, and the sixteenth in a row sets TAP_FAULT. The die's end drops what is acknowledged, sends again what is not, records a stall, and gives its frames up in a freeze. It rests on the choices of log entry 128. -/
def Obligations.TapsAndSamplesAreCounted : Prop :=
  ∀ (s : State) (d : DieId),
    let p := s.phot
    let x := s.chip.die d
    let count (t : State) (m : DomeId) : Nat × Nat := Table.read (0, 0) t.phot.counts m
    let asSent (t : State) (f : BitVec 32) : Prop :=
      ∀ e, t.chip.die e = if e = d ∧ x.ringOn = true ∧ x.tap.current = some f then { x with tap := { x.tap with outstanding := true } } else s.chip.die e
    let acked (t : State) (v : Bool) : Prop := (d, v) ∈ t.phot.acks ∧ Table.read 0 t.phot.badRun d = 0
    let onlyTap (t : State) (y : Tap) : Prop := OnlyDie d s t ∧ t.chip.die d = { x with tap := y }
    let empties (t : State) (y : Tap) : Prop := OnlyDie d s t ∧
      t.chip.die d = { x with tap := y, coel := { x.coel with frozen := x.coel.frozen || (x.coel.freezing && decide (y.buffer = [] ∧ y.owed = [])) } }
    (p.on = true → p.requests = [] → ∀ uv ua : Nat, let i := Nat.min ua 140000000
      ∃ t, Runs (.photometerSample uv ua) s t ∧ t = { s with phot := t.phot } ∧ t.phot.energy = p.energy + uv * i ∧ t.phot.mono = p.mono + 1 ∧
        t.phot.spanSamples = p.spanSamples + 1 ∧ t.phot.vSum = p.vSum + uv ∧ t.phot.iSum = p.iSum + i ∧ t.phot.counts = p.counts ∧ t.phot.nextSeq = p.nextSeq ∧
        t.phot.vOut = (p.vOut || decide (uv < 40000000 ∨ 60000000 < uv)) ∧ t.phot.iOver = (p.iOver || decide (140000000 < ua))) ∧
    (p.on = true → ∀ f : BitVec 32, f.extractLsb' 0 8 = frameCrc f → frameFormed f = true →
      (∀ e ∈ [(Instr.tapKvCommit d f, 1), (.tapEmission d f, 2)], frameKind f = e.2 → let m : DomeId := clip 16 (frameDome f)
        (frameToggle f ≠ Table.read false p.toggles d ∨ d ∈ p.acceptAny →
          ∃ t, Runs e.1 s t ∧ asSent t f ∧ acked t (frameToggle f) ∧ Table.read false t.phot.toggles d = frameToggle f ∧ t.phot.energy = p.energy ∧
            (∀ k, k ≠ m → count t k = count s k) ∧ (count t m).1 = (count s m).1 + (if e.2 = 1 then frameCount f else 0) ∧ (count t m).2 = (count s m).2 + (if e.2 = 2 then frameCount f else 0)) ∧
        (frameToggle f = Table.read false p.toggles d → d ∉ p.acceptAny →
          ∃ t, Runs e.1 s t ∧ asSent t f ∧ acked t (frameToggle f) ∧ t.phot.counts = p.counts ∧ t.phot.toggles = p.toggles)) ∧
      (frameKind f = 3 → ∃ t, Runs (.tapResync d f) s t ∧ asSent t f ∧ acked t false ∧ t.phot.counts = p.counts ∧ Table.read false t.phot.toggles d = false)) ∧
    (p.on = true →
      (Table.read 0 p.badRun d ≠ 15 → ∃ t, Runs (.tapBadFrame d) s t ∧ t = { s with phot := { p with badRun := t.phot.badRun } } ∧ Table.read 0 t.phot.badRun d = Table.read 0 p.badRun d + 1) ∧
      (Table.read 0 p.badRun d = 15 → ∃ t e, Runs (.tapBadFrame d) s t ∧ t.phot.counts = p.counts ∧ t.phot.eventCount = p.eventCount + 1 ∧ t.phot.events.getLast? = some e ∧
        e.event = 9 ∧ e.detail.toNat = d.val)) ∧
    (x.ringOn = true →
      (∀ v : Bool, x.tap.outstanding = true → x.tap.resync = false → v = !x.tap.toggle →
        let left : Tap := { x.tap with buffer := x.tap.buffer.tail, toggle := v, outstanding := false }
        (x.tap.owed = [] → ∃ t, Runs (.tapAck d v) s t ∧ empties t left) ∧
        ∀ k m rest, x.tap.owed = (k, m) :: rest → x.tap.buffer.length = 64 → (∀ f ∈ x.tap.buffer, f.count = 1023) → (∀ e ∈ rest, e.1 ≠ k ∨ e.2 ≠ m) →
          ∃ t, Runs (.tapAck d v) s t ∧ empties t { left with buffer := left.buffer ++ [⟨k, m, 1⟩], owed := rest }) ∧
      (x.tap.outstanding = true → x.tap.resync = true → ∃ t, Runs (.tapAck d false) s t ∧ onlyTap t { x.tap with resync := false, toggle := false, outstanding := false }) ∧
      (x.tap.outstanding = true → ∃ t, Runs (.tapResend d) s t ∧ onlyTap t { x.tap with sends := x.tap.sends + 1 }) ∧
      (x.tap.buffer ≠ [] → x.coel.freezing = false → x.coel.armed = false →
        ∃ t, Runs (.tapStall d) s t ∧ SameMemory s t ∧ (t.chip.die d).tap = x.tap ∧ (t.chip.head (.photometerIf d)).errStatus.getLsbD 2 = true ∧
          ∃ e, (t.chip.die d).log.getLast? = some e ∧ e.code = Code.tapStall ∧ e.level = 2) ∧
      (x.tap.buffer ≠ [] → x.coel.freezing = true →
        ∃ t, Runs (.tapStall d) s t ∧ SameMemory s t ∧ (t.chip.die d).tap = { x.tap with buffer := [], owed := [], outstanding := false } ∧
          ∃ e, (t.chip.die d).log.getLast? = some e ∧ e.code = Code.tapStall ∧ e.detail.toNat = x.tap.buffer.length % 2 ^ 64))

/-- The stored records form one sequence: a periodic record takes the next SEQ, names the one before it, carries the counts, and ends the span; GET_RECORD answers a stored one, DEMAND a fresh one with the asker's nonce. Events of the seal, the clock, the period and the test are logged, counted and answered; a service command without the service pin is refused. A record channel of a die passes the same requests. It rests on the choices of log entries 121, 122, 124 and 127. -/
def Obligations.RecordsAreMadeAndAnswered : Prop :=
  ∀ (s : State), s.phot.on = true → s.phot.requests = [] →
    let p := s.phot
    let replies (t : State) (op st : Byte) (bs : List Byte) : Prop := t.phot.reply = some (op, st, bs)
    let onlyPhot (t : State) (q : Photometer) : Prop := t = { s with phot := q }
    let made (t : State) (kind event : Nat) (r : MeterRecord) : Prop :=
      r.kind = kind ∧ r.event = event ∧ r.seq = p.nextSeq ∧ r.prev = p.lastStored ∧ t.phot.nextSeq = p.nextSeq + 1 ∧ t.chip = { s.chip with free := t.chip.free }
    let logged (t : State) (event : Nat) (r : MeterRecord) : Prop := made t 3 event r ∧ t.phot.stored.getLast? = some r ∧ t.phot.lastStored = r.seq ∧
      ∃ e, t.phot.events.getLast? = some e ∧ e.event = event ∧ e.eventCount = t.phot.eventCount ∧ t.phot.eventCount = (if 3 ≤ event then p.eventCount + 1 else p.eventCount)
    (∃ t r, Runs .periodicRecord s t ∧ made t 1 0 r ∧ t.phot.stored.getLast? = some r ∧ t.phot.lastStored = r.seq ∧ r.counts = (List.finRange 16).map (fun m => Table.read (0, 0) p.counts m) ∧
      r.time = p.time ∧ r.mono = p.mono ∧ r.energy = p.energy / (32768 * 1000000000) ∧ t.phot.spanSamples = 0 ∧ t.phot.counts = p.counts ∧ t.phot.energy = p.energy) ∧
    (∀ seq : Word64, let want := if seq = 0 then p.lastStored else seq.toNat
      (∀ r, p.stored.find? (fun r => r.seq = want) = some r → ∃ t, Runs (.getRecord seq) s t ∧ onlyPhot t { p with reply := some (0x81, 0, r.bytes) }) ∧
      ((∀ r ∈ p.stored, r.seq ≠ want) → ∃ t, Runs (.getRecord seq) s t ∧ onlyPhot t { p with reply := some (0x81, 4, []) })) ∧
    (∀ nonce, (∀ v, p.lastDemand = some v → v.toNat + 8192 ≤ p.mono.toNat) →
      ∃ t r, Runs (.demand nonce) s t ∧ made t 2 0 r ∧ r.nonce = nonce ∧ replies t 0x82 0 r.bytes ∧ t.phot.stored = p.stored ∧ t.phot.lastDemand = some p.mono) ∧
    (∀ nonce v, p.lastDemand = some v → p.mono.toNat < v.toNat + 8192 → ∃ t, Runs (.demand nonce) s t ∧ onlyPhot t { p with requests := [(none, .demand nonce)] }) ∧
    (∀ off : Word32, off.toNat ≤ Config.meterCerts.length →
      ∃ t, Runs (.getCert off) s t ∧ onlyPhot t { p with reply := some (0x83, 0, (Config.meterCerts.drop off.toNat).take 464 ++ leBytes 4 Config.meterCerts.length) }) ∧
    (∀ i : Word32, i.toNat < p.events.length →
      ∃ t, Runs (.getEvents i) s t ∧ onlyPhot t { p with reply := some (0x84, 0, ((p.events.drop i.toNat).take 16).flatMap MeterEvent.bytes) }) ∧
    (p.service = true →
      (∀ v : Word64, ∃ t r, Runs (.setTime v) s t ∧ logged t 3 r ∧ replies t 0x85 0 r.bytes ∧ t.phot.time = v ∧ t.phot.clockUnset = false) ∧
      (∀ v : Word32, 60 ≤ v.toNat → v.toNat ≤ 3600 → ∃ t r, Runs (.setPeriod v) s t ∧ logged t 8 r ∧ replies t 0x86 0 r.bytes ∧ t.phot.period = v) ∧
      (∃ t r, Runs .testEnter s t ∧ logged t 6 r ∧ replies t 0x87 0 r.bytes ∧ t.phot.testing = true ∧ t.phot.testCounts = [] ∧ t.phot.testEnergy = 0)) ∧
    (p.service = false → ∀ v w, ∀ e ∈ [(Instr.setTime v, (0x85 : Byte)), (.setPeriod w, 0x86), (.testEnter, 0x87)], ∃ t, Runs e.1 s t ∧ onlyPhot t { p with reply := some (e.2, 3, []) }) ∧
    (p.testing = true →
      (∃ t r, Runs .testExit s t ∧ logged t 7 r ∧ replies t 0x88 0 r.bytes ∧ t.phot.testing = false) ∧
      (∀ m k n, m.toNat < 16 → k = 1 ∨ k = 2 → ∃ t, Runs (.testInject m k n) s t ∧ replies t 0x89 0 [] ∧ t.phot.counts = p.counts ∧
        ∀ j, Table.read (0, 0) t.phot.testCounts j = let c := Table.read (0, 0) p.testCounts j
          if j = clip 16 m.toNat then (if k = 1 then (c.1 + n.toNat, c.2) else (c.1, c.2 + n.toNat)) else c) ∧
      (∀ nonce, ∃ t r, Runs (.testRecord nonce) s t ∧ made t 4 0 r ∧ replies t 0x8A 0 r.bytes ∧ r.counts = (List.finRange 16).map (fun m => Table.read (0, 0) p.testCounts m)) ∧
      (p.testStart.toNat + 3600 * 32768 ≤ p.mono.toNat → ∃ t r, Runs .testTimeout s t ∧ logged t 7 r ∧ t.phot.testing = false)) ∧
    (∃ t r, Runs .sealBroken s t ∧ logged t 4 r ∧ t.phot.sealOpen = true) ∧
    (∃ t r, Runs .sealRestored s t ∧ logged t 5 r ∧ t.phot.sealOpen = false) ∧
    (∀ (d : DieId), RingUp s d → (s.chip.die d).chan.busy = false → (s.chip.die d).coel.armed = false → (∀ v, p.lastDemand = some v → v.toNat + 8192 ≤ p.mono.toNat) →
      let answered (t : State) (kind : BitVec 2) (bs : List Byte) : Prop := (∀ e, e ≠ d → t.chip.die e = s.chip.die e) ∧ SameMemory s t ∧
        (t.chip.die d).chan = { (s.chip.die d).chan with kind := kind, busy := false, done := true, len := bs.length, buf := bs }
      let arg := (s.chip.die d).chan.arg
      (∀ r, p.stored.find? (fun r => r.seq = (if arg = 0 then p.lastStored else arg.toNat)) = some r → ∃ t, Runs (.reqGetRecord d) s t ∧ answered t 0 r.bytes ∧ t.phot = p) ∧
      (∃ t, ∃ r : MeterRecord, Runs (.reqDemand d) s t ∧ r.kind = 2 ∧ r.nonce = (s.chip.die d).chan.nonce ∧ r.seq = p.nextSeq ∧ answered t 1 r.bytes) ∧
      ((arg.extractLsb' 0 32).toNat ≤ Config.meterCerts.length → ∃ t, Runs (.reqGetCert d) s t ∧ t.phot = p ∧
        answered t 2 ((Config.meterCerts.drop (arg.extractLsb' 0 32).toNat).take 464 ++ leBytes 4 Config.meterCerts.length)) ∧
      ((arg.extractLsb' 0 32).toNat < p.events.length → ∃ t, Runs (.reqGetEvents d) s t ∧ t.phot = p ∧
        answered t 3 (((p.events.drop (arg.extractLsb' 0 32).toNat).take 16).flatMap MeterEvent.bytes)))

/-- A power-down logs its event when its write completes; a power-up counts a cycle and logs it, keeps the counts after a complete power-down, and goes back to the last checkpoint after an incomplete one. It rests on the choices of log entry 126. -/
def Obligations.PhotometerLosesAndTakesUpPower : Prop :=
  ∀ (s : State), let p := s.phot
    (p.on = true →
      (∃ t e, Runs (.photometerPowerDown true) s t ∧ t.phot.on = false ∧ t.phot.powerDownOk = true ∧ t.phot.counts = p.counts ∧ t.phot.energy = p.energy ∧ t.phot.testing = false ∧
        t.phot.requests = [] ∧ t.phot.events.getLast? = some e ∧ e.event = 2) ∧
      (∃ t, Runs (.photometerPowerDown false) s t ∧
        t = { s with phot := { p with on := false, powerDownOk := false, testing := false, requests := [], reply := none, lastDemand := none } })) ∧
    (p.on = false → p.breakOwed = false → ∀ kept : Option Word64,
      (p.powerDownOk = true → ∃ t e, Runs (.photometerPowerUp false kept) s t ∧ t.phot.on = true ∧ t.phot.counts = p.counts ∧ t.phot.energy = p.energy ∧ t.phot.toggles = p.toggles ∧
        t.phot.powerCycles = p.powerCycles + 1 ∧ t.phot.mono = 0 ∧ (∀ v, kept = some v → t.phot.time = v) ∧ (kept = none → t.phot.clockUnset = true) ∧
        t.phot.events.getLast? = some e ∧ e.event = 1) ∧
      (∀ c, p.powerDownOk = false → p.checkpoint = some c → c.counts.length = 16 →
        ∃ t e, Runs (.photometerPowerUp false kept) s t ∧ t.phot.on = true ∧ t.phot.energy = c.energy ∧ t.phot.toggles = c.toggles ∧ t.phot.acceptAny = allDies ∧
          (∀ m : DomeId, some (Table.read (0, 0) t.phot.counts m) = c.counts[m.val]?) ∧ t.phot.events.getLast? = some e ∧ e.event = 10 ∧ e.detail.toNat = c.seq % 2 ^ 64))

/-! ## Observation -/

/-- An authorisation that passes arms every die whose ring is on with its permissions, and one that does not arms none; either way the NONCE is new. DISARM ends it everywhere. CTRL.FREEZE and the debug pin freeze the armed module whose trigger is enabled: every die holds, ports and host links go down, harts halt. While it is not armed CTRL.FREEZE is dropped. A readout of the frozen module answers and writes no state. It rests on the choices of log entries 25, 150 and 155. -/
def Obligations.CoelostatArmsFreezesAndReads : Prop :=
  ∀ (s : State),
    let on (d : DieId) : Prop := (s.chip.die d).ringOn = true
    let freezes (t : State) (d : DieId) (kind : Nat) : Prop := SameMemory s t ∧
      (∀ e, on e → (t.chip.die e).coel.freezing = true ∧ (let y := (s.chip.die e).tap; (t.chip.die e).coel.frozen = ((s.chip.die e).coel.frozen || decide (y.buffer = [] ∧ y.owed = []))) ∧
        (t.chip.die e).coel.cause = BitVec.ofNat 32 (d.val * 2 ^ 8 + kind)) ∧
      (∀ e, ¬ on e → t.chip.die e = s.chip.die e) ∧ t.chip.link.link0Up = false ∧ t.chip.link.link1Up = false ∧
      (∀ q, (t.chip.port q).state = 0) ∧ (∀ h, (t.chip.hart h).fetching = false) ∧ t.chip.clusters = s.chip.clusters ∧ t.chip.cores = s.chip.cores
    let enabled (d : DieId) (source : Nat) : Prop := (s.chip.die d).coel.armed = true ∧ (s.chip.die d).coel.perms.getLsbD 0 = true ∧ (s.chip.die d).coel.trigCtrl.getLsbD source = true
    (RingUp s 0 →
      ∃ t, Runs .authGo s t ∧ SameMemory s t ∧ (∀ d, on d → (t.chip.die d).coel.attempts = s.chip.free) ∧
        if s.chip.authGood = true then
          (∀ d, on d → (t.chip.die d).coel.armed = true ∧ (t.chip.die d).coel.perms = s.chip.authBuf.extractLsb' 32 2 ∧ (t.chip.head (.coelostat d)).irqEvents.getLsbD 1 = true)
        else (∀ d, (t.chip.die d).coel.armed = (s.chip.die d).coel.armed) ∧ (t.chip.head (.coelostat 0)).errStatus.getLsbD 0 = true) ∧
    (∀ d, RingUp s d →
      (∃ t, Runs (.disarm d) s t ∧ t = { s with chip := { s.chip with dies := t.chip.dies } } ∧
        ∀ e, t.chip.die e = { s.chip.die e with coel := { (s.chip.die e).coel with armed := false, perms := 0 } }) ∧
      ((s.chip.die d).coel.armed = false → ∃ t, Runs (.freeze d) s t ∧ t = { s with chip := { s.chip with heads := t.chip.heads } } ∧ (t.chip.head (.coelostat d)).errStatus.getLsbD 1 = true) ∧
      (enabled d 1 → ∃ t, Runs (.freeze d) s t ∧ freezes t d 2)) ∧
    (RingUp s 3 → enabled 3 0 → ∃ t, Runs .coelTrig s t ∧ freezes t 3 1) ∧
    (∀ c r, on c.die → (s.chip.die c.die).coel.armed = true → (s.chip.die c.die).coel.perms.getLsbD 1 = true → (∀ e, on e → (s.chip.die e).coel.frozen = true) →
      ∃ t, Runs (.jtagReadout (.sequencer c r)) s t ∧
        t = { s with chip := { s.chip with out := if (s.chip.die c.die).coreOn = true then .word ((s.chip.cluster c).s r).toNat else .fault Code.coreOff } }) ∧
    (∀ x, (s.chip.die (readoutDie x)).coel.perms.getLsbD 1 = false → ∃ t, Runs (.jtagReadout x) s t ∧ t = { s with chip := { s.chip with out := .unsupported } })

/-- PERF.CTRL.SNAP copies the live counters and the beat count of its unit, and changes no live counter. TRACE_RECORD_WRITE writes the oldest record into the ring's next slot and the WRITE count after it; a full ring drops the record, and the drop is counted. It rests on the choices of log entries 144, 147 and 148. -/
def Obligations.CountersAndTracesAreRead : Prop :=
  ∀ (s : State),
    (∀ c, ClusterUp s c →
      ∃ t, Runs (.perfSnap (.cluster c)) s t ∧ t = { s with chip := { s.chip with clusters := t.chip.clusters, cores := t.chip.cores } } ∧
        (∀ k, k ≠ c → t.chip.cluster k = s.chip.cluster k) ∧ t.chip.cluster c = { s.chip.cluster c with snaps := (t.chip.cluster c).snaps, snapBeat := (s.chip.cluster c).beat } ∧
        (∀ n, n < 16 → Table.read 0 (t.chip.cluster c).snaps n = Table.read 0 (s.chip.head (.perf (.cluster c))).counters n) ∧
        ∀ (i : Fin 32) n, n < 8 → (s.chip.head (.core (coreOf c i))).counters ≠ [] →
          Table.read 0 (t.chip.core (coreOf c i)).snaps n = Table.read 0 (s.chip.head (.core (coreOf c i))).counters n) ∧
    (∀ n, StackUp s n →
      ∃ t, Runs (.perfSnap (.stack n)) s t ∧ OnlyStack n s t ∧ t.chip.stack n = { s.chip.stack n with snaps := (t.chip.stack n).snaps } ∧
        ∀ i, i < 32 → Table.read 0 (t.chip.stack n).snaps i = Table.read 0 (s.chip.head (.perf (.stack n))).counters i) ∧
    (∀ (m : DomeId) (x : TraceRec) (rest : List TraceRec) (a b c : StackId × Nat),
      let u := s.chip.trace m
      let home := s.fw.home m
      let w := whoOf (.meridian home)
      let slot := u.base.toNat + u.written % 2 ^ u.sizeLog2 * 32
      let key (p : StackId × Nat) : Nat := dramKey p.1 ((s.chip.stack p.1).phys p.2)
      u.sizeLog2 ≠ 0 → u.queue = x :: rest → x.marker = none → u.ctl.toNat % 64 = 0 → RingUp s home →
      s.chip.findLine c.1 (c.2 / 256) = none → Reaches s w (u.ctl.toNat + 8) false c.1 c.2 → let unread := u.written - leNat (dramBytes s c.1 c.2 8)
      (2 ^ u.sizeLog2 ≤ unread →
        ∃ t, Runs (.traceRecordWrite m) s t ∧ SameMemory s t ∧ t.chip.trace m = { u with queue := rest, dropped := u.dropped + 1 } ∧ ∀ k, k ≠ m → t.chip.trace k = s.chip.trace k) ∧
      (unread < 2 ^ u.sizeLog2 → u.dropped = 0 → slot % 64 + 32 ≤ 64 → s.chip.domeReaches home m none slot 32 true = true → s.chip.domeReaches home m none u.ctl.toNat 8 true = true →
        s.chip.findLine a.1 (a.2 / 256) = none → Reaches s w slot true a.1 a.2 → s.chip.findLine b.1 (b.2 / 256) = none → Reaches s w u.ctl.toNat true b.1 b.2 →
        (key a + 32 ≤ key b ∨ key b + 8 ≤ key a) →
        ∃ t, Runs (.traceRecordWrite m) s t ∧ t.chip.trace m = { u with queue := rest, written := u.written + 1 } ∧ t.hostMem = s.hostMem ∧ t.chip.scratch = s.chip.scratch ∧
          dramBytes t b.1 b.2 8 = leBytes 8 (u.written + 1) ∧ dramBytes t a.1 a.2 32 = traceBytes x u.sizeLog2 u.written ∧
          ∀ k, (k < key a ∨ key a + 32 ≤ k) → (k < key b ∨ key b + 8 ≤ k) → t.chip.dram.byte k = s.chip.dram.byte k))

/-- Right after reset every memory of the module and the server host's are in canonical form. -/
def Obligations.ResetMemoriesAreCanonical : Prop :=
  State.reset.chip.dram.wf = true ∧ State.reset.chip.scratch.wf = true ∧ State.reset.chip.engineStore.wf = true ∧ State.reset.hostMem.wf = true

/-- Every step, whatever the command, keeps the canonical form of the server host's memory as the copy channels write it: addresses strictly rising, no byte listed that an unlisted address reads as. -/
def Obligations.HostMemoryStaysCanonical : Prop := ∀ s t : State, s.hostMem.wf = true → step s = .next t → t.hostMem.wf = true
end

