-- ==== Sys2Proof/Laws/Store.lean ====
section
/-! SUPPORT. Laws of tables and of byte memories: what is read after a write, and that every memory operation keeps the canonical form. -/

namespace Sys2Proof.Machine

/-! ## Tables -/

@[simp] theorem Table.read_nil {κ α : Type} [DecidableEq κ] (d : α) (k : κ) : Table.read d [] k = d := rfl

/-- Reading a table after one entry is written. -/
theorem Table.read_write {κ α : Type} [DecidableEq κ] (d : α) (t : Table κ α) (k j : κ) (a : α) :
    Table.read d (Table.write t k a) j = if j = k then a else Table.read d t j := by
  induction t with
  | nil => by_cases h : k = j <;> simp [Table.write, Table.read, h, eq_comm]
  | cons e t ih =>
    obtain ⟨k', a'⟩ := e
    by_cases h : k' = k
    · subst h
      by_cases g : k' = j
      · simp [Table.write, Table.read, g]
      · simp [Table.write, Table.read, g, Ne.symm g]
    · by_cases g : k' = j
      · subst g; simp [Table.write, Table.read, h]
      · simp [Table.write, Table.read, h, g, ih]

@[simp] theorem Table.read_write_same {κ α : Type} [DecidableEq κ] (d : α) (t : Table κ α) (k : κ) (a : α) : Table.read d (Table.write t k a) k = a := by
  simp [Table.read_write]

@[simp] theorem Table.read_write_other {κ α : Type} [DecidableEq κ] (d : α) (t : Table κ α) (k j : κ) (a : α) (h : j ≠ k) :
    Table.read d (Table.write t k a) j = Table.read d t j := by
  simp [Table.read_write, h]

/-- Reading a table whose entries a function has changed, when it changes the default to the new default. -/
theorem Table.read_map {κ α β : Type} [DecidableEq κ] (f : α → β) (d : α) (t : Table κ α) (k : κ) :
    Table.read (f d) (t.map (fun e => (e.1, f e.2))) k = f (Table.read d t k) := by
  induction t with
  | nil => rfl
  | cons e t ih =>
    by_cases h : e.1 = k
    · simp [Table.read, h]
    · simp [Table.read, h, ih]

/-! ## The canonical form -/

/-- Every listed address lies above a bound. -/
def Memory.above (m : Memory) (n : Nat) : Prop := ∀ c ∈ m, n < c.1

theorem Memory.wf_cons (a : Nat) (b : BitVec 8) (t : Memory) : Memory.wf ((a, b) :: t) = true ↔ b ≠ Memory.unlisted ∧ Memory.above t a ∧ Memory.wf t = true := by
  induction t generalizing a b with
  | nil => simp [Memory.wf, Memory.above]
  | cons e t ih =>
    obtain ⟨a', b'⟩ := e
    simp only [Memory.wf, Bool.and_eq_true, bne_iff_ne, decide_eq_true_eq, Memory.above, List.mem_cons, forall_eq_or_imp]
    constructor
    · rintro ⟨⟨h, g⟩, w⟩
      have u := (ih a' b').mp w
      exact ⟨h, ⟨g, fun c hc => Nat.lt_trans g (u.2.1 c hc)⟩, w⟩
    · rintro ⟨h, ⟨g, _⟩, w⟩
      exact ⟨⟨h, g⟩, w⟩

/-- Dropping bytes keeps the form. -/
theorem Memory.filter_wf (m : Memory) (p : Host.Cell → Bool) (h : m.wf = true) : Memory.wf (m.filter p) = true := by
  induction m with
  | nil => rfl
  | cons e t ih =>
    obtain ⟨a, b⟩ := e
    have u := (Memory.wf_cons a b t).mp h
    simp only [List.filter_cons]
    split
    · exact (Memory.wf_cons a b _).mpr ⟨u.1, fun c hc => u.2.1 c (List.mem_filter.mp hc).1, ih u.2.2⟩
    · exact ih u.2.2

theorem Memory.clear_wf (m : Memory) (lo hi : Nat) (h : m.wf = true) : Memory.wf (m.clear lo hi) = true := Memory.filter_wf m _ h

theorem Memory.mem_insert (m : Memory) (a : Nat) (b : BitVec 8) (c : Host.Cell) (h : c ∈ Memory.insert m a b) : c = (a, b) ∨ c ∈ m := by
  induction m with
  | nil => simpa [Memory.insert] using h
  | cons e t ih =>
    obtain ⟨a', b'⟩ := e
    simp only [Memory.insert] at h
    split at h
    · simpa using h
    · rcases List.mem_cons.mp h with g | g
      · exact .inr (by simp [g])
      · rcases ih g with k | k
        · exact .inl k
        · exact .inr (List.mem_cons_of_mem _ k)

theorem Memory.insert_wf (m : Memory) (a : Nat) (b : BitVec 8) (hb : b ≠ Memory.unlisted) (ha : ∀ c ∈ m, c.1 ≠ a) (h : m.wf = true) :
    Memory.wf (Memory.insert m a b) = true := by
  induction m with
  | nil => simp [Memory.insert, Memory.wf, hb]
  | cons e t ih =>
    obtain ⟨a', b'⟩ := e
    have u := (Memory.wf_cons a' b' t).mp h
    simp only [Memory.insert]
    split
    · rename_i lt
      refine (Memory.wf_cons _ _ _).mpr ⟨hb, ?_, h⟩
      intro c hc
      rcases List.mem_cons.mp hc with g | g
      · simpa [g] using lt
      · exact Nat.lt_trans lt (u.2.1 c g)
    · rename_i ge
      have ne : a' ≠ a := ha (a', b') (by simp)
      refine (Memory.wf_cons _ _ _).mpr ⟨u.1, ?_, ih (fun c hc => ha c (List.mem_cons_of_mem _ hc)) u.2.2⟩
      intro c hc
      rcases Memory.mem_insert t a b c hc with g | g
      · subst g; exact Nat.lt_of_le_of_ne (Nat.le_of_not_lt ge) ne
      · exact u.2.1 c g

/-- A write keeps the form. -/
theorem Memory.put_wf (m : Memory) (a : Nat) (b : BitVec 8) (h : m.wf = true) : Memory.wf (m.put a b) = true := by
  unfold Memory.put
  split
  · exact Memory.filter_wf m _ h
  · rename_i g
    refine Memory.insert_wf _ a b g ?_ (Memory.filter_wf m _ h)
    intro c hc
    simpa using (List.mem_filter.mp hc).2

theorem Memory.putBytes_wf (m : Memory) (a : Nat) (l : List (BitVec 8)) (h : m.wf = true) : Memory.wf (m.putBytes a l) = true := by
  induction l generalizing m a with
  | nil => exact h
  | cons b t ih => exact ih _ _ (Memory.put_wf m a b h)

/-! ## Read after write -/

theorem Memory.byte_filter (m : Memory) (p : Nat → Bool) (x : Nat) : Memory.byte (m.filter (fun c => p c.1)) x = if p x then m.byte x else Memory.unlisted := by
  induction m with
  | nil => simp [Memory.byte]
  | cons e t ih =>
    obtain ⟨a, b⟩ := e
    simp only [List.filter_cons]
    by_cases hp : p a
    · by_cases g : a = x
      · subst g; simp [Memory.byte, hp]
      · simp [Memory.byte, hp, g, ih]
    · by_cases g : a = x
      · subst g; simp [hp, ih]
      · simp [Memory.byte, hp, g, ih]

theorem Memory.byte_insert (m : Memory) (a : Nat) (b : BitVec 8) (x : Nat) (ha : ∀ c ∈ m, c.1 ≠ a) : Memory.byte (Memory.insert m a b) x = if x = a then b else m.byte x := by
  induction m with
  | nil => by_cases g : a = x <;> simp [Memory.insert, Memory.byte, g, eq_comm]
  | cons e t ih =>
    obtain ⟨a', b'⟩ := e
    have ne : a' ≠ a := ha (a', b') (by simp)
    have rest := ih (fun c hc => ha c (List.mem_cons_of_mem _ hc))
    simp only [Memory.insert]
    split
    · by_cases g : a = x
      · subst g; simp [Memory.byte]
      · simp [Memory.byte, g, Ne.symm g]
    · by_cases g : a' = x
      · subst g; simp [Memory.byte, ne]
      · simp [Memory.byte, g, rest]

/-- A byte reads as it was written, and every other byte as before. -/
theorem Memory.byte_put (m : Memory) (a : Nat) (b : BitVec 8) (x : Nat) : Memory.byte (m.put a b) x = if x = a then b else m.byte x := by
  unfold Memory.put
  have f : Memory.byte (m.filter (fun c => c.1 != a)) x = if x != a then m.byte x else Memory.unlisted := Memory.byte_filter m (fun k => k != a) x
  split
  · rename_i h
    subst h
    rw [f]; by_cases g : x = a <;> simp [g]
  · rw [Memory.byte_insert _ a b x (fun c hc => by simpa using (List.mem_filter.mp hc).2), f]
    by_cases g : x = a <;> simp [g]

@[simp] theorem Memory.byte_put_same (m : Memory) (a : Nat) (b : BitVec 8) : Memory.byte (m.put a b) a = b := by simp [Memory.byte_put]

@[simp] theorem Memory.byte_put_other (m : Memory) (a x : Nat) (b : BitVec 8) (h : x ≠ a) : Memory.byte (m.put a b) x = m.byte x := by simp [Memory.byte_put, h]

/-- Every byte after a write of several. -/
theorem Memory.byte_putBytes (m : Memory) (a : Nat) (l : List (BitVec 8)) (x : Nat) :
    Memory.byte (m.putBytes a l) x = if a ≤ x ∧ x < a + l.length then l.getD (x - a) 0 else m.byte x := by
  induction l generalizing m a with
  | nil => simp [Memory.putBytes]
  | cons b t ih =>
    rw [Memory.putBytes, ih]
    by_cases h : x = a
    · subst h
      have : ¬ (x + 1 ≤ x ∧ x < x + 1 + t.length) := by omega
      rw [if_neg this, if_pos (by simp)]; simp
    · rw [Memory.byte_put_other _ _ _ _ h]
      by_cases g : a + 1 ≤ x ∧ x < a + 1 + t.length
      · have e : x - a = (x - (a + 1)) + 1 := by omega
        rw [if_pos g, if_pos (by simp; omega), e, List.getD_cons_succ]
      · rw [if_neg g, if_neg (by simp; omega)]

/-- A write of several bytes leaves every byte outside them. -/
theorem Memory.byte_putBytes_outside (m : Memory) (a : Nat) (l : List (BitVec 8)) (x : Nat) (h : x < a ∨ a + l.length ≤ x) : Memory.byte (m.putBytes a l) x = m.byte x := by
  rw [Memory.byte_putBytes, if_neg (by omega)]

theorem Memory.byte_clear (m : Memory) (lo hi x : Nat) : Memory.byte (m.clear lo hi) x = if lo ≤ x ∧ x < hi then Memory.unlisted else m.byte x := by
  have f : Memory.byte (m.filter (fun c => c.1 < lo || hi ≤ c.1)) x = if (x < lo || hi ≤ x) then m.byte x else Memory.unlisted :=
    Memory.byte_filter m (fun k => k < lo || hi ≤ k) x
  unfold Memory.clear
  rw [f]
  by_cases g : lo ≤ x ∧ x < hi
  · rw [if_pos g, if_neg (by simp; omega)]
  · rw [if_neg g, if_pos (by simp; omega)]

@[simp] theorem Memory.bytes_length (m : Memory) (a n : Nat) : (m.bytes a n).length = n := by
  induction n generalizing a with
  | zero => rfl
  | succ n ih => simp [Memory.bytes, ih]

theorem Memory.bytes_getD (m : Memory) (a n i : Nat) (h : i < n) : (m.bytes a n).getD i 0 = m.byte (a + i) := by
  induction n generalizing a i with
  | zero => omega
  | succ n ih =>
    cases i with
    | zero => simp [Memory.bytes]
    | succ i => simp only [Memory.bytes, List.getD_cons_succ]; rw [ih (a + 1) i (by omega)]; congr 1; omega

/-- What has been written is read back. -/
theorem Memory.bytes_putBytes (m : Memory) (a : Nat) (l : List (BitVec 8)) : (m.putBytes a l).bytes a l.length = l := by
  apply List.ext_getElem
  · simp
  · intro i h g
    have e := Memory.bytes_getD (m.putBytes a l) a l.length i g
    rw [Memory.byte_putBytes, if_pos (by omega)] at e
    simpa [List.getD_eq_getElem?_getD, h, g] using e

/-! ## Numbers of bytes -/

@[simp] theorem leBytes_length (n v : Nat) : (leBytes n v).length = n := by
  induction n generalizing v with
  | zero => rfl
  | succ n ih => simp [leBytes, ih]

theorem leNat_leBytes (n v : Nat) : leNat (leBytes n v) = v % 256 ^ n := by
  induction n generalizing v with
  | zero => simp [leBytes, leNat, Nat.mod_one]
  | succ n ih =>
    have e : (BitVec.ofNat 8 v).toNat = v % 256 := by simp
    rw [leBytes, leNat, ih, e, Nat.pow_succ, Nat.mul_comm (256 ^ n) 256, Nat.mod_mul]

end Sys2Proof.Machine
end

