-- ==== Sys2Proof/Laws/State.lean ====
section
/-! SUPPORT. What a replaced unit leaves: for each update of one unit of the chip, every other field, and every unit of its own kind. -/

namespace Sys2Proof.Machine

open Host

/-! ## Head -/

@[simp] theorem Chip.updHead_stagedLow (s : Chip) (k : Block) (f : Head → Head) : (s.updHead k f).stagedLow = s.stagedLow := rfl
@[simp] theorem Chip.updHead_latchedHigh (s : Chip) (k : Block) (f : Head → Head) : (s.updHead k f).latchedHigh = s.latchedHigh := rfl
@[simp] theorem Chip.updHead_dies (s : Chip) (k : Block) (f : Head → Head) : (s.updHead k f).dies = s.dies := rfl
@[simp] theorem Chip.updHead_clusters (s : Chip) (k : Block) (f : Head → Head) : (s.updHead k f).clusters = s.clusters := rfl
@[simp] theorem Chip.updHead_cores (s : Chip) (k : Block) (f : Head → Head) : (s.updHead k f).cores = s.cores := rfl
@[simp] theorem Chip.updHead_pstore (s : Chip) (k : Block) (f : Head → Head) : (s.updHead k f).pstore = s.pstore := rfl
@[simp] theorem Chip.updHead_harts (s : Chip) (k : Block) (f : Head → Head) : (s.updHead k f).harts = s.harts := rfl
@[simp] theorem Chip.updHead_stk (s : Chip) (k : Block) (f : Head → Head) : (s.updHead k f).stk = s.stk := rfl
@[simp] theorem Chip.updHead_ports (s : Chip) (k : Block) (f : Head → Head) : (s.updHead k f).ports = s.ports := rfl
@[simp] theorem Chip.updHead_objs (s : Chip) (k : Block) (f : Head → Head) : (s.updHead k f).objs = s.objs := rfl
@[simp] theorem Chip.updHead_syncs (s : Chip) (k : Block) (f : Head → Head) : (s.updHead k f).syncs = s.syncs := rfl
@[simp] theorem Chip.updHead_cache (s : Chip) (k : Block) (f : Head → Head) : (s.updHead k f).cache = s.cache := rfl
@[simp] theorem Chip.updHead_recency (s : Chip) (k : Block) (f : Head → Head) : (s.updHead k f).recency = s.recency := rfl
@[simp] theorem Chip.updHead_hostCache (s : Chip) (k : Block) (f : Head → Head) : (s.updHead k f).hostCache = s.hostCache := rfl
@[simp] theorem Chip.updHead_scratch (s : Chip) (k : Block) (f : Head → Head) : (s.updHead k f).scratch = s.scratch := rfl
@[simp] theorem Chip.updHead_scratchErrors (s : Chip) (k : Block) (f : Head → Head) : (s.updHead k f).scratchErrors = s.scratchErrors := rfl
@[simp] theorem Chip.updHead_dram (s : Chip) (k : Block) (f : Head → Head) : (s.updHead k f).dram = s.dram := rfl
@[simp] theorem Chip.updHead_engineStore (s : Chip) (k : Block) (f : Head → Head) : (s.updHead k f).engineStore = s.engineStore := rfl
@[simp] theorem Chip.updHead_codeErrors (s : Chip) (k : Block) (f : Head → Head) : (s.updHead k f).codeErrors = s.codeErrors := rfl
@[simp] theorem Chip.updHead_fabric (s : Chip) (k : Block) (f : Head → Head) : (s.updHead k f).fabric = s.fabric := rfl
@[simp] theorem Chip.updHead_link (s : Chip) (k : Block) (f : Head → Head) : (s.updHead k f).link = s.link := rfl
@[simp] theorem Chip.updHead_power (s : Chip) (k : Block) (f : Head → Head) : (s.updHead k f).power = s.power := rfl
@[simp] theorem Chip.updHead_traces (s : Chip) (k : Block) (f : Head → Head) : (s.updHead k f).traces = s.traces := rfl
@[simp] theorem Chip.updHead_authBuf (s : Chip) (k : Block) (f : Head → Head) : (s.updHead k f).authBuf = s.authBuf := rfl
@[simp] theorem Chip.updHead_ready (s : Chip) (k : Block) (f : Head → Head) : (s.updHead k f).ready = s.ready := rfl
@[simp] theorem Chip.updHead_out (s : Chip) (k : Block) (f : Head → Head) : (s.updHead k f).out = s.out := rfl
@[simp] theorem Chip.updHead_badRuns (s : Chip) (k : Block) (f : Head → Head) : (s.updHead k f).badRuns = s.badRuns := rfl
@[simp] theorem Chip.updHead_free (s : Chip) (k : Block) (f : Head → Head) : (s.updHead k f).free = s.free := rfl
theorem Chip.updHead_head (s : Chip) (k j : Block) (f : Head → Head) : (s.updHead k f).head j = if j = k then f (s.head k) else s.head j := Table.read_write _ _ _ _ _
@[simp] theorem Chip.updHead_head_same (s : Chip) (k : Block) (f : Head → Head) : (s.updHead k f).head k = f (s.head k) := Table.read_write_same _ _ _ _
@[simp] theorem Chip.updHead_head_other (s : Chip) (k j : Block) (f : Head → Head) (h : j ≠ k) : (s.updHead k f).head j = s.head j := Table.read_write_other _ _ _ _ _ h
@[simp] theorem Chip.updHead_die (s : Chip) (k : Block) (f : Head → Head) : (s.updHead k f).die = s.die := rfl
@[simp] theorem Chip.updHead_cluster (s : Chip) (k : Block) (f : Head → Head) : (s.updHead k f).cluster = s.cluster := rfl
@[simp] theorem Chip.updHead_core (s : Chip) (k : Block) (f : Head → Head) : (s.updHead k f).core = s.core := rfl
@[simp] theorem Chip.updHead_hart (s : Chip) (k : Block) (f : Head → Head) : (s.updHead k f).hart = s.hart := rfl
@[simp] theorem Chip.updHead_stack (s : Chip) (k : Block) (f : Head → Head) : (s.updHead k f).stack = s.stack := rfl
@[simp] theorem Chip.updHead_port (s : Chip) (k : Block) (f : Head → Head) : (s.updHead k f).port = s.port := rfl
@[simp] theorem Chip.updHead_obj (s : Chip) (k : Block) (f : Head → Head) : (s.updHead k f).obj = s.obj := rfl
@[simp] theorem Chip.updHead_sync (s : Chip) (k : Block) (f : Head → Head) : (s.updHead k f).sync = s.sync := rfl
@[simp] theorem Chip.updHead_trace (s : Chip) (k : Block) (f : Head → Head) : (s.updHead k f).trace = s.trace := rfl
@[simp] theorem Chip.updHead_fn (s : Chip) (k : Block) (f : Head → Head) : (s.updHead k f).fn = s.fn := rfl

/-! ## Die -/

@[simp] theorem Chip.updDie_heads (s : Chip) (k : DieId) (f : Die → Die) : (s.updDie k f).heads = s.heads := rfl
@[simp] theorem Chip.updDie_stagedLow (s : Chip) (k : DieId) (f : Die → Die) : (s.updDie k f).stagedLow = s.stagedLow := rfl
@[simp] theorem Chip.updDie_latchedHigh (s : Chip) (k : DieId) (f : Die → Die) : (s.updDie k f).latchedHigh = s.latchedHigh := rfl
@[simp] theorem Chip.updDie_clusters (s : Chip) (k : DieId) (f : Die → Die) : (s.updDie k f).clusters = s.clusters := rfl
@[simp] theorem Chip.updDie_cores (s : Chip) (k : DieId) (f : Die → Die) : (s.updDie k f).cores = s.cores := rfl
@[simp] theorem Chip.updDie_pstore (s : Chip) (k : DieId) (f : Die → Die) : (s.updDie k f).pstore = s.pstore := rfl
@[simp] theorem Chip.updDie_harts (s : Chip) (k : DieId) (f : Die → Die) : (s.updDie k f).harts = s.harts := rfl
@[simp] theorem Chip.updDie_stk (s : Chip) (k : DieId) (f : Die → Die) : (s.updDie k f).stk = s.stk := rfl
@[simp] theorem Chip.updDie_ports (s : Chip) (k : DieId) (f : Die → Die) : (s.updDie k f).ports = s.ports := rfl
@[simp] theorem Chip.updDie_objs (s : Chip) (k : DieId) (f : Die → Die) : (s.updDie k f).objs = s.objs := rfl
@[simp] theorem Chip.updDie_syncs (s : Chip) (k : DieId) (f : Die → Die) : (s.updDie k f).syncs = s.syncs := rfl
@[simp] theorem Chip.updDie_cache (s : Chip) (k : DieId) (f : Die → Die) : (s.updDie k f).cache = s.cache := rfl
@[simp] theorem Chip.updDie_recency (s : Chip) (k : DieId) (f : Die → Die) : (s.updDie k f).recency = s.recency := rfl
@[simp] theorem Chip.updDie_hostCache (s : Chip) (k : DieId) (f : Die → Die) : (s.updDie k f).hostCache = s.hostCache := rfl
@[simp] theorem Chip.updDie_scratch (s : Chip) (k : DieId) (f : Die → Die) : (s.updDie k f).scratch = s.scratch := rfl
@[simp] theorem Chip.updDie_scratchErrors (s : Chip) (k : DieId) (f : Die → Die) : (s.updDie k f).scratchErrors = s.scratchErrors := rfl
@[simp] theorem Chip.updDie_dram (s : Chip) (k : DieId) (f : Die → Die) : (s.updDie k f).dram = s.dram := rfl
@[simp] theorem Chip.updDie_engineStore (s : Chip) (k : DieId) (f : Die → Die) : (s.updDie k f).engineStore = s.engineStore := rfl
@[simp] theorem Chip.updDie_codeErrors (s : Chip) (k : DieId) (f : Die → Die) : (s.updDie k f).codeErrors = s.codeErrors := rfl
@[simp] theorem Chip.updDie_fabric (s : Chip) (k : DieId) (f : Die → Die) : (s.updDie k f).fabric = s.fabric := rfl
@[simp] theorem Chip.updDie_link (s : Chip) (k : DieId) (f : Die → Die) : (s.updDie k f).link = s.link := rfl
@[simp] theorem Chip.updDie_power (s : Chip) (k : DieId) (f : Die → Die) : (s.updDie k f).power = s.power := rfl
@[simp] theorem Chip.updDie_traces (s : Chip) (k : DieId) (f : Die → Die) : (s.updDie k f).traces = s.traces := rfl
@[simp] theorem Chip.updDie_authBuf (s : Chip) (k : DieId) (f : Die → Die) : (s.updDie k f).authBuf = s.authBuf := rfl
@[simp] theorem Chip.updDie_ready (s : Chip) (k : DieId) (f : Die → Die) : (s.updDie k f).ready = s.ready := rfl
@[simp] theorem Chip.updDie_out (s : Chip) (k : DieId) (f : Die → Die) : (s.updDie k f).out = s.out := rfl
@[simp] theorem Chip.updDie_badRuns (s : Chip) (k : DieId) (f : Die → Die) : (s.updDie k f).badRuns = s.badRuns := rfl
@[simp] theorem Chip.updDie_free (s : Chip) (k : DieId) (f : Die → Die) : (s.updDie k f).free = s.free := rfl
@[simp] theorem Chip.updDie_head (s : Chip) (k : DieId) (f : Die → Die) : (s.updDie k f).head = s.head := rfl
theorem Chip.updDie_die (s : Chip) (k j : DieId) (f : Die → Die) : (s.updDie k f).die j = if j = k then f (s.die k) else s.die j := Table.read_write _ _ _ _ _
@[simp] theorem Chip.updDie_die_same (s : Chip) (k : DieId) (f : Die → Die) : (s.updDie k f).die k = f (s.die k) := Table.read_write_same _ _ _ _
@[simp] theorem Chip.updDie_die_other (s : Chip) (k j : DieId) (f : Die → Die) (h : j ≠ k) : (s.updDie k f).die j = s.die j := Table.read_write_other _ _ _ _ _ h
@[simp] theorem Chip.updDie_cluster (s : Chip) (k : DieId) (f : Die → Die) : (s.updDie k f).cluster = s.cluster := rfl
@[simp] theorem Chip.updDie_core (s : Chip) (k : DieId) (f : Die → Die) : (s.updDie k f).core = s.core := rfl
@[simp] theorem Chip.updDie_hart (s : Chip) (k : DieId) (f : Die → Die) : (s.updDie k f).hart = s.hart := rfl
@[simp] theorem Chip.updDie_stack (s : Chip) (k : DieId) (f : Die → Die) : (s.updDie k f).stack = s.stack := rfl
@[simp] theorem Chip.updDie_port (s : Chip) (k : DieId) (f : Die → Die) : (s.updDie k f).port = s.port := rfl
@[simp] theorem Chip.updDie_obj (s : Chip) (k : DieId) (f : Die → Die) : (s.updDie k f).obj = s.obj := rfl
@[simp] theorem Chip.updDie_sync (s : Chip) (k : DieId) (f : Die → Die) : (s.updDie k f).sync = s.sync := rfl
@[simp] theorem Chip.updDie_trace (s : Chip) (k : DieId) (f : Die → Die) : (s.updDie k f).trace = s.trace := rfl
@[simp] theorem Chip.updDie_fn (s : Chip) (k : DieId) (f : Die → Die) : (s.updDie k f).fn = s.fn := rfl

/-! ## Cluster -/

@[simp] theorem Chip.updCluster_heads (s : Chip) (k : ClusterId) (f : Cluster → Cluster) : (s.updCluster k f).heads = s.heads := rfl
@[simp] theorem Chip.updCluster_stagedLow (s : Chip) (k : ClusterId) (f : Cluster → Cluster) : (s.updCluster k f).stagedLow = s.stagedLow := rfl
@[simp] theorem Chip.updCluster_latchedHigh (s : Chip) (k : ClusterId) (f : Cluster → Cluster) : (s.updCluster k f).latchedHigh = s.latchedHigh := rfl
@[simp] theorem Chip.updCluster_dies (s : Chip) (k : ClusterId) (f : Cluster → Cluster) : (s.updCluster k f).dies = s.dies := rfl
@[simp] theorem Chip.updCluster_cores (s : Chip) (k : ClusterId) (f : Cluster → Cluster) : (s.updCluster k f).cores = s.cores := rfl
@[simp] theorem Chip.updCluster_pstore (s : Chip) (k : ClusterId) (f : Cluster → Cluster) : (s.updCluster k f).pstore = s.pstore := rfl
@[simp] theorem Chip.updCluster_harts (s : Chip) (k : ClusterId) (f : Cluster → Cluster) : (s.updCluster k f).harts = s.harts := rfl
@[simp] theorem Chip.updCluster_stk (s : Chip) (k : ClusterId) (f : Cluster → Cluster) : (s.updCluster k f).stk = s.stk := rfl
@[simp] theorem Chip.updCluster_ports (s : Chip) (k : ClusterId) (f : Cluster → Cluster) : (s.updCluster k f).ports = s.ports := rfl
@[simp] theorem Chip.updCluster_objs (s : Chip) (k : ClusterId) (f : Cluster → Cluster) : (s.updCluster k f).objs = s.objs := rfl
@[simp] theorem Chip.updCluster_syncs (s : Chip) (k : ClusterId) (f : Cluster → Cluster) : (s.updCluster k f).syncs = s.syncs := rfl
@[simp] theorem Chip.updCluster_cache (s : Chip) (k : ClusterId) (f : Cluster → Cluster) : (s.updCluster k f).cache = s.cache := rfl
@[simp] theorem Chip.updCluster_recency (s : Chip) (k : ClusterId) (f : Cluster → Cluster) : (s.updCluster k f).recency = s.recency := rfl
@[simp] theorem Chip.updCluster_hostCache (s : Chip) (k : ClusterId) (f : Cluster → Cluster) : (s.updCluster k f).hostCache = s.hostCache := rfl
@[simp] theorem Chip.updCluster_scratch (s : Chip) (k : ClusterId) (f : Cluster → Cluster) : (s.updCluster k f).scratch = s.scratch := rfl
@[simp] theorem Chip.updCluster_scratchErrors (s : Chip) (k : ClusterId) (f : Cluster → Cluster) : (s.updCluster k f).scratchErrors = s.scratchErrors := rfl
@[simp] theorem Chip.updCluster_dram (s : Chip) (k : ClusterId) (f : Cluster → Cluster) : (s.updCluster k f).dram = s.dram := rfl
@[simp] theorem Chip.updCluster_engineStore (s : Chip) (k : ClusterId) (f : Cluster → Cluster) : (s.updCluster k f).engineStore = s.engineStore := rfl
@[simp] theorem Chip.updCluster_codeErrors (s : Chip) (k : ClusterId) (f : Cluster → Cluster) : (s.updCluster k f).codeErrors = s.codeErrors := rfl
@[simp] theorem Chip.updCluster_fabric (s : Chip) (k : ClusterId) (f : Cluster → Cluster) : (s.updCluster k f).fabric = s.fabric := rfl
@[simp] theorem Chip.updCluster_link (s : Chip) (k : ClusterId) (f : Cluster → Cluster) : (s.updCluster k f).link = s.link := rfl
@[simp] theorem Chip.updCluster_power (s : Chip) (k : ClusterId) (f : Cluster → Cluster) : (s.updCluster k f).power = s.power := rfl
@[simp] theorem Chip.updCluster_traces (s : Chip) (k : ClusterId) (f : Cluster → Cluster) : (s.updCluster k f).traces = s.traces := rfl
@[simp] theorem Chip.updCluster_authBuf (s : Chip) (k : ClusterId) (f : Cluster → Cluster) : (s.updCluster k f).authBuf = s.authBuf := rfl
@[simp] theorem Chip.updCluster_ready (s : Chip) (k : ClusterId) (f : Cluster → Cluster) : (s.updCluster k f).ready = s.ready := rfl
@[simp] theorem Chip.updCluster_out (s : Chip) (k : ClusterId) (f : Cluster → Cluster) : (s.updCluster k f).out = s.out := rfl
@[simp] theorem Chip.updCluster_badRuns (s : Chip) (k : ClusterId) (f : Cluster → Cluster) : (s.updCluster k f).badRuns = s.badRuns := rfl
@[simp] theorem Chip.updCluster_free (s : Chip) (k : ClusterId) (f : Cluster → Cluster) : (s.updCluster k f).free = s.free := rfl
@[simp] theorem Chip.updCluster_head (s : Chip) (k : ClusterId) (f : Cluster → Cluster) : (s.updCluster k f).head = s.head := rfl
@[simp] theorem Chip.updCluster_die (s : Chip) (k : ClusterId) (f : Cluster → Cluster) : (s.updCluster k f).die = s.die := rfl
theorem Chip.updCluster_cluster (s : Chip) (k j : ClusterId) (f : Cluster → Cluster) : (s.updCluster k f).cluster j = if j = k then f (s.cluster k) else s.cluster j := Table.read_write _ _ _ _ _
@[simp] theorem Chip.updCluster_cluster_same (s : Chip) (k : ClusterId) (f : Cluster → Cluster) : (s.updCluster k f).cluster k = f (s.cluster k) := Table.read_write_same _ _ _ _
@[simp] theorem Chip.updCluster_cluster_other (s : Chip) (k j : ClusterId) (f : Cluster → Cluster) (h : j ≠ k) : (s.updCluster k f).cluster j = s.cluster j := Table.read_write_other _ _ _ _ _ h
@[simp] theorem Chip.updCluster_core (s : Chip) (k : ClusterId) (f : Cluster → Cluster) : (s.updCluster k f).core = s.core := rfl
@[simp] theorem Chip.updCluster_hart (s : Chip) (k : ClusterId) (f : Cluster → Cluster) : (s.updCluster k f).hart = s.hart := rfl
@[simp] theorem Chip.updCluster_stack (s : Chip) (k : ClusterId) (f : Cluster → Cluster) : (s.updCluster k f).stack = s.stack := rfl
@[simp] theorem Chip.updCluster_port (s : Chip) (k : ClusterId) (f : Cluster → Cluster) : (s.updCluster k f).port = s.port := rfl
@[simp] theorem Chip.updCluster_obj (s : Chip) (k : ClusterId) (f : Cluster → Cluster) : (s.updCluster k f).obj = s.obj := rfl
@[simp] theorem Chip.updCluster_sync (s : Chip) (k : ClusterId) (f : Cluster → Cluster) : (s.updCluster k f).sync = s.sync := rfl
@[simp] theorem Chip.updCluster_trace (s : Chip) (k : ClusterId) (f : Cluster → Cluster) : (s.updCluster k f).trace = s.trace := rfl
@[simp] theorem Chip.updCluster_fn (s : Chip) (k : ClusterId) (f : Cluster → Cluster) : (s.updCluster k f).fn = s.fn := rfl

/-! ## Core -/

@[simp] theorem Chip.updCore_heads (s : Chip) (k : CoreId) (f : Machine.Core → Machine.Core) : (s.updCore k f).heads = s.heads := rfl
@[simp] theorem Chip.updCore_stagedLow (s : Chip) (k : CoreId) (f : Machine.Core → Machine.Core) : (s.updCore k f).stagedLow = s.stagedLow := rfl
@[simp] theorem Chip.updCore_latchedHigh (s : Chip) (k : CoreId) (f : Machine.Core → Machine.Core) : (s.updCore k f).latchedHigh = s.latchedHigh := rfl
@[simp] theorem Chip.updCore_dies (s : Chip) (k : CoreId) (f : Machine.Core → Machine.Core) : (s.updCore k f).dies = s.dies := rfl
@[simp] theorem Chip.updCore_clusters (s : Chip) (k : CoreId) (f : Machine.Core → Machine.Core) : (s.updCore k f).clusters = s.clusters := rfl
@[simp] theorem Chip.updCore_pstore (s : Chip) (k : CoreId) (f : Machine.Core → Machine.Core) : (s.updCore k f).pstore = s.pstore := rfl
@[simp] theorem Chip.updCore_harts (s : Chip) (k : CoreId) (f : Machine.Core → Machine.Core) : (s.updCore k f).harts = s.harts := rfl
@[simp] theorem Chip.updCore_stk (s : Chip) (k : CoreId) (f : Machine.Core → Machine.Core) : (s.updCore k f).stk = s.stk := rfl
@[simp] theorem Chip.updCore_ports (s : Chip) (k : CoreId) (f : Machine.Core → Machine.Core) : (s.updCore k f).ports = s.ports := rfl
@[simp] theorem Chip.updCore_objs (s : Chip) (k : CoreId) (f : Machine.Core → Machine.Core) : (s.updCore k f).objs = s.objs := rfl
@[simp] theorem Chip.updCore_syncs (s : Chip) (k : CoreId) (f : Machine.Core → Machine.Core) : (s.updCore k f).syncs = s.syncs := rfl
@[simp] theorem Chip.updCore_cache (s : Chip) (k : CoreId) (f : Machine.Core → Machine.Core) : (s.updCore k f).cache = s.cache := rfl
@[simp] theorem Chip.updCore_recency (s : Chip) (k : CoreId) (f : Machine.Core → Machine.Core) : (s.updCore k f).recency = s.recency := rfl
@[simp] theorem Chip.updCore_hostCache (s : Chip) (k : CoreId) (f : Machine.Core → Machine.Core) : (s.updCore k f).hostCache = s.hostCache := rfl
@[simp] theorem Chip.updCore_scratch (s : Chip) (k : CoreId) (f : Machine.Core → Machine.Core) : (s.updCore k f).scratch = s.scratch := rfl
@[simp] theorem Chip.updCore_scratchErrors (s : Chip) (k : CoreId) (f : Machine.Core → Machine.Core) : (s.updCore k f).scratchErrors = s.scratchErrors := rfl
@[simp] theorem Chip.updCore_dram (s : Chip) (k : CoreId) (f : Machine.Core → Machine.Core) : (s.updCore k f).dram = s.dram := rfl
@[simp] theorem Chip.updCore_engineStore (s : Chip) (k : CoreId) (f : Machine.Core → Machine.Core) : (s.updCore k f).engineStore = s.engineStore := rfl
@[simp] theorem Chip.updCore_codeErrors (s : Chip) (k : CoreId) (f : Machine.Core → Machine.Core) : (s.updCore k f).codeErrors = s.codeErrors := rfl
@[simp] theorem Chip.updCore_fabric (s : Chip) (k : CoreId) (f : Machine.Core → Machine.Core) : (s.updCore k f).fabric = s.fabric := rfl
@[simp] theorem Chip.updCore_link (s : Chip) (k : CoreId) (f : Machine.Core → Machine.Core) : (s.updCore k f).link = s.link := rfl
@[simp] theorem Chip.updCore_power (s : Chip) (k : CoreId) (f : Machine.Core → Machine.Core) : (s.updCore k f).power = s.power := rfl
@[simp] theorem Chip.updCore_traces (s : Chip) (k : CoreId) (f : Machine.Core → Machine.Core) : (s.updCore k f).traces = s.traces := rfl
@[simp] theorem Chip.updCore_authBuf (s : Chip) (k : CoreId) (f : Machine.Core → Machine.Core) : (s.updCore k f).authBuf = s.authBuf := rfl
@[simp] theorem Chip.updCore_ready (s : Chip) (k : CoreId) (f : Machine.Core → Machine.Core) : (s.updCore k f).ready = s.ready := rfl
@[simp] theorem Chip.updCore_out (s : Chip) (k : CoreId) (f : Machine.Core → Machine.Core) : (s.updCore k f).out = s.out := rfl
@[simp] theorem Chip.updCore_badRuns (s : Chip) (k : CoreId) (f : Machine.Core → Machine.Core) : (s.updCore k f).badRuns = s.badRuns := rfl
@[simp] theorem Chip.updCore_free (s : Chip) (k : CoreId) (f : Machine.Core → Machine.Core) : (s.updCore k f).free = s.free := rfl
@[simp] theorem Chip.updCore_head (s : Chip) (k : CoreId) (f : Machine.Core → Machine.Core) : (s.updCore k f).head = s.head := rfl
@[simp] theorem Chip.updCore_die (s : Chip) (k : CoreId) (f : Machine.Core → Machine.Core) : (s.updCore k f).die = s.die := rfl
@[simp] theorem Chip.updCore_cluster (s : Chip) (k : CoreId) (f : Machine.Core → Machine.Core) : (s.updCore k f).cluster = s.cluster := rfl
theorem Chip.updCore_core (s : Chip) (k j : CoreId) (f : Machine.Core → Machine.Core) : (s.updCore k f).core j = if j = k then f (s.core k) else s.core j := Table.read_write _ _ _ _ _
@[simp] theorem Chip.updCore_core_same (s : Chip) (k : CoreId) (f : Machine.Core → Machine.Core) : (s.updCore k f).core k = f (s.core k) := Table.read_write_same _ _ _ _
@[simp] theorem Chip.updCore_core_other (s : Chip) (k j : CoreId) (f : Machine.Core → Machine.Core) (h : j ≠ k) : (s.updCore k f).core j = s.core j := Table.read_write_other _ _ _ _ _ h
@[simp] theorem Chip.updCore_hart (s : Chip) (k : CoreId) (f : Machine.Core → Machine.Core) : (s.updCore k f).hart = s.hart := rfl
@[simp] theorem Chip.updCore_stack (s : Chip) (k : CoreId) (f : Machine.Core → Machine.Core) : (s.updCore k f).stack = s.stack := rfl
@[simp] theorem Chip.updCore_port (s : Chip) (k : CoreId) (f : Machine.Core → Machine.Core) : (s.updCore k f).port = s.port := rfl
@[simp] theorem Chip.updCore_obj (s : Chip) (k : CoreId) (f : Machine.Core → Machine.Core) : (s.updCore k f).obj = s.obj := rfl
@[simp] theorem Chip.updCore_sync (s : Chip) (k : CoreId) (f : Machine.Core → Machine.Core) : (s.updCore k f).sync = s.sync := rfl
@[simp] theorem Chip.updCore_trace (s : Chip) (k : CoreId) (f : Machine.Core → Machine.Core) : (s.updCore k f).trace = s.trace := rfl
@[simp] theorem Chip.updCore_fn (s : Chip) (k : CoreId) (f : Machine.Core → Machine.Core) : (s.updCore k f).fn = s.fn := rfl

/-! ## Hart -/

@[simp] theorem Chip.updHart_heads (s : Chip) (k : HartId) (f : Hart → Hart) : (s.updHart k f).heads = s.heads := rfl
@[simp] theorem Chip.updHart_stagedLow (s : Chip) (k : HartId) (f : Hart → Hart) : (s.updHart k f).stagedLow = s.stagedLow := rfl
@[simp] theorem Chip.updHart_latchedHigh (s : Chip) (k : HartId) (f : Hart → Hart) : (s.updHart k f).latchedHigh = s.latchedHigh := rfl
@[simp] theorem Chip.updHart_dies (s : Chip) (k : HartId) (f : Hart → Hart) : (s.updHart k f).dies = s.dies := rfl
@[simp] theorem Chip.updHart_clusters (s : Chip) (k : HartId) (f : Hart → Hart) : (s.updHart k f).clusters = s.clusters := rfl
@[simp] theorem Chip.updHart_cores (s : Chip) (k : HartId) (f : Hart → Hart) : (s.updHart k f).cores = s.cores := rfl
@[simp] theorem Chip.updHart_pstore (s : Chip) (k : HartId) (f : Hart → Hart) : (s.updHart k f).pstore = s.pstore := rfl
@[simp] theorem Chip.updHart_stk (s : Chip) (k : HartId) (f : Hart → Hart) : (s.updHart k f).stk = s.stk := rfl
@[simp] theorem Chip.updHart_ports (s : Chip) (k : HartId) (f : Hart → Hart) : (s.updHart k f).ports = s.ports := rfl
@[simp] theorem Chip.updHart_objs (s : Chip) (k : HartId) (f : Hart → Hart) : (s.updHart k f).objs = s.objs := rfl
@[simp] theorem Chip.updHart_syncs (s : Chip) (k : HartId) (f : Hart → Hart) : (s.updHart k f).syncs = s.syncs := rfl
@[simp] theorem Chip.updHart_cache (s : Chip) (k : HartId) (f : Hart → Hart) : (s.updHart k f).cache = s.cache := rfl
@[simp] theorem Chip.updHart_recency (s : Chip) (k : HartId) (f : Hart → Hart) : (s.updHart k f).recency = s.recency := rfl
@[simp] theorem Chip.updHart_hostCache (s : Chip) (k : HartId) (f : Hart → Hart) : (s.updHart k f).hostCache = s.hostCache := rfl
@[simp] theorem Chip.updHart_scratch (s : Chip) (k : HartId) (f : Hart → Hart) : (s.updHart k f).scratch = s.scratch := rfl
@[simp] theorem Chip.updHart_scratchErrors (s : Chip) (k : HartId) (f : Hart → Hart) : (s.updHart k f).scratchErrors = s.scratchErrors := rfl
@[simp] theorem Chip.updHart_dram (s : Chip) (k : HartId) (f : Hart → Hart) : (s.updHart k f).dram = s.dram := rfl
@[simp] theorem Chip.updHart_engineStore (s : Chip) (k : HartId) (f : Hart → Hart) : (s.updHart k f).engineStore = s.engineStore := rfl
@[simp] theorem Chip.updHart_codeErrors (s : Chip) (k : HartId) (f : Hart → Hart) : (s.updHart k f).codeErrors = s.codeErrors := rfl
@[simp] theorem Chip.updHart_fabric (s : Chip) (k : HartId) (f : Hart → Hart) : (s.updHart k f).fabric = s.fabric := rfl
@[simp] theorem Chip.updHart_link (s : Chip) (k : HartId) (f : Hart → Hart) : (s.updHart k f).link = s.link := rfl
@[simp] theorem Chip.updHart_power (s : Chip) (k : HartId) (f : Hart → Hart) : (s.updHart k f).power = s.power := rfl
@[simp] theorem Chip.updHart_traces (s : Chip) (k : HartId) (f : Hart → Hart) : (s.updHart k f).traces = s.traces := rfl
@[simp] theorem Chip.updHart_authBuf (s : Chip) (k : HartId) (f : Hart → Hart) : (s.updHart k f).authBuf = s.authBuf := rfl
@[simp] theorem Chip.updHart_ready (s : Chip) (k : HartId) (f : Hart → Hart) : (s.updHart k f).ready = s.ready := rfl
@[simp] theorem Chip.updHart_out (s : Chip) (k : HartId) (f : Hart → Hart) : (s.updHart k f).out = s.out := rfl
@[simp] theorem Chip.updHart_badRuns (s : Chip) (k : HartId) (f : Hart → Hart) : (s.updHart k f).badRuns = s.badRuns := rfl
@[simp] theorem Chip.updHart_free (s : Chip) (k : HartId) (f : Hart → Hart) : (s.updHart k f).free = s.free := rfl
@[simp] theorem Chip.updHart_head (s : Chip) (k : HartId) (f : Hart → Hart) : (s.updHart k f).head = s.head := rfl
@[simp] theorem Chip.updHart_die (s : Chip) (k : HartId) (f : Hart → Hart) : (s.updHart k f).die = s.die := rfl
@[simp] theorem Chip.updHart_cluster (s : Chip) (k : HartId) (f : Hart → Hart) : (s.updHart k f).cluster = s.cluster := rfl
@[simp] theorem Chip.updHart_core (s : Chip) (k : HartId) (f : Hart → Hart) : (s.updHart k f).core = s.core := rfl
theorem Chip.updHart_hart (s : Chip) (k j : HartId) (f : Hart → Hart) : (s.updHart k f).hart j = if j = k then f (s.hart k) else s.hart j := Table.read_write _ _ _ _ _
@[simp] theorem Chip.updHart_hart_same (s : Chip) (k : HartId) (f : Hart → Hart) : (s.updHart k f).hart k = f (s.hart k) := Table.read_write_same _ _ _ _
@[simp] theorem Chip.updHart_hart_other (s : Chip) (k j : HartId) (f : Hart → Hart) (h : j ≠ k) : (s.updHart k f).hart j = s.hart j := Table.read_write_other _ _ _ _ _ h
@[simp] theorem Chip.updHart_stack (s : Chip) (k : HartId) (f : Hart → Hart) : (s.updHart k f).stack = s.stack := rfl
@[simp] theorem Chip.updHart_port (s : Chip) (k : HartId) (f : Hart → Hart) : (s.updHart k f).port = s.port := rfl
@[simp] theorem Chip.updHart_obj (s : Chip) (k : HartId) (f : Hart → Hart) : (s.updHart k f).obj = s.obj := rfl
@[simp] theorem Chip.updHart_sync (s : Chip) (k : HartId) (f : Hart → Hart) : (s.updHart k f).sync = s.sync := rfl
@[simp] theorem Chip.updHart_trace (s : Chip) (k : HartId) (f : Hart → Hart) : (s.updHart k f).trace = s.trace := rfl
@[simp] theorem Chip.updHart_fn (s : Chip) (k : HartId) (f : Hart → Hart) : (s.updHart k f).fn = s.fn := rfl

/-! ## Stack -/

@[simp] theorem Chip.updStack_heads (s : Chip) (k : StackId) (f : Stack → Stack) : (s.updStack k f).heads = s.heads := rfl
@[simp] theorem Chip.updStack_stagedLow (s : Chip) (k : StackId) (f : Stack → Stack) : (s.updStack k f).stagedLow = s.stagedLow := rfl
@[simp] theorem Chip.updStack_latchedHigh (s : Chip) (k : StackId) (f : Stack → Stack) : (s.updStack k f).latchedHigh = s.latchedHigh := rfl
@[simp] theorem Chip.updStack_dies (s : Chip) (k : StackId) (f : Stack → Stack) : (s.updStack k f).dies = s.dies := rfl
@[simp] theorem Chip.updStack_clusters (s : Chip) (k : StackId) (f : Stack → Stack) : (s.updStack k f).clusters = s.clusters := rfl
@[simp] theorem Chip.updStack_cores (s : Chip) (k : StackId) (f : Stack → Stack) : (s.updStack k f).cores = s.cores := rfl
@[simp] theorem Chip.updStack_pstore (s : Chip) (k : StackId) (f : Stack → Stack) : (s.updStack k f).pstore = s.pstore := rfl
@[simp] theorem Chip.updStack_harts (s : Chip) (k : StackId) (f : Stack → Stack) : (s.updStack k f).harts = s.harts := rfl
@[simp] theorem Chip.updStack_ports (s : Chip) (k : StackId) (f : Stack → Stack) : (s.updStack k f).ports = s.ports := rfl
@[simp] theorem Chip.updStack_objs (s : Chip) (k : StackId) (f : Stack → Stack) : (s.updStack k f).objs = s.objs := rfl
@[simp] theorem Chip.updStack_syncs (s : Chip) (k : StackId) (f : Stack → Stack) : (s.updStack k f).syncs = s.syncs := rfl
@[simp] theorem Chip.updStack_cache (s : Chip) (k : StackId) (f : Stack → Stack) : (s.updStack k f).cache = s.cache := rfl
@[simp] theorem Chip.updStack_recency (s : Chip) (k : StackId) (f : Stack → Stack) : (s.updStack k f).recency = s.recency := rfl
@[simp] theorem Chip.updStack_hostCache (s : Chip) (k : StackId) (f : Stack → Stack) : (s.updStack k f).hostCache = s.hostCache := rfl
@[simp] theorem Chip.updStack_scratch (s : Chip) (k : StackId) (f : Stack → Stack) : (s.updStack k f).scratch = s.scratch := rfl
@[simp] theorem Chip.updStack_scratchErrors (s : Chip) (k : StackId) (f : Stack → Stack) : (s.updStack k f).scratchErrors = s.scratchErrors := rfl
@[simp] theorem Chip.updStack_dram (s : Chip) (k : StackId) (f : Stack → Stack) : (s.updStack k f).dram = s.dram := rfl
@[simp] theorem Chip.updStack_engineStore (s : Chip) (k : StackId) (f : Stack → Stack) : (s.updStack k f).engineStore = s.engineStore := rfl
@[simp] theorem Chip.updStack_codeErrors (s : Chip) (k : StackId) (f : Stack → Stack) : (s.updStack k f).codeErrors = s.codeErrors := rfl
@[simp] theorem Chip.updStack_fabric (s : Chip) (k : StackId) (f : Stack → Stack) : (s.updStack k f).fabric = s.fabric := rfl
@[simp] theorem Chip.updStack_link (s : Chip) (k : StackId) (f : Stack → Stack) : (s.updStack k f).link = s.link := rfl
@[simp] theorem Chip.updStack_power (s : Chip) (k : StackId) (f : Stack → Stack) : (s.updStack k f).power = s.power := rfl
@[simp] theorem Chip.updStack_traces (s : Chip) (k : StackId) (f : Stack → Stack) : (s.updStack k f).traces = s.traces := rfl
@[simp] theorem Chip.updStack_authBuf (s : Chip) (k : StackId) (f : Stack → Stack) : (s.updStack k f).authBuf = s.authBuf := rfl
@[simp] theorem Chip.updStack_ready (s : Chip) (k : StackId) (f : Stack → Stack) : (s.updStack k f).ready = s.ready := rfl
@[simp] theorem Chip.updStack_out (s : Chip) (k : StackId) (f : Stack → Stack) : (s.updStack k f).out = s.out := rfl
@[simp] theorem Chip.updStack_badRuns (s : Chip) (k : StackId) (f : Stack → Stack) : (s.updStack k f).badRuns = s.badRuns := rfl
@[simp] theorem Chip.updStack_free (s : Chip) (k : StackId) (f : Stack → Stack) : (s.updStack k f).free = s.free := rfl
@[simp] theorem Chip.updStack_head (s : Chip) (k : StackId) (f : Stack → Stack) : (s.updStack k f).head = s.head := rfl
@[simp] theorem Chip.updStack_die (s : Chip) (k : StackId) (f : Stack → Stack) : (s.updStack k f).die = s.die := rfl
@[simp] theorem Chip.updStack_cluster (s : Chip) (k : StackId) (f : Stack → Stack) : (s.updStack k f).cluster = s.cluster := rfl
@[simp] theorem Chip.updStack_core (s : Chip) (k : StackId) (f : Stack → Stack) : (s.updStack k f).core = s.core := rfl
@[simp] theorem Chip.updStack_hart (s : Chip) (k : StackId) (f : Stack → Stack) : (s.updStack k f).hart = s.hart := rfl
theorem Chip.updStack_stack (s : Chip) (k j : StackId) (f : Stack → Stack) : (s.updStack k f).stack j = if j = k then f (s.stack k) else s.stack j := Table.read_write _ _ _ _ _
@[simp] theorem Chip.updStack_stack_same (s : Chip) (k : StackId) (f : Stack → Stack) : (s.updStack k f).stack k = f (s.stack k) := Table.read_write_same _ _ _ _
@[simp] theorem Chip.updStack_stack_other (s : Chip) (k j : StackId) (f : Stack → Stack) (h : j ≠ k) : (s.updStack k f).stack j = s.stack j := Table.read_write_other _ _ _ _ _ h
@[simp] theorem Chip.updStack_port (s : Chip) (k : StackId) (f : Stack → Stack) : (s.updStack k f).port = s.port := rfl
@[simp] theorem Chip.updStack_obj (s : Chip) (k : StackId) (f : Stack → Stack) : (s.updStack k f).obj = s.obj := rfl
@[simp] theorem Chip.updStack_sync (s : Chip) (k : StackId) (f : Stack → Stack) : (s.updStack k f).sync = s.sync := rfl
@[simp] theorem Chip.updStack_trace (s : Chip) (k : StackId) (f : Stack → Stack) : (s.updStack k f).trace = s.trace := rfl
@[simp] theorem Chip.updStack_fn (s : Chip) (k : StackId) (f : Stack → Stack) : (s.updStack k f).fn = s.fn := rfl

/-! ## Port -/

@[simp] theorem Chip.updPort_heads (s : Chip) (k : PortId) (f : Port → Port) : (s.updPort k f).heads = s.heads := rfl
@[simp] theorem Chip.updPort_stagedLow (s : Chip) (k : PortId) (f : Port → Port) : (s.updPort k f).stagedLow = s.stagedLow := rfl
@[simp] theorem Chip.updPort_latchedHigh (s : Chip) (k : PortId) (f : Port → Port) : (s.updPort k f).latchedHigh = s.latchedHigh := rfl
@[simp] theorem Chip.updPort_dies (s : Chip) (k : PortId) (f : Port → Port) : (s.updPort k f).dies = s.dies := rfl
@[simp] theorem Chip.updPort_clusters (s : Chip) (k : PortId) (f : Port → Port) : (s.updPort k f).clusters = s.clusters := rfl
@[simp] theorem Chip.updPort_cores (s : Chip) (k : PortId) (f : Port → Port) : (s.updPort k f).cores = s.cores := rfl
@[simp] theorem Chip.updPort_pstore (s : Chip) (k : PortId) (f : Port → Port) : (s.updPort k f).pstore = s.pstore := rfl
@[simp] theorem Chip.updPort_harts (s : Chip) (k : PortId) (f : Port → Port) : (s.updPort k f).harts = s.harts := rfl
@[simp] theorem Chip.updPort_stk (s : Chip) (k : PortId) (f : Port → Port) : (s.updPort k f).stk = s.stk := rfl
@[simp] theorem Chip.updPort_objs (s : Chip) (k : PortId) (f : Port → Port) : (s.updPort k f).objs = s.objs := rfl
@[simp] theorem Chip.updPort_syncs (s : Chip) (k : PortId) (f : Port → Port) : (s.updPort k f).syncs = s.syncs := rfl
@[simp] theorem Chip.updPort_cache (s : Chip) (k : PortId) (f : Port → Port) : (s.updPort k f).cache = s.cache := rfl
@[simp] theorem Chip.updPort_recency (s : Chip) (k : PortId) (f : Port → Port) : (s.updPort k f).recency = s.recency := rfl
@[simp] theorem Chip.updPort_hostCache (s : Chip) (k : PortId) (f : Port → Port) : (s.updPort k f).hostCache = s.hostCache := rfl
@[simp] theorem Chip.updPort_scratch (s : Chip) (k : PortId) (f : Port → Port) : (s.updPort k f).scratch = s.scratch := rfl
@[simp] theorem Chip.updPort_scratchErrors (s : Chip) (k : PortId) (f : Port → Port) : (s.updPort k f).scratchErrors = s.scratchErrors := rfl
@[simp] theorem Chip.updPort_dram (s : Chip) (k : PortId) (f : Port → Port) : (s.updPort k f).dram = s.dram := rfl
@[simp] theorem Chip.updPort_engineStore (s : Chip) (k : PortId) (f : Port → Port) : (s.updPort k f).engineStore = s.engineStore := rfl
@[simp] theorem Chip.updPort_codeErrors (s : Chip) (k : PortId) (f : Port → Port) : (s.updPort k f).codeErrors = s.codeErrors := rfl
@[simp] theorem Chip.updPort_fabric (s : Chip) (k : PortId) (f : Port → Port) : (s.updPort k f).fabric = s.fabric := rfl
@[simp] theorem Chip.updPort_link (s : Chip) (k : PortId) (f : Port → Port) : (s.updPort k f).link = s.link := rfl
@[simp] theorem Chip.updPort_power (s : Chip) (k : PortId) (f : Port → Port) : (s.updPort k f).power = s.power := rfl
@[simp] theorem Chip.updPort_traces (s : Chip) (k : PortId) (f : Port → Port) : (s.updPort k f).traces = s.traces := rfl
@[simp] theorem Chip.updPort_authBuf (s : Chip) (k : PortId) (f : Port → Port) : (s.updPort k f).authBuf = s.authBuf := rfl
@[simp] theorem Chip.updPort_ready (s : Chip) (k : PortId) (f : Port → Port) : (s.updPort k f).ready = s.ready := rfl
@[simp] theorem Chip.updPort_out (s : Chip) (k : PortId) (f : Port → Port) : (s.updPort k f).out = s.out := rfl
@[simp] theorem Chip.updPort_badRuns (s : Chip) (k : PortId) (f : Port → Port) : (s.updPort k f).badRuns = s.badRuns := rfl
@[simp] theorem Chip.updPort_free (s : Chip) (k : PortId) (f : Port → Port) : (s.updPort k f).free = s.free := rfl
@[simp] theorem Chip.updPort_head (s : Chip) (k : PortId) (f : Port → Port) : (s.updPort k f).head = s.head := rfl
@[simp] theorem Chip.updPort_die (s : Chip) (k : PortId) (f : Port → Port) : (s.updPort k f).die = s.die := rfl
@[simp] theorem Chip.updPort_cluster (s : Chip) (k : PortId) (f : Port → Port) : (s.updPort k f).cluster = s.cluster := rfl
@[simp] theorem Chip.updPort_core (s : Chip) (k : PortId) (f : Port → Port) : (s.updPort k f).core = s.core := rfl
@[simp] theorem Chip.updPort_hart (s : Chip) (k : PortId) (f : Port → Port) : (s.updPort k f).hart = s.hart := rfl
@[simp] theorem Chip.updPort_stack (s : Chip) (k : PortId) (f : Port → Port) : (s.updPort k f).stack = s.stack := rfl
theorem Chip.updPort_port (s : Chip) (k j : PortId) (f : Port → Port) : (s.updPort k f).port j = if j = k then f (s.port k) else s.port j := Table.read_write _ _ _ _ _
@[simp] theorem Chip.updPort_port_same (s : Chip) (k : PortId) (f : Port → Port) : (s.updPort k f).port k = f (s.port k) := Table.read_write_same _ _ _ _
@[simp] theorem Chip.updPort_port_other (s : Chip) (k j : PortId) (f : Port → Port) (h : j ≠ k) : (s.updPort k f).port j = s.port j := Table.read_write_other _ _ _ _ _ h
@[simp] theorem Chip.updPort_obj (s : Chip) (k : PortId) (f : Port → Port) : (s.updPort k f).obj = s.obj := rfl
@[simp] theorem Chip.updPort_sync (s : Chip) (k : PortId) (f : Port → Port) : (s.updPort k f).sync = s.sync := rfl
@[simp] theorem Chip.updPort_trace (s : Chip) (k : PortId) (f : Port → Port) : (s.updPort k f).trace = s.trace := rfl
@[simp] theorem Chip.updPort_fn (s : Chip) (k : PortId) (f : Port → Port) : (s.updPort k f).fn = s.fn := rfl

/-! ## Obj -/

@[simp] theorem Chip.updObj_heads (s : Chip) (k : ObjId) (f : SyncObj → SyncObj) : (s.updObj k f).heads = s.heads := rfl
@[simp] theorem Chip.updObj_stagedLow (s : Chip) (k : ObjId) (f : SyncObj → SyncObj) : (s.updObj k f).stagedLow = s.stagedLow := rfl
@[simp] theorem Chip.updObj_latchedHigh (s : Chip) (k : ObjId) (f : SyncObj → SyncObj) : (s.updObj k f).latchedHigh = s.latchedHigh := rfl
@[simp] theorem Chip.updObj_dies (s : Chip) (k : ObjId) (f : SyncObj → SyncObj) : (s.updObj k f).dies = s.dies := rfl
@[simp] theorem Chip.updObj_clusters (s : Chip) (k : ObjId) (f : SyncObj → SyncObj) : (s.updObj k f).clusters = s.clusters := rfl
@[simp] theorem Chip.updObj_cores (s : Chip) (k : ObjId) (f : SyncObj → SyncObj) : (s.updObj k f).cores = s.cores := rfl
@[simp] theorem Chip.updObj_pstore (s : Chip) (k : ObjId) (f : SyncObj → SyncObj) : (s.updObj k f).pstore = s.pstore := rfl
@[simp] theorem Chip.updObj_harts (s : Chip) (k : ObjId) (f : SyncObj → SyncObj) : (s.updObj k f).harts = s.harts := rfl
@[simp] theorem Chip.updObj_stk (s : Chip) (k : ObjId) (f : SyncObj → SyncObj) : (s.updObj k f).stk = s.stk := rfl
@[simp] theorem Chip.updObj_ports (s : Chip) (k : ObjId) (f : SyncObj → SyncObj) : (s.updObj k f).ports = s.ports := rfl
@[simp] theorem Chip.updObj_syncs (s : Chip) (k : ObjId) (f : SyncObj → SyncObj) : (s.updObj k f).syncs = s.syncs := rfl
@[simp] theorem Chip.updObj_cache (s : Chip) (k : ObjId) (f : SyncObj → SyncObj) : (s.updObj k f).cache = s.cache := rfl
@[simp] theorem Chip.updObj_recency (s : Chip) (k : ObjId) (f : SyncObj → SyncObj) : (s.updObj k f).recency = s.recency := rfl
@[simp] theorem Chip.updObj_hostCache (s : Chip) (k : ObjId) (f : SyncObj → SyncObj) : (s.updObj k f).hostCache = s.hostCache := rfl
@[simp] theorem Chip.updObj_scratch (s : Chip) (k : ObjId) (f : SyncObj → SyncObj) : (s.updObj k f).scratch = s.scratch := rfl
@[simp] theorem Chip.updObj_scratchErrors (s : Chip) (k : ObjId) (f : SyncObj → SyncObj) : (s.updObj k f).scratchErrors = s.scratchErrors := rfl
@[simp] theorem Chip.updObj_dram (s : Chip) (k : ObjId) (f : SyncObj → SyncObj) : (s.updObj k f).dram = s.dram := rfl
@[simp] theorem Chip.updObj_engineStore (s : Chip) (k : ObjId) (f : SyncObj → SyncObj) : (s.updObj k f).engineStore = s.engineStore := rfl
@[simp] theorem Chip.updObj_codeErrors (s : Chip) (k : ObjId) (f : SyncObj → SyncObj) : (s.updObj k f).codeErrors = s.codeErrors := rfl
@[simp] theorem Chip.updObj_fabric (s : Chip) (k : ObjId) (f : SyncObj → SyncObj) : (s.updObj k f).fabric = s.fabric := rfl
@[simp] theorem Chip.updObj_link (s : Chip) (k : ObjId) (f : SyncObj → SyncObj) : (s.updObj k f).link = s.link := rfl
@[simp] theorem Chip.updObj_power (s : Chip) (k : ObjId) (f : SyncObj → SyncObj) : (s.updObj k f).power = s.power := rfl
@[simp] theorem Chip.updObj_traces (s : Chip) (k : ObjId) (f : SyncObj → SyncObj) : (s.updObj k f).traces = s.traces := rfl
@[simp] theorem Chip.updObj_authBuf (s : Chip) (k : ObjId) (f : SyncObj → SyncObj) : (s.updObj k f).authBuf = s.authBuf := rfl
@[simp] theorem Chip.updObj_ready (s : Chip) (k : ObjId) (f : SyncObj → SyncObj) : (s.updObj k f).ready = s.ready := rfl
@[simp] theorem Chip.updObj_out (s : Chip) (k : ObjId) (f : SyncObj → SyncObj) : (s.updObj k f).out = s.out := rfl
@[simp] theorem Chip.updObj_badRuns (s : Chip) (k : ObjId) (f : SyncObj → SyncObj) : (s.updObj k f).badRuns = s.badRuns := rfl
@[simp] theorem Chip.updObj_free (s : Chip) (k : ObjId) (f : SyncObj → SyncObj) : (s.updObj k f).free = s.free := rfl
@[simp] theorem Chip.updObj_head (s : Chip) (k : ObjId) (f : SyncObj → SyncObj) : (s.updObj k f).head = s.head := rfl
@[simp] theorem Chip.updObj_die (s : Chip) (k : ObjId) (f : SyncObj → SyncObj) : (s.updObj k f).die = s.die := rfl
@[simp] theorem Chip.updObj_cluster (s : Chip) (k : ObjId) (f : SyncObj → SyncObj) : (s.updObj k f).cluster = s.cluster := rfl
@[simp] theorem Chip.updObj_core (s : Chip) (k : ObjId) (f : SyncObj → SyncObj) : (s.updObj k f).core = s.core := rfl
@[simp] theorem Chip.updObj_hart (s : Chip) (k : ObjId) (f : SyncObj → SyncObj) : (s.updObj k f).hart = s.hart := rfl
@[simp] theorem Chip.updObj_stack (s : Chip) (k : ObjId) (f : SyncObj → SyncObj) : (s.updObj k f).stack = s.stack := rfl
@[simp] theorem Chip.updObj_port (s : Chip) (k : ObjId) (f : SyncObj → SyncObj) : (s.updObj k f).port = s.port := rfl
theorem Chip.updObj_obj (s : Chip) (k j : ObjId) (f : SyncObj → SyncObj) : (s.updObj k f).obj j = if j = k then f (s.obj k) else s.obj j := Table.read_write _ _ _ _ _
@[simp] theorem Chip.updObj_obj_same (s : Chip) (k : ObjId) (f : SyncObj → SyncObj) : (s.updObj k f).obj k = f (s.obj k) := Table.read_write_same _ _ _ _
@[simp] theorem Chip.updObj_obj_other (s : Chip) (k j : ObjId) (f : SyncObj → SyncObj) (h : j ≠ k) : (s.updObj k f).obj j = s.obj j := Table.read_write_other _ _ _ _ _ h
@[simp] theorem Chip.updObj_sync (s : Chip) (k : ObjId) (f : SyncObj → SyncObj) : (s.updObj k f).sync = s.sync := rfl
@[simp] theorem Chip.updObj_trace (s : Chip) (k : ObjId) (f : SyncObj → SyncObj) : (s.updObj k f).trace = s.trace := rfl
@[simp] theorem Chip.updObj_fn (s : Chip) (k : ObjId) (f : SyncObj → SyncObj) : (s.updObj k f).fn = s.fn := rfl

/-! ## Sync -/

@[simp] theorem Chip.updSync_heads (s : Chip) (k : SyncUnit) (f : SyncBlock → SyncBlock) : (s.updSync k f).heads = s.heads := rfl
@[simp] theorem Chip.updSync_stagedLow (s : Chip) (k : SyncUnit) (f : SyncBlock → SyncBlock) : (s.updSync k f).stagedLow = s.stagedLow := rfl
@[simp] theorem Chip.updSync_latchedHigh (s : Chip) (k : SyncUnit) (f : SyncBlock → SyncBlock) : (s.updSync k f).latchedHigh = s.latchedHigh := rfl
@[simp] theorem Chip.updSync_dies (s : Chip) (k : SyncUnit) (f : SyncBlock → SyncBlock) : (s.updSync k f).dies = s.dies := rfl
@[simp] theorem Chip.updSync_clusters (s : Chip) (k : SyncUnit) (f : SyncBlock → SyncBlock) : (s.updSync k f).clusters = s.clusters := rfl
@[simp] theorem Chip.updSync_cores (s : Chip) (k : SyncUnit) (f : SyncBlock → SyncBlock) : (s.updSync k f).cores = s.cores := rfl
@[simp] theorem Chip.updSync_pstore (s : Chip) (k : SyncUnit) (f : SyncBlock → SyncBlock) : (s.updSync k f).pstore = s.pstore := rfl
@[simp] theorem Chip.updSync_harts (s : Chip) (k : SyncUnit) (f : SyncBlock → SyncBlock) : (s.updSync k f).harts = s.harts := rfl
@[simp] theorem Chip.updSync_stk (s : Chip) (k : SyncUnit) (f : SyncBlock → SyncBlock) : (s.updSync k f).stk = s.stk := rfl
@[simp] theorem Chip.updSync_ports (s : Chip) (k : SyncUnit) (f : SyncBlock → SyncBlock) : (s.updSync k f).ports = s.ports := rfl
@[simp] theorem Chip.updSync_objs (s : Chip) (k : SyncUnit) (f : SyncBlock → SyncBlock) : (s.updSync k f).objs = s.objs := rfl
@[simp] theorem Chip.updSync_cache (s : Chip) (k : SyncUnit) (f : SyncBlock → SyncBlock) : (s.updSync k f).cache = s.cache := rfl
@[simp] theorem Chip.updSync_recency (s : Chip) (k : SyncUnit) (f : SyncBlock → SyncBlock) : (s.updSync k f).recency = s.recency := rfl
@[simp] theorem Chip.updSync_hostCache (s : Chip) (k : SyncUnit) (f : SyncBlock → SyncBlock) : (s.updSync k f).hostCache = s.hostCache := rfl
@[simp] theorem Chip.updSync_scratch (s : Chip) (k : SyncUnit) (f : SyncBlock → SyncBlock) : (s.updSync k f).scratch = s.scratch := rfl
@[simp] theorem Chip.updSync_scratchErrors (s : Chip) (k : SyncUnit) (f : SyncBlock → SyncBlock) : (s.updSync k f).scratchErrors = s.scratchErrors := rfl
@[simp] theorem Chip.updSync_dram (s : Chip) (k : SyncUnit) (f : SyncBlock → SyncBlock) : (s.updSync k f).dram = s.dram := rfl
@[simp] theorem Chip.updSync_engineStore (s : Chip) (k : SyncUnit) (f : SyncBlock → SyncBlock) : (s.updSync k f).engineStore = s.engineStore := rfl
@[simp] theorem Chip.updSync_codeErrors (s : Chip) (k : SyncUnit) (f : SyncBlock → SyncBlock) : (s.updSync k f).codeErrors = s.codeErrors := rfl
@[simp] theorem Chip.updSync_fabric (s : Chip) (k : SyncUnit) (f : SyncBlock → SyncBlock) : (s.updSync k f).fabric = s.fabric := rfl
@[simp] theorem Chip.updSync_link (s : Chip) (k : SyncUnit) (f : SyncBlock → SyncBlock) : (s.updSync k f).link = s.link := rfl
@[simp] theorem Chip.updSync_power (s : Chip) (k : SyncUnit) (f : SyncBlock → SyncBlock) : (s.updSync k f).power = s.power := rfl
@[simp] theorem Chip.updSync_traces (s : Chip) (k : SyncUnit) (f : SyncBlock → SyncBlock) : (s.updSync k f).traces = s.traces := rfl
@[simp] theorem Chip.updSync_authBuf (s : Chip) (k : SyncUnit) (f : SyncBlock → SyncBlock) : (s.updSync k f).authBuf = s.authBuf := rfl
@[simp] theorem Chip.updSync_ready (s : Chip) (k : SyncUnit) (f : SyncBlock → SyncBlock) : (s.updSync k f).ready = s.ready := rfl
@[simp] theorem Chip.updSync_out (s : Chip) (k : SyncUnit) (f : SyncBlock → SyncBlock) : (s.updSync k f).out = s.out := rfl
@[simp] theorem Chip.updSync_badRuns (s : Chip) (k : SyncUnit) (f : SyncBlock → SyncBlock) : (s.updSync k f).badRuns = s.badRuns := rfl
@[simp] theorem Chip.updSync_free (s : Chip) (k : SyncUnit) (f : SyncBlock → SyncBlock) : (s.updSync k f).free = s.free := rfl
@[simp] theorem Chip.updSync_head (s : Chip) (k : SyncUnit) (f : SyncBlock → SyncBlock) : (s.updSync k f).head = s.head := rfl
@[simp] theorem Chip.updSync_die (s : Chip) (k : SyncUnit) (f : SyncBlock → SyncBlock) : (s.updSync k f).die = s.die := rfl
@[simp] theorem Chip.updSync_cluster (s : Chip) (k : SyncUnit) (f : SyncBlock → SyncBlock) : (s.updSync k f).cluster = s.cluster := rfl
@[simp] theorem Chip.updSync_core (s : Chip) (k : SyncUnit) (f : SyncBlock → SyncBlock) : (s.updSync k f).core = s.core := rfl
@[simp] theorem Chip.updSync_hart (s : Chip) (k : SyncUnit) (f : SyncBlock → SyncBlock) : (s.updSync k f).hart = s.hart := rfl
@[simp] theorem Chip.updSync_stack (s : Chip) (k : SyncUnit) (f : SyncBlock → SyncBlock) : (s.updSync k f).stack = s.stack := rfl
@[simp] theorem Chip.updSync_port (s : Chip) (k : SyncUnit) (f : SyncBlock → SyncBlock) : (s.updSync k f).port = s.port := rfl
@[simp] theorem Chip.updSync_obj (s : Chip) (k : SyncUnit) (f : SyncBlock → SyncBlock) : (s.updSync k f).obj = s.obj := rfl
theorem Chip.updSync_sync (s : Chip) (k j : SyncUnit) (f : SyncBlock → SyncBlock) : (s.updSync k f).sync j = if j = k then f (s.sync k) else s.sync j := Table.read_write _ _ _ _ _
@[simp] theorem Chip.updSync_sync_same (s : Chip) (k : SyncUnit) (f : SyncBlock → SyncBlock) : (s.updSync k f).sync k = f (s.sync k) := Table.read_write_same _ _ _ _
@[simp] theorem Chip.updSync_sync_other (s : Chip) (k j : SyncUnit) (f : SyncBlock → SyncBlock) (h : j ≠ k) : (s.updSync k f).sync j = s.sync j := Table.read_write_other _ _ _ _ _ h
@[simp] theorem Chip.updSync_trace (s : Chip) (k : SyncUnit) (f : SyncBlock → SyncBlock) : (s.updSync k f).trace = s.trace := rfl
@[simp] theorem Chip.updSync_fn (s : Chip) (k : SyncUnit) (f : SyncBlock → SyncBlock) : (s.updSync k f).fn = s.fn := rfl

/-! ## Trace -/

@[simp] theorem Chip.updTrace_heads (s : Chip) (k : DomeId) (f : TraceUnit → TraceUnit) : (s.updTrace k f).heads = s.heads := rfl
@[simp] theorem Chip.updTrace_stagedLow (s : Chip) (k : DomeId) (f : TraceUnit → TraceUnit) : (s.updTrace k f).stagedLow = s.stagedLow := rfl
@[simp] theorem Chip.updTrace_latchedHigh (s : Chip) (k : DomeId) (f : TraceUnit → TraceUnit) : (s.updTrace k f).latchedHigh = s.latchedHigh := rfl
@[simp] theorem Chip.updTrace_dies (s : Chip) (k : DomeId) (f : TraceUnit → TraceUnit) : (s.updTrace k f).dies = s.dies := rfl
@[simp] theorem Chip.updTrace_clusters (s : Chip) (k : DomeId) (f : TraceUnit → TraceUnit) : (s.updTrace k f).clusters = s.clusters := rfl
@[simp] theorem Chip.updTrace_cores (s : Chip) (k : DomeId) (f : TraceUnit → TraceUnit) : (s.updTrace k f).cores = s.cores := rfl
@[simp] theorem Chip.updTrace_pstore (s : Chip) (k : DomeId) (f : TraceUnit → TraceUnit) : (s.updTrace k f).pstore = s.pstore := rfl
@[simp] theorem Chip.updTrace_harts (s : Chip) (k : DomeId) (f : TraceUnit → TraceUnit) : (s.updTrace k f).harts = s.harts := rfl
@[simp] theorem Chip.updTrace_stk (s : Chip) (k : DomeId) (f : TraceUnit → TraceUnit) : (s.updTrace k f).stk = s.stk := rfl
@[simp] theorem Chip.updTrace_ports (s : Chip) (k : DomeId) (f : TraceUnit → TraceUnit) : (s.updTrace k f).ports = s.ports := rfl
@[simp] theorem Chip.updTrace_objs (s : Chip) (k : DomeId) (f : TraceUnit → TraceUnit) : (s.updTrace k f).objs = s.objs := rfl
@[simp] theorem Chip.updTrace_syncs (s : Chip) (k : DomeId) (f : TraceUnit → TraceUnit) : (s.updTrace k f).syncs = s.syncs := rfl
@[simp] theorem Chip.updTrace_cache (s : Chip) (k : DomeId) (f : TraceUnit → TraceUnit) : (s.updTrace k f).cache = s.cache := rfl
@[simp] theorem Chip.updTrace_recency (s : Chip) (k : DomeId) (f : TraceUnit → TraceUnit) : (s.updTrace k f).recency = s.recency := rfl
@[simp] theorem Chip.updTrace_hostCache (s : Chip) (k : DomeId) (f : TraceUnit → TraceUnit) : (s.updTrace k f).hostCache = s.hostCache := rfl
@[simp] theorem Chip.updTrace_scratch (s : Chip) (k : DomeId) (f : TraceUnit → TraceUnit) : (s.updTrace k f).scratch = s.scratch := rfl
@[simp] theorem Chip.updTrace_scratchErrors (s : Chip) (k : DomeId) (f : TraceUnit → TraceUnit) : (s.updTrace k f).scratchErrors = s.scratchErrors := rfl
@[simp] theorem Chip.updTrace_dram (s : Chip) (k : DomeId) (f : TraceUnit → TraceUnit) : (s.updTrace k f).dram = s.dram := rfl
@[simp] theorem Chip.updTrace_engineStore (s : Chip) (k : DomeId) (f : TraceUnit → TraceUnit) : (s.updTrace k f).engineStore = s.engineStore := rfl
@[simp] theorem Chip.updTrace_codeErrors (s : Chip) (k : DomeId) (f : TraceUnit → TraceUnit) : (s.updTrace k f).codeErrors = s.codeErrors := rfl
@[simp] theorem Chip.updTrace_fabric (s : Chip) (k : DomeId) (f : TraceUnit → TraceUnit) : (s.updTrace k f).fabric = s.fabric := rfl
@[simp] theorem Chip.updTrace_link (s : Chip) (k : DomeId) (f : TraceUnit → TraceUnit) : (s.updTrace k f).link = s.link := rfl
@[simp] theorem Chip.updTrace_power (s : Chip) (k : DomeId) (f : TraceUnit → TraceUnit) : (s.updTrace k f).power = s.power := rfl
@[simp] theorem Chip.updTrace_authBuf (s : Chip) (k : DomeId) (f : TraceUnit → TraceUnit) : (s.updTrace k f).authBuf = s.authBuf := rfl
@[simp] theorem Chip.updTrace_ready (s : Chip) (k : DomeId) (f : TraceUnit → TraceUnit) : (s.updTrace k f).ready = s.ready := rfl
@[simp] theorem Chip.updTrace_out (s : Chip) (k : DomeId) (f : TraceUnit → TraceUnit) : (s.updTrace k f).out = s.out := rfl
@[simp] theorem Chip.updTrace_badRuns (s : Chip) (k : DomeId) (f : TraceUnit → TraceUnit) : (s.updTrace k f).badRuns = s.badRuns := rfl
@[simp] theorem Chip.updTrace_free (s : Chip) (k : DomeId) (f : TraceUnit → TraceUnit) : (s.updTrace k f).free = s.free := rfl
@[simp] theorem Chip.updTrace_head (s : Chip) (k : DomeId) (f : TraceUnit → TraceUnit) : (s.updTrace k f).head = s.head := rfl
@[simp] theorem Chip.updTrace_die (s : Chip) (k : DomeId) (f : TraceUnit → TraceUnit) : (s.updTrace k f).die = s.die := rfl
@[simp] theorem Chip.updTrace_cluster (s : Chip) (k : DomeId) (f : TraceUnit → TraceUnit) : (s.updTrace k f).cluster = s.cluster := rfl
@[simp] theorem Chip.updTrace_core (s : Chip) (k : DomeId) (f : TraceUnit → TraceUnit) : (s.updTrace k f).core = s.core := rfl
@[simp] theorem Chip.updTrace_hart (s : Chip) (k : DomeId) (f : TraceUnit → TraceUnit) : (s.updTrace k f).hart = s.hart := rfl
@[simp] theorem Chip.updTrace_stack (s : Chip) (k : DomeId) (f : TraceUnit → TraceUnit) : (s.updTrace k f).stack = s.stack := rfl
@[simp] theorem Chip.updTrace_port (s : Chip) (k : DomeId) (f : TraceUnit → TraceUnit) : (s.updTrace k f).port = s.port := rfl
@[simp] theorem Chip.updTrace_obj (s : Chip) (k : DomeId) (f : TraceUnit → TraceUnit) : (s.updTrace k f).obj = s.obj := rfl
@[simp] theorem Chip.updTrace_sync (s : Chip) (k : DomeId) (f : TraceUnit → TraceUnit) : (s.updTrace k f).sync = s.sync := rfl
theorem Chip.updTrace_trace (s : Chip) (k j : DomeId) (f : TraceUnit → TraceUnit) : (s.updTrace k f).trace j = if j = k then f (s.trace k) else s.trace j := Table.read_write _ _ _ _ _
@[simp] theorem Chip.updTrace_trace_same (s : Chip) (k : DomeId) (f : TraceUnit → TraceUnit) : (s.updTrace k f).trace k = f (s.trace k) := Table.read_write_same _ _ _ _
@[simp] theorem Chip.updTrace_trace_other (s : Chip) (k j : DomeId) (f : TraceUnit → TraceUnit) (h : j ≠ k) : (s.updTrace k f).trace j = s.trace j := Table.read_write_other _ _ _ _ _ h
@[simp] theorem Chip.updTrace_fn (s : Chip) (k : DomeId) (f : TraceUnit → TraceUnit) : (s.updTrace k f).fn = s.fn := rfl

/-! ## Fn -/

@[simp] theorem Chip.updFn_heads (s : Chip) (k : HostFn) (f : Function → Function) : (s.updFn k f).heads = s.heads := rfl
@[simp] theorem Chip.updFn_stagedLow (s : Chip) (k : HostFn) (f : Function → Function) : (s.updFn k f).stagedLow = s.stagedLow := rfl
@[simp] theorem Chip.updFn_latchedHigh (s : Chip) (k : HostFn) (f : Function → Function) : (s.updFn k f).latchedHigh = s.latchedHigh := rfl
@[simp] theorem Chip.updFn_dies (s : Chip) (k : HostFn) (f : Function → Function) : (s.updFn k f).dies = s.dies := rfl
@[simp] theorem Chip.updFn_clusters (s : Chip) (k : HostFn) (f : Function → Function) : (s.updFn k f).clusters = s.clusters := rfl
@[simp] theorem Chip.updFn_cores (s : Chip) (k : HostFn) (f : Function → Function) : (s.updFn k f).cores = s.cores := rfl
@[simp] theorem Chip.updFn_pstore (s : Chip) (k : HostFn) (f : Function → Function) : (s.updFn k f).pstore = s.pstore := rfl
@[simp] theorem Chip.updFn_harts (s : Chip) (k : HostFn) (f : Function → Function) : (s.updFn k f).harts = s.harts := rfl
@[simp] theorem Chip.updFn_stk (s : Chip) (k : HostFn) (f : Function → Function) : (s.updFn k f).stk = s.stk := rfl
@[simp] theorem Chip.updFn_ports (s : Chip) (k : HostFn) (f : Function → Function) : (s.updFn k f).ports = s.ports := rfl
@[simp] theorem Chip.updFn_objs (s : Chip) (k : HostFn) (f : Function → Function) : (s.updFn k f).objs = s.objs := rfl
@[simp] theorem Chip.updFn_syncs (s : Chip) (k : HostFn) (f : Function → Function) : (s.updFn k f).syncs = s.syncs := rfl
@[simp] theorem Chip.updFn_cache (s : Chip) (k : HostFn) (f : Function → Function) : (s.updFn k f).cache = s.cache := rfl
@[simp] theorem Chip.updFn_recency (s : Chip) (k : HostFn) (f : Function → Function) : (s.updFn k f).recency = s.recency := rfl
@[simp] theorem Chip.updFn_hostCache (s : Chip) (k : HostFn) (f : Function → Function) : (s.updFn k f).hostCache = s.hostCache := rfl
@[simp] theorem Chip.updFn_scratch (s : Chip) (k : HostFn) (f : Function → Function) : (s.updFn k f).scratch = s.scratch := rfl
@[simp] theorem Chip.updFn_scratchErrors (s : Chip) (k : HostFn) (f : Function → Function) : (s.updFn k f).scratchErrors = s.scratchErrors := rfl
@[simp] theorem Chip.updFn_dram (s : Chip) (k : HostFn) (f : Function → Function) : (s.updFn k f).dram = s.dram := rfl
@[simp] theorem Chip.updFn_engineStore (s : Chip) (k : HostFn) (f : Function → Function) : (s.updFn k f).engineStore = s.engineStore := rfl
@[simp] theorem Chip.updFn_codeErrors (s : Chip) (k : HostFn) (f : Function → Function) : (s.updFn k f).codeErrors = s.codeErrors := rfl
@[simp] theorem Chip.updFn_fabric (s : Chip) (k : HostFn) (f : Function → Function) : (s.updFn k f).fabric = s.fabric := rfl
@[simp] theorem Chip.updFn_power (s : Chip) (k : HostFn) (f : Function → Function) : (s.updFn k f).power = s.power := rfl
@[simp] theorem Chip.updFn_traces (s : Chip) (k : HostFn) (f : Function → Function) : (s.updFn k f).traces = s.traces := rfl
@[simp] theorem Chip.updFn_authBuf (s : Chip) (k : HostFn) (f : Function → Function) : (s.updFn k f).authBuf = s.authBuf := rfl
@[simp] theorem Chip.updFn_ready (s : Chip) (k : HostFn) (f : Function → Function) : (s.updFn k f).ready = s.ready := rfl
@[simp] theorem Chip.updFn_out (s : Chip) (k : HostFn) (f : Function → Function) : (s.updFn k f).out = s.out := rfl
@[simp] theorem Chip.updFn_badRuns (s : Chip) (k : HostFn) (f : Function → Function) : (s.updFn k f).badRuns = s.badRuns := rfl
@[simp] theorem Chip.updFn_free (s : Chip) (k : HostFn) (f : Function → Function) : (s.updFn k f).free = s.free := rfl
@[simp] theorem Chip.updFn_head (s : Chip) (k : HostFn) (f : Function → Function) : (s.updFn k f).head = s.head := rfl
@[simp] theorem Chip.updFn_die (s : Chip) (k : HostFn) (f : Function → Function) : (s.updFn k f).die = s.die := rfl
@[simp] theorem Chip.updFn_cluster (s : Chip) (k : HostFn) (f : Function → Function) : (s.updFn k f).cluster = s.cluster := rfl
@[simp] theorem Chip.updFn_core (s : Chip) (k : HostFn) (f : Function → Function) : (s.updFn k f).core = s.core := rfl
@[simp] theorem Chip.updFn_hart (s : Chip) (k : HostFn) (f : Function → Function) : (s.updFn k f).hart = s.hart := rfl
@[simp] theorem Chip.updFn_stack (s : Chip) (k : HostFn) (f : Function → Function) : (s.updFn k f).stack = s.stack := rfl
@[simp] theorem Chip.updFn_port (s : Chip) (k : HostFn) (f : Function → Function) : (s.updFn k f).port = s.port := rfl
@[simp] theorem Chip.updFn_obj (s : Chip) (k : HostFn) (f : Function → Function) : (s.updFn k f).obj = s.obj := rfl
@[simp] theorem Chip.updFn_sync (s : Chip) (k : HostFn) (f : Function → Function) : (s.updFn k f).sync = s.sync := rfl
@[simp] theorem Chip.updFn_trace (s : Chip) (k : HostFn) (f : Function → Function) : (s.updFn k f).trace = s.trace := rfl
theorem Chip.updFn_fn (s : Chip) (k j : HostFn) (f : Function → Function) : (s.updFn k f).fn j = if j = k then f (s.fn k) else s.fn j := Table.read_write _ _ _ _ _
@[simp] theorem Chip.updFn_fn_same (s : Chip) (k : HostFn) (f : Function → Function) : (s.updFn k f).fn k = f (s.fn k) := Table.read_write_same _ _ _ _
@[simp] theorem Chip.updFn_fn_other (s : Chip) (k j : HostFn) (f : Function → Function) (h : j ≠ k) : (s.updFn k f).fn j = s.fn j := Table.read_write_other _ _ _ _ _ h

/-! ## The layers of a state -/


@[simp] theorem State.with_chip_chip (s : State) (v : Chip) : { s with chip := v }.chip = v := rfl
@[simp] theorem State.with_chip_fw (s : State) (v : Chip) : { s with chip := v }.fw = s.fw := rfl
@[simp] theorem State.with_chip_phot (s : State) (v : Chip) : { s with chip := v }.phot = s.phot := rfl
@[simp] theorem State.with_chip_fuses (s : State) (v : Chip) : { s with chip := v }.fuses = s.fuses := rfl
@[simp] theorem State.with_chip_hostMem (s : State) (v : Chip) : { s with chip := v }.hostMem = s.hostMem := rfl
@[simp] theorem State.with_chip_pending (s : State) (v : Chip) : { s with chip := v }.pending = s.pending := rfl
@[simp] theorem State.with_fw_chip (s : State) (v : Firmware) : { s with fw := v }.chip = s.chip := rfl
@[simp] theorem State.with_fw_fw (s : State) (v : Firmware) : { s with fw := v }.fw = v := rfl
@[simp] theorem State.with_fw_phot (s : State) (v : Firmware) : { s with fw := v }.phot = s.phot := rfl
@[simp] theorem State.with_fw_fuses (s : State) (v : Firmware) : { s with fw := v }.fuses = s.fuses := rfl
@[simp] theorem State.with_fw_hostMem (s : State) (v : Firmware) : { s with fw := v }.hostMem = s.hostMem := rfl
@[simp] theorem State.with_fw_pending (s : State) (v : Firmware) : { s with fw := v }.pending = s.pending := rfl
@[simp] theorem State.with_phot_chip (s : State) (v : Photometer) : { s with phot := v }.chip = s.chip := rfl
@[simp] theorem State.with_phot_fw (s : State) (v : Photometer) : { s with phot := v }.fw = s.fw := rfl
@[simp] theorem State.with_phot_phot (s : State) (v : Photometer) : { s with phot := v }.phot = v := rfl
@[simp] theorem State.with_phot_fuses (s : State) (v : Photometer) : { s with phot := v }.fuses = s.fuses := rfl
@[simp] theorem State.with_phot_hostMem (s : State) (v : Photometer) : { s with phot := v }.hostMem = s.hostMem := rfl
@[simp] theorem State.with_phot_pending (s : State) (v : Photometer) : { s with phot := v }.pending = s.pending := rfl
@[simp] theorem State.with_fuses_chip (s : State) (v : Fuses) : { s with fuses := v }.chip = s.chip := rfl
@[simp] theorem State.with_fuses_fw (s : State) (v : Fuses) : { s with fuses := v }.fw = s.fw := rfl
@[simp] theorem State.with_fuses_phot (s : State) (v : Fuses) : { s with fuses := v }.phot = s.phot := rfl
@[simp] theorem State.with_fuses_fuses (s : State) (v : Fuses) : { s with fuses := v }.fuses = v := rfl
@[simp] theorem State.with_fuses_hostMem (s : State) (v : Fuses) : { s with fuses := v }.hostMem = s.hostMem := rfl
@[simp] theorem State.with_fuses_pending (s : State) (v : Fuses) : { s with fuses := v }.pending = s.pending := rfl
@[simp] theorem State.with_hostMem_chip (s : State) (v : Memory) : { s with hostMem := v }.chip = s.chip := rfl
@[simp] theorem State.with_hostMem_fw (s : State) (v : Memory) : { s with hostMem := v }.fw = s.fw := rfl
@[simp] theorem State.with_hostMem_phot (s : State) (v : Memory) : { s with hostMem := v }.phot = s.phot := rfl
@[simp] theorem State.with_hostMem_fuses (s : State) (v : Memory) : { s with hostMem := v }.fuses = s.fuses := rfl
@[simp] theorem State.with_hostMem_hostMem (s : State) (v : Memory) : { s with hostMem := v }.hostMem = v := rfl
@[simp] theorem State.with_hostMem_pending (s : State) (v : Memory) : { s with hostMem := v }.pending = s.pending := rfl
@[simp] theorem State.with_pending_chip (s : State) (v : List Instr) : { s with pending := v }.chip = s.chip := rfl
@[simp] theorem State.with_pending_fw (s : State) (v : List Instr) : { s with pending := v }.fw = s.fw := rfl
@[simp] theorem State.with_pending_phot (s : State) (v : List Instr) : { s with pending := v }.phot = s.phot := rfl
@[simp] theorem State.with_pending_fuses (s : State) (v : List Instr) : { s with pending := v }.fuses = s.fuses := rfl
@[simp] theorem State.with_pending_hostMem (s : State) (v : List Instr) : { s with pending := v }.hostMem = s.hostMem := rfl
@[simp] theorem State.with_pending_pending (s : State) (v : List Instr) : { s with pending := v }.pending = v := rfl

/-- What a meaning lifted by onChip answers. -/
theorem onChip_next (f : Chip → Chip) (s : State) : onChip f s = .next { s with chip := f s.chip } := rfl

/-- What a meaning lifted by onBus answers. -/
theorem onBus_next (f : Chip → Memory → Chip × Memory) (s : State) : onBus f s = .next { s with chip := (f s.chip s.hostMem).1, hostMem := (f s.chip s.hostMem).2 } := rfl

/-- What a meaning lifted by onReach answers. -/
theorem onReach_next (f : Reach → Reach) (s : State) : onReach f s = .next { s with chip := (f ⟨s.chip, s.fw, s.hostMem⟩).chip, fw := (f ⟨s.chip, s.fw, s.hostMem⟩).fw, hostMem := (f ⟨s.chip, s.fw, s.hostMem⟩).host } := rfl

/-- What a meaning lifted by onPhot answers. -/
theorem onPhot_next (f : Chip → Photometer → Chip × Photometer) (s : State) : onPhot f s = .next { s with chip := (f s.chip s.phot).1, phot := (f s.chip s.phot).2 } := rfl

end Sys2Proof.Machine
end

