-- ==== Sys2Proof/Laws/Fabric.lean ====
section
/-! SUPPORT. What the shared operations of the Kuzopa ports change: a flit's word 0, and the credits that a packet's buffer gives back (R341, R354). -/

namespace Sys2Proof.Machine

/-- A flit that leaves changes nothing of its port but what it tells. -/
theorem Port.sendHead_frame (x : Port) :
    x.sendHead = { x with sent := some x.head, nakOwed := false, creditOwed := x.sendHead.creditOwed } := rfl

@[simp] theorem Port.sendHead_queue (x : Port) : x.sendHead.queue = x.queue := rfl
@[simp] theorem Port.sendHead_credits (x : Port) : x.sendHead.credits = x.credits := rfl
@[simp] theorem Port.transmit_queue (x : Port) (m : FabricMsg) : (x.transmit m).queue = x.queue := rfl
@[simp] theorem Port.transmit_credits (x : Port) (m : FabricMsg) : (x.transmit m).credits = x.credits := rfl
@[simp] theorem Port.transmit_txSeq (x : Port) (m : FabricMsg) : (x.transmit m).txSeq = x.txSeq + 1 := rfl
@[simp] theorem Port.transmit_retry (x : Port) (m : FabricMsg) : (x.transmit m).retry = x.retry ++ [⟨x.txSeq, [m]⟩] := rfl

/-- A packet of the module itself occupies no port's buffer. -/
theorem Chip.freeBuffer_own (s : Chip) (m : FabricMsg) : s.freeBuffer 16 m = s := rfl

/-- Giving back a buffer changes one port's owed credits and nothing else. -/
theorem Chip.freeBuffer_frame (s : Chip) (input : Nat) (m : FabricMsg) : s.freeBuffer input m = { s with ports := (s.freeBuffer input m).ports } := by
  unfold Chip.freeBuffer
  split <;> rfl

end Sys2Proof.Machine
end

