-- ==== Sys2Proof/Laws/Ops.lean ====
section
/-! SUPPORT. What the shared operations leave alone: messages, log entries, freezes, errors and trace records, field by field. -/

namespace Sys2Proof.Machine

open Host


/-! ## msix -/

/-- A message changes the functions alone. -/
theorem Chip.msix_shape (s : Chip) (f : HostFn) (v : Nat) : ∃ v0, s.msix f v = { s with link := v0 } := ⟨_, rfl⟩

@[simp] theorem Chip.msix_heads (s : Chip) (f : HostFn) (v : Nat) : (s.msix f v).heads = s.heads := by
  obtain ⟨_, h⟩ := s.msix_shape f v; rw [h]
@[simp] theorem Chip.msix_stagedLow (s : Chip) (f : HostFn) (v : Nat) : (s.msix f v).stagedLow = s.stagedLow := by
  obtain ⟨_, h⟩ := s.msix_shape f v; rw [h]
@[simp] theorem Chip.msix_latchedHigh (s : Chip) (f : HostFn) (v : Nat) : (s.msix f v).latchedHigh = s.latchedHigh := by
  obtain ⟨_, h⟩ := s.msix_shape f v; rw [h]
@[simp] theorem Chip.msix_dies (s : Chip) (f : HostFn) (v : Nat) : (s.msix f v).dies = s.dies := by
  obtain ⟨_, h⟩ := s.msix_shape f v; rw [h]
@[simp] theorem Chip.msix_clusters (s : Chip) (f : HostFn) (v : Nat) : (s.msix f v).clusters = s.clusters := by
  obtain ⟨_, h⟩ := s.msix_shape f v; rw [h]
@[simp] theorem Chip.msix_cores (s : Chip) (f : HostFn) (v : Nat) : (s.msix f v).cores = s.cores := by
  obtain ⟨_, h⟩ := s.msix_shape f v; rw [h]
@[simp] theorem Chip.msix_pstore (s : Chip) (f : HostFn) (v : Nat) : (s.msix f v).pstore = s.pstore := by
  obtain ⟨_, h⟩ := s.msix_shape f v; rw [h]
@[simp] theorem Chip.msix_harts (s : Chip) (f : HostFn) (v : Nat) : (s.msix f v).harts = s.harts := by
  obtain ⟨_, h⟩ := s.msix_shape f v; rw [h]
@[simp] theorem Chip.msix_stk (s : Chip) (f : HostFn) (v : Nat) : (s.msix f v).stk = s.stk := by
  obtain ⟨_, h⟩ := s.msix_shape f v; rw [h]
@[simp] theorem Chip.msix_ports (s : Chip) (f : HostFn) (v : Nat) : (s.msix f v).ports = s.ports := by
  obtain ⟨_, h⟩ := s.msix_shape f v; rw [h]
@[simp] theorem Chip.msix_objs (s : Chip) (f : HostFn) (v : Nat) : (s.msix f v).objs = s.objs := by
  obtain ⟨_, h⟩ := s.msix_shape f v; rw [h]
@[simp] theorem Chip.msix_syncs (s : Chip) (f : HostFn) (v : Nat) : (s.msix f v).syncs = s.syncs := by
  obtain ⟨_, h⟩ := s.msix_shape f v; rw [h]
@[simp] theorem Chip.msix_cache (s : Chip) (f : HostFn) (v : Nat) : (s.msix f v).cache = s.cache := by
  obtain ⟨_, h⟩ := s.msix_shape f v; rw [h]
@[simp] theorem Chip.msix_recency (s : Chip) (f : HostFn) (v : Nat) : (s.msix f v).recency = s.recency := by
  obtain ⟨_, h⟩ := s.msix_shape f v; rw [h]
@[simp] theorem Chip.msix_hostCache (s : Chip) (f : HostFn) (v : Nat) : (s.msix f v).hostCache = s.hostCache := by
  obtain ⟨_, h⟩ := s.msix_shape f v; rw [h]
@[simp] theorem Chip.msix_scratch (s : Chip) (f : HostFn) (v : Nat) : (s.msix f v).scratch = s.scratch := by
  obtain ⟨_, h⟩ := s.msix_shape f v; rw [h]
@[simp] theorem Chip.msix_scratchErrors (s : Chip) (f : HostFn) (v : Nat) : (s.msix f v).scratchErrors = s.scratchErrors := by
  obtain ⟨_, h⟩ := s.msix_shape f v; rw [h]
@[simp] theorem Chip.msix_dram (s : Chip) (f : HostFn) (v : Nat) : (s.msix f v).dram = s.dram := by
  obtain ⟨_, h⟩ := s.msix_shape f v; rw [h]
@[simp] theorem Chip.msix_engineStore (s : Chip) (f : HostFn) (v : Nat) : (s.msix f v).engineStore = s.engineStore := by
  obtain ⟨_, h⟩ := s.msix_shape f v; rw [h]
@[simp] theorem Chip.msix_codeErrors (s : Chip) (f : HostFn) (v : Nat) : (s.msix f v).codeErrors = s.codeErrors := by
  obtain ⟨_, h⟩ := s.msix_shape f v; rw [h]
@[simp] theorem Chip.msix_fabric (s : Chip) (f : HostFn) (v : Nat) : (s.msix f v).fabric = s.fabric := by
  obtain ⟨_, h⟩ := s.msix_shape f v; rw [h]
@[simp] theorem Chip.msix_power (s : Chip) (f : HostFn) (v : Nat) : (s.msix f v).power = s.power := by
  obtain ⟨_, h⟩ := s.msix_shape f v; rw [h]
@[simp] theorem Chip.msix_traces (s : Chip) (f : HostFn) (v : Nat) : (s.msix f v).traces = s.traces := by
  obtain ⟨_, h⟩ := s.msix_shape f v; rw [h]
@[simp] theorem Chip.msix_authBuf (s : Chip) (f : HostFn) (v : Nat) : (s.msix f v).authBuf = s.authBuf := by
  obtain ⟨_, h⟩ := s.msix_shape f v; rw [h]
@[simp] theorem Chip.msix_ready (s : Chip) (f : HostFn) (v : Nat) : (s.msix f v).ready = s.ready := by
  obtain ⟨_, h⟩ := s.msix_shape f v; rw [h]
@[simp] theorem Chip.msix_out (s : Chip) (f : HostFn) (v : Nat) : (s.msix f v).out = s.out := by
  obtain ⟨_, h⟩ := s.msix_shape f v; rw [h]
@[simp] theorem Chip.msix_badRuns (s : Chip) (f : HostFn) (v : Nat) : (s.msix f v).badRuns = s.badRuns := by
  obtain ⟨_, h⟩ := s.msix_shape f v; rw [h]
@[simp] theorem Chip.msix_free (s : Chip) (f : HostFn) (v : Nat) : (s.msix f v).free = s.free := by
  obtain ⟨_, h⟩ := s.msix_shape f v; rw [h]

/-! ## logVector -/

/-- The owed vector changes the host link alone. -/
theorem Chip.logVector_shape (s : Chip) : ∃ v0, s.logVector = { s with link := v0 } := by
  unfold Chip.logVector
  dsimp only
  split <;> split
  all_goals exact ⟨_, rfl⟩

@[simp] theorem Chip.logVector_heads (s : Chip) : (s.logVector).heads = s.heads := by
  obtain ⟨_, h⟩ := s.logVector_shape ; rw [h]
@[simp] theorem Chip.logVector_stagedLow (s : Chip) : (s.logVector).stagedLow = s.stagedLow := by
  obtain ⟨_, h⟩ := s.logVector_shape ; rw [h]
@[simp] theorem Chip.logVector_latchedHigh (s : Chip) : (s.logVector).latchedHigh = s.latchedHigh := by
  obtain ⟨_, h⟩ := s.logVector_shape ; rw [h]
@[simp] theorem Chip.logVector_dies (s : Chip) : (s.logVector).dies = s.dies := by
  obtain ⟨_, h⟩ := s.logVector_shape ; rw [h]
@[simp] theorem Chip.logVector_clusters (s : Chip) : (s.logVector).clusters = s.clusters := by
  obtain ⟨_, h⟩ := s.logVector_shape ; rw [h]
@[simp] theorem Chip.logVector_cores (s : Chip) : (s.logVector).cores = s.cores := by
  obtain ⟨_, h⟩ := s.logVector_shape ; rw [h]
@[simp] theorem Chip.logVector_pstore (s : Chip) : (s.logVector).pstore = s.pstore := by
  obtain ⟨_, h⟩ := s.logVector_shape ; rw [h]
@[simp] theorem Chip.logVector_harts (s : Chip) : (s.logVector).harts = s.harts := by
  obtain ⟨_, h⟩ := s.logVector_shape ; rw [h]
@[simp] theorem Chip.logVector_stk (s : Chip) : (s.logVector).stk = s.stk := by
  obtain ⟨_, h⟩ := s.logVector_shape ; rw [h]
@[simp] theorem Chip.logVector_ports (s : Chip) : (s.logVector).ports = s.ports := by
  obtain ⟨_, h⟩ := s.logVector_shape ; rw [h]
@[simp] theorem Chip.logVector_objs (s : Chip) : (s.logVector).objs = s.objs := by
  obtain ⟨_, h⟩ := s.logVector_shape ; rw [h]
@[simp] theorem Chip.logVector_syncs (s : Chip) : (s.logVector).syncs = s.syncs := by
  obtain ⟨_, h⟩ := s.logVector_shape ; rw [h]
@[simp] theorem Chip.logVector_cache (s : Chip) : (s.logVector).cache = s.cache := by
  obtain ⟨_, h⟩ := s.logVector_shape ; rw [h]
@[simp] theorem Chip.logVector_recency (s : Chip) : (s.logVector).recency = s.recency := by
  obtain ⟨_, h⟩ := s.logVector_shape ; rw [h]
@[simp] theorem Chip.logVector_hostCache (s : Chip) : (s.logVector).hostCache = s.hostCache := by
  obtain ⟨_, h⟩ := s.logVector_shape ; rw [h]
@[simp] theorem Chip.logVector_scratch (s : Chip) : (s.logVector).scratch = s.scratch := by
  obtain ⟨_, h⟩ := s.logVector_shape ; rw [h]
@[simp] theorem Chip.logVector_scratchErrors (s : Chip) : (s.logVector).scratchErrors = s.scratchErrors := by
  obtain ⟨_, h⟩ := s.logVector_shape ; rw [h]
@[simp] theorem Chip.logVector_dram (s : Chip) : (s.logVector).dram = s.dram := by
  obtain ⟨_, h⟩ := s.logVector_shape ; rw [h]
@[simp] theorem Chip.logVector_engineStore (s : Chip) : (s.logVector).engineStore = s.engineStore := by
  obtain ⟨_, h⟩ := s.logVector_shape ; rw [h]
@[simp] theorem Chip.logVector_codeErrors (s : Chip) : (s.logVector).codeErrors = s.codeErrors := by
  obtain ⟨_, h⟩ := s.logVector_shape ; rw [h]
@[simp] theorem Chip.logVector_fabric (s : Chip) : (s.logVector).fabric = s.fabric := by
  obtain ⟨_, h⟩ := s.logVector_shape ; rw [h]
@[simp] theorem Chip.logVector_power (s : Chip) : (s.logVector).power = s.power := by
  obtain ⟨_, h⟩ := s.logVector_shape ; rw [h]
@[simp] theorem Chip.logVector_traces (s : Chip) : (s.logVector).traces = s.traces := by
  obtain ⟨_, h⟩ := s.logVector_shape ; rw [h]
@[simp] theorem Chip.logVector_authBuf (s : Chip) : (s.logVector).authBuf = s.authBuf := by
  obtain ⟨_, h⟩ := s.logVector_shape ; rw [h]
@[simp] theorem Chip.logVector_ready (s : Chip) : (s.logVector).ready = s.ready := by
  obtain ⟨_, h⟩ := s.logVector_shape ; rw [h]
@[simp] theorem Chip.logVector_out (s : Chip) : (s.logVector).out = s.out := by
  obtain ⟨_, h⟩ := s.logVector_shape ; rw [h]
@[simp] theorem Chip.logVector_badRuns (s : Chip) : (s.logVector).badRuns = s.badRuns := by
  obtain ⟨_, h⟩ := s.logVector_shape ; rw [h]
@[simp] theorem Chip.logVector_free (s : Chip) : (s.logVector).free = s.free := by
  obtain ⟨_, h⟩ := s.logVector_shape ; rw [h]

/-! ## log -/

/-- A log entry changes the night logs and the host link alone. -/
theorem Chip.log_shape (s : Chip) (d : DieId) (level : Nat) (code : FaultCode) (dome : Byte) (tag : BitVec 16) (detail : Word64) : ∃ v0 v1, s.log d level code dome tag detail = { s with dies := v0, link := v1 } := by
  have key (u : Chip) (hu : ∃ v, u = { s with dies := v }) : ∃ a b, (if level = 0 then u else Chip.logVector { u with link := { u.link with logOwed := true } }) = { s with dies := a, link := b } := by
    obtain ⟨v, rfl⟩ := hu
    split
    · exact ⟨v, s.link, rfl⟩
    · obtain ⟨l, h⟩ := Chip.logVector_shape { s with dies := v, link := { s.link with logOwed := true } }
      exact ⟨v, l, h⟩
  unfold Chip.log
  split
  · exact ⟨s.dies, s.link, rfl⟩
  · exact key _ ⟨_, rfl⟩

@[simp] theorem Chip.log_heads (s : Chip) (d : DieId) (level : Nat) (code : FaultCode) (dome : Byte) (tag : BitVec 16) (detail : Word64) : (s.log d level code dome tag detail).heads = s.heads := by
  obtain ⟨_, _, h⟩ := s.log_shape d level code dome tag detail; rw [h]
@[simp] theorem Chip.log_stagedLow (s : Chip) (d : DieId) (level : Nat) (code : FaultCode) (dome : Byte) (tag : BitVec 16) (detail : Word64) : (s.log d level code dome tag detail).stagedLow = s.stagedLow := by
  obtain ⟨_, _, h⟩ := s.log_shape d level code dome tag detail; rw [h]
@[simp] theorem Chip.log_latchedHigh (s : Chip) (d : DieId) (level : Nat) (code : FaultCode) (dome : Byte) (tag : BitVec 16) (detail : Word64) : (s.log d level code dome tag detail).latchedHigh = s.latchedHigh := by
  obtain ⟨_, _, h⟩ := s.log_shape d level code dome tag detail; rw [h]
@[simp] theorem Chip.log_clusters (s : Chip) (d : DieId) (level : Nat) (code : FaultCode) (dome : Byte) (tag : BitVec 16) (detail : Word64) : (s.log d level code dome tag detail).clusters = s.clusters := by
  obtain ⟨_, _, h⟩ := s.log_shape d level code dome tag detail; rw [h]
@[simp] theorem Chip.log_cores (s : Chip) (d : DieId) (level : Nat) (code : FaultCode) (dome : Byte) (tag : BitVec 16) (detail : Word64) : (s.log d level code dome tag detail).cores = s.cores := by
  obtain ⟨_, _, h⟩ := s.log_shape d level code dome tag detail; rw [h]
@[simp] theorem Chip.log_pstore (s : Chip) (d : DieId) (level : Nat) (code : FaultCode) (dome : Byte) (tag : BitVec 16) (detail : Word64) : (s.log d level code dome tag detail).pstore = s.pstore := by
  obtain ⟨_, _, h⟩ := s.log_shape d level code dome tag detail; rw [h]
@[simp] theorem Chip.log_harts (s : Chip) (d : DieId) (level : Nat) (code : FaultCode) (dome : Byte) (tag : BitVec 16) (detail : Word64) : (s.log d level code dome tag detail).harts = s.harts := by
  obtain ⟨_, _, h⟩ := s.log_shape d level code dome tag detail; rw [h]
@[simp] theorem Chip.log_stk (s : Chip) (d : DieId) (level : Nat) (code : FaultCode) (dome : Byte) (tag : BitVec 16) (detail : Word64) : (s.log d level code dome tag detail).stk = s.stk := by
  obtain ⟨_, _, h⟩ := s.log_shape d level code dome tag detail; rw [h]
@[simp] theorem Chip.log_ports (s : Chip) (d : DieId) (level : Nat) (code : FaultCode) (dome : Byte) (tag : BitVec 16) (detail : Word64) : (s.log d level code dome tag detail).ports = s.ports := by
  obtain ⟨_, _, h⟩ := s.log_shape d level code dome tag detail; rw [h]
@[simp] theorem Chip.log_objs (s : Chip) (d : DieId) (level : Nat) (code : FaultCode) (dome : Byte) (tag : BitVec 16) (detail : Word64) : (s.log d level code dome tag detail).objs = s.objs := by
  obtain ⟨_, _, h⟩ := s.log_shape d level code dome tag detail; rw [h]
@[simp] theorem Chip.log_syncs (s : Chip) (d : DieId) (level : Nat) (code : FaultCode) (dome : Byte) (tag : BitVec 16) (detail : Word64) : (s.log d level code dome tag detail).syncs = s.syncs := by
  obtain ⟨_, _, h⟩ := s.log_shape d level code dome tag detail; rw [h]
@[simp] theorem Chip.log_cache (s : Chip) (d : DieId) (level : Nat) (code : FaultCode) (dome : Byte) (tag : BitVec 16) (detail : Word64) : (s.log d level code dome tag detail).cache = s.cache := by
  obtain ⟨_, _, h⟩ := s.log_shape d level code dome tag detail; rw [h]
@[simp] theorem Chip.log_recency (s : Chip) (d : DieId) (level : Nat) (code : FaultCode) (dome : Byte) (tag : BitVec 16) (detail : Word64) : (s.log d level code dome tag detail).recency = s.recency := by
  obtain ⟨_, _, h⟩ := s.log_shape d level code dome tag detail; rw [h]
@[simp] theorem Chip.log_hostCache (s : Chip) (d : DieId) (level : Nat) (code : FaultCode) (dome : Byte) (tag : BitVec 16) (detail : Word64) : (s.log d level code dome tag detail).hostCache = s.hostCache := by
  obtain ⟨_, _, h⟩ := s.log_shape d level code dome tag detail; rw [h]
@[simp] theorem Chip.log_scratch (s : Chip) (d : DieId) (level : Nat) (code : FaultCode) (dome : Byte) (tag : BitVec 16) (detail : Word64) : (s.log d level code dome tag detail).scratch = s.scratch := by
  obtain ⟨_, _, h⟩ := s.log_shape d level code dome tag detail; rw [h]
@[simp] theorem Chip.log_scratchErrors (s : Chip) (d : DieId) (level : Nat) (code : FaultCode) (dome : Byte) (tag : BitVec 16) (detail : Word64) : (s.log d level code dome tag detail).scratchErrors = s.scratchErrors := by
  obtain ⟨_, _, h⟩ := s.log_shape d level code dome tag detail; rw [h]
@[simp] theorem Chip.log_dram (s : Chip) (d : DieId) (level : Nat) (code : FaultCode) (dome : Byte) (tag : BitVec 16) (detail : Word64) : (s.log d level code dome tag detail).dram = s.dram := by
  obtain ⟨_, _, h⟩ := s.log_shape d level code dome tag detail; rw [h]
@[simp] theorem Chip.log_engineStore (s : Chip) (d : DieId) (level : Nat) (code : FaultCode) (dome : Byte) (tag : BitVec 16) (detail : Word64) : (s.log d level code dome tag detail).engineStore = s.engineStore := by
  obtain ⟨_, _, h⟩ := s.log_shape d level code dome tag detail; rw [h]
@[simp] theorem Chip.log_codeErrors (s : Chip) (d : DieId) (level : Nat) (code : FaultCode) (dome : Byte) (tag : BitVec 16) (detail : Word64) : (s.log d level code dome tag detail).codeErrors = s.codeErrors := by
  obtain ⟨_, _, h⟩ := s.log_shape d level code dome tag detail; rw [h]
@[simp] theorem Chip.log_fabric (s : Chip) (d : DieId) (level : Nat) (code : FaultCode) (dome : Byte) (tag : BitVec 16) (detail : Word64) : (s.log d level code dome tag detail).fabric = s.fabric := by
  obtain ⟨_, _, h⟩ := s.log_shape d level code dome tag detail; rw [h]
@[simp] theorem Chip.log_power (s : Chip) (d : DieId) (level : Nat) (code : FaultCode) (dome : Byte) (tag : BitVec 16) (detail : Word64) : (s.log d level code dome tag detail).power = s.power := by
  obtain ⟨_, _, h⟩ := s.log_shape d level code dome tag detail; rw [h]
@[simp] theorem Chip.log_traces (s : Chip) (d : DieId) (level : Nat) (code : FaultCode) (dome : Byte) (tag : BitVec 16) (detail : Word64) : (s.log d level code dome tag detail).traces = s.traces := by
  obtain ⟨_, _, h⟩ := s.log_shape d level code dome tag detail; rw [h]
@[simp] theorem Chip.log_authBuf (s : Chip) (d : DieId) (level : Nat) (code : FaultCode) (dome : Byte) (tag : BitVec 16) (detail : Word64) : (s.log d level code dome tag detail).authBuf = s.authBuf := by
  obtain ⟨_, _, h⟩ := s.log_shape d level code dome tag detail; rw [h]
@[simp] theorem Chip.log_ready (s : Chip) (d : DieId) (level : Nat) (code : FaultCode) (dome : Byte) (tag : BitVec 16) (detail : Word64) : (s.log d level code dome tag detail).ready = s.ready := by
  obtain ⟨_, _, h⟩ := s.log_shape d level code dome tag detail; rw [h]
@[simp] theorem Chip.log_out (s : Chip) (d : DieId) (level : Nat) (code : FaultCode) (dome : Byte) (tag : BitVec 16) (detail : Word64) : (s.log d level code dome tag detail).out = s.out := by
  obtain ⟨_, _, h⟩ := s.log_shape d level code dome tag detail; rw [h]
@[simp] theorem Chip.log_badRuns (s : Chip) (d : DieId) (level : Nat) (code : FaultCode) (dome : Byte) (tag : BitVec 16) (detail : Word64) : (s.log d level code dome tag detail).badRuns = s.badRuns := by
  obtain ⟨_, _, h⟩ := s.log_shape d level code dome tag detail; rw [h]
@[simp] theorem Chip.log_free (s : Chip) (d : DieId) (level : Nat) (code : FaultCode) (dome : Byte) (tag : BitVec 16) (detail : Word64) : (s.log d level code dome tag detail).free = s.free := by
  obtain ⟨_, _, h⟩ := s.log_shape d level code dome tag detail; rw [h]

/-! ## freeze -/

/-- A freeze changes dies, ports, harts, the host link and the stacks. -/
theorem Chip.freeze_shape (s : Chip) (d : DieId) (kind : Nat) (code : BitVec 16) : ∃ v0 v1 v2 v3 v4, s.freeze d kind code = { s with dies := v0, harts := v1, stk := v2, ports := v3, link := v4 } := by
  have a (c : Word32) (l : List DieId) (s : Chip) : ∃ v w, l.foldl (fun (s : Chip) x => if (s.die x).ringOn then (s.updDie x (fun y => Die.reportFrozen { y with coel := { y.coel with freezing := true, cause := c } })).log x 2 Code.coelostatFreeze 0xFF 0 (c.setWidth 64) else s) s = { s with dies := v, link := w } := by
    induction l generalizing s with
    | nil => exact ⟨s.dies, s.link, rfl⟩
    | cons x t ih =>
      rw [List.foldl_cons]
      split
      · obtain ⟨v, w, h⟩ := Chip.log_shape (s.updDie x (fun y => Die.reportFrozen { y with coel := { y.coel with freezing := true, cause := c } })) x 2 Code.coelostatFreeze 0xFF 0 (c.setWidth 64)
        obtain ⟨v', w', h'⟩ := ih { s with dies := v, link := w }
        exact ⟨v', w', by rw [h]; exact h'⟩
      · exact ih s
  have b (l : List StackId) (s : Chip) : ∃ v, l.foldl (fun (s : Chip) t => if (s.stack t).domainOn then s.updStack t (fun x => { x with selfRefresh := true }) else s) s = { s with stk := v } := by
    induction l generalizing s with
    | nil => exact ⟨s.stk, rfl⟩
    | cons x t ih =>
      rw [List.foldl_cons]
      split
      · obtain ⟨v, h⟩ := ih (s.updStack x (fun x => { x with selfRefresh := true }))
        exact ⟨v, h⟩
      · exact ih s
  unfold Chip.freeze
  split
  · exact ⟨s.dies, s.harts, s.stk, s.ports, s.link, rfl⟩
  · obtain ⟨v, w, h⟩ := a (code ++ BitVec.ofNat 4 0 ++ BitVec.ofNat 4 d.val ++ BitVec.ofNat 8 kind) allDies s
    dsimp only
    rw [h]
    obtain ⟨k, g⟩ := b allStacks { s with dies := v, ports := s.ports.map (fun p => (p.1, { Port.down p.2 with state := 0 })), harts := s.harts.map (fun h => (h.1, { h.2 with fetching := false })), link := { w with link0Up := false, link1Up := false } }
    exact ⟨v, _, k, _, _, g⟩

@[simp] theorem Chip.freeze_heads (s : Chip) (d : DieId) (kind : Nat) (code : BitVec 16) : (s.freeze d kind code).heads = s.heads := by
  obtain ⟨_, _, _, _, _, h⟩ := s.freeze_shape d kind code; rw [h]
@[simp] theorem Chip.freeze_stagedLow (s : Chip) (d : DieId) (kind : Nat) (code : BitVec 16) : (s.freeze d kind code).stagedLow = s.stagedLow := by
  obtain ⟨_, _, _, _, _, h⟩ := s.freeze_shape d kind code; rw [h]
@[simp] theorem Chip.freeze_latchedHigh (s : Chip) (d : DieId) (kind : Nat) (code : BitVec 16) : (s.freeze d kind code).latchedHigh = s.latchedHigh := by
  obtain ⟨_, _, _, _, _, h⟩ := s.freeze_shape d kind code; rw [h]
@[simp] theorem Chip.freeze_clusters (s : Chip) (d : DieId) (kind : Nat) (code : BitVec 16) : (s.freeze d kind code).clusters = s.clusters := by
  obtain ⟨_, _, _, _, _, h⟩ := s.freeze_shape d kind code; rw [h]
@[simp] theorem Chip.freeze_cores (s : Chip) (d : DieId) (kind : Nat) (code : BitVec 16) : (s.freeze d kind code).cores = s.cores := by
  obtain ⟨_, _, _, _, _, h⟩ := s.freeze_shape d kind code; rw [h]
@[simp] theorem Chip.freeze_pstore (s : Chip) (d : DieId) (kind : Nat) (code : BitVec 16) : (s.freeze d kind code).pstore = s.pstore := by
  obtain ⟨_, _, _, _, _, h⟩ := s.freeze_shape d kind code; rw [h]
@[simp] theorem Chip.freeze_objs (s : Chip) (d : DieId) (kind : Nat) (code : BitVec 16) : (s.freeze d kind code).objs = s.objs := by
  obtain ⟨_, _, _, _, _, h⟩ := s.freeze_shape d kind code; rw [h]
@[simp] theorem Chip.freeze_syncs (s : Chip) (d : DieId) (kind : Nat) (code : BitVec 16) : (s.freeze d kind code).syncs = s.syncs := by
  obtain ⟨_, _, _, _, _, h⟩ := s.freeze_shape d kind code; rw [h]
@[simp] theorem Chip.freeze_cache (s : Chip) (d : DieId) (kind : Nat) (code : BitVec 16) : (s.freeze d kind code).cache = s.cache := by
  obtain ⟨_, _, _, _, _, h⟩ := s.freeze_shape d kind code; rw [h]
@[simp] theorem Chip.freeze_recency (s : Chip) (d : DieId) (kind : Nat) (code : BitVec 16) : (s.freeze d kind code).recency = s.recency := by
  obtain ⟨_, _, _, _, _, h⟩ := s.freeze_shape d kind code; rw [h]
@[simp] theorem Chip.freeze_hostCache (s : Chip) (d : DieId) (kind : Nat) (code : BitVec 16) : (s.freeze d kind code).hostCache = s.hostCache := by
  obtain ⟨_, _, _, _, _, h⟩ := s.freeze_shape d kind code; rw [h]
@[simp] theorem Chip.freeze_scratch (s : Chip) (d : DieId) (kind : Nat) (code : BitVec 16) : (s.freeze d kind code).scratch = s.scratch := by
  obtain ⟨_, _, _, _, _, h⟩ := s.freeze_shape d kind code; rw [h]
@[simp] theorem Chip.freeze_scratchErrors (s : Chip) (d : DieId) (kind : Nat) (code : BitVec 16) : (s.freeze d kind code).scratchErrors = s.scratchErrors := by
  obtain ⟨_, _, _, _, _, h⟩ := s.freeze_shape d kind code; rw [h]
@[simp] theorem Chip.freeze_dram (s : Chip) (d : DieId) (kind : Nat) (code : BitVec 16) : (s.freeze d kind code).dram = s.dram := by
  obtain ⟨_, _, _, _, _, h⟩ := s.freeze_shape d kind code; rw [h]
@[simp] theorem Chip.freeze_engineStore (s : Chip) (d : DieId) (kind : Nat) (code : BitVec 16) : (s.freeze d kind code).engineStore = s.engineStore := by
  obtain ⟨_, _, _, _, _, h⟩ := s.freeze_shape d kind code; rw [h]
@[simp] theorem Chip.freeze_codeErrors (s : Chip) (d : DieId) (kind : Nat) (code : BitVec 16) : (s.freeze d kind code).codeErrors = s.codeErrors := by
  obtain ⟨_, _, _, _, _, h⟩ := s.freeze_shape d kind code; rw [h]
@[simp] theorem Chip.freeze_fabric (s : Chip) (d : DieId) (kind : Nat) (code : BitVec 16) : (s.freeze d kind code).fabric = s.fabric := by
  obtain ⟨_, _, _, _, _, h⟩ := s.freeze_shape d kind code; rw [h]
@[simp] theorem Chip.freeze_power (s : Chip) (d : DieId) (kind : Nat) (code : BitVec 16) : (s.freeze d kind code).power = s.power := by
  obtain ⟨_, _, _, _, _, h⟩ := s.freeze_shape d kind code; rw [h]
@[simp] theorem Chip.freeze_traces (s : Chip) (d : DieId) (kind : Nat) (code : BitVec 16) : (s.freeze d kind code).traces = s.traces := by
  obtain ⟨_, _, _, _, _, h⟩ := s.freeze_shape d kind code; rw [h]
@[simp] theorem Chip.freeze_authBuf (s : Chip) (d : DieId) (kind : Nat) (code : BitVec 16) : (s.freeze d kind code).authBuf = s.authBuf := by
  obtain ⟨_, _, _, _, _, h⟩ := s.freeze_shape d kind code; rw [h]
@[simp] theorem Chip.freeze_ready (s : Chip) (d : DieId) (kind : Nat) (code : BitVec 16) : (s.freeze d kind code).ready = s.ready := by
  obtain ⟨_, _, _, _, _, h⟩ := s.freeze_shape d kind code; rw [h]
@[simp] theorem Chip.freeze_out (s : Chip) (d : DieId) (kind : Nat) (code : BitVec 16) : (s.freeze d kind code).out = s.out := by
  obtain ⟨_, _, _, _, _, h⟩ := s.freeze_shape d kind code; rw [h]
@[simp] theorem Chip.freeze_badRuns (s : Chip) (d : DieId) (kind : Nat) (code : BitVec 16) : (s.freeze d kind code).badRuns = s.badRuns := by
  obtain ⟨_, _, _, _, _, h⟩ := s.freeze_shape d kind code; rw [h]
@[simp] theorem Chip.freeze_free (s : Chip) (d : DieId) (kind : Nat) (code : BitVec 16) : (s.freeze d kind code).free = s.free := by
  obtain ⟨_, _, _, _, _, h⟩ := s.freeze_shape d kind code; rw [h]

/-! ## trigger -/

/-- A trigger changes what a freeze changes. -/
theorem Chip.trigger_shape (s : Chip) (d : DieId) (source kind : Nat) (code : BitVec 16) : ∃ v0 v1 v2 v3 v4, s.trigger d source kind code = { s with dies := v0, harts := v1, stk := v2, ports := v3, link := v4 } := by
  unfold Chip.trigger
  dsimp only
  split
  · exact Chip.freeze_shape s d kind code
  · exact ⟨s.dies, s.harts, s.stk, s.ports, s.link, rfl⟩

@[simp] theorem Chip.trigger_heads (s : Chip) (d : DieId) (source kind : Nat) (code : BitVec 16) : (s.trigger d source kind code).heads = s.heads := by
  obtain ⟨_, _, _, _, _, h⟩ := s.trigger_shape d source kind code; rw [h]
@[simp] theorem Chip.trigger_stagedLow (s : Chip) (d : DieId) (source kind : Nat) (code : BitVec 16) : (s.trigger d source kind code).stagedLow = s.stagedLow := by
  obtain ⟨_, _, _, _, _, h⟩ := s.trigger_shape d source kind code; rw [h]
@[simp] theorem Chip.trigger_latchedHigh (s : Chip) (d : DieId) (source kind : Nat) (code : BitVec 16) : (s.trigger d source kind code).latchedHigh = s.latchedHigh := by
  obtain ⟨_, _, _, _, _, h⟩ := s.trigger_shape d source kind code; rw [h]
@[simp] theorem Chip.trigger_clusters (s : Chip) (d : DieId) (source kind : Nat) (code : BitVec 16) : (s.trigger d source kind code).clusters = s.clusters := by
  obtain ⟨_, _, _, _, _, h⟩ := s.trigger_shape d source kind code; rw [h]
@[simp] theorem Chip.trigger_cores (s : Chip) (d : DieId) (source kind : Nat) (code : BitVec 16) : (s.trigger d source kind code).cores = s.cores := by
  obtain ⟨_, _, _, _, _, h⟩ := s.trigger_shape d source kind code; rw [h]
@[simp] theorem Chip.trigger_pstore (s : Chip) (d : DieId) (source kind : Nat) (code : BitVec 16) : (s.trigger d source kind code).pstore = s.pstore := by
  obtain ⟨_, _, _, _, _, h⟩ := s.trigger_shape d source kind code; rw [h]
@[simp] theorem Chip.trigger_objs (s : Chip) (d : DieId) (source kind : Nat) (code : BitVec 16) : (s.trigger d source kind code).objs = s.objs := by
  obtain ⟨_, _, _, _, _, h⟩ := s.trigger_shape d source kind code; rw [h]
@[simp] theorem Chip.trigger_syncs (s : Chip) (d : DieId) (source kind : Nat) (code : BitVec 16) : (s.trigger d source kind code).syncs = s.syncs := by
  obtain ⟨_, _, _, _, _, h⟩ := s.trigger_shape d source kind code; rw [h]
@[simp] theorem Chip.trigger_cache (s : Chip) (d : DieId) (source kind : Nat) (code : BitVec 16) : (s.trigger d source kind code).cache = s.cache := by
  obtain ⟨_, _, _, _, _, h⟩ := s.trigger_shape d source kind code; rw [h]
@[simp] theorem Chip.trigger_recency (s : Chip) (d : DieId) (source kind : Nat) (code : BitVec 16) : (s.trigger d source kind code).recency = s.recency := by
  obtain ⟨_, _, _, _, _, h⟩ := s.trigger_shape d source kind code; rw [h]
@[simp] theorem Chip.trigger_hostCache (s : Chip) (d : DieId) (source kind : Nat) (code : BitVec 16) : (s.trigger d source kind code).hostCache = s.hostCache := by
  obtain ⟨_, _, _, _, _, h⟩ := s.trigger_shape d source kind code; rw [h]
@[simp] theorem Chip.trigger_scratch (s : Chip) (d : DieId) (source kind : Nat) (code : BitVec 16) : (s.trigger d source kind code).scratch = s.scratch := by
  obtain ⟨_, _, _, _, _, h⟩ := s.trigger_shape d source kind code; rw [h]
@[simp] theorem Chip.trigger_scratchErrors (s : Chip) (d : DieId) (source kind : Nat) (code : BitVec 16) : (s.trigger d source kind code).scratchErrors = s.scratchErrors := by
  obtain ⟨_, _, _, _, _, h⟩ := s.trigger_shape d source kind code; rw [h]
@[simp] theorem Chip.trigger_dram (s : Chip) (d : DieId) (source kind : Nat) (code : BitVec 16) : (s.trigger d source kind code).dram = s.dram := by
  obtain ⟨_, _, _, _, _, h⟩ := s.trigger_shape d source kind code; rw [h]
@[simp] theorem Chip.trigger_engineStore (s : Chip) (d : DieId) (source kind : Nat) (code : BitVec 16) : (s.trigger d source kind code).engineStore = s.engineStore := by
  obtain ⟨_, _, _, _, _, h⟩ := s.trigger_shape d source kind code; rw [h]
@[simp] theorem Chip.trigger_codeErrors (s : Chip) (d : DieId) (source kind : Nat) (code : BitVec 16) : (s.trigger d source kind code).codeErrors = s.codeErrors := by
  obtain ⟨_, _, _, _, _, h⟩ := s.trigger_shape d source kind code; rw [h]
@[simp] theorem Chip.trigger_fabric (s : Chip) (d : DieId) (source kind : Nat) (code : BitVec 16) : (s.trigger d source kind code).fabric = s.fabric := by
  obtain ⟨_, _, _, _, _, h⟩ := s.trigger_shape d source kind code; rw [h]
@[simp] theorem Chip.trigger_power (s : Chip) (d : DieId) (source kind : Nat) (code : BitVec 16) : (s.trigger d source kind code).power = s.power := by
  obtain ⟨_, _, _, _, _, h⟩ := s.trigger_shape d source kind code; rw [h]
@[simp] theorem Chip.trigger_traces (s : Chip) (d : DieId) (source kind : Nat) (code : BitVec 16) : (s.trigger d source kind code).traces = s.traces := by
  obtain ⟨_, _, _, _, _, h⟩ := s.trigger_shape d source kind code; rw [h]
@[simp] theorem Chip.trigger_authBuf (s : Chip) (d : DieId) (source kind : Nat) (code : BitVec 16) : (s.trigger d source kind code).authBuf = s.authBuf := by
  obtain ⟨_, _, _, _, _, h⟩ := s.trigger_shape d source kind code; rw [h]
@[simp] theorem Chip.trigger_ready (s : Chip) (d : DieId) (source kind : Nat) (code : BitVec 16) : (s.trigger d source kind code).ready = s.ready := by
  obtain ⟨_, _, _, _, _, h⟩ := s.trigger_shape d source kind code; rw [h]
@[simp] theorem Chip.trigger_out (s : Chip) (d : DieId) (source kind : Nat) (code : BitVec 16) : (s.trigger d source kind code).out = s.out := by
  obtain ⟨_, _, _, _, _, h⟩ := s.trigger_shape d source kind code; rw [h]
@[simp] theorem Chip.trigger_badRuns (s : Chip) (d : DieId) (source kind : Nat) (code : BitVec 16) : (s.trigger d source kind code).badRuns = s.badRuns := by
  obtain ⟨_, _, _, _, _, h⟩ := s.trigger_shape d source kind code; rw [h]
@[simp] theorem Chip.trigger_free (s : Chip) (d : DieId) (source kind : Nat) (code : BitVec 16) : (s.trigger d source kind code).free = s.free := by
  obtain ⟨_, _, _, _, _, h⟩ := s.trigger_shape d source kind code; rw [h]

/-! ## faultTrigger -/

/-- A fault code changes what a freeze changes. -/
theorem Chip.faultTrigger_shape (s : Chip) (b : Block) (code : FaultCode) : ∃ v0 v1 v2 v3 v4, s.faultTrigger b code = { s with dies := v0, harts := v1, stk := v2, ports := v3, link := v4 } := by
  unfold Chip.faultTrigger
  dsimp only
  split
  · exact Chip.trigger_shape s b.die 3 4 code
  · exact ⟨s.dies, s.harts, s.stk, s.ports, s.link, rfl⟩

@[simp] theorem Chip.faultTrigger_heads (s : Chip) (b : Block) (code : FaultCode) : (s.faultTrigger b code).heads = s.heads := by
  obtain ⟨_, _, _, _, _, h⟩ := s.faultTrigger_shape b code; rw [h]
@[simp] theorem Chip.faultTrigger_stagedLow (s : Chip) (b : Block) (code : FaultCode) : (s.faultTrigger b code).stagedLow = s.stagedLow := by
  obtain ⟨_, _, _, _, _, h⟩ := s.faultTrigger_shape b code; rw [h]
@[simp] theorem Chip.faultTrigger_latchedHigh (s : Chip) (b : Block) (code : FaultCode) : (s.faultTrigger b code).latchedHigh = s.latchedHigh := by
  obtain ⟨_, _, _, _, _, h⟩ := s.faultTrigger_shape b code; rw [h]
@[simp] theorem Chip.faultTrigger_clusters (s : Chip) (b : Block) (code : FaultCode) : (s.faultTrigger b code).clusters = s.clusters := by
  obtain ⟨_, _, _, _, _, h⟩ := s.faultTrigger_shape b code; rw [h]
@[simp] theorem Chip.faultTrigger_cores (s : Chip) (b : Block) (code : FaultCode) : (s.faultTrigger b code).cores = s.cores := by
  obtain ⟨_, _, _, _, _, h⟩ := s.faultTrigger_shape b code; rw [h]
@[simp] theorem Chip.faultTrigger_pstore (s : Chip) (b : Block) (code : FaultCode) : (s.faultTrigger b code).pstore = s.pstore := by
  obtain ⟨_, _, _, _, _, h⟩ := s.faultTrigger_shape b code; rw [h]
@[simp] theorem Chip.faultTrigger_objs (s : Chip) (b : Block) (code : FaultCode) : (s.faultTrigger b code).objs = s.objs := by
  obtain ⟨_, _, _, _, _, h⟩ := s.faultTrigger_shape b code; rw [h]
@[simp] theorem Chip.faultTrigger_syncs (s : Chip) (b : Block) (code : FaultCode) : (s.faultTrigger b code).syncs = s.syncs := by
  obtain ⟨_, _, _, _, _, h⟩ := s.faultTrigger_shape b code; rw [h]
@[simp] theorem Chip.faultTrigger_cache (s : Chip) (b : Block) (code : FaultCode) : (s.faultTrigger b code).cache = s.cache := by
  obtain ⟨_, _, _, _, _, h⟩ := s.faultTrigger_shape b code; rw [h]
@[simp] theorem Chip.faultTrigger_recency (s : Chip) (b : Block) (code : FaultCode) : (s.faultTrigger b code).recency = s.recency := by
  obtain ⟨_, _, _, _, _, h⟩ := s.faultTrigger_shape b code; rw [h]
@[simp] theorem Chip.faultTrigger_hostCache (s : Chip) (b : Block) (code : FaultCode) : (s.faultTrigger b code).hostCache = s.hostCache := by
  obtain ⟨_, _, _, _, _, h⟩ := s.faultTrigger_shape b code; rw [h]
@[simp] theorem Chip.faultTrigger_scratch (s : Chip) (b : Block) (code : FaultCode) : (s.faultTrigger b code).scratch = s.scratch := by
  obtain ⟨_, _, _, _, _, h⟩ := s.faultTrigger_shape b code; rw [h]
@[simp] theorem Chip.faultTrigger_scratchErrors (s : Chip) (b : Block) (code : FaultCode) : (s.faultTrigger b code).scratchErrors = s.scratchErrors := by
  obtain ⟨_, _, _, _, _, h⟩ := s.faultTrigger_shape b code; rw [h]
@[simp] theorem Chip.faultTrigger_dram (s : Chip) (b : Block) (code : FaultCode) : (s.faultTrigger b code).dram = s.dram := by
  obtain ⟨_, _, _, _, _, h⟩ := s.faultTrigger_shape b code; rw [h]
@[simp] theorem Chip.faultTrigger_engineStore (s : Chip) (b : Block) (code : FaultCode) : (s.faultTrigger b code).engineStore = s.engineStore := by
  obtain ⟨_, _, _, _, _, h⟩ := s.faultTrigger_shape b code; rw [h]
@[simp] theorem Chip.faultTrigger_codeErrors (s : Chip) (b : Block) (code : FaultCode) : (s.faultTrigger b code).codeErrors = s.codeErrors := by
  obtain ⟨_, _, _, _, _, h⟩ := s.faultTrigger_shape b code; rw [h]
@[simp] theorem Chip.faultTrigger_fabric (s : Chip) (b : Block) (code : FaultCode) : (s.faultTrigger b code).fabric = s.fabric := by
  obtain ⟨_, _, _, _, _, h⟩ := s.faultTrigger_shape b code; rw [h]
@[simp] theorem Chip.faultTrigger_power (s : Chip) (b : Block) (code : FaultCode) : (s.faultTrigger b code).power = s.power := by
  obtain ⟨_, _, _, _, _, h⟩ := s.faultTrigger_shape b code; rw [h]
@[simp] theorem Chip.faultTrigger_traces (s : Chip) (b : Block) (code : FaultCode) : (s.faultTrigger b code).traces = s.traces := by
  obtain ⟨_, _, _, _, _, h⟩ := s.faultTrigger_shape b code; rw [h]
@[simp] theorem Chip.faultTrigger_authBuf (s : Chip) (b : Block) (code : FaultCode) : (s.faultTrigger b code).authBuf = s.authBuf := by
  obtain ⟨_, _, _, _, _, h⟩ := s.faultTrigger_shape b code; rw [h]
@[simp] theorem Chip.faultTrigger_ready (s : Chip) (b : Block) (code : FaultCode) : (s.faultTrigger b code).ready = s.ready := by
  obtain ⟨_, _, _, _, _, h⟩ := s.faultTrigger_shape b code; rw [h]
@[simp] theorem Chip.faultTrigger_out (s : Chip) (b : Block) (code : FaultCode) : (s.faultTrigger b code).out = s.out := by
  obtain ⟨_, _, _, _, _, h⟩ := s.faultTrigger_shape b code; rw [h]
@[simp] theorem Chip.faultTrigger_badRuns (s : Chip) (b : Block) (code : FaultCode) : (s.faultTrigger b code).badRuns = s.badRuns := by
  obtain ⟨_, _, _, _, _, h⟩ := s.faultTrigger_shape b code; rw [h]
@[simp] theorem Chip.faultTrigger_free (s : Chip) (b : Block) (code : FaultCode) : (s.faultTrigger b code).free = s.free := by
  obtain ⟨_, _, _, _, _, h⟩ := s.faultTrigger_shape b code; rw [h]

/-! ## err -/

/-- An error changes its head, and what a freeze changes. -/
theorem Chip.err_shape (s : Chip) (b : Block) (e : ErrorInfo) : ∃ v0 v1 v2 v3 v4 v5, s.err b e = { s with heads := v0, dies := v1, harts := v2, stk := v3, ports := v4, link := v5 } := by
  obtain ⟨v, w, x, y, z, h⟩ := Chip.faultTrigger_shape (s.updHead b fun h => h.record e) b e.code
  exact ⟨_, v, w, x, y, z, h⟩

@[simp] theorem Chip.err_stagedLow (s : Chip) (b : Block) (e : ErrorInfo) : (s.err b e).stagedLow = s.stagedLow := by
  obtain ⟨_, _, _, _, _, _, h⟩ := s.err_shape b e; rw [h]
@[simp] theorem Chip.err_latchedHigh (s : Chip) (b : Block) (e : ErrorInfo) : (s.err b e).latchedHigh = s.latchedHigh := by
  obtain ⟨_, _, _, _, _, _, h⟩ := s.err_shape b e; rw [h]
@[simp] theorem Chip.err_clusters (s : Chip) (b : Block) (e : ErrorInfo) : (s.err b e).clusters = s.clusters := by
  obtain ⟨_, _, _, _, _, _, h⟩ := s.err_shape b e; rw [h]
@[simp] theorem Chip.err_cores (s : Chip) (b : Block) (e : ErrorInfo) : (s.err b e).cores = s.cores := by
  obtain ⟨_, _, _, _, _, _, h⟩ := s.err_shape b e; rw [h]
@[simp] theorem Chip.err_pstore (s : Chip) (b : Block) (e : ErrorInfo) : (s.err b e).pstore = s.pstore := by
  obtain ⟨_, _, _, _, _, _, h⟩ := s.err_shape b e; rw [h]
@[simp] theorem Chip.err_objs (s : Chip) (b : Block) (e : ErrorInfo) : (s.err b e).objs = s.objs := by
  obtain ⟨_, _, _, _, _, _, h⟩ := s.err_shape b e; rw [h]
@[simp] theorem Chip.err_syncs (s : Chip) (b : Block) (e : ErrorInfo) : (s.err b e).syncs = s.syncs := by
  obtain ⟨_, _, _, _, _, _, h⟩ := s.err_shape b e; rw [h]
@[simp] theorem Chip.err_cache (s : Chip) (b : Block) (e : ErrorInfo) : (s.err b e).cache = s.cache := by
  obtain ⟨_, _, _, _, _, _, h⟩ := s.err_shape b e; rw [h]
@[simp] theorem Chip.err_recency (s : Chip) (b : Block) (e : ErrorInfo) : (s.err b e).recency = s.recency := by
  obtain ⟨_, _, _, _, _, _, h⟩ := s.err_shape b e; rw [h]
@[simp] theorem Chip.err_hostCache (s : Chip) (b : Block) (e : ErrorInfo) : (s.err b e).hostCache = s.hostCache := by
  obtain ⟨_, _, _, _, _, _, h⟩ := s.err_shape b e; rw [h]
@[simp] theorem Chip.err_scratch (s : Chip) (b : Block) (e : ErrorInfo) : (s.err b e).scratch = s.scratch := by
  obtain ⟨_, _, _, _, _, _, h⟩ := s.err_shape b e; rw [h]
@[simp] theorem Chip.err_scratchErrors (s : Chip) (b : Block) (e : ErrorInfo) : (s.err b e).scratchErrors = s.scratchErrors := by
  obtain ⟨_, _, _, _, _, _, h⟩ := s.err_shape b e; rw [h]
@[simp] theorem Chip.err_dram (s : Chip) (b : Block) (e : ErrorInfo) : (s.err b e).dram = s.dram := by
  obtain ⟨_, _, _, _, _, _, h⟩ := s.err_shape b e; rw [h]
@[simp] theorem Chip.err_engineStore (s : Chip) (b : Block) (e : ErrorInfo) : (s.err b e).engineStore = s.engineStore := by
  obtain ⟨_, _, _, _, _, _, h⟩ := s.err_shape b e; rw [h]
@[simp] theorem Chip.err_codeErrors (s : Chip) (b : Block) (e : ErrorInfo) : (s.err b e).codeErrors = s.codeErrors := by
  obtain ⟨_, _, _, _, _, _, h⟩ := s.err_shape b e; rw [h]
@[simp] theorem Chip.err_fabric (s : Chip) (b : Block) (e : ErrorInfo) : (s.err b e).fabric = s.fabric := by
  obtain ⟨_, _, _, _, _, _, h⟩ := s.err_shape b e; rw [h]
@[simp] theorem Chip.err_power (s : Chip) (b : Block) (e : ErrorInfo) : (s.err b e).power = s.power := by
  obtain ⟨_, _, _, _, _, _, h⟩ := s.err_shape b e; rw [h]
@[simp] theorem Chip.err_traces (s : Chip) (b : Block) (e : ErrorInfo) : (s.err b e).traces = s.traces := by
  obtain ⟨_, _, _, _, _, _, h⟩ := s.err_shape b e; rw [h]
@[simp] theorem Chip.err_authBuf (s : Chip) (b : Block) (e : ErrorInfo) : (s.err b e).authBuf = s.authBuf := by
  obtain ⟨_, _, _, _, _, _, h⟩ := s.err_shape b e; rw [h]
@[simp] theorem Chip.err_ready (s : Chip) (b : Block) (e : ErrorInfo) : (s.err b e).ready = s.ready := by
  obtain ⟨_, _, _, _, _, _, h⟩ := s.err_shape b e; rw [h]
@[simp] theorem Chip.err_out (s : Chip) (b : Block) (e : ErrorInfo) : (s.err b e).out = s.out := by
  obtain ⟨_, _, _, _, _, _, h⟩ := s.err_shape b e; rw [h]
@[simp] theorem Chip.err_badRuns (s : Chip) (b : Block) (e : ErrorInfo) : (s.err b e).badRuns = s.badRuns := by
  obtain ⟨_, _, _, _, _, _, h⟩ := s.err_shape b e; rw [h]
@[simp] theorem Chip.err_free (s : Chip) (b : Block) (e : ErrorInfo) : (s.err b e).free = s.free := by
  obtain ⟨_, _, _, _, _, _, h⟩ := s.err_shape b e; rw [h]

/-! ## errAll -/

/-- The errors of one handshake change their head, and what a freeze changes. -/
theorem Chip.errAll_shape (s : Chip) (b : Block) (es : List ErrorInfo) : ∃ v0 v1 v2 v3 v4 v5, s.errAll b es = { s with heads := v0, dies := v1, harts := v2, stk := v3, ports := v4, link := v5 } := by
  have a : ∀ (l : List ErrorInfo) (s : Chip), ∃ v w x y z,
      l.foldl (fun s e => s.faultTrigger b e.code) s = { s with dies := v, harts := w, stk := x, ports := y, link := z } := by
    intro l
    induction l with
    | nil => intro s; exact ⟨_, _, _, _, _, rfl⟩
    | cons e t ih =>
      intro s
      obtain ⟨v, w, x, y, z, h⟩ := Chip.faultTrigger_shape s b e.code
      rw [List.foldl_cons, h]
      obtain ⟨v', w', x', y', z', h'⟩ := ih { s with dies := v, harts := w, stk := x, ports := y, link := z }
      exact ⟨v', w', x', y', z', h'⟩
  unfold Chip.errAll
  split
  · exact ⟨s.heads, s.dies, s.harts, s.stk, s.ports, s.link, rfl⟩
  · obtain ⟨v, w, x, y, z, h⟩ := a es (s.updHead b fun h => h.recordAll es)
    exact ⟨_, v, w, x, y, z, h⟩

@[simp] theorem Chip.errAll_stagedLow (s : Chip) (b : Block) (es : List ErrorInfo) : (s.errAll b es).stagedLow = s.stagedLow := by
  obtain ⟨_, _, _, _, _, _, h⟩ := s.errAll_shape b es; rw [h]
@[simp] theorem Chip.errAll_latchedHigh (s : Chip) (b : Block) (es : List ErrorInfo) : (s.errAll b es).latchedHigh = s.latchedHigh := by
  obtain ⟨_, _, _, _, _, _, h⟩ := s.errAll_shape b es; rw [h]
@[simp] theorem Chip.errAll_clusters (s : Chip) (b : Block) (es : List ErrorInfo) : (s.errAll b es).clusters = s.clusters := by
  obtain ⟨_, _, _, _, _, _, h⟩ := s.errAll_shape b es; rw [h]
@[simp] theorem Chip.errAll_cores (s : Chip) (b : Block) (es : List ErrorInfo) : (s.errAll b es).cores = s.cores := by
  obtain ⟨_, _, _, _, _, _, h⟩ := s.errAll_shape b es; rw [h]
@[simp] theorem Chip.errAll_pstore (s : Chip) (b : Block) (es : List ErrorInfo) : (s.errAll b es).pstore = s.pstore := by
  obtain ⟨_, _, _, _, _, _, h⟩ := s.errAll_shape b es; rw [h]
@[simp] theorem Chip.errAll_objs (s : Chip) (b : Block) (es : List ErrorInfo) : (s.errAll b es).objs = s.objs := by
  obtain ⟨_, _, _, _, _, _, h⟩ := s.errAll_shape b es; rw [h]
@[simp] theorem Chip.errAll_syncs (s : Chip) (b : Block) (es : List ErrorInfo) : (s.errAll b es).syncs = s.syncs := by
  obtain ⟨_, _, _, _, _, _, h⟩ := s.errAll_shape b es; rw [h]
@[simp] theorem Chip.errAll_cache (s : Chip) (b : Block) (es : List ErrorInfo) : (s.errAll b es).cache = s.cache := by
  obtain ⟨_, _, _, _, _, _, h⟩ := s.errAll_shape b es; rw [h]
@[simp] theorem Chip.errAll_recency (s : Chip) (b : Block) (es : List ErrorInfo) : (s.errAll b es).recency = s.recency := by
  obtain ⟨_, _, _, _, _, _, h⟩ := s.errAll_shape b es; rw [h]
@[simp] theorem Chip.errAll_hostCache (s : Chip) (b : Block) (es : List ErrorInfo) : (s.errAll b es).hostCache = s.hostCache := by
  obtain ⟨_, _, _, _, _, _, h⟩ := s.errAll_shape b es; rw [h]
@[simp] theorem Chip.errAll_scratch (s : Chip) (b : Block) (es : List ErrorInfo) : (s.errAll b es).scratch = s.scratch := by
  obtain ⟨_, _, _, _, _, _, h⟩ := s.errAll_shape b es; rw [h]
@[simp] theorem Chip.errAll_scratchErrors (s : Chip) (b : Block) (es : List ErrorInfo) : (s.errAll b es).scratchErrors = s.scratchErrors := by
  obtain ⟨_, _, _, _, _, _, h⟩ := s.errAll_shape b es; rw [h]
@[simp] theorem Chip.errAll_dram (s : Chip) (b : Block) (es : List ErrorInfo) : (s.errAll b es).dram = s.dram := by
  obtain ⟨_, _, _, _, _, _, h⟩ := s.errAll_shape b es; rw [h]
@[simp] theorem Chip.errAll_engineStore (s : Chip) (b : Block) (es : List ErrorInfo) : (s.errAll b es).engineStore = s.engineStore := by
  obtain ⟨_, _, _, _, _, _, h⟩ := s.errAll_shape b es; rw [h]
@[simp] theorem Chip.errAll_codeErrors (s : Chip) (b : Block) (es : List ErrorInfo) : (s.errAll b es).codeErrors = s.codeErrors := by
  obtain ⟨_, _, _, _, _, _, h⟩ := s.errAll_shape b es; rw [h]
@[simp] theorem Chip.errAll_fabric (s : Chip) (b : Block) (es : List ErrorInfo) : (s.errAll b es).fabric = s.fabric := by
  obtain ⟨_, _, _, _, _, _, h⟩ := s.errAll_shape b es; rw [h]
@[simp] theorem Chip.errAll_power (s : Chip) (b : Block) (es : List ErrorInfo) : (s.errAll b es).power = s.power := by
  obtain ⟨_, _, _, _, _, _, h⟩ := s.errAll_shape b es; rw [h]
@[simp] theorem Chip.errAll_traces (s : Chip) (b : Block) (es : List ErrorInfo) : (s.errAll b es).traces = s.traces := by
  obtain ⟨_, _, _, _, _, _, h⟩ := s.errAll_shape b es; rw [h]
@[simp] theorem Chip.errAll_authBuf (s : Chip) (b : Block) (es : List ErrorInfo) : (s.errAll b es).authBuf = s.authBuf := by
  obtain ⟨_, _, _, _, _, _, h⟩ := s.errAll_shape b es; rw [h]
@[simp] theorem Chip.errAll_ready (s : Chip) (b : Block) (es : List ErrorInfo) : (s.errAll b es).ready = s.ready := by
  obtain ⟨_, _, _, _, _, _, h⟩ := s.errAll_shape b es; rw [h]
@[simp] theorem Chip.errAll_out (s : Chip) (b : Block) (es : List ErrorInfo) : (s.errAll b es).out = s.out := by
  obtain ⟨_, _, _, _, _, _, h⟩ := s.errAll_shape b es; rw [h]
@[simp] theorem Chip.errAll_badRuns (s : Chip) (b : Block) (es : List ErrorInfo) : (s.errAll b es).badRuns = s.badRuns := by
  obtain ⟨_, _, _, _, _, _, h⟩ := s.errAll_shape b es; rw [h]
@[simp] theorem Chip.errAll_free (s : Chip) (b : Block) (es : List ErrorInfo) : (s.errAll b es).free = s.free := by
  obtain ⟨_, _, _, _, _, _, h⟩ := s.errAll_shape b es; rw [h]

/-! ## emit -/

/-- A record changes its trace unit, and what a freeze changes. -/
theorem Chip.emit_shape (s : Chip) (d : DieId) (dome : DomeId) (source : Nat) (r : TraceRec) : ∃ v0 v1 v2 v3 v4 v5, s.emit d dome source r = { s with dies := v0, harts := v1, stk := v2, ports := v3, link := v4, traces := v5 } := by
  unfold Chip.emit
  dsimp only
  split
  · exact ⟨s.dies, s.harts, s.stk, s.ports, s.link, s.traces, rfl⟩
  · split
    · obtain ⟨v, w, x, y, z, h⟩ := Chip.trigger_shape (s.updTrace dome fun u => { u with queue := u.queue ++ [r] }) d 2 3 r.tag
      exact ⟨v, w, x, y, z, _, h⟩
    · exact ⟨s.dies, s.harts, s.stk, s.ports, s.link, _, rfl⟩

@[simp] theorem Chip.emit_heads (s : Chip) (d : DieId) (dome : DomeId) (source : Nat) (r : TraceRec) : (s.emit d dome source r).heads = s.heads := by
  obtain ⟨_, _, _, _, _, _, h⟩ := s.emit_shape d dome source r; rw [h]
@[simp] theorem Chip.emit_stagedLow (s : Chip) (d : DieId) (dome : DomeId) (source : Nat) (r : TraceRec) : (s.emit d dome source r).stagedLow = s.stagedLow := by
  obtain ⟨_, _, _, _, _, _, h⟩ := s.emit_shape d dome source r; rw [h]
@[simp] theorem Chip.emit_latchedHigh (s : Chip) (d : DieId) (dome : DomeId) (source : Nat) (r : TraceRec) : (s.emit d dome source r).latchedHigh = s.latchedHigh := by
  obtain ⟨_, _, _, _, _, _, h⟩ := s.emit_shape d dome source r; rw [h]
@[simp] theorem Chip.emit_clusters (s : Chip) (d : DieId) (dome : DomeId) (source : Nat) (r : TraceRec) : (s.emit d dome source r).clusters = s.clusters := by
  obtain ⟨_, _, _, _, _, _, h⟩ := s.emit_shape d dome source r; rw [h]
@[simp] theorem Chip.emit_cores (s : Chip) (d : DieId) (dome : DomeId) (source : Nat) (r : TraceRec) : (s.emit d dome source r).cores = s.cores := by
  obtain ⟨_, _, _, _, _, _, h⟩ := s.emit_shape d dome source r; rw [h]
@[simp] theorem Chip.emit_pstore (s : Chip) (d : DieId) (dome : DomeId) (source : Nat) (r : TraceRec) : (s.emit d dome source r).pstore = s.pstore := by
  obtain ⟨_, _, _, _, _, _, h⟩ := s.emit_shape d dome source r; rw [h]
@[simp] theorem Chip.emit_objs (s : Chip) (d : DieId) (dome : DomeId) (source : Nat) (r : TraceRec) : (s.emit d dome source r).objs = s.objs := by
  obtain ⟨_, _, _, _, _, _, h⟩ := s.emit_shape d dome source r; rw [h]
@[simp] theorem Chip.emit_syncs (s : Chip) (d : DieId) (dome : DomeId) (source : Nat) (r : TraceRec) : (s.emit d dome source r).syncs = s.syncs := by
  obtain ⟨_, _, _, _, _, _, h⟩ := s.emit_shape d dome source r; rw [h]
@[simp] theorem Chip.emit_cache (s : Chip) (d : DieId) (dome : DomeId) (source : Nat) (r : TraceRec) : (s.emit d dome source r).cache = s.cache := by
  obtain ⟨_, _, _, _, _, _, h⟩ := s.emit_shape d dome source r; rw [h]
@[simp] theorem Chip.emit_recency (s : Chip) (d : DieId) (dome : DomeId) (source : Nat) (r : TraceRec) : (s.emit d dome source r).recency = s.recency := by
  obtain ⟨_, _, _, _, _, _, h⟩ := s.emit_shape d dome source r; rw [h]
@[simp] theorem Chip.emit_hostCache (s : Chip) (d : DieId) (dome : DomeId) (source : Nat) (r : TraceRec) : (s.emit d dome source r).hostCache = s.hostCache := by
  obtain ⟨_, _, _, _, _, _, h⟩ := s.emit_shape d dome source r; rw [h]
@[simp] theorem Chip.emit_scratch (s : Chip) (d : DieId) (dome : DomeId) (source : Nat) (r : TraceRec) : (s.emit d dome source r).scratch = s.scratch := by
  obtain ⟨_, _, _, _, _, _, h⟩ := s.emit_shape d dome source r; rw [h]
@[simp] theorem Chip.emit_scratchErrors (s : Chip) (d : DieId) (dome : DomeId) (source : Nat) (r : TraceRec) : (s.emit d dome source r).scratchErrors = s.scratchErrors := by
  obtain ⟨_, _, _, _, _, _, h⟩ := s.emit_shape d dome source r; rw [h]
@[simp] theorem Chip.emit_dram (s : Chip) (d : DieId) (dome : DomeId) (source : Nat) (r : TraceRec) : (s.emit d dome source r).dram = s.dram := by
  obtain ⟨_, _, _, _, _, _, h⟩ := s.emit_shape d dome source r; rw [h]
@[simp] theorem Chip.emit_engineStore (s : Chip) (d : DieId) (dome : DomeId) (source : Nat) (r : TraceRec) : (s.emit d dome source r).engineStore = s.engineStore := by
  obtain ⟨_, _, _, _, _, _, h⟩ := s.emit_shape d dome source r; rw [h]
@[simp] theorem Chip.emit_codeErrors (s : Chip) (d : DieId) (dome : DomeId) (source : Nat) (r : TraceRec) : (s.emit d dome source r).codeErrors = s.codeErrors := by
  obtain ⟨_, _, _, _, _, _, h⟩ := s.emit_shape d dome source r; rw [h]
@[simp] theorem Chip.emit_fabric (s : Chip) (d : DieId) (dome : DomeId) (source : Nat) (r : TraceRec) : (s.emit d dome source r).fabric = s.fabric := by
  obtain ⟨_, _, _, _, _, _, h⟩ := s.emit_shape d dome source r; rw [h]
@[simp] theorem Chip.emit_power (s : Chip) (d : DieId) (dome : DomeId) (source : Nat) (r : TraceRec) : (s.emit d dome source r).power = s.power := by
  obtain ⟨_, _, _, _, _, _, h⟩ := s.emit_shape d dome source r; rw [h]
@[simp] theorem Chip.emit_authBuf (s : Chip) (d : DieId) (dome : DomeId) (source : Nat) (r : TraceRec) : (s.emit d dome source r).authBuf = s.authBuf := by
  obtain ⟨_, _, _, _, _, _, h⟩ := s.emit_shape d dome source r; rw [h]
@[simp] theorem Chip.emit_ready (s : Chip) (d : DieId) (dome : DomeId) (source : Nat) (r : TraceRec) : (s.emit d dome source r).ready = s.ready := by
  obtain ⟨_, _, _, _, _, _, h⟩ := s.emit_shape d dome source r; rw [h]
@[simp] theorem Chip.emit_out (s : Chip) (d : DieId) (dome : DomeId) (source : Nat) (r : TraceRec) : (s.emit d dome source r).out = s.out := by
  obtain ⟨_, _, _, _, _, _, h⟩ := s.emit_shape d dome source r; rw [h]
@[simp] theorem Chip.emit_badRuns (s : Chip) (d : DieId) (dome : DomeId) (source : Nat) (r : TraceRec) : (s.emit d dome source r).badRuns = s.badRuns := by
  obtain ⟨_, _, _, _, _, _, h⟩ := s.emit_shape d dome source r; rw [h]
@[simp] theorem Chip.emit_free (s : Chip) (d : DieId) (dome : DomeId) (source : Nat) (r : TraceRec) : (s.emit d dome source r).free = s.free := by
  obtain ⟨_, _, _, _, _, _, h⟩ := s.emit_shape d dome source r; rw [h]

end Sys2Proof.Machine
end

