-- ==== Sys2Proof/Laws/Memory.lean ====
section
/-! SUPPORT. The memory operations of the blocks keep the canonical form; what scratchpads, engine stores and codewords read after a write. -/

namespace Sys2Proof.Machine

open Host

/-! ## The canonical form is kept -/

/-- Mending the codewords that a write touches keeps the scratchpads' form. -/
theorem Chip.mendScratch_wf (s : Chip) (lo n : Nat) (h : s.scratch.wf = true) : (s.mendScratch lo n).scratch.wf = true := by
  unfold Chip.mendScratch
  generalize s.scratchErrors.filter (fun e => decide (lo < e.1 * 64 + 64) && decide (e.1 * 64 < lo + n)) = l
  induction l generalizing s with
  | nil => exact h
  | cons e t ih =>
    rw [List.foldl_cons]
    apply ih
    dsimp only
    split
    · exact Memory.putBytes_wf _ _ _ h
    · split <;> exact h

theorem Chip.scratchWrite_wf (s : Chip) (k : CoreId) (off : Nat) (bs : List Byte) (h : s.scratch.wf = true) : (s.scratchWrite k off bs).scratch.wf = true := by
  refine Memory.putBytes_wf _ _ _ ?_
  split
  · exact h
  · exact s.mendScratch_wf _ _ h

/-- With every codeword clean a write stores its bytes and nothing else, and a read finds no fault. -/
theorem Chip.scratchWrite_clean (s : Chip) (k : CoreId) (off : Nat) (bs : List Byte) (h : s.scratchErrors = []) :
    s.scratchWrite k off bs = { s with scratch := s.scratch.putBytes (scratchKey k off) bs } := by
  rw [Chip.scratchWrite, if_pos h]

theorem Chip.scratchRead_clean (s : Chip) (k : CoreId) (off n : Nat) (h : s.scratchErrors = []) : s.scratchRead k off n = s.scratch.bytes (scratchKey k off) n := by
  rw [Chip.scratchRead, if_pos h]

theorem Chip.scratchBad_clean (s : Chip) (k : CoreId) (off n : Nat) (h : s.scratchErrors = []) : s.scratchBad k off n = none := by
  rw [Chip.scratchBad, if_pos h]

/-- With every codeword clean an engine's step is guarded by nothing. -/
theorem Chip.guarded_clean {α : Type} (s : Chip) (k : CoreId) (step : Chip → Chip × α) (fault : FaultCode → Chip × α) (h : s.scratchErrors = []) :
    s.guarded k step fault = step s := by
  rw [Chip.guarded, if_pos h]

theorem Chip.storeWrite_wf (s : Chip) (t : StackId) (e : Fin 32) (off : Nat) (bs : List Byte) (h : s.engineStore.wf = true) : (s.storeWrite t e off bs).engineStore.wf = true :=
  Memory.putBytes_wf _ _ _ h

theorem Chip.storeClear_wf (s : Chip) (t : StackId) (e : Fin 32) (h : s.engineStore.wf = true) : (s.storeClear t e).engineStore.wf = true :=
  Memory.clear_wf _ _ _ h

theorem Chip.writeCodeword_wf (s : Chip) (t : StackId) (a : Nat) (bs : List Byte) (h : s.dram.wf = true) : (s.writeCodeword t a bs).dram.wf = true :=
  Memory.putBytes_wf _ _ _ h

theorem Chip.stackFill_wf (t : StackId) (s : Chip) (h : s.dram.wf = true) : (s.stackFill t).dram.wf = true := by
  unfold Chip.stackFill
  dsimp only
  split
  · exact h
  · exact Memory.clear_wf _ _ _ h

theorem copyWrite_wf (s : Chip) (host : Memory) (f : HostFn) (op : CopyOp) (a : Nat) (bs : List Byte) (h : host.wf = true) : (copyWrite s host f op a bs).2.wf = true := by
  unfold copyWrite
  split
  · exact h
  · exact Memory.putBytes_wf _ _ _ h

/-- What firmware writes in the host's memory keeps its form. -/
theorem Reach.writeAt_wf (r : Reach) (d : DieId) (host : Option HostFn) (a : Nat) (bs : List Byte) (h : r.host.wf = true) : (r.writeAt d host a bs).1.host.wf = true := by
  unfold Reach.writeAt
  cases host with
  | none => exact h
  | some f =>
    dsimp only
    split
    · exact Memory.putBytes_wf _ _ _ h
    · exact h

/-! ## Read after write -/

/-- A core's scratchpad reads what was written. -/
theorem Chip.scratchRead_scratchWrite (s : Chip) (k : CoreId) (off : Nat) (bs : List Byte) (h : s.scratchErrors = []) : (s.scratchWrite k off bs).scratchRead k off bs.length = bs := by
  simp only [Chip.scratchWrite, Chip.scratchRead, h, if_true, Memory.bytes_putBytes]

/-- A write of a scratchpad leaves every byte outside it. -/
theorem Chip.scratchWrite_outside (s : Chip) (k : CoreId) (off : Nat) (bs : List Byte) (a : Nat) (hc : s.scratchErrors = []) (h : a < scratchKey k off ∨ scratchKey k off + bs.length ≤ a) :
    (s.scratchWrite k off bs).scratch.byte a = s.scratch.byte a := by
  rw [s.scratchWrite_clean k off bs hc]
  exact Memory.byte_putBytes_outside _ _ _ _ h

theorem Chip.storeRead_storeWrite (s : Chip) (t : StackId) (e : Fin 32) (off : Nat) (bs : List Byte) : (s.storeWrite t e off bs).storeRead t e off bs.length = bs :=
  Memory.bytes_putBytes _ _ _

/-- A codeword's write leaves every byte of DRAM outside it. -/
theorem Chip.writeCodeword_outside (s : Chip) (t : StackId) (a : Nat) (bs : List Byte) (x : Nat)
    (h : x < dramKey t ((s.stack t).phys (a / 64 * 64)) ∨ dramKey t ((s.stack t).phys (a / 64 * 64)) + bs.length ≤ x) :
    (s.writeCodeword t a bs).dram.byte x = s.dram.byte x :=
  Memory.byte_putBytes_outside _ _ _ _ h

/-- Two offsets of scratchpads have one key only when core and offset agree. -/
theorem scratchKey_inj (k j : CoreId) (a b : Nat) (ha : a < 2 ^ 23) (hb : b < 2 ^ 23) (h : scratchKey k a = scratchKey j b) : k = j ∧ a = b := by
  obtain ⟨⟨kd, hkd⟩, ⟨ki, hki⟩⟩ := k
  obtain ⟨⟨jd, hjd⟩, ⟨ji, hji⟩⟩ := j
  simp only [scratchKey] at h
  have e : kd = jd ∧ ki = ji ∧ a = b := by omega
  obtain ⟨rfl, rfl, rfl⟩ := e
  exact ⟨rfl, rfl⟩

/-- Two bytes of stacks have one key only when stack and address agree. -/
theorem dramKey_inj (t u : StackId) (a b : Nat) (ha : a < 2 ^ 36) (hb : b < 2 ^ 36) (h : dramKey t a = dramKey u b) : t = u ∧ a = b := by
  simp only [dramKey] at h
  exact ⟨Fin.ext (by omega), by omega⟩

end Sys2Proof.Machine
end

