-- ==== Sys2Proof/WellFormed.lean ====
section
/-! DEFINITION. Operands that a sender of commands can form: lengths and counts that the spec's tables fix and the operands' types do not. A meaning is total and runs on other operands too. -/

namespace Sys2Proof

/-- An access carries at least one byte (R63). -/
def PortholeReq.sound (x : PortholeReq) : Bool := match x.data with
  | some bs => decide (0 < bs.length)
  | none => decide (0 < x.len)

/-- An access carries at least one byte (R183). -/
def StackReq.sound (x : StackReq) : Bool := match x.data with
  | some bs => decide (0 < bs.length)
  | none => decide (0 < x.len)

/-- A packet that carries data has as many bytes as its LEN says (R357). -/
def FabricReq.dataMatches (m : FabricReq) : Bool := decide (m.data.length = m.lenM1.toNat + 1)

/-- STORE and REDUCE carry data (R357). -/
def FabricMsg.sound : FabricMsg → Bool
  | .req m => if m.op = 2 ∨ m.op = 3 then m.dataMatches else true
  | .rsp _ => true
  | .mgmt _ => true

/-- The BAR2 sizes of R368. -/
def ConfigOp.sound : ConfigOp → Bool
  | .bar2Size n => decide (28 ≤ n) && decide (n ≤ 36)
  | .read _ | .msixEnable _ | .vfEnable _ | .d3hot _ | .ideRequire _ _ _ | .other _ => true

/-- The sensors of a thermal sample: 64 of a compute die, 24 of a stack (R445); 1,284 readings in all (R385); 1,024 queues (R313). -/
def Instr.wellFormed : Instr → Bool
  | .portholeAccess _ _ x => x.sound
  | .mainPathAccess _ x => x.sound
  | .slitAccess _ x => x.sound
  | .postedReduction _ x => decide (0 < x.data.length)
  | .stackSensorSample _ r => decide (r.length = 24)
  | .thermalSample _ r => decide (r.length = 64)
  | .dataFlit _ _ _ _ ms => ms.all FabricMsg.sound
  | .remoteStore _ m => m.dataMatches
  | .remoteReduce _ m => m.dataMatches
  | .configRequest _ x => x.sound
  | .bar2Read _ _ n => decide (1 ≤ n)
  | .bar2Write _ _ bs _ => decide (0 < bs.length)
  | .queueDoorbell _ pg _ n _ => decide (pg < 1024) && [1, 2, 4, 8].contains n
  | .ideKm _ _ _ r => r.all (fun e => decide (e.1.toNat ≤ e.2.toNat))
  | .pldmPlatformMonitoring n => decide (n < 1284)
  | .rowReports _ l => l.all (fun x => decide (x.path.length = 16))
  | .hostLinkUp _ w v => [1, 2, 4, 8, 16].contains w.toNat && decide (v.toNat ≤ 3)
  | .nop _ | .endStep _ | .trace _ | .add _ | .sub _ | .and _ | .or _ | .xor _ | .sll _ | .srl _ | .sra _ | .mul _ | .mulhu _ | .slt _ | .sltu _
  | .min _ | .max _ | .minu _ | .maxu _ | .addi _ | .andi _ | .ori _ | .xori _ | .slli _ | .srli _ | .srai _ | .li _ | .lih _ | .beq _ | .bne _
  | .blt _ | .bge _ | .bltu _ | .bgeu _ | .jmp _ | .setlc _ | .loop _ | .rdlc _ | .rdit _ | .setmask _ | .rdmask _ | .rdbeat _ | .setad _ | .rdad _
  | .wait _ | .waitSatisfied _ | .seqSignal _ | .issue _ | .beat _ | .emptySlot _ | .stepCompletion _ | .mma _ | .mscale _ | .tqDrop _ | .tqClear _
  | .vadd _ | .vsub _ | .vmul _ | .vfma _ | .vmax _ | .vmin _ | .vexp2 _ | .vlog2 _ | .vrcp _ | .vrsqrt _ | .vtanh _ | .vgelu _ | .vcvt _ | .vredsum _
  | .vredmax _ | .vmaskCmp _ | .vmaskLd _ | .vseed _ | .vflags _ | .dmaLoad _ | .dmaStore _ | .dmaCopy _ | .dmaT2d _ | .deAccessResponse _
  | .deComplete _ | .stepGo _ | .abort _ | .ownerWrite _ _ | .pstoreDataWrite _ _ | .tfenceGo _ | .tfenceDone _ | .regionEntryWrite _ _ _ _
  | .fetchingAtomic _ _ | .reductionPerform _ | .stackCacheClean _ | .stackCacheInval _ | .stackCacheCleanInval _ | .cleanInvalAll _ | .rangeDone _
  | .stackOnlineWrite _ _ | .loopbackWrite _ _ | .lbRun _ _ | .lbErrCountRead _ | .stackSelfRefresh _ | .stackDomainOff _ | .stackFill _
  | .refreshInterval _ | .refreshServe _ _ | .forcedRefresh _ _ | .slotCtrlWrite _ _ _ | .slotRunSeqWrite _ _ _ | .runStart _ _ | .runEnd _ _
  | .unitReset _ | .labInvalAll _ | .labInval _ _ | .labInvalComplete _ | .microprogramWordWrite _ _ _ _ _ | .seti _ | .alu _ | .br _ | .ld _ | .st _
  | .rep _ | .ldv _ | .stv _ | .vop _ | .exp2 _ | .dot _ | .acc _ | .maxred _ | .sumred _ | .fold _ | .fill _ | .rowOpen _ | .stream _ | .stash _
  | .write _ | .yield _ | .page _ | .fetch _ | .send _ | .kvCompact _ | .delta _ | .ulzEnd _ | .objRead _ _ | .objSignal _ _ _ _ | .objSet _ _ _
  | .objArm _ _ _ | .objDisarm _ _ | .clearAll _ | .noteRead _ | .notificationForward _ | .hartMemoryAccess _ _ | .hartAmo _ _ | .hartFence _ _ _
  | .cboClean _ _ | .cboFlush _ _ | .cboInval _ _ | .lr _ _ _ _ | .sc _ _ _ _ _ | .hostcoreRun _ _ | .hostcoreReset _ _ | .scrubBurst _ _
  | .scrubStall _ | .poisonGo _ | .poisonDone _ | .retireGo _ | .retireCopy _ | .ceLogRead _ | .coreRestart _ | .ringRestart _ | .stackTripCleared _
  | .uvlo | .ovlo | .lockoutClear | .pwrAlert | .pwrAlertClear | .envelopeCheck _ | .pointWrite _ _ | .eventsRead | .portEnable _ | .retrain _
  | .widen _ | .detectProbe _ _ | .equaliseTimeout _ _ | .trainingTimeout _ | .idleFlit _ _ _ _ | .ctrlFlit _ _ _ | .finderFrame _ _ | .finderSend _
  | .finderLost _ | .mgmtGo | .mgmtRead _ _ | .mgmtWrite _ _ | .mgmtResponse _ _ | .mgmtDiscard _ | .mgmtTimeout | .releaseMgr | .moduleIdWrite _
  | .routeEntryWrite _ _ | .egressGrant _ _ | .remoteLoad _ _ | .remoteAtomic _ _ | .remoteSignal _ _ | .remoteDoorbell _ _ | .loadRsp _ _ | .ack _ _
  | .atomicRsp _ _ | .respTimeout _ _ | .dbTxDataWrite _ _ | .dbRxSrcRead _ | .perst | .hotReset _ | .hostLinkDown _ | .vfFlr _ | .pfFlr
  | .bar0Access _ _ _ | .atomicOp _ _ _ | .mailboxGo _ | .vfDomeWrite _ _ | .copyChannelResponse _ | .getVersion _ | .getCapabilities _
  | .negotiateAlgorithms _ | .getDigests _ | .getCertificate _ | .challenge _ | .getMeasurements _ | .keyExchange _ | .finish _ | .keyUpdate _
  | .endSession _ | .pldmDiscovery _ | .pldmFirmwareUpdate _ | .activateFirmware | .dieImported _ _ | .handoffAbort | .maskRomBoot _ | .dieAbsent _
  | .svnGo _ | .powerUp _ | .coldModuleReset _ | .warmModuleReset _ | .domeDefine _ | .domeRelease _ | .domeDrain _ | .sharedSet _ | .imageLoad _
  | .ephemerisSet _ | .queueSet _ | .queueStop _ | .cancel _ | .adapterLoad _ | .adapterDrop _ | .cacheRange _ | .notifyRoute _ | .sourceSet _
  | .dieFence _ | .dieAdmit _ | .dieReset _ | .moduleReset _ | .traceSet _ | .tracePoints _ | .nightlogRead _ | .counterRead _ | .frameStart _
  | .domeStepEnd _ | .stepWatchdog _ | .photometerSample _ _ | .tapKvCommit _ _ | .tapEmission _ _ | .tapResync _ _ | .tapAck _ _ | .tapResend _
  | .tapStall _ | .periodicRecord | .getRecord _ | .demand _ | .getCert _ | .getEvents _ | .setTime _ | .setPeriod _ | .testEnter | .testExit
  | .testInject _ _ _ | .testRecord _ | .testTimeout | .sealBroken | .sealRestored | .photometerPowerDown _ | .photometerPowerUp _ _ | .reqGetRecord _
  | .reqDemand _ | .reqGetCert _ | .reqGetEvents _ | .emit _ _ | .emitdstWrite _ _ | .emitcfgWrite _ _ | .emitTokenWrite _ | .authGo | .disarm _
  | .freeze _ | .coelTrig | .jtagReadout _ | .perfSnap _ | .viewSelWrite _ _ | .traceRecordWrite _ | .registerWrite _ _ _ | .tapBadFrame _
  | .laneLockLost _ _ | .receiveMarginMet _ | .perstDeassert _ | .clearAllDone _ | .supplySlewDone _ | .svnFuseDone _ | .sbiFirmwareCall _ _
  | .explicitPowerDown => true

end Sys2Proof
end

