-- ==== Sys2Proof/Tests/Slice0.lean ====
section
/-! SUPPORT. Tests: for each statement a state and operands that meet its hypotheses, single steps whose results come from the spec's words, and terms that the well-formedness check refuses. -/

namespace Sys2Proof.Tests

open Sys2Proof Sys2Proof.Machine Host

set_option Elab.async false

/-! ## States for the tests -/

/-- A die at work: its core domain on, firmware running. -/
def workDie : Die := { coreOn := true, fenced := false, fwState := 1, verified := true }

/-- A module at work: rings, core domains, stacks and firmware up, link 0 trained. -/
def work : State :=
  { chip := { dies := allDies.map (fun d => (d, workDie)), stk := allStacks.map (fun t => (t, { filled := true, online := true, onlineAck := true })), ready := true,
              link := { perst := false, link0Up := true, width := 16, speed := 3, vfEnable := true } } }

/-- Changes of one unit of a state. -/
def withDie (s : State) (d : DieId) (f : Die → Die) : State := { s with chip := s.chip.updDie d f }
def withCluster (s : State) (c : ClusterId) (f : Cluster → Cluster) : State := { s with chip := s.chip.updCluster c f }
def withCore (s : State) (k : CoreId) (f : Machine.Core → Machine.Core) : State := { s with chip := s.chip.updCore k f }
def withStack (s : State) (t : StackId) (f : Stack → Stack) : State := { s with chip := s.chip.updStack t f }
def withObj (s : State) (o : ObjId) (f : SyncObj → SyncObj) : State := { s with chip := s.chip.updObj o f }
def withFw (s : State) (f : Firmware → Firmware) : State := { s with fw := f s.fw }
def withPhot (s : State) (f : Photometer → Photometer) : State := { s with phot := f s.phot }

/-- The state that a command answers. -/
def after (i : Instr) (s : State) : State := match exec i s with
  | .next t => t
  | .fault _ => s
  | .refused _ => s

def c0 : ClusterId := ⟨1, 2⟩
def k0 : CoreId := coreOf c0 3

/-- A program word (R98). -/
def pw (opc rd rs1 rs2 fn imm : Nat) : Word64 :=
  BitVec.ofNat 64 (opc * 2 ^ 56 + rd * 2 ^ 51 + rs1 * 2 ^ 46 + rs2 * 2 ^ 41 + fn * 2 ^ 32 + imm)

/-- Cluster c0 runs a step, its registers and the words from its PC on as given. -/
def running (regs : Table (Fin 32) Word64) (pc : Nat) (ws : List Word64) : State :=
  withCluster { work with chip := { work.chip with pstore := ws.mapIdx (fun i w => ((c0, clip 32768 (pc + i)), w)) } } c0
    (fun x => { x with running := true, pc := pc, regs := regs, assigned := true, dome := 5 })

/-! ## The sequencer -/

theorem witness_register_instructions :
    (∀ e ∈ threeRegister c0, SeqReady (running [] 9 [pw e.2.1 5 6 7 0 0]) c0 e.2.1 (pw e.2.1 5 6 7 0 0)) ∧
    (∀ e ∈ withImmediate c0, e.2.1 < 0x28 → SeqReady (running [] 9 [pw e.2.1 5 6 0 0 0xFFFFFFFF]) c0 e.2.1 (pw e.2.1 5 6 0 0 0xFFFFFFFF)) ∧
    (∀ e ∈ withImmediate c0, 0x28 ≤ e.2.1 → SeqReady (running [] 9 [pw e.2.1 5 0 0 0 7]) c0 e.2.1 (pw e.2.1 5 0 0 0 7)) := by
  simp only [SeqReady, ClusterUp]
  decide +kernel

/-- R100: addition wraps at 64 bits, and s0 discards what is written. -/
theorem test_add_wraps :
    ((after (.add c0) (running [(6, 0xFFFFFFFFFFFFFFFF), (7, 3)] 9 [pw 0x10 5 6 7 0 0])).chip.cluster c0).s 5 = 2 ∧
    ((after (.add c0) (running [(6, 1), (7, 3)] 9 [pw 0x10 0 6 7 0 0])).chip.cluster c0).s 0 = 0 := by decide +kernel

/-- R100: SRA keeps the sign, and a shift uses 6 bits of its amount; MULHU is the upper half; SLT is signed, SLTU is not. -/
theorem test_shift_and_compare :
    ((after (.sra c0) (running [(6, 0x8000000000000000), (7, 65)] 9 [pw 0x17 5 6 7 0 0])).chip.cluster c0).s 5 = 0xC000000000000000 ∧
    ((after (.mulhu c0) (running [(6, 0xFFFFFFFFFFFFFFFF), (7, 2)] 9 [pw 0x19 5 6 7 0 0])).chip.cluster c0).s 5 = 1 ∧
    ((after (.slt c0) (running [(6, 0xFFFFFFFFFFFFFFFF), (7, 1)] 9 [pw 0x1A 5 6 7 0 0])).chip.cluster c0).s 5 = 1 ∧
    ((after (.sltu c0) (running [(6, 0xFFFFFFFFFFFFFFFF), (7, 1)] 9 [pw 0x1B 5 6 7 0 0])).chip.cluster c0).s 5 = 0 := by decide +kernel

/-- R99: LI sign-extends, LIH keeps the low half. -/
theorem test_li_and_lih :
    ((after (.li c0) (running [] 9 [pw 0x28 5 0 0 0 0x80000000])).chip.cluster c0).s 5 = 0xFFFFFFFF80000000 ∧
    ((after (.lih c0) (running [(5, 0xAAAAAAAA12345678)] 9 [pw 0x29 5 0 0 0 7])).chip.cluster c0).s 5 = 0x0000000712345678 := by decide +kernel

theorem witness_branches_loops_nop :
    (∀ e ∈ branches c0, e.2.1 < 0x36 → SeqReady (running [(6, 1), (7, 1)] 9 [pw e.2.1 0 6 7 0 4]) c0 e.2.1 (pw e.2.1 0 6 7 0 4)) ∧
    SeqReady (running [] 9 [pw 0x36 0 0 0 0 0xFFFFFFF0]) c0 0x36 (pw 0x36 0 0 0 0 0xFFFFFFF0) ∧
    isPacketWord ((running [] 9 [pw 0x36 0 0 0 0 4]).chip.word c0) 13 = false ∧ ((running [] 9 []).chip.cluster c0).innermost = none ∧
    SeqReady (running [] 9 [pw 0x41 0 0 0 2 3]) c0 0x41 (pw 0x41 0 0 0 2 3) ∧ isPacketWord ((running [] 9 [pw 0x41 0 0 0 2 3]).chip.word c0) 13 = false ∧
    SeqReady (running [] 9 [pw 0 0 0 0 0 4]) c0 0 (pw 0 0 0 0 0 4) ∧ SeqReady (running [] 9 [pw 1 0 0 0 0 0]) c0 1 (pw 1 0 0 0 0 0) ∧
    SeqReady (running [] 9 [pw 2 0 0 0 1 6]) c0 2 (pw 2 0 0 0 1 6) := by
  simp only [SeqReady, ClusterUp]
  decide +kernel

/-- R101: a taken branch goes to PC + IMM, and a target below the store stops the step. -/
theorem test_branch_taken_and_out :
    ((after (.beq c0) (running [(6, 1), (7, 1)] 9 [pw 0x30 0 6 7 0 4])).chip.cluster c0).phase = .retire 9 (some 13) ∧
    ((after (.jmp c0) (running [] 9 [pw 0x36 0 0 0 0 0xFFFFFFF0])).chip.cluster c0).stop = some .faulted := by decide +kernel

/-- R108: a loop of count 0 skips its body; one with a count makes its level active over the next words. -/
theorem test_loop_skips_and_enters :
    ((after (.loop c0) (running [] 9 [pw 0x41 0 0 0 2 3])).chip.cluster c0).phase = .retire 12 none ∧
    (((after (.loop c0) (withCluster (running [] 9 [pw 0x41 0 0 0 2 3]) c0 (fun x => { x with lc := [(2, 5)] }))).chip.cluster c0).level 2) = ⟨true, 5, 0, 10, 12⟩ := by
  decide +kernel

theorem test_nop_holds_its_beats : ((after (.nop c0) (running [] 9 [pw 0 0 0 0 0 4])).chip.cluster c0).phase = .hold 9 5 := by decide +kernel

theorem witness_reading_and_setting :
    (∀ e ∈ [(0x42, 2), (0x43, 1), (0x45, 0), (0x46, 0), (0x49, 0x73)], SeqReady (running [] 9 [pw e.1 5 0 0 e.2 0]) c0 e.1 (pw e.1 5 0 0 e.2 0)) ∧
    fnOf (pw 0x49 5 0 0 0x73 0) / 64 % 4 ≠ 3 ∧
    (∀ e ∈ [(0x40, 3), (0x44, 0), (0x48, 0xB7)], SeqReady (running [] 9 [pw e.1 0 6 0 e.2 9]) c0 e.1 (pw e.1 0 6 0 e.2 9)) ∧ fnOf (pw 0x48 0 6 0 0xB7 9) / 64 % 4 ≠ 3 := by
  simp only [SeqReady, ClusterUp]
  decide +kernel

/-- R111: writing REPEAT clears COUNT; engine 2, register 7, field 2. -/
theorem test_setad_repeat :
    ((after (.setad c0) (withCluster (running [(6, 4)] 9 [pw 0x48 0 6 0 0xA7 1]) c0 (fun x => { x with ads := [((2, 7), ⟨1, 2, 3, 4, 2⟩)] }))).chip.cluster c0).ad (2, 7) =
      ⟨1, 2, 5, 4, 0⟩ := by decide +kernel

def obj0 : ObjId := .die 1 77

/-- Object obj0 belongs to dome 5. -/
def ownObj (s : State) (n : Word64) : State := withObj s obj0 (fun x => { x with assigned := true, dome := 5, count := n })

theorem witness_waits_and_signals :
    SeqReady (ownObj (running [(6, 70), (7, 4)] 9 [pw 0x50 0 6 7 0 7]) 3) c0 0x50 (pw 0x50 0 6 7 0 7) ∧
    (ownObj (running [(6, 70), (7, 4)] 9 [pw 0x50 0 6 7 0 7]) 3).chip.objRefusal (whoOf (.sequencer c0)) obj0 false none = none ∧
    SeqReady (ownObj (running [(6, selfAddr (objAddr obj0))] 9 [pw 0x51 0 6 0 1 7]) 3) c0 0x51 (pw 0x51 0 6 0 1 7) ∧
    (ownObj (running [(6, selfAddr (objAddr obj0))] 9 [pw 0x51 0 6 0 1 7]) 3).chip.objRefusal (whoOf (.sequencer c0)) obj0 true (some 1) = none ∧
    (ownObj (running [] 9 []) 3).chip.markerPending c0 = none ∧ (ownObj (running [] 9 []) 3).chip.sync (unitOf obj0) = {} := by
  simp only [SeqReady, ClusterUp]
  decide +kernel

/-- R116: COUNT 3 has not reached 4, and 4 has. R117: SIGNAL adds IMM. -/
theorem test_wait_and_signal :
    ((after (.wait c0) (ownObj (running [(6, 70), (7, 4)] 9 [pw 0x50 0 6 7 0 7]) 3)).chip.cluster c0).phase = .waiting 9 77 4 true ∧
    ((after (.wait c0) (ownObj (running [(6, 70), (7, 4)] 9 [pw 0x50 0 6 7 0 7]) 4)).chip.cluster c0).phase = .retire 9 none ∧
    ((after (.seqSignal c0) (ownObj (running [(6, selfAddr (objAddr obj0))] 9 [pw 0x51 0 6 0 1 7]) 3)).chip.obj obj0).count = 10 ∧
    ((after (.waitSatisfied c0) (ownObj (withCluster work c0 (fun x => { x with running := true, assigned := true, dome := 5, phase := .waiting 9 77 4 false })) 4)).chip.cluster c0).phase =
      .retire 9 none := by decide +kernel


/-- Dome 5 keeps a trace of its sequencers. -/
def traced (s : State) : State := { s with chip := s.chip.updTrace 5 (fun x => { x with sizeLog2 := 12, sources := 1 }) }

theorem witness_trace :
    ((running [] 9 [pw 2 0 0 0 0 6]).chip.cluster c0).assigned = true ∧
    SeqReady (traced (running [] 9 [pw 2 0 0 0 1 6])) c0 2 (pw 2 0 0 0 1 6) ∧ ((traced work).chip.trace 5).sizeLog2 ≠ 0 ∧
    ((traced work).chip.trace 5).sources.getLsbD 0 = true ∧ (work.chip.die 1).coel.armed = false ∧
    SeqReady (withCluster (running [] 9 [pw 2 0 0 0 0 6]) c0 (fun x => { x with assigned := false })) c0 2 (pw 2 0 0 0 0 6) := by
  simp only [SeqReady, ClusterUp]
  decide +kernel

theorem test_trace_appends :
    ((after (.trace c0) (traced (running [] 9 [pw 2 0 0 0 1 6]))).chip.trace 5).queue.map (fun r => (r.data, r.marker)) = [(6, some c0)] := by decide +kernel

/-- A packet of an engine (R103). -/
def packet (eng opc fa fb fd param : Nat) : BitVec 128 :=
  BitVec.ofNat 128 (opc * 2 ^ 120 + eng * 2 ^ 118 + fa * 2 ^ 81 + fb * 2 ^ 77 + fd * 2 ^ 73 + param)

/-- A VE packet whose A, B and D take address registers 0, 1 and 2. -/
def vePacket (opc fa fb fd param : Nat) : BitVec 128 := packet 1 opc fa fb fd param ||| BitVec.ofNat 128 (1 * 2 ^ 65 + 2 * 2 ^ 61)

/-- An ISSUE of a packet to the cores of BMASK. -/
def issuing (p : BitVec 128) (f : Cluster → Cluster) : State :=
  withCluster (running [] 9 [pw 0x60 0 0 0 0 0, p.extractLsb' 0 64, p.extractLsb' 64 64]) c0 f

def addOne : BitVec 128 := vePacket 1 0 0 0 63

def issueState : State := issuing addOne (fun x => { x with bmask := 9, ads := [((1, 1), { addr := 0x100 }), ((1, 2), { addr := 0x200 })] })

theorem witness_issue_and_beats :
    SeqReady issueState c0 0x60 (pw 0x60 0 0 0 0 0) ∧
    (issueState.chip.word c0 11 ++ issueState.chip.word c0 10 : BitVec 128) = addOne ∧
    issueState.chip.issueFault c0 (pw 0x60 0 0 0 0 0) addOne (selectedCores (issueState.chip.cluster c0) false) = none ∧
    ClusterUp work c0 ∧ (withCluster work c0 (fun x => { x with running := true, phase := .hold 4 1 })).chip.drained c0 = true ∧
    ((withCluster work c0 (fun x => { x with running := true, phase := .hold 4 1 })).chip.cluster c0).innermost = none ∧
    (work.chip.die 1).guider.duty = 0 ∧ (∀ i, (work.chip.core (coreOf c0 i)).gate = [] ∧ (work.chip.core (coreOf c0 i)).job = none) ∧
    (let s := withDie (withCluster work c0 (fun x => { x with running := true })) 1 (fun x => { x with guider := { x.guider with duty := 1 } })
     (s.chip.cluster c0).dueEmpty (s.chip.die 1).guider.duty = true ∧ ClusterUp s c0) := by
  simp only [SeqReady, ClusterUp]
  decide +kernel

/-- R102, R103, R112: the packet goes to cores 0 and 3 with the addresses of its registers. -/
theorem test_issue_presents :
    ((after (.issue c0) issueState).chip.core k0).ve.waiting = [⟨addOne, 9, 0, 0x100, 0x200, 0, true⟩] ∧
    ((after (.issue c0) issueState).chip.core (coreOf c0 2)).ve.waiting = [] ∧
    ((after (.issue c0) issueState).chip.cluster c0).phase = .retire 11 none := by decide +kernel

/-- An ISSUE to core k0 while its VE runs a command and n more wait. -/
def crowded (n : Nat) : State :=
  withCore issueState k0 (fun x => { x with ve := ⟨some { cmd := { packet := addOne }, len := 9 }, List.replicate n { packet := addOne, fresh := false }⟩ })

theorem witness_issue_overrun :
    (∀ n ∈ [3, 4], SeqReady (crowded n) c0 0x60 (pw 0x60 0 0 0 0 0) ∧ ((crowded n).chip.cluster c0).pc < 32766 ∧
      (((crowded n).chip.core (coreOf c0 3)).queue .ve).depth = n ∧ (((crowded n).chip.core (coreOf c0 0)).queue .ve).depth = 0 ∧
      (let x := (crowded n).chip.cluster c0
       addressChecks addOne (x.slotAddr addOne 0).toNat (x.slotAddr addOne 1).toNat (x.slotAddr addOne 2).toNat (x.slotAddr addOne 3).toNat = [])) ∧
    packetChecks addOne = [] ∧ pkEngine addOne = .ve := by
  simp only [SeqReady, ClusterUp]
  decide +kernel

/-- R105: the fifth waiting command of core 3 stops the step, and core 0 gets none; the fourth is queued. -/
theorem test_issue_overrun :
    (let t := after (.issue c0) (crowded 4)
     ((t.chip.cluster c0).stop, (t.chip.cluster c0).stepCode, (t.chip.head (.clusterSeq c0)).errStatus, (t.chip.core (coreOf c0 0)).ve.waiting) = (some .faulted, 0x1006, 0x20, [])) ∧
    (let t := after (.issue c0) (crowded 3); ((t.chip.cluster c0).stop, (t.chip.core k0).ve.waiting.length) = (none, 4)) := by decide +kernel

/-- An ISSUE to no core, whose operand addresses lie beyond the scratchpad. -/
def nowhere (w : Word64) (p : BitVec 128) : State :=
  withCluster (running [] 9 [w, p.extractLsb' 0 64, p.extractLsb' 64 64]) c0 (fun x => { x with bmask := 0, ads := [((1, 0), { addr := 0xFFFFFF })] })

theorem witness_issue_to_no_core (p : BitVec 128) : ∀ rd ∈ [0, 1],
    let s := nowhere (pw 0x60 rd 0 0 0 0) p
    ClusterUp s c0 ∧ (s.chip.cluster c0).running = true ∧ (s.chip.cluster c0).stop = none ∧ (s.chip.cluster c0).phase = .ready ∧ (s.chip.cluster c0).pc = 9 ∧
    s.chip.word c0 9 = pw 0x60 rd 0 0 0 0 ∧ opcOf (pw 0x60 rd 0 0 0 0) = 0x60 ∧ fnOf (pw 0x60 rd 0 0 0 0) % 2 = 0 ∧ (s.chip.cluster c0).bmask = 0 := by
  intro rd h
  refine ⟨⟨rfl, rfl, rfl⟩, rfl, rfl, rfl, rfl, rfl, ?_, ?_, rfl⟩ <;> revert rd <;> decide +kernel

theorem witness_issue_words_and_packets :
    reservedSet (pw 0x60 0 0 0 0 0) = false ∧ reservedSet (pw 0x60 1 0 0 0 0) = true ∧ packetChecks addOne = [] ∧ veKind (pkOpcode (vePacket 7 0 0 0 63)) = none ∧
    packetChecks (vePacket 7 0 0 0 63) ≠ [] := by decide +kernel

theorem test_issue_to_no_core :
    (let x := (after (.issue c0) (nowhere (pw 0x60 0 0 0 0 0) addOne)).chip.cluster c0; (x.stop, x.phase) = (none, .retire 11 none)) ∧
    ((after (.issue c0) (nowhere (pw 0x60 1 0 0 0 0) addOne)).chip.cluster c0).stop = some .faulted ∧
    ((after (.issue c0) (nowhere (pw 0x60 0 0 0 0 0) (vePacket 7 0 0 0 63))).chip.cluster c0).stop = some .faulted := by decide +kernel

/-- R106: an engine code of no command stops the step. -/
theorem test_issue_of_nothing : ((after (.issue c0) (issuing (packet 0 9 0 0 0 0) id)).chip.cluster c0).stop = some .faulted := by decide +kernel

/-- R35, R97: a beat counts, and the last beat of a NOP moves on. R451: at duty 1, slot 0 of a group stays empty. -/
theorem test_beats :
    (let x := (after (.beat c0) (withCluster work c0 (fun x => { x with running := true, phase := .hold 4 1 }))).chip.cluster c0; (x.beat, x.pc, x.phase) = (1, 5, .ready)) ∧
    (let s := withDie (withCluster work c0 (fun x => { x with running := true })) 1 (fun x => { x with guider := { x.guider with duty := 1 } })
     let x := (after (.emptySlot c0) s).chip.cluster c0; (x.beat, x.slotNo) = (0, 1)) := by decide +kernel

theorem witness_steps :
    SeqIdle work c0 ∧ isPacketWord (work.chip.word c0) 0 = false ∧ ClusterUp work c0 ∧
    ((running [] 9 []).chip.cluster c0).stop ≠ some .faulted ∧
    (withCluster work c0 (fun x => { x with running := true, stop := some .ended })).chip.drained c0 = true := by
  simp only [SeqIdle, ClusterUp]
  decide +kernel

/-- R96: the arguments become s1 to s15. R122: abort discards. R120: the step's length is kept. -/
theorem test_step_life :
    ((after (.stepGo c0) (withCluster work c0 (fun x => { x with entry := 20, args := [(2, 77)] }))).chip.cluster c0).s 3 = 77 ∧
    ((after (.stepGo c0) (withCluster work c0 (fun x => { x with entry := 20, args := [(2, 77)] }))).chip.cluster c0).pc = 20 ∧
    ((after (.abort c0) (withCore (running [] 9 []) k0 (fun x => { x with me := ⟨none, [{}]⟩ }))).chip.core k0).me.waiting = [] ∧
    (let x := (after (.stepCompletion c0) (withCluster work c0 (fun x => { x with running := true, stop := some .faulted, stepBeats := 31 }))).chip.cluster c0
     (x.running, x.lastStepBeats, x.faultedFlag) = (false, 31, true)) := by decide +kernel

theorem witness_configuration_and_portholes :
    SeqIdle work c0 ∧ ClusterUp (running [] 9 []) c0 ∧ ((running [] 9 []).chip.cluster c0).running = true ∧
    work.chip.scratchRefusal (whoOf (.meridian 1)) k0 0xFF 1 = none := by
  simp only [SeqIdle, ClusterUp]
  decide +kernel

/-- R61, R125: OWNER between steps and during one. R126: PSTORE_ADDR moves on. -/
theorem test_configuration :
    (let x := (after (.ownerWrite c0 0x80001703) work).chip.cluster c0; (x.fabricOpen, x.assigned, x.dome, x.phPhase) = (true, true, 7, 3)) ∧
    ((after (.ownerWrite c0 0x80001703) (running [] 9 [])).chip.head (.clusterSeq c0)).errStatus = 0x400 ∧
    (let t := after (.pstoreDataWrite c0 42) (withCluster work c0 (fun x => { x with pstoreAddr := 0x7FFF })); (t.chip.word c0 0x7FFF, (t.chip.cluster c0).pstoreAddr) = (42, 0)) := by
  decide +kernel

theorem test_porthole_joins : ((after (.portholeAccess k0 (.meridian 1) ⟨0xFF, 1, none⟩) work).chip.core k0).gate = [⟨.meridian 1, 0xFF, 1, none⟩] := by decide +kernel

/-! ## Engines -/

/-- Core k0 with one command at the front of an engine's queue, and bytes in its scratchpad. -/
def engineAt (e : EngineKind) (cmd : EngineCmd) (bytes : List (Nat × List Byte)) : State :=
  let s := withCluster work c0 (fun x => { x with running := true, assigned := true, dome := 5 })
  let s := withCore s k0 (fun x => x.setQueue e ⟨none, [cmd]⟩)
  { s with chip := bytes.foldl (fun s b => s.scratchWrite k0 b.1 b.2) s.chip }

/-- An INT8 mma of one panel pair, 2 rows and 3 columns. -/
def intMma : EngineCmd := { packet := packet 0 1 8 8 11 (1 * 2 ^ 19 + 2 * 2 ^ 24), a := 0, b := 0x400 }
def intState : State := engineAt .me intMma [(0, [3, 0xFE]), (32, [1, 1]), (0x400, [5, 7]), (0x420, [0x80, 0x80])]
def holdMma : EngineCmd := { packet := packet 0 1 8 8 11 (1 * 2 ^ 18), a := 0, b := 0x400 }
def mscaleState (b : List Byte) : State := engineAt .me { packet := packet 0 2 0 0 0 0, a := 0x40 } [(0x40, [0, 0, 0, 0x40] ++ b)]
def gatherMma : EngineCmd := { packet := packet 0 1 8 8 11 (2 ^ 117), a := 0, b := 0x400, x := 0x900 }

theorem witness_matrix_products :
    EngineReady intState k0 .me 1 intMma [] ∧ meChecks intMma.packet = [] ∧ pkFmtA intMma.packet = 8 ∧ pkAgm intMma.packet = false ∧
    mmaPanels intMma.packet = 1 ∧ mmaAcc intMma.packet = false ∧ mmaHold intMma.packet = false ∧
    (intState.chip.core k0).meBegin intMma [] = none ∧ ((intState.chip.readPanels k0 false [] { cmd := intMma, idx := [] } 0).2).badPanel = false ∧
    EngineReady (engineAt .me holdMma []) k0 .me 1 holdMma [] ∧ meChecks holdMma.packet = [] ∧ mmaHold holdMma.packet = true ∧
    ((engineAt .me holdMma []).chip.core k0).meBegin holdMma [] = none := by
  simp only [EngineReady, EngineWaits, ClusterUp]
  decide +kernel

theorem witness_gathered_product :
    let s := engineAt .me gatherMma []
    let idx := (s.chip.readIndices k0 false [] gatherMma 32).2
    EngineReady s k0 .me 1 gatherMma [] ∧ meChecks gatherMma.packet = [] ∧ pkAgm gatherMma.packet = true ∧ (s.chip.core k0).meBegin gatherMma idx = none ∧
    ((s.chip.readPanels k0 false [] { cmd := gatherMma, idx := idx } 0).2).badPanel = false := by
  simp only [EngineReady, EngineWaits, ClusterUp]
  decide +kernel

theorem witness_mscale_and_tiles :
    EngineReady (mscaleState [0, 0, 0x80, 0x3F]) k0 .me 2 { packet := packet 0 2 0 0 0 0, a := 0x40 } [] ∧ tensorScaleOk 0x40000000 = true ∧ tensorScaleOk 0x3F800000 = true ∧
    tensorScaleOk 0 = false ∧
    EngineReady (engineAt .tq { packet := packet 3 1 0 0 0 0 } []) k0 .tq 1 { packet := packet 3 1 0 0 0 0 } [] ∧
    EngineReady (engineAt .tq { packet := packet 3 2 0 0 0 0 } []) k0 .tq 2 { packet := packet 3 2 0 0 0 0 } [] ∧
    (let cmd : EngineCmd := { packet := packet 3 2 0 0 0 (2 ^ 116 + 77 * 2 ^ 101) }
     let s := ownObj (engineAt .tq cmd []) 3
     (s.chip.core k0).tq = ⟨none, [cmd]⟩ ∧ pkSigEn cmd.packet = true ∧ pkSigObj cmd.packet = 77 ∧ s.chip.markerPending c0 = none ∧ (s.chip.sync (unitOf obj0)).clearBusy = false ∧
     s.chip.objRefusal { whoOf (.sequencer c0) with tag := pkTag cmd.packet } obj0 true (some (pkSigScope cmd.packet)) = none) := by
  simp only [EngineReady, EngineWaits, ClusterUp]
  decide +kernel

/-- R89: row 0 of A times rows 0 to 2 of B is 3·5 − 2·7 = 1, (3 − 2)·(−128) = −128 and 0; column 3 lies outside COLS. -/
theorem test_integer_product :
    ((after (.mma k0) intState).chip.core k0).tiles.map (fun x => (x.isInt, x.data.take 4)) = [(true, [1, 0xFFFFFF80, 0, 0])] := by decide +kernel

/-- R81, R138: a scale that is not positive and normal stops the step; two good ones are kept. -/
theorem test_mscale :
    (let x := (after (.mscale k0) (mscaleState [0, 0, 0x80, 0x3F])).chip.core k0; (x.scaleA, x.scaleB) = (0x40000000, 0x3F800000)) ∧
    ((after (.mscale k0) (mscaleState [])).chip.cluster c0).stop = some .faulted := by decide +kernel

theorem test_tile_queue :
    ((after (.tqDrop k0) (withCore (engineAt .tq { packet := packet 3 1 0 0 0 0 } []) k0 (fun x => { x with tiles := [⟨true, [1]⟩, ⟨true, [2]⟩] }))).chip.core k0).tiles = [⟨true, [2]⟩] ∧
    ((after (.tqDrop k0) (engineAt .tq { packet := packet 3 1 0 0 0 0 } [])).chip.cluster c0).stop = some .faulted ∧
    ((after (.tqClear k0) (ownObj (engineAt .tq { packet := packet 3 2 0 0 0 (2 ^ 116 + 77 * 2 ^ 101) } []) 3)).chip.obj obj0).count = 4 := by decide +kernel

def veCmd (opc fa fb fd param : Nat) : EngineCmd := { packet := packet 1 opc fa fb fd param, a := 0, b := 0x400, d := 0x800 }

/-- Commands of every VE form on n elements. -/
theorem witness_vector_lanes :
    (∀ e ∈ veArithmetic k0, EngineReady (engineAt .ve (veCmd e.2.1 0 1 2 (63 + 2 * 2 ^ 36)) []) k0 .ve e.2.1 (veCmd e.2.1 0 1 2 (63 + 2 * 2 ^ 36)) []) ∧
    PlainVector (veCmd 1 0 1 2 (63 + 2 * 2 ^ 36)).packet 64 ∧ veBMode (veCmd 1 0 1 2 (63 + 2 * 2 ^ 36)).packet ≠ 3 ∧
    (∀ e ∈ veFunctions k0, EngineReady (engineAt .ve (veCmd e.2.1 11 0 0 0) []) k0 .ve e.2.1 (veCmd e.2.1 11 0 0 0) []) ∧ PlainVector (veCmd 8 11 0 0 0).packet 1 := by
  simp only [EngineReady, EngineWaits, ClusterUp, PlainVector]
  decide +kernel

theorem witness_vector_conversions :
    EngineReady (engineAt .ve (veCmd 0x10 0 0 3 1) []) k0 .ve 0x10 (veCmd 0x10 0 0 3 1) [] ∧ PlainVector (veCmd 0x10 0 0 3 1).packet 2 ∧ 3 ∈ byteFormats ∧
    EngineReady (engineAt .ve (veCmd 0x11 0 0 0 (63 + 6 * 2 ^ 40)) []) k0 .ve 0x11 (veCmd 0x11 0 0 0 (63 + 6 * 2 ^ 40)) [] ∧
    PlainVector (veCmd 0x11 0 0 0 (63 + 6 * 2 ^ 40)).packet 64 ∧ veGLog2 (veCmd 0x11 0 0 0 (63 + 6 * 2 ^ 40)).packet = 6 := by
  simp only [EngineReady, EngineWaits, ClusterUp, PlainVector]
  decide +kernel

theorem witness_vector_masks :
    EngineReady (engineAt .ve (veCmd 0x12 0 0 0 (1 + 2 ^ 40)) []) k0 .ve 0x12 (veCmd 0x12 0 0 0 (1 + 2 ^ 40)) [] ∧ PlainVector (veCmd 0x12 0 0 0 (1 + 2 ^ 40)).packet 2 ∧
    EngineReady (engineAt .ve (veCmd 0x19 0 0 0 0) []) k0 .ve 0x19 (veCmd 0x19 0 0 0 0) [] ∧ PlainVector (veCmd 0x19 0 0 0 0).packet 64 := by
  simp only [EngineReady, EngineWaits, ClusterUp, PlainVector]
  decide +kernel

theorem witness_single_beat_commands :
    (∀ op ∈ [0x1A, 0x1C, 0x1D], EngineReady (engineAt .ve (veCmd op 0 0 0 0) []) k0 .ve op (veCmd op 0 0 0 0) []) := by
  simp only [EngineReady, EngineWaits, ClusterUp]
  decide +kernel

/-- R145: 1.5 + 2.25 = 3.75; with BMODE 2 every lane takes B's first element; lane 0 of the second is 2⁻⁹ in BF16 (R73). -/
theorem test_vadd :
    (after (.vadd k0) (engineAt .ve (veCmd 1 0 0 0 0) [(0, [0, 0, 0xC0, 0x3F]), (0x400, [0, 0, 0x10, 0x40])])).chip.scratchRead k0 0x800 4 = [0, 0, 0x70, 0x40] ∧
    (after (.vadd k0) (engineAt .ve (veCmd 1 0 0 1 (1 + 2 * 2 ^ 36)) [(4, [0, 0, 0x80, 0x3F]), (0x400, [0, 0, 0, 0x3B])])).chip.scratchRead k0 0x800 4 = [0, 0x3B, 0x80, 0x3F] := by
  decide +kernel

/-- R90: 2^200 is +∞, the reciprocal of −0 is −∞, tanh of 9 is 1, GELU of −8 is −0. -/
theorem test_vector_functions :
    (after (.vexp2 k0) (engineAt .ve (veCmd 8 0 0 0 0) [(0, [0, 0, 0x48, 0x43])])).chip.scratchRead k0 0x800 4 = [0, 0, 0x80, 0x7F] ∧
    (after (.vrcp k0) (engineAt .ve (veCmd 0xA 0 0 0 0) [(0, [0, 0, 0, 0x80])])).chip.scratchRead k0 0x800 4 = [0, 0, 0x80, 0xFF] ∧
    (after (.vtanh k0) (engineAt .ve (veCmd 0xC 0 0 0 0) [(0, [0, 0, 0x10, 0x41])])).chip.scratchRead k0 0x800 4 = [0, 0, 0x80, 0x3F] ∧
    (after (.vgelu k0) (engineAt .ve (veCmd 0xD 0 0 0 0) [(0, [0, 0, 0, 0xC1])])).chip.scratchRead k0 0x800 4 = [0, 0, 0, 0x80] := by decide +kernel

/-- R85: 464 is a tie between 448 and the next E4M3 step, which saturates to 448 (0x7E). R149: the sum of a pair. -/
theorem test_conversion_and_sum :
    (after (.vcvt k0) (engineAt .ve (veCmd 0x10 0 0 3 0) [(0, [0, 0, 0xE8, 0x43])])).chip.scratchRead k0 0x800 1 = [0x7E] ∧
    (after (.vredsum k0) (engineAt .ve (veCmd 0x11 0 0 0 (1 + 2 ^ 40)) [(0, [0, 0, 0x80, 0x3F, 0, 0, 0, 0x40])])).chip.scratchRead k0 0x800 4 = [0, 0, 0x40, 0x40] := by decide +kernel

theorem test_masks_and_flags :
    Table.read 0 (((after (.vmaskCmp k0) (engineAt .ve (veCmd 0x19 0 0 0 (2 * 2 ^ 30 + 2 * 2 ^ 36)) [(0, [0, 0, 0x80, 0xBF])])).chip.core k0).vm) 2 = 1 ∧
    ((after (.vseed k0) (engineAt .ve (veCmd 0x1C 0 0 0 0) [])).chip.core k0).lfsr = 1 ∧
    (after (.vflags k0) (withCore (engineAt .ve (veCmd 0x1D 0 0 0 0) []) k0 (fun x => { x with flags := 0x81 }))).chip.scratchRead k0 0x800 4 = [0x81, 0, 0, 0] := by decide +kernel

/-! ## The data engine -/

/-- A descriptor that copies 5 bytes from offset 0x100 to 0x300 of the core's own scratchpad (R159, R160). -/
def rowDesc : BitVec 512 := BitVec.ofNat 512 (0x100 + 0x300 * 2 ^ 64 + 2 ^ 224 + 4 * 2 ^ 320 + 3 * 2 ^ 496)
def deCmd (opc : Nat) : EngineCmd := { packet := packet 2 opc 8 0 8 0, a := 0x40, b := 0x1000 }
def deState (opc : Nat) : State := engineAt .de (deCmd opc) [(0x40, leBytes 64 rowDesc.toNat), (0x100, [1, 2, 3, 4, 5])]

theorem witness_data_engine :
    (∀ op ∈ [1, 2, 3, 4], EngineReady (deState op) k0 .de op (deCmd op) [] ∧ PlainRow (deCmd op).packet rowDesc 0x100 0x300 5 ∧
      BitVec.ofNat 512 (leNat ((deState op).chip.scratchRead k0 0x40 64)) = rowDesc ∧
      (deState op).chip.deFaults { core := k0, packet := (deCmd op).packet, desc := rowDesc, staging := 0x1000 } 0 = []) := by
  simp only [EngineReady, EngineWaits, ClusterUp, PlainRow]
  decide +kernel

def jobState (flight : List Word64) : State := withCore work k0 (fun x => { x with job := some { cmd := deCmd 1, writing := true, flight := flight } })

theorem witness_completion :
    (jobState [9, 8, 7]).chip.frozen = false ∧ ((jobState [9, 8, 7]).chip.core k0).job = some { cmd := deCmd 1, writing := true, flight := [9, 8, 7] } ∧
    ((jobState []).chip.core k0).job = some { cmd := deCmd 1, writing := true } ∧ pkSigEn (deCmd 1).packet = false ∧
    (((jobState []).chip.die 1).tap.put 1 ((jobState []).chip.cluster c0).dome 0).2 = 0 := by decide +kernel

/-- R160, R175: the row arrives. R176: the engine is free, and an answer counts down. -/
theorem test_data_engine :
    (∀ i ∈ [Instr.dmaLoad k0, .dmaStore k0, .dmaCopy k0, .dmaT2d k0], ∀ op ∈ [1, 2, 3, 4], i = [Instr.dmaLoad k0, .dmaStore k0, .dmaCopy k0, .dmaT2d k0].getD (op - 1) (.mma k0) →
      (after i (deState op)).chip.scratchRead k0 0x300 6 = [1, 2, 3, 4, 5, 0]) ∧
    ((after (.deAccessResponse k0) (jobState [9, 8, 7])).chip.core k0).job.map (fun j => j.flight) = some [8, 7] ∧
    ((after (.deComplete k0) (jobState [])).chip.core k0).job = none := by decide +kernel

/-- R159: a descriptor that is not 64-byte aligned stops the step. -/
theorem test_descriptor_alignment :
    ((after (.dmaCopy k0) (engineAt .de { packet := packet 2 3 8 0 8 0, a := 0x48 } [])).chip.cluster c0).stop = some .faulted := by decide +kernel

/-! ## Regions and stack memory -/

/-- Region 3 of die 1: private, frame 2 of stack 4, for dome 5 and the physical function. -/
def entry3 : Word64 := BitVec.ofNat 64 (1 + 4 * 2 ^ 4 + 2 * 2 ^ 9 + 2 ^ 15 + 2 ^ 21 + 2 ^ 37)
def mapped : State := withCluster (withDie work 1 (fun x => { x with regions := [(3, entry3), (4, 2 + 3 * 2 ^ 2)] })) c0 (fun x => { x with assigned := true, dome := 5 })
/-- An address of region 3, its stack address, and that address's key in DRAM. -/
def a3 : Nat := 3 * 2 ^ 30 + 0x1040
def x3 : Nat := 2 * 2 ^ 30 + 0x1040
def holding (bs : List Byte) : State := { mapped with chip := { mapped.chip with dram := Memory.putBytes [] (dramKey 4 x3) bs } }

theorem witness_regions_and_fences :
    mapped.chip.frozen = false ∧ mapped.chip.pageRefusal (.meridian 1) (.d2d 1) = none ∧ mapped.chip.pageRefusal .pf (.d2d 7) = none ∧
    mapped.chip.stagedFor .pf (regionReg 1 0) = none ∧
    { mapped.chip with stagedLow := [(.pf, (regionReg 1 2047, 5))] }.stagedFor .pf (regionReg 1 2047) = some 5 ∧
    RingUp mapped 1 ∧ ((withDie mapped 1 (fun x => { x with tfenceBusy := true })).chip.die 1).tfenceBusy = true := by
  simp only [RingUp]
  decide +kernel

/-- R53: reserved bits stay 0. R67: a 32-bit pair lands with its upper word. R58: the fence covers what its die translated. -/
theorem test_regions_and_fences :
    Table.read 0 ((after (.regionEntryWrite .pf 7 2047 (.w64 0xFFFFFFFFFFFFFFFF)) work).chip.die 7).regions 2047 = 0x3FFFFFFFFFFFF ∧
    Table.read 0 ((after (.regionEntryWrite .pf 7 0 (.w32 2)) (after (.regionEntryWrite .pf 7 0 (.w32 0x11)) work)).chip.die 7).regions 0 = 0x200000011 ∧
    ((after (.tfenceGo 1) (withStack work 9 (fun x => { x with redQueue := [⟨.meridian 1, 64, 1, 11, [1, 0, 0, 0], 0, false, 1, false⟩] }))).chip.die 1).tfenceBusy = true ∧
    ((after (.tfenceGo 2) (withStack work 9 (fun x => { x with redQueue := [⟨.meridian 1, 64, 1, 11, [1, 0, 0, 0], 0, false, 1, false⟩] }))).chip.die 2).tfenceBusy = false := by
  decide +kernel

theorem witness_stack_accesses :
    Reaches mapped (whoOf (.de k0)) a3 false 4 x3 ∧ Reaches mapped (whoOf (.de k0)) (a3 + 60) true 4 (x3 + 60) ∧ mapped.chip.findLine 4 (x3 / 256) = none ∧ a3 % 64 = 0 ∧
    (let s : State := { mapped with chip := { mapped.chip with cache := [⟨4, x3 / 256, List.replicate 256 7, false, false, 0, []⟩] } }
     s.chip.findLine 4 (x3 / 256) = some ⟨4, x3 / 256, List.replicate 256 7, false, false, 0, []⟩ ∧ Reaches s (whoOf (.de k0)) a3 true 4 x3) := by
  simp only [Reaches]
  decide +kernel

theorem witness_region_refusals :
    regionUsable (Table.read 0 (mapped.chip.die 1).regions (clip 2048 (4 * 2 ^ 30 / 2 ^ 30))) = false ∧
    regionUsable (Table.read 0 (mapped.chip.die 1).regions (clip 2048 (a3 / 2 ^ 30))) = true ∧ mapped.chip.regionGrants entry3 (.hart ⟨1, 0⟩) false = false := by decide +kernel

def stackReq (a n : Nat) (bs : Option (List Byte)) : StackReq := ⟨BitVec.ofNat 52 a, n, bs, 0⟩

/-- R54, R183: the bytes of the stack address are read and written; an ungranted agent gets REGION_DENIED, and a malformed entry REGION_INVALID. -/
theorem test_slit :
    (after (.slitAccess (.de k0) (stackReq a3 3 none)) (holding [9, 8, 7])).chip.out = .bytes [9, 8, 7] ∧
    (after (.slitAccess (.de k0) (stackReq a3 0 (some [1, 2]))) (holding [9, 8, 7])).chip.dram = [(dramKey 4 x3, 1), (dramKey 4 x3 + 1, 2), (dramKey 4 x3 + 2, 7)] ∧
    (after (.slitAccess (.hart ⟨1, 0⟩) (stackReq a3 3 none)) (holding [9])).chip.out = .fault 0x2004 ∧
    (after (.mainPathAccess (.de k0) (stackReq (4 * 2 ^ 30) 3 none)) (holding [9])).chip.out = .fault 0x2003 := by decide +kernel

theorem witness_reductions :
    mapped.chip.resolve (whoOf (.de k0)) a3 true = .ok (4, x3) ∧ queueRoom 4 (mapped.chip.stack 4).redQueue (portInput 4 (whoOf (.de k0))) = true ∧
    (∀ e ∈ atomicOps, e.1 ≤ 10) ∧ (whoOf (.de k0)).die = 1 ∧ x3 % 8 = 0 ∧
    Table.read [] mapped.chip.codeErrors (cwKey 4 ((mapped.chip.stack 4).phys (x3 / 64 * 64))) = [] := by decide +kernel

/-- R192: a sum of 32-bit integers wraps; CAS takes its new value when the operand matches; an element off its boundary is refused (R193). -/
theorem test_reductions_and_atomics :
    (after (.reductionPerform 4) (withStack (holding [0xFF, 0xFF, 0xFF, 0xFF]) 4 (fun x => { x with redQueue := [⟨.de k0, x3, 1, 11, [2, 0, 0, 0], 0, false, 1, false⟩] }))).chip.dram = [(dramKey 4 x3, 1)] ∧
    (let t := after (.fetchingAtomic (.de k0) ⟨BitVec.ofNat 52 a3, 10, 12, 9, 5⟩) (holding [9]); (t.chip.out, t.chip.dram) = (.bytes [9, 0, 0, 0, 0, 0, 0, 0], [(dramKey 4 x3, 5)])) ∧
    (after (.fetchingAtomic (.de k0) ⟨BitVec.ofNat 52 (a3 + 2), 1, 11, 9, 5⟩) (holding [9])).chip.out = .fault Code.atomicAlign ∧
    ((after (.postedReduction (.de k0) ⟨BitVec.ofNat 52 a3, 1, 11, [2, 0, 0, 0]⟩) mapped).chip.stack 4).redQueue.length = 1 := by decide +kernel

/-- A line of stack 4 that holds x3, dirty, and a range that holds the line. -/
def lineOf (bs : List Byte) : CacheLine := ⟨4, x3 / 256, bs, true, false, 0, []⟩
def cached (bs : List Byte) : State :=
  let s := withDie mapped 1 (fun x => { x with rangeBase := 3 * 2 ^ 30 + 0x1000, rangeSize := 0x100 })
  { s with chip := { s.chip with cache := [lineOf bs] } }

theorem witness_range_operations :
    RingUp (cached (List.replicate 256 7)) 1 ∧ ((cached (List.replicate 256 7)).chip.die 1).rangeBusy = false ∧ ((cached (List.replicate 256 7)).chip.die 1).rangeBase.toNat % 256 = 0 ∧ ((cached (List.replicate 256 7)).chip.die 1).rangeSize.toNat = 256 ∧
    ((cached (List.replicate 256 7)).chip.die 1).rangeBase.toNat + 256 ≤ 2 ^ 41 ∧ (cached (List.replicate 256 7)).chip.cache.Nodup ∧ (∀ n, ((cached (List.replicate 256 7)).chip.stack n).retireTable = []) ∧
    (∀ l ∈ (cached (List.replicate 256 7)).chip.cache, l.data.length = 256 ∧ l.line < 2 ^ 28) ∧ (cached (List.replicate 256 7)).chip.lineInRange 1 (3 * 2 ^ 30 + 0x1000) 256 (lineOf (List.replicate 256 7)) = true ∧
    (mapped.chip.die 1).rangeSize.toNat = 0 ∧ ((withDie work 1 (fun x => { x with rangeBusy := true })).chip.die 1).rangeBusy = true := by
  simp only [RingUp]
  decide +kernel

theorem test_range_operations :
    (let t := after (.stackCacheClean 1) (cached [7]); (t.chip.cache.map (fun l => l.dirty), t.chip.dram.byte (dramKey 4 (x3 - 0x40))) = ([false], 7)) ∧
    (let t := after (.stackCacheInval 1) (cached [7]); (t.chip.cache, t.chip.dram) = ([], [])) ∧
    (let t := after (.stackCacheCleanInval 1) (cached [7]); (t.chip.cache, t.chip.dram.length) = ([], 1)) ∧
    (let t := after (.cleanInvalAll 2) (cached [7]); (t.chip.cache.length, (t.chip.die 2).rangeBusy) = (1, true)) ∧
    ((after (.stackCacheClean 1) mapped).chip.head (.stackCache 1)).errStatus = 1 ∧
    ((after (.rangeDone 1) (withDie work 1 (fun x => { x with rangeBusy := true }))).chip.head (.stackCache 1)).irqEvents = 2 := by decide +kernel

/-! ## Stack controllers, refresh, scrubbing, retirement -/

theorem witness_stack_control :
    RingUp work (stackDie 5) ∧ (work.chip.stack 5).onlineAck = true ∧ lbMode 1 ≠ lbMode (work.chip.stack 5).loopback ∧ (work.chip.stack 5).domainOn = true ∧
    ((withStack work 5 (fun x => { x with online := false, onlineAck := false, lbRun := true, loopback := 1 })).chip.stack 5).lbRun = true ∧ lbMode 1 ≠ 0 := by
  simp only [RingUp]
  decide +kernel

/-- Stack 4 offline, region 3 mapped to it. -/
def offline4 : State := withStack mapped 4 (fun x => { x with online := false, onlineAck := false })

theorem witness_stack_offline :
    (offline4.chip.stack 4).onlineAck = false ∧ RingUp offline4 (stackDie 4) ∧ regionUsable entry3 = true ∧
    Table.read 0 (offline4.chip.die 1).regions (clip 2048 (a3 / 2 ^ 30)) = entry3 ∧ offline4.chip.regionGrants entry3 (.de k0) false = true ∧
    offline4.chip.route 1 (stackDie 4) = true ∧ (translate entry3 a3).1 = 4 ∧ a3 % 64 + 3 ≤ 64 := by
  simp only [RingUp]
  decide +kernel

/-- R200, R71: STACK_OFFLINE. -/
theorem test_stack_offline :
    (after (.slitAccess (.de k0) (stackReq a3 3 none)) offline4).chip.out = .fault 0x3102 ∧
    (after (.mainPathAccess (.de k0) (stackReq a3 0 (some [1]))) offline4).chip.out = .fault 0x3102 := by decide +kernel

/-- R198, R199: loop-back of a stack that is online is dropped; a count of errors saturates, and reading it clears it. -/
theorem test_stack_control :
    (let t := after (.loopbackWrite 5 0x10001) work; ((t.chip.stack 5).loopback, (t.chip.head (.stackCtrl 5)).errStatus) = (0, 1)) ∧
    (let t := after (.stackOnlineWrite 5 0) work; ((t.chip.stack 5).online, (t.chip.stack 5).onlineAck) = (false, false)) ∧
    ((after (.lbRun 5 ⟨9, 3, 1, 1⟩) (withStack work 5 (fun x => { x with lbRun := true, loopback := 1, lbErrCount := 0xFFFFFFF8 }))).chip.stack 5).lbErrCount = 0xFFFFFFFF ∧
    (let t := after (.lbErrCountRead 5) (withStack work 5 (fun x => { x with lbErrCount := 6 })); (t.chip.out, (t.chip.stack 5).lbErrCount) = (.word 6, 0)) := by decide +kernel

theorem witness_stack_domains : (work.chip.stack 4).domainOn = true ∧ (State.reset.chip.stack 4).filled = false := by decide +kernel

theorem test_stack_domains :
    ((after (.stackSelfRefresh 4) work).chip.stack 4).selfRefresh = true ∧
    (let t := after (.stackDomainOff 4) (holding [1, 2]); (t.chip.dram, (t.chip.stack 4).domainOn) = ([], false)) ∧
    ((after (.stackFill 4) State.reset).chip.stack 4).filled = true := by decide +kernel

/-- Stack 4 owes pseudo-channel 9 n refreshes. -/
def owing (n : Nat) : State := withStack work 4 (fun x => { x with owed := [(9, n)] })

theorem witness_refreshes :
    work.chip.frozen = false ∧ Table.read 0 ((owing 1).chip.stack 4).owed 9 ≠ 0 ∧ (∀ e ∈ ((owing 1).chip.stack 4).engines, e.2.openBlock = none) ∧
    8 ≤ Table.read 0 ((owing 8).chip.stack 4).owed 9 := by decide +kernel

/-- R190: no more than eight are owed, and a forced one is recorded. -/
theorem test_refreshes :
    Table.read 0 ((after (.refreshInterval 4) (owing 8)).chip.stack 4).owed 9 = 8 ∧ Table.read 0 ((after (.refreshServe 4 9) (owing 1)).chip.stack 4).owed 9 = 0 ∧
    (let t := after (.forcedRefresh 4 9) (owing 8); (Table.read 0 (t.chip.stack 4).owed 9, (t.chip.head (.stackCtrl 4)).errStatus) = (7, 2)) := by decide +kernel

/-- One byte of the first codeword of stack 4 is in error, and two symbols of the second. -/
def erring : State :=
  { work with chip := { work.chip with codeErrors := [(cwKey 4 (sweepAddr 0 0), [(3, 0x10)]), (cwKey 4 (sweepAddr 0 0 + 64), [(3, 0x10), (9, 1)])] } }

/-- Stack 4's lap is 31 ms old and STALL_MS is 30. -/
def lapping : State := withStack work 4 (fun x => { x with ticks := 310000, stallMs := 30 })

theorem witness_scrubbing :
    (lapping.chip.stack 4).stallMs.toNat < (lapping.chip.stack 4).lapAge ∧ (erring.chip.stack 4).filled = true ∧ (erring.chip.stack 4).scrubEn = true ∧ 0 < sweepBursts ∧ (erring.chip.stack 4).retireTable = [] ∧
    decodePattern [(3, 0x10)] = .corrected 3 0x10 := by decide +kernel

/-- R418: one symbol is corrected and written back. R422: a stalled scrubber says so. -/
theorem test_scrubbing :
    Table.read [] (after (.scrubBurst 4 0) erring).chip.codeErrors (cwKey 4 (sweepAddr 0 0)) = [] ∧
    Table.read 0 ((after (.scrubBurst 4 0) erring).chip.stack 4).sweep 0 = 1 ∧
    ((after (.scrubStall 4) lapping).chip.stack 4).stalled = true ∧ ((after (.scrubStall 4) lapping).chip.head (.scrub 4)).errStatus = 0x10 := by decide +kernel

def poisoning (size : Nat) : State := withStack work 4 (fun x => { x with poisonBase := 0x2000, poisonSize := BitVec.ofNat 32 size })
def retiring : State := withStack work 4 (fun x => { x with retireBlock := 1, retireRepl := 9 })

theorem witness_poison_and_retirement :
    ((poisoning 4096).chip.stack 4).poisonBase.toNat % 4096 = 0 ∧ ((poisoning 4096).chip.stack 4).poisonSize.toNat = 4096 ∧ ((poisoning 4096).chip.stack 4).poisonBusy = false ∧
    ((poisoning 64).chip.stack 4).poisonSize.toNat % 4096 ≠ 0 ∧
    (retiring.chip.stack 4).retireBusy = false ∧ (retiring.chip.stack 4).retireTable = [] ∧ (retiring.chip.stack 4).retireBlock ≠ (retiring.chip.stack 4).retireRepl ∧
    ((withStack retiring 4 (fun x => { x with retireBusy := true })).chip.stack 4).retireBusy = true ∧ (∀ e ∈ (retiring.chip.stack 4).engines, e.2.openBlock ≠ some 1) ∧
    (∀ i, i < 1024 → Table.read [] retiring.chip.codeErrors (cwKey 4 (1 * 65536 + i * 64)) = []) ∧ (retiring.chip.die (stackDie 4)).ringOn = true := by decide +kernel

/-- R421: the log's oldest entry is read once. -/
theorem test_poison_and_retirement :
    Table.read [] (after (.poisonGo 4) (poisoning 4096)).chip.codeErrors (cwKey 4 0x2FC0) = [(64, 0x5A), (71, 0x5A)] ∧
    Table.read [] (after (.poisonGo 4) (poisoning 4096)).chip.codeErrors (cwKey 4 0x3000) = [] ∧
    ((after (.poisonGo 4) (poisoning 64)).chip.head (.scrub 4)).errStatus = 0x100 ∧
    ((after (.poisonDone 4) (withStack work 4 (fun x => { x with poisonBusy := true }))).chip.stack 4).poisonBusy = false ∧
    ((after (.retireGo 4) retiring).chip.stack 4).retireBusy = true ∧
    (after (.ceLogRead 4) (withStack work 4 (fun x => { x with ceLog := [⟨0x40, 3, 1, 0⟩] }))).chip.out = .word 0x40 := by decide +kernel

/-! ## Temperature and power -/

/-- Readings of a compute die and of a stack, in sixteenths of a degree: t everywhere, but one sensor. -/
def readings (n t i v : Nat) : List (BitVec 16) := (List.range n).map (fun k => BitVec.ofNat 16 (if k = i then v else t))

theorem witness_thermal :
    (∀ i, (Table.read {} (work.chip.die 1).sensors i).broken = false ∧ (Table.read {} (work.chip.die 1).sensors i).deviations < 15 ∧
      (Table.read {} (work.chip.die 1).sensors i).history.length < 20) ∧
    (∀ v ∈ [1599, 1600, 1760], (readings 64 800 47 v).length = 64 ∧ (∀ i, i < 64 → 48 ≤ i → ((readings 64 800 47 v).getD i 0).toInt < 1760)) ∧
    ((readings 64 800 47 1760).getD 47 0).toInt = 1760 ∧ ((readings 64 800 48 1760).getD 48 0).toInt = 1760 := by decide +kernel

/-- Die 1's ring has tripped at the given times. -/
def tripped (l : List Nat) : State :=
  let s := withDie work 1 (fun x => { x with ringOn := false, coreOn := false, ringReturned := true })
  { s with chip := { s.chip with power := { s.chip.power with ringTrips := [(1, l)], standby := standbyHour } } }

theorem witness_ring_and_core :
    (tripped [1]).chip.frozen = false ∧ ((tripped [1]).chip.die 1).ringOn = false ∧ (tripped [1]).chip.power.lockout = false ∧
    ((tripped [1]).chip.die 1).ringReturned = true ∧ Table.read [] (tripped [1]).chip.power.ringTrips 1 = [1] ∧ (∀ p, ((tripped [1]).chip.port p).queue = []) ∧
    (Table.read [] (tripped [3, 2, 1]).chip.power.ringTrips 1).filter (fun t => 3 < t + standbyHour) = [3, 2, 1] ∧
    (let s := withDie work 1 (fun x => { x with tripped := true, coreOn := false, sensors := [(3, { reading := 1359 })] })
     (s.chip.die 1).ringOn = true ∧ (s.chip.die 1).tripped = true ∧ ∀ e ∈ (s.chip.die 1).sensors, e.2.reading.toInt < 1360) ∧
    (let s := withDie work 1 (fun x => { x with tripped := true, coreOn := false, sensors := [(3, { reading := 1360 })] })
     (s.chip.die 1).tripped = true ∧ ∃ e ∈ (s.chip.die 1).sensors, 1360 ≤ e.2.reading.toInt) := by decide +kernel

/-- R425, R444: the ring returns, but not after a third trip within the hour. R453: the core domain returns below 85 °C, at duty 7. -/
theorem test_ring_and_core :
    ((after (.ringRestart 1) (tripped [standbyHour + 2, standbyHour + 1, 1])).chip.die 1).ringOn = true ∧ ((after (.ringRestart 1) (tripped [3, 2, 1])).chip.die 1).ringOn = false ∧
    (let x := (after (.coreRestart 1) (withDie work 1 (fun x => { x with tripped := true, coreOn := false, sensors := [(3, { reading := 1359 })] }))).chip.die 1
     (x.coreOn, x.guider.dThermal) = (true, 7)) ∧
    ((after (.coreRestart 1) (withDie work 1 (fun x => { x with tripped := true, coreOn := false, sensors := [(3, { reading := 1360 })] }))).chip.die 1).coreOn = false := by decide +kernel

/-- R447, R449: no rate until the 21st sample; then the reading minus the reading 20 samples back. -/
theorem test_rate_of_rise :
    ({ reading := 1128, history := 1128 :: List.replicate 20 1000 } : Sensor).rate 20 = some 128 ∧
    ({ reading := 1128, history := 1128 :: List.replicate 19 1000 } : Sensor).rate 20 = none := by decide +kernel

theorem witness_stack_trips :
    (work.chip.stack 4).domainOn = true ∧ (work.chip.stack 4).tripped = false ∧
    (∀ i, (Table.read {} (work.chip.stack 4).sensors i).broken = false ∧ (Table.read {} (work.chip.stack 4).sensors i).deviations < 15 ∧
      (Table.read {} (work.chip.stack 4).sensors i).history.length < 10) ∧
    (readings 24 800 8 1679).length = 24 ∧ (∀ i, i < 8 → ((readings 24 800 8 1679).getD i 0).toInt < 1760) ∧ (∀ i, i < 24 → 8 ≤ i → ((readings 24 800 8 1679).getD i 0).toInt < 1680) ∧
    ((readings 24 800 23 1680).getD 23 0).toInt = 1680 ∧ ((readings 24 800 0 1760).getD 0 0).toInt = 1760 ∧
    (let s := withStack work 4 (fun x => { x with tripped := true, sensors := [(3, { reading := 1359 })] })
     (s.chip.stack 4).tripped = true ∧ (∀ e ∈ (s.chip.stack 4).sensors, e.2.reading.toInt < 1360) ∧ s.chip.running (stackDie 4) = true ∧ lbMode (s.chip.stack 4).loopback = 0) := by
  decide +kernel

/-- R190: the interval shortens above 85 and above 95 °C. R454: firmware brings a stack back. -/
theorem test_stack_trips :
    refreshLevel 1360 = 0 ∧ refreshLevel 1361 = 1 ∧ refreshLevel 1521 = 2 ∧
    (let x := (after (.stackTripCleared 4) (withStack work 4 (fun x => { x with tripped := true, online := false, onlineAck := false }))).chip.stack 4; (x.tripped, x.onlineAck) = (false, true)) := by
  decide +kernel

theorem witness_power :
    (work.chip.die 1).ringOn = true ∧ RingUp work 1 ∧ ((withDie work 1 (fun x => { x with slewing := true })).chip.die 1).slewing = true ∧
    work.chip.running 0 = true ∧ work.chip.power.pLimit.toNat = 5200 ∧ work.chip.power.calmChecks < 999 ∧ (work.chip.die 1).point = 1 ∧
    ((withDie work 1 (fun x => { x with point := 2 })).chip.die 1).point = 2 ∧ (20 : Nat) * 4940 ≤ 19 * 5200 ∧ (19 : Nat) * 5200 < 20 * 4941 ∧ RingUp work 0 := by
  simp only [RingUp]
  decide +kernel

/-- R440 to R442, R455, R458. -/
theorem test_power :
    (let x := (after .pwrAlert work).chip.die 1; (x.alert, x.guider.duty) = (true, 4)) ∧ ((after .pwrAlertClear (after .pwrAlert work)).chip.die 1).alert = false ∧
    (let x := (after (.pointWrite 1 2) work).chip.die 1; (x.point, x.pointActive, x.slewing) = (2, 1, true)) ∧
    ((after (.supplySlewDone 1) (after (.pointWrite 1 2) work)).chip.die 1).pointActive = 2 ∧
    ((after (.envelopeCheck 5201) (withDie work 1 (fun x => { x with point := 2 }))).chip.die 1).point = 1 ∧
    ((after (.envelopeCheck 5201) work).chip.die 1).point = 0 ∧
    (after (.envelopeCheck 4940) work).chip.power.calmChecks = 1 ∧ (after (.envelopeCheck 4941) (after (.envelopeCheck 4940) work)).chip.power.calmChecks = 0 ∧
    (let t := after .eventsRead (tripped []); t.chip.out = .word 0) := by decide +kernel

theorem witness_lockout : ({ work with chip := { work.chip with power := { work.chip.power with lockout := true } } } : State).chip.power.lockout = true := by decide +kernel

theorem test_lockout :
    (let t := after .ovlo work; ((t.chip.die 3).ringOn, (t.chip.stack 9).domainOn, t.chip.power.ovloEv, t.chip.power.uvloEv) = (false, false, true, false)) := by decide +kernel

/-! ## Ulizen -/

def e3 : EngineId := ⟨4, 3⟩

/-- A word of an engine (R219). -/
def uword (op d a b c fmt seg mode flags h n : Nat) (imm : Word64) : BitVec 128 :=
  BitVec.ofNat 128 (op * 2 ^ 120 + d * 2 ^ 115 + a * 2 ^ 110 + b * 2 ^ 105 + c * 2 ^ 100 + fmt * 2 ^ 96 + seg * 2 ^ 92 + mode * 2 ^ 88 + flags * 2 ^ 84 + h * 2 ^ 80 + n * 2 ^ 64 + imm.toNat)

/-- A slot of dome 5 on engines 3 and 9; its first run is active. -/
def slot7 : Slot := { engines := 0x208, active := some 2, dome := 5, rdFrames := 4, wrFrames := 4 }

/-- Engine 3 of stack 4 executes a word at 20, in a run of slot 7. -/
def uopState (g : Engine) (w : BitVec 128) : State :=
  withStack mapped 4 (fun x => { x with slots := [(7, slot7)], engines := [(3, { g with slot := some 7, upc := 20 })], ustore := [(20, w)] })

/-- What the engine is after a command. -/
def engineAfter (i : Instr) (s : State) : Engine := (after i s).chip.engineOf 4 3

def slotState (x : Slot) : State := withStack work 4 (fun y => { y with slots := [(7, x)] })
def soundSlot : Slot := { engines := 8, cplBase := BitVec.ofNat 64 a3, argBase := BitVec.ofNat 64 a3, dome := 5, cplSig := selfAddr (objAddr (.stack 4 9)), cplScope := 3 }

/-- Slot 7's next run heads the queue; and its run 2 has ended on every engine. -/
def startState : State := withStack mapped 4 (fun y => { y with slots := [(7, { soundSlot with en := true, runSeq := 2 })], runQueue := [(7, 2, 3), (8, 0, 1)] })
def endState : State :=
  withObj (withStack mapped 4 (fun y => { y with slots := [(7, { soundSlot with active := some 2, ended := 8, runSeq := 3, tag := 77 })], engines := [(3, { slot := some 7 })] })) (.stack 4 9)
    (fun x => { x with assigned := true, dome := 5 })

theorem witness_slots :
    work.chip.frozen = false ∧ (work.chip.stack 4).domainOn = true ∧
    (let x := (slotState soundSlot).chip.slotOf 4 7
     x.engines ≠ 0 ∧ x.en = false ∧ x.active = none ∧ x.preLen.toNat ≤ 128 ∧ x.cplDepth.toNat ≤ 8 ∧ x.argDepth.toNat ≤ 8 ∧ x.argBase.toNat % 64 = 0 ∧ x.cplBase.toNat % 64 = 0) ∧
    ((slotState {}).chip.slotOf 4 7).engines = 0 ∧ ((slotState { soundSlot with en := true }).chip.slotOf 4 7).en = true ∧
    (∃ e ∈ ((withStack work 4 (fun y => { y with slots := [(8, { en := true, dbObj := 3 })] })).chip.stack 4).slots, e.1 ≠ 7 ∧ e.2.en = true ∧ e.2.dbObj = 3) ∧
    (startState.chip.stack 4).runQueue = (7, 2, 3) :: [(8, 0, 1)] ∧ (startState.chip.slotOf 4 7).active = none ∧
    (∀ e : Fin 32, (startState.chip.slotOf 4 7).engines.getLsbD e.val = true → ((startState.chip.stack 4).engine e).slot = none) ∧
    (startState.chip.slotOf 4 7).preLen = 0 ∧ startState.chip.findLine 4 (x3 / 256) = none ∧ a3 % 64 = 0 ∧ x3 % 64 = 0 ∧
    ((startState.chip.slotOf 4 7).argBase.toNat + (startState.chip.slotOf 4 7).runSeq.toNat % 2 ^ (startState.chip.slotOf 4 7).argDepth.toNat * 64) = a3 := by decide +kernel

theorem witness_runs :
    Reaches startState (startState.chip.runWho 4 7) a3 false 4 x3 ∧ Reaches endState (endState.chip.runWho 4 7) a3 true 4 x3 ∧
    (endState.chip.slotOf 4 7).active = some 2 ∧ (let x := endState.chip.slotOf 4 7; x.engines &&& ~~~(x.stopped ||| x.ended) = 0 ∧ x.runFault = none ∧ x.torn = false ∧ x.stopped = 0) ∧
    endState.chip.signalTarget (endState.chip.slotOf 4 7).cplSig = .ok (some (.stack 4 9)) ∧
    endState.chip.objRefusal (endState.chip.runWho 4 7) (.stack 4 9) true (some 3) = none ∧ (endState.chip.sync (unitOf (.stack 4 9))).clearBusy = false := by
  simp only [Reaches]
  decide +kernel

/-- R211, R213, R214, R217: enabling takes the fields; a slot without engines is malformed; a run starts with its argument block, and ends with its record. -/
theorem test_slots :
    (let x := (after (.slotCtrlWrite 4 7 0x80035123) (slotState soundSlot)).chip.slotOf 4 7; (x.en, x.dbObj, x.dome, x.entry) = (true, 3, 5, 0x123)) ∧
    ((after (.slotCtrlWrite 4 7 0x80035123) (slotState {})).chip.head (.ulizen 4)).errStatus = 0x400 ∧
    ((after (.slotCtrlWrite 4 7 0x80035123) (slotState { soundSlot with en := true })).chip.head (.ulizen 4)).errStatus = 0x100 ∧
    ((after (.slotRunSeqWrite 4 7 9) (slotState soundSlot)).chip.slotOf 4 7).runSeq = 9 ∧
    (let s := { startState with chip := { startState.chip with dram := [(dramKey 4 (x3 + 8), 6)] } }
     let g := engineAfter (.runStart 4 7) s; (g.slot, g.reg 1, g.reg 4, g.reg 17) = (some 7, 3, 2, 6)) ∧
    ((after (.runStart 4 7) startState).chip.stack 4).runQueue = [(7, 3, 2), (8, 0, 1)] ∧
    ((endState.chip.stack 4).record 7 (endState.chip.slotOf 4 7) 2 0).take 14 = [2, 0, 0, 0, 0, 0, 0, 0, 7, 0, 77, 0, 1, 0] ∧ ((after (.runEnd 4 7) endState).chip.obj (.stack 4 9)).count = 1 := by decide +kernel

theorem witness_unit_resets : work.chip.pageRefusal (.meridian 1) (.ulizen 4) = none ∧ work.chip.frozen = false ∧ (work.chip.stack 4).domainOn = true := by decide +kernel

/-- R208, R225, R236: the fourth part lands the word; an invalidation drops its handle's entries. -/
theorem test_unit_resets :
    (let w (s : State) (p : Fin 4) (v : Word32) : State := after (.microprogramWordWrite (.meridian 1) 4 20 p v) s
     let t := w (w (w work 0 1) 1 2) 2 3
     (Table.read 0 (t.chip.stack 4).ustore 20, Table.read 0 ((w t 3 4).chip.stack 4).ustore 20) = (0, 0x00000004000000030000000200000001)) ∧
    (let s := withStack work 4 (fun x => { x with lab := [(1, 0, 9), (2, 0, 9), (1, 1, 9)] })
     (((after (.labInval 4 1) s).chip.stack 4).lab.length, ((after (.labInvalAll 4) s).chip.stack 4).lab.length) = (1, 0)) ∧
    ((after (.labInvalComplete 4) (withStack work 4 (fun x => { x with labBusy := true }))).chip.stack 4).labBusy = false := by decide +kernel

/-- A vector register whose lanes from the first on are given; the others are 0. -/
def lanes (l : List Word32) : List Word32 := l ++ List.replicate (256 - l.length) 0

theorem full_lanes_empty : FullLanes {} := by
  intro r
  have h : ∀ q, Engine.vec {} q = zeroLanes := fun _ => rfl
  rw [h]
  decide +kernel

/-- One word of each scalar operation. -/
def scalarWords : List (Nat × BitVec 128) :=
  [(1, uword 1 5 0 0 0 0 0 0 0 0 0 9), (2, uword 2 5 6 7 0 0 0 10 0 0 0 9), (3, uword 3 0 6 7 0 0 0 4 0 0 0 9), (4, uword 4 5 6 0 0 0 0 3 0 0 0 8), (5, uword 5 0 6 7 0 0 0 0 0 0 0 65535),
   (6, uword 6 0 6 0 0 0 0 0 0 0 2 64), (0x24, uword 0x24 0 0 0 0 0 0 0 0 0 0 0), (0x3F, uword 0x3F 0 6 7 0 0 0 0 0 0 0 0)]

theorem witness_engine_scalars : ∀ w ∈ scalarWords, UopReady (uopState {} w.2) e3 w.1 7 w.2 := by
  simp only [UopReady]
  decide +kernel

theorem witness_follow : FollowOk ((uopState {} 0).chip.engineOf 4 3) := by
  intro g' h
  have hg : (uopState {} 0).chip.engineOf 4 3 = { slot := some 7, upc := 20 } := by decide +kernel
  rw [hg] at h
  simp only [Follows] at h
  omega

theorem witness_illegal_word :
    (let w := uword 1 5 6 0 0 0 0 0 0 0 0 9
     let s := uopState {} w
     s.chip.frozen = false ∧ (s.chip.stack 4).resetBusy = false ∧ (s.chip.engineOf 4 3).slot = some 7 ∧ (s.chip.slotOf 4 7).executes 3 = true ∧ (s.chip.stack 4).uword 20 = w ∧
     uopOf w = 1 ∧ uA w ≠ 0 ∧ (s.chip.slotOf 4 7).runFault = none) ∧
    (let w := uword 0x3F 0 6 7 0 0 0 0 0 0 0 0
     (∀ i, i < 3 → ((uopState {} w).chip.slotOf 4 7).engines.getLsbD i = false) ∧ (∃ i, i < 9 ∧ ((uopState {} w).chip.slotOf 4 7).engines.getLsbD i = true)) := by
  decide +kernel

/-- R220, R221. -/
theorem test_engine_scalars :
    (engineAfter (.alu e3) (uopState { u := [(6, 3), (7, 4)] } (uword 2 5 6 7 0 0 0 1 0 0 0 1))).reg 5 = 0xFFFFFFFFFFFFFFFE ∧
    (engineAfter (.br e3) (uopState { u := [(6, 3), (7, 4)] } (uword 3 0 6 7 0 0 0 3 0 0 0 0xFFFFFFFFFFFFFFFC))).upc = 16 ∧
    ((after (.br e3) (uopState {} (uword 3 0 0 0 0 0 0 0 0 0 0 4076))).chip.slotOf 4 7).runFault = some (Code.ulzPc, 3, 20, 0) ∧
    (let s := after (.st e3) (uopState { u := [(7, 0x1234)] } (uword 5 0 0 7 0 0 0 1 0 0 0 0xFFFE)); s.chip.storeRead 4 3 0xFFFE 2 = [0x34, 0x12]) ∧
    (let g := engineAfter (.rep e3) (uopState {} (uword 6 0 0 0 0 0 0 0 0 0 2 3)); (g.upc, g.rep) = (21, some ⟨2, 21, 23⟩)) ∧
    (let s := uopState {} (uword 1 5 6 0 0 0 0 0 0 0 0 9); ((after (.seti e3) s).chip.slotOf 4 7).stopped = 0x208) ∧
    (let t := after (.ulzEnd e3) (uopState { u := [(6, 11)] } (uword 0x3F 0 6 7 0 0 0 0 0 0 0 0)); ((t.chip.slotOf 4 7).ended, (t.chip.slotOf 4 7).userA) = (8, 11)) := by decide +kernel

/-- One word of each vector operation, on groups of two members. -/
def vectorWords : List (Nat × BitVec 128) :=
  [(0x08, uword 0x08 4 0 0 1 0 3 0 0 1 32 0), (0x09, uword 0x09 0 4 0 1 2 3 0 0 1 16 0), (0x0A, uword 0x0A 4 6 8 1 0 8 1 2 1 1 0), (0x0B, uword 0x0B 4 6 8 1 0 1 0 8 1 0 0), (0x0C, uword 0x0C 4 6 8 1 0 7 0 0 1 0 254),
   (0x0D, uword 0x0D 4 6 8 1 0 1 0 4 1 0 0), (0x0E, uword 0x0E 4 6 0 0 0 7 0 0 1 0 252), (0x0F, uword 0x0F 4 6 0 0 0 8 0 0 0 0 255), (0x10, uword 0x10 4 6 0 0 0 0 0 0 1 0 0), (0x11, uword 0x11 4 0 0 0 0 0 1 0 1 0 256),
   (0x31, uword 0x31 4 0 5 6 3 0 0 0 0 0 0)]

theorem witness_engine_vectors :
    ∀ w ∈ vectorWords, UopReady (uopState { u := [(5, 1)] } w.2) e3 w.1 7 w.2 := by
  simp only [UopReady]
  decide +kernel

theorem witness_engine_b_operands :
    ∀ w ∈ vectorWords, w.1 = 0x0A ∨ w.1 = 0x0B ∨ w.1 = 0x0D → ∀ h, h < uH w.2 → ∀ l, l < 256 → (bPlace w.2 0 h l).2 ≤ 255 := by decide +kernel

theorem test_engine_vectors :
    (engineAfter (.vop e3) (uopState { v := [(6, lanes [0x40000000]), (8, lanes [0x3F800000])] } (uword 0x0A 4 6 8 0 0 0 0 0 0 0 0))).lane 4 0 = 0x40400000 ∧
    (let s := uopState { v := [(6, lanes [0x40000000, 0x3F800000]), (8, lanes [0x40400000, 0x40800000])] } (uword 0x0C 4 6 8 0 0 4 0 0 0 0 128)
     let g := engineAfter (.dot e3) s; (g.lane 4 128, g.lane 4 127) = (0x41200000, 0)) ∧
    (engineAfter (.maxred e3) (uopState { v := [(6, lanes [0xBF800000, 0xC0000000])] } (uword 0x0E 4 6 0 0 0 1 0 0 0 0 7))).lane 4 7 = 0xBF800000 ∧
    (engineAfter (.fold e3) (uopState { v := [(6, List.replicate 256 0x3F800000)] } (uword 0x10 4 6 0 0 0 0 0 0 0 0 0))).lane 4 127 = 0x40000000 ∧
    (let g := engineAfter (.fill e3) (uopState {} (uword 0x11 4 0 0 0 0 0 0 0 0 0 255)); (g.lane 4 254, g.lane 4 255) = (0, 0xFF800000)) := by decide +kernel

/-- R223: a bit of the bitmap adds a row of the store and moves the cursor. -/
theorem test_delta :
    (let s := uopState { u := [(5, 3), (6, 0x100)] } (uword 0x31 4 0 5 6 3 0 0 0 0 0 0)
     let s := { s with chip := s.chip.storeWrite 4 3 0x100 [0x38] }
     let g := engineAfter (.delta e3) s; (g.lane 4 0, g.reg 5, g.reg 6) = (0x3F800000, 1, 0x200)) := by decide +kernel

/-- The engine's block 0x20001 of frame 2 is open, its registers and lanes as given. -/
def openState (u : Table (Fin 32) Word64) (w : BitVec 128) : State := uopState { u := u, openBlock := some 0x8001 } w

def pageWord : BitVec 32 := BitVec.ofNat 32 (4 * 2 ^ 27 + 0x80010)
def pagedState (w : BitVec 128) (u : Table (Fin 32) Word64) : State :=
  withStack (uopState { u := u } w) 4 (fun x => { x with slots := [(7, { slot7 with headers := [(6, 100, 9, 700)] })], lab := [(6, 2, pageWord), (6, 0, pageWord)] })

/-- Words of the memory operations, on an engine whose block is open. -/
def memoryWords : List (Nat × BitVec 128) :=
  [(0x20, uword 0x20 0 5 0 0 0 0 0 0 0 0 (BitVec.ofNat 64 x3)), (0x20, uword 0x20 0 5 0 0 0 0 0 0 0 0 0), (0x21, uword 0x21 4 0 0 5 3 0 0 0 0 0 0), (0x22, uword 0x22 0 6 7 5 0 0 0 0 0 64 0),
   (0x23, uword 0x23 0 4 0 5 1 0 0 0 0 0 64), (0x29, uword 0x29 0 0 0 5 0 0 0 0 0 64 (BitVec.ofNat 64 a3)), (0x2A, uword 0x2A 0 0 0 5 0 0 0 0 0 64 (BitVec.ofNat 64 a3))]
/-- DOT and ACC under STR. -/
def streamedWords : List (Nat × BitVec 128) := [(0x0C, uword 0x0C 4 5 8 0 3 8 0 1 0 0 255), (0x0D, uword 0x0D 4 5 8 0 3 0 0 1 0 0 0)]

theorem witness_engine_memory : ∀ w ∈ memoryWords, UopReady (openState [] w.2) e3 w.1 7 w.2 := by
  simp only [UopReady]
  decide +kernel

theorem witness_streamed : ∀ w ∈ streamedWords, UopReady (openState [] w.2) e3 w.1 7 w.2 ∧ uStr w.2 = true ∧ uInc w.2 = false ∧ uA w.2 ≠ 0 := by
  simp only [UopReady]
  decide +kernel

theorem witness_open_block :
    slot7.rdFrames.getLsbD (x3 / 2 ^ 30) = true ∧ slot7.rdFrames.getLsbD 0 = false ∧ (∀ p, Table.read 0 ((openState [] 0).chip.stack 4).owed p = 0) ∧
    ((openState [] 0).chip.stack 4).retireBusy = false ∧ ((openState [] 0).chip.slotOf 4 7).runFault = none ∧
    slot7.wrFrames.getLsbD ((0x8001 * 65536 + 64) / 2 ^ 30) = true ∧ ((openState [] 0).chip.engineOf 4 3).openBlock = some 0x8001 ∧
    ((openState [] 0).chip.stack 4).foreign 3 = [] ∧ (openState [] 0).chip.codeErrors = [] := by decide +kernel

theorem witness_fetch_and_send :
    Reaches (uopState {} 0) ((uopState {} 0).chip.runWho 4 7) a3 false 4 x3 ∧ Reaches (uopState {} 0) ((uopState {} 0).chip.runWho 4 7) a3 true 4 x3 ∧
    (uopState {} 0).chip.findLine 4 (x3 / 256) = none ∧ streamOk 3 0 ∧ streamOk 3 65280 := by
  simp only [Reaches, streamOk]
  decide +kernel

theorem witness_pages :
    (let w := uword 0x28 10 5 0 0 0 0 1 0 0 0 2
     let s := pagedState w [(5, 6)]
     UopReady s e3 0x28 7 w ∧ (s.chip.slotOf 4 7).headers.find? (fun h => h.1.toNat = 6) = some (BitVec.ofNat 32 6, 100, 9, 700) ∧
     (s.chip.stack 4).lab.find? (fun h => h.1.toNat = 6 ∧ h.2.1 = 2) = some (BitVec.ofNat 32 6, 2, pageWord)) ∧
    pageWord.extractLsb' 24 3 = 0 ∧ (pageWord.extractLsb' 27 5).toNat = 4 ∧
    (let w := uword 0x30 0 5 6 7 4 0 0 0 0 1 512
     let s := pagedState w [(5, 6)]
     UopReady s e3 0x30 7 w ∧ (s.chip.slotOf 4 7).headers.find? (fun h => h.1.toNat = 6) = some (BitVec.ofNat 32 6, 100, 9, 700) ∧
     (s.chip.stack 4).lab.find? (fun h => h.1.toNat = 6 ∧ h.2.1 = 0) = some (BitVec.ofNat 32 6, 0, pageWord) ∧ slot7.rdFrames.getLsbD (0x80010 * 4096 / 2 ^ 30) = true ∧
     (s.chip.stack 4).retireTable = [] ∧ (s.chip.stack 4).foreign 3 = [] ∧ s.chip.codeErrors = []) := by
  simp only [UopReady]
  decide +kernel

/-- R220, R223, R224, R233. -/
theorem test_engine_memory :
    (engineAfter (.rowOpen e3) (uopState {} (uword 0x20 0 5 0 0 0 0 0 0 0 0 (BitVec.ofNat 64 x3)))).openBlock = some 0x8000 ∧
    ((after (.rowOpen e3) (uopState {} (uword 0x20 0 5 0 0 0 0 0 0 0 0 0))).chip.slotOf 4 7).runFault = some (Code.frameDenied, 3, 20, 0) ∧
    (let s := openState [] (uword 0x21 4 0 0 5 3 0 0 0 0 0 0)
     let s := { s with chip := { s.chip with dram := [(dramKey 4 (0x8001 * 65536 + 255), 0x38)] } }
     (engineAfter (.stream e3) s).lane 4 255 = 0x3F800000) ∧
    (let s := uopState { v := [(4, lanes [0x3F800000])], openBlock := some 0x8001 } (uword 0x23 0 4 0 5 1 0 0 0 0 0 64)
     dramBytes (after (.write e3) s) 4 (0x8001 * 65536 + 64) 2 = [0x80, 0x3F]) ∧
    (let s := uopState {} (uword 0x2A 0 0 0 5 0 0 0 0 0 8 (BitVec.ofNat 64 a3))
     let s := { s with chip := s.chip.storeWrite 4 3 0 [7] }
     dramBytes (after (.send e3) s) 4 x3 2 = [7, 0]) ∧
    (let g := engineAfter (.page e3) (pagedState (uword 0x28 10 5 0 0 0 0 1 0 0 0 2) [(5, 6)]); (g.reg 10, g.reg 11, g.reg 12) = (0x80010000, 188, 2)) := by decide +kernel

/-! ## Objects and notifications -/

/-- Object obj0 of dome 5, armed at a threshold; its notification queue. -/
def armed (n : Word64) (t : BitVec 48) : State := withObj work obj0 (fun _ => { count := n, arm := true, threshold := t, assigned := true, dome := 5 })
/-- Cluster c0, its cores and hart 0 of die 1 belong to dome 5. -/
def ofDome5 (s : State) : State :=
  let s := withCluster s c0 (fun x => { x with assigned := true, dome := 5 })
  { s with chip := s.chip.updHart ⟨1, 0⟩ (fun x => { x with assigned := true, dome := 5, run := true, fetching := true }) }
def h0 : HartId := ⟨1, 0⟩

theorem witness_objects :
    (armed 3 4).chip.frozen = false ∧ ((armed 3 4).chip.sync (unitOf obj0)).clearBusy = false ∧ mayIssue (.meridian 1) .read = true ∧ mayIssue (.meridian 1) .set = true ∧
    mayIssue (.meridian 1) .arm = true ∧ mayIssue (.meridian 1) .disarm = true ∧ (armed 3 4).chip.objRefusal (whoOf (.meridian 1)) obj0 false none = none ∧
    mayIssue (.de k0) .signal = true ∧ (ofDome5 (armed 3 4)).chip.objRefusal (whoOf (.de k0)) obj0 true (some 1) = none ∧
    (armed 3 4).chip.objRefusal (whoOf (.hart h0)) obj0 false none = some Code.syncDenied ∧ (ofDome5 (armed 3 4)).chip.objRefusal (whoOf (.de k0)) obj0 false none = none := by
  decide +kernel

/-- R276, R280, R282: a count that reaches its threshold notifies and disarms; SET disarms; READ gives both words. -/
theorem test_objects :
    (let t := after (.objSignal (.de k0) obj0 1 (some 1)) (ofDome5 (armed 3 4)); ((t.chip.obj obj0).count, (t.chip.obj obj0).arm, (t.chip.sync (.die 1)).notes) = (4, false, [77])) ∧
    (let t := after (.objSignal (.de k0) obj0 1 (some 1)) (ofDome5 (armed 3 5)); ((t.chip.obj obj0).arm, (t.chip.sync (.die 1)).notes) = (true, [])) ∧
    (let t := after (.objSet (.meridian 1) obj0 9) (armed 3 4); ((t.chip.obj obj0).count, (t.chip.obj obj0).arm, (t.chip.sync (.die 1)).notes) = (9, false, [])) ∧
    ((after (.objArm (.meridian 1) obj0 2) (armed 3 4)).chip.sync (.die 1)).notes = [77] := by decide +kernel

theorem test_object_reads :
    (after (.objRead (.meridian 1) obj0) (armed 3 4)).chip.out = .word (3 + (4 + 2 ^ 63) * 2 ^ 64) ∧
    ((after (.objDisarm (.meridian 1) obj0) (armed 3 4)).chip.obj obj0).arm = false ∧
    ((after (.objSet (.hart h0) obj0 9) (armed 3 4)).chip.hart h0).exception = some 7 := by decide +kernel

/-- The SYNC block of die 1 with a queue of notifications. -/
def notified (f : SyncBlock → SyncBlock) (s : State) : State := { s with chip := s.chip.updSync (.die 1) f }
def routedTo (w : Word32) : State := withFw (notified (fun x => { x with notes := [77, 5] }) work) (fun f => { f with routes := [(obj0, some w)] })

theorem witness_notifications :
    work.chip.pageRefusal (.meridian (syncDie (.die 1))) (.sync (.die 1)) = none ∧ (work.chip.sync (.die 1)).clearBusy = false ∧
    (let s := notified (fun x => { x with clearBusy := true, held := [(.de k0, obj0, .signal 2 (some 1))] }) (ofDome5 (armed 3 9))
     (s.chip.sync (.die 1)).held = [(.de k0, obj0, .signal 2 (some 1))] ∧ s.chip.objRefusal (whoOf (.de k0)) obj0 true (some 1) = none) ∧
    ((notified (fun x => { x with clearBusy := true }) work).chip.sync (.die 1)).held = [] ∧
    (let s := notified (fun x => { x with notes := [77, 5] }) work; (s.chip.sync (.die 1)).notes = 77 :: [5] ∧ ∀ e ∈ s.chip.objs, unitOf e.1 = .die 1 → e.2.notesPending = 0) ∧
    (let s := withObj (notified (fun x => { x with notes := [3] }) work) obj0 (fun x => { x with notesPending := 1 })
     (obj0, s.chip.obj obj0) ∈ s.chip.objs ∧ 0 < (s.chip.obj obj0).notesPending ∧ ∀ e ∈ s.chip.objs, unitOf e.1 = .die 1 → 0 < e.2.notesPending → numOf obj0 ≤ numOf e.1) ∧
    work.chip.running 1 = true ∧ Table.read none (routedTo 0x80090123).fw.routes (objIn (.die 1) 77) = some 0x80090123 ∧
    (let s := routedTo 127
     let s := { s with chip := s.chip.updFn .pf (fun x => { x with msixEnable := true, msixTable := [(4 * 127 + 3, 0)] }) }
     (s.chip.fn .pf).msixEnable = true ∧ (Table.read 1 (s.chip.fn .pf).msixTable (4 * 127 + 3)).getLsbD 0 = false) := by decide +kernel

theorem test_notifications :
    (after (.clearAll (.die 1)) (armed 3 4)).chip.obj obj0 = {} ∧
    (let t := after (.noteRead (.die 1)) (routedTo 0); (t.chip.out, (t.chip.sync (.die 1)).notes) = (.word (2 ^ 31 + 77), [5])) ∧
    ((after (.clearAllDone (.die 1)) (notified (fun x => { x with clearBusy := true, held := [(.de k0, obj0, .signal 2 (some 1))] }) (ofDome5 (armed 3 9)))).chip.obj obj0).count = 5 ∧
    (after (.notificationForward (.die 1)) (routedTo 0x80090123)).fw.imsicSent = [(⟨0, 9⟩, 0x123)] := by decide +kernel

/-! ## Host-class cores -/

/-- Hart h0 of dome 5 executes; the host caches of its die hold the block of a3. -/
def hosted : State := ofDome5 mapped
def block3 : HostLine := ⟨1, a3 / 64, List.replicate 64 7, true⟩
def hostCached : State := { hosted with chip := { hosted.chip with hostCache := [block3] } }
def hartReq (a : Nat) (c : Bool) (v : Option Word64) : HartReq := ⟨BitVec.ofNat 56 a, c, 3, v⟩

theorem witness_harts :
    HartUp hosted h0 ∧ Reaches hosted (whoOf (.hart h0)) a3 false 4 x3 ∧ Reaches hosted (whoOf (.hart h0)) (a3 + 56) true 4 (x3 + 56) ∧ hosted.chip.findLine 4 (x3 / 256) = none ∧
    (2 : Nat) ^ (hartReq a3 true none).size.val = 8 ∧ (hartReq a3 true none).addr.toNat = a3 := by
  simp only [HartUp, RingUp, Reaches]
  decide +kernel

theorem witness_host_caches :
    HartUp hostCached h0 ∧ hostCached.chip.hostLine 1 (a3 / 64) = some block3 ∧ block3.data.length = 64 ∧ hostCached.chip.cachedRefusal (whoOf (.hart h0)) (a3 / 64 * 64) false = none ∧
    hostCached.chip.cachedRefusal (whoOf (.hart h0)) (a3 / 64 * 64) true = none ∧ hosted.chip.hostLine 1 (a3 / 64) = none ∧
    Reaches hostCached (whoOf (.meridian 1)) (a3 / 64 * 64) true 4 x3 ∧ block3.dirty = true ∧ x3 % 64 = 0 := by
  simp only [HartUp, RingUp, Reaches]
  decide +kernel

theorem witness_hart_refusals :
    regionUsable (Table.read 0 (hosted.chip.die h0.die).regions (clip 2048 (4 * 2 ^ 30 / 2 ^ 30))) = false ∧ (hosted.chip.hart h0).reservation ≠ some (a3 / 64) ∧
    ((hosted.chip.updHart h0 (fun x => { x with reservation := some (a3 / 64) })).hart h0).reservation = some (a3 / 64) := by decide +kernel

theorem witness_no_producers : QueuesQuiet hosted := by intro n q h; simp [hosted, ofDome5, mapped, work, withCluster, withDie, Chip.updCluster, Chip.updDie, Firmware.queue, Table.read] at h

/-- R270: a store reaches DRAM uncached and the block cached. R271: SC succeeds under its reservation and fails without. R269: a clean writes a dirty block back. -/
theorem test_harts :
    (after (.hartMemoryAccess h0 (hartReq a3 false (some 0x0102))) hosted).chip.dram = [(dramKey 4 x3, 2), (dramKey 4 x3 + 1, 1)] ∧
    ((after (.hartMemoryAccess h0 (hartReq a3 true none)) hostCached).chip.hart h0).rd = 0x0707070707070707 ∧
    ((after (.sc h0 (BitVec.ofNat 56 a3) true true 1) hostCached).chip.hart h0).rd = 1 ∧
    (let s := after (.lr h0 (BitVec.ofNat 56 a3) true true) hostCached; ((after (.sc h0 (BitVec.ofNat 56 a3) true true 1) s).chip.hart h0).rd = 0) ∧
    (dramBytes (after (.cboClean h0 (BitVec.ofNat 56 a3)) hostCached) 4 (x3 + 62) 3 = [7, 7, 0]) ∧
    (after (.cboInval h0 (BitVec.ofNat 56 a3)) hostCached).chip.hostCache = [] ∧
    ((after (.hartMemoryAccess h0 (hartReq (4 * 2 ^ 30) true none)) hosted).chip.hart h0).exception = some 5 := by decide +kernel

/-- R270: an AMO on a 32-bit element answers the old one, sign-extended. -/
theorem test_amo :
    (let s := { hosted with chip := { hosted.chip with dram := Memory.putBytes [] (dramKey 4 x3) [0, 0, 0, 0x80] } }
     let t := after (.hartAmo h0 ⟨BitVec.ofNat 56 a3, 1, false, 5, false, false⟩) s
     ((t.chip.hart h0).rd, dramBytes t 4 x3 4) = (0xFFFFFFFF80000000, [5, 0, 0, 0x80])) := by decide +kernel

def emitting (f : Hart → Hart) : State := { hosted with chip := hosted.chip.updHart h0 f }

theorem witness_emission :
    RingUp hosted 1 ∧ ((emitting (fun x => { x with inReset := true })).chip.hart h0).inReset = true ∧
    (let s := emitting (fun x => { x with tokens := [9], emitDst := BitVec.ofNat 64 a3 })
     (s.chip.hart h0).tokens = 9 :: [] ∧ (s.chip.hart h0).emitDst.toNat % 4 = 0 ∧ Reaches s (whoOf (.hart h0)) a3 true 4 x3 ∧ s.chip.findLine 4 (x3 / 256) = none) ∧
    (let s := emitting (fun x => { x with tokens := [9], emitHost := true })
     (s.chip.hart h0).emitHost = true ∧ (s.chip.hart h0).emitFn = 0 ∧ (s.chip.die 0).ringOn = true ∧ s.chip.link.link0Up = true) ∧
    ((hosted.chip.die 1).tap.put 2 (hosted.chip.hart h0).dome 1).2 = 1 ∧ (hosted.chip.hart h0).assigned = true ∧ (hosted.chip.hart h0).emitFn = 0 ∧
    (let s := emitting (fun x => { x with assigned := false }); HartUp s h0 ∧ (s.chip.hart h0).assigned = false) := by
  simp only [HartUp, RingUp, Reaches]
  decide +kernel

/-- R396: a token is accepted and counted; a value of more than 32 bits is an illegal instruction; the token reaches its destination. -/
theorem test_emission :
    (let t := after (.emit h0 9) hosted; ((t.chip.hart h0).tokens, (t.chip.die 1).tap.buffer) = ([9], [⟨2, 5, 1⟩])) ∧
    ((after (.emit h0 0x100000000) hosted).chip.hart h0).exception = some 2 ∧
    (let t := after (.emitTokenWrite h0) (emitting (fun x => { x with tokens := [9], emitDst := BitVec.ofNat 64 a3 })); ((t.chip.hart h0).emitDst.toNat, dramBytes t 4 x3 1) = (a3 + 4, [9])) ∧
    (after (.emitTokenWrite h0) (emitting (fun x => { x with tokens := [9], emitHost := true, emitDst := 0x40 }))).hostMem = [(0x40, 9)] ∧
    ((after (.emitdstWrite h0 8) hosted).chip.hart h0).emitDst = 8 ∧ ((after (.emitcfgWrite h0 0x301) hosted).chip.hart h0).emitFn = 3 ∧
    ((after (.hartFence h0 15 15) (emitting (fun x => { x with tokens := [9], emitDst := BitVec.ofNat 64 a3 }))).chip.hart h0).tokens = [] ∧
    ((after (.hostcoreReset h0 true) hosted).chip.hart h0).fetching = false ∧ ((after (.hostcoreRun h0 false) hosted).chip.hart h0).fetching = false := by decide +kernel

/-! ## The fabric -/

/-- Port 5, on die 2, with its fields as given. -/
def p5 : PortId := 5
def withPort (s : State) (f : Port → Port) : State := { s with chip := s.chip.updPort p5 f }
def portState (f : Port → Port) : State := withPort work f

/-- A neighbour: another module, whose port points down. -/
def neighbour : Finder := { uid := Config.uid + 1, port := 3, lanes := 15, width := 3, moduleId := 9, idValid := true, direction := 2, mgmt := false, mgrUid := 0 }
def activePort (x : Port) : Port := { x with enable := true, state := 6, lanes := 15, candidate := 15, width := 3, direction := 1, nbr := some neighbour, nbrValid := true }

theorem uid_moves : neighbour.uid ≠ Config.uid := by
  intro h
  have h := congrArg BitVec.toNat h
  simp only [neighbour, BitVec.toNat_add] at h
  have := Config.uid.isLt
  simp at h
  omega

theorem witness_training :
    work.chip.portLive p5 = true ∧ (work.chip.port p5).enable = false ∧
    (let x := (portState (fun x => { x with state := 1 })).chip.port p5; x.state = 1 ∧ 9 &&& x.laneMask ≠ 0) ∧
    (let x := (portState (fun x => { x with state := 2, candidate := 3 })).chip.port p5; x.state = 2 ∧ x.candidate &&& 1 ≠ 0 ∧ x.candidate &&& 12 = 0 ∧ x.candidate ≠ 0) ∧
    (let x := (portState (fun x => { x with state := 3, candidate := 3, locks := [(0, 63), (1, 64)] })).chip.port p5; x.state = 3 ∧ x.candidate.getLsbD 0 = true) ∧
    (let x := (portState (fun x => { x with state := 4, candidate := 3 })).chip.port p5; x.state = 4 ∧ x.candidate &&& 6 ≠ 0 ∧ x.candidate &&& 12 = 0) ∧
    (let x := (portState (fun x => { x with state := 5 })).chip.port p5; x.state = 5 ∧ x.state ≠ 0 ∧ x.state ≠ 6) ∧
    (let x := (portState (fun x => { x with state := 6, enable := true, candidate := 15, lanes := 15 })).chip.port p5
     x.state = 6 ∧ x.enable = true ∧ x.queue = [] ∧ x.candidate &&& ~~~(BitVec.ofNat 4 (2 ^ 3)) ≠ 0 ∧ (lanesKept (x.candidate &&& ~~~(BitVec.ofNat 4 (2 ^ 3)))).1 ≠ x.lanes) ∧
    (let x := (portState (fun x => { x with state := 6, candidate := 7, lanes := 3 })).chip.port p5; (lanesKept (x.candidate &&& ~~~(BitVec.ofNat 4 (2 ^ 2)))).1 = x.lanes) := by
  decide +kernel

def cleanFlit (n : BitVec 12) : FlitHead := ⟨n, 0, false, 0, 0⟩

/-- R343, R344: probing, locking, agreeing on the width, losing a lane. -/
theorem test_training :
    (let x := (after (.detectProbe p5 9) (portState (fun x => { x with state := 1, laneMask := 3 }))).chip.port p5; (x.state, x.candidate) = (2, 1)) ∧
    ((after (.idleFlit p5 0 .clean (cleanFlit 0)) (portState (fun x => { x with state := 3, candidate := 3, locks := [(0, 63), (1, 64)] }))).chip.port p5).state = 4 ∧
    (let x := (after (.ctrlFlit p5 (cleanFlit 0) 13) (portState (fun x => { x with state := 4, candidate := 15 }))).chip.port p5; (x.state, x.lanes, x.width) = (5, 12, 2)) ∧
    (let x := (after (.laneLockLost p5 1) (portState (fun x => { x with state := 6, enable := true, candidate := 15, lanes := 15, width := 3 }))).chip.port p5; (x.state, x.lanes, x.width) = (6, 12, 2)) ∧
    ((after (.finderFrame p5 neighbour) (portState (fun x => { x with state := 5 }))).chip.port p5).state = 6 ∧
    ((after (.trainingTimeout p5) (portState (fun x => { x with state := 5, lanes := 3 }))).chip.port p5).state = 1 ∧
    ((after (.retrain p5) (portState activePort)).chip.head (.kuzopaPort p5)).errStatus = 2 := by decide +kernel

/-- A request of module 9, whose route leads back by port 5. -/
def request (op : BitVec 6) (a : Nat) (bs : List Byte) (v : Word64) : FabricReq :=
  { op := op, down := false, hops := 3, dst := 4, src := 9, hint := 0, fmt := 11, aop := 1, lenM1 := 3, addr := BitVec.ofNat 64 a, tag := 8, txn := 6, active := 1, die := 2, operand := v, operand2 := 0, data := bs }

/-- Region 3 of die 2 for other modules. -/
def linked : State :=
  let s := withDie work 2 (fun x => { x with regions := [(3, entry3 ||| BitVec.ofNat 64 (3 * 2 ^ 48))] })
  let s := withPort s activePort
  { s with chip := { s.chip with fabric := { s.chip.fabric with idValid := true, moduleId := 4, ingressEn := true, routes := [(9, 0x80000005)] } } }

theorem port_usable : linked.chip.usable true p5 = true := by
  have h : (linked.chip.port p5).orientOk = true := by
    have : linked.chip.port p5 = activePort {} := by rfl
    rw [this]
    simp [Port.orientOk, activePort, uid_moves, show neighbour.direction = 2 from rfl]
  have h6 : (linked.chip.port p5).state = 6 := rfl
  simp [Chip.usable, h, h6]

theorem link_routed : Routed linked 9 := by
  refine ⟨by decide +kernel, p5, by decide +kernel, port_usable⟩

theorem link_up : LinkUp linked p5 := ⟨by decide +kernel, rfl⟩

theorem witness_admitted : Admitted linked p5 (request 1 a3 [] 0) := ⟨link_up, rfl, rfl, by decide, rfl, link_routed⟩

theorem witness_flits :
    (linked.chip.port p5).lanes.getLsbD 3 = true ∧ (cleanFlit 0).seq = (linked.chip.port p5).rxSeq ∧ (cleanFlit 7).seq ≠ (linked.chip.port p5).rxSeq ∧ (cleanFlit 0).ack = (linked.chip.port p5).txSeq ∧
    (let x := (withPort linked (fun x => { x with queue := [(1, 16, .req (request 2 a3 (List.replicate 256 1) 0))], credits := [(1, 18)] })).chip.port p5
     x.mgmtBuf = none ∧ x.retry.length < 256 ∧ x.queue = [(1, 16, .req (request 2 a3 (List.replicate 256 1) 0))] ∧
     msgLength (.req (request 2 a3 (List.replicate 256 1) 0)) ≤ 16 * Table.read 0 x.credits 1) := by decide +kernel

theorem witness_remote_accesses :
    Reaches linked (remoteWho p5 (request 1 a3 [] 0)) a3 false 4 x3 ∧ Reaches linked (remoteWho p5 (request 2 a3 [1, 2] 0)) a3 true 4 x3 ∧ linked.chip.findLine 4 (x3 / 256) = none ∧
    localOf (request 1 a3 [] 0).addr = a3 ∧ a3 % 64 + ((request 1 a3 [] 0).lenM1.toNat + 1) ≤ 64 ∧
    (let s := withObj linked (.die 2 6) (fun x => { x with fabricOpen := true })
     place (localOf (request 5 (objAddr (.die 2 6)) [] 3).addr) = .obj (.die 2 6) 0 ∧ s.chip.objRefusal (remoteWho p5 (request 5 (objAddr (.die 2 6)) [] 3)) (.die 2 6) true none = none) ∧
    (linked.chip.die (portDie p5)).dbRx.length < 16 ∧ (linked.chip.die (portDie p5)).coel.armed = false := by
  simp only [Reaches]
  decide +kernel

/-- Die 1 waits for transaction 6. -/
def waiting6 : State := withDie linked 1 (fun x => { x with txns := [⟨6, .doorbell 1, 0, 0⟩] })
def response (op : BitVec 6) : FabricRsp := { op := op, down := false, hops := 3, dst := 4, src := 9, txn := 6, die := 1, tag := 0, fault := 0, data := [7] }

theorem witness_responses :
    (response 0x21).dst = waiting6.chip.fabric.moduleId ∧ (response 0x21).src ≠ waiting6.chip.fabric.moduleId ∧ waiting6.chip.route (portDie p5) 1 = true ∧
    (waiting6.chip.die 1).txns.find? (fun t => t.num = 6) = some ⟨6, .doorbell 1, 0, 0⟩ ∧ RingUp waiting6 1 ∧ (waiting6.chip.die 1).coel.armed = false ∧ (∀ e, (linked.chip.die e).ringOn = true) ∧
    (linked.chip.die 1).txns.length + (linked.chip.die 1).retired.length < 65536 ∧
    ((withDie linked 1 (fun x => { x with dbRx := [(9, 5)] })).chip.die 1).dbRx = (9, 5) :: [] ∧ work.chip.fabric.idValid = false := by
  simp only [RingUp]
  decide +kernel

/-- R357, R361: a response answers its waiter and ends its transaction; a time-out retires the number. -/
theorem test_responses :
    (let t := after (.loadRsp p5 (response 0x21)) waiting6; (t.chip.out, (t.chip.die 1).txns) = (.bytes [7], [])) ∧
    (let t := after (.respTimeout 1 6) waiting6; (t.chip.out, (t.chip.die 1).retired) = (.fault Code.respTimeout, [6])) ∧
    (let t := after (.dbRxSrcRead 1) (withDie linked 1 (fun x => { x with dbRx := [(9, 5)] })); (t.chip.out, (t.chip.die 1).dbRxData) = (.word (2 ^ 31 + 9), 5)) ∧
    (after (.dbTxDataWrite 1 5) work).chip.out = .fault Code.idUnassigned := by decide +kernel

/-- A management packet of manager 7 for the FABRIC_ROUTE page. -/
def packetOf (op : Byte) (hops ptr : BitVec 4) : MgmtPacket :=
  { op := op, hops := hops, ptr := ptr, fault := 0, target := 1, flags := 1, offset := 8, fwd := 0, rev := 0x50, data := 0x80000005, srcUid := 7 }
def managed (f : Fabric → Fabric) : State := { linked with chip := { linked.chip with fabric := f linked.chip.fabric } }

theorem witness_management :
    (let f := (managed (fun f => { f with mgmtBuf := mgmtBits (packetOf 0x31 0 0) })).chip.fabric
     f.mgmtBusy = false ∧ f.mgmtLock = false ∧ f.mgrClaimed = false ∧ mgmtOf f.mgmtBuf = packetOf 0x31 0 0) ∧
    (linked.chip.port p5).mgmtBuf = none ∧ (linked.chip.port p5).retry.length < 256 ∧ (packetOf 0x30 1 1).ptr = (packetOf 0x30 1 1).hops ∧ (packetOf 0x30 1 1).ptr ≠ 0 ∧
    (packetOf 0x30 1 1).target.extractLsb' 0 2 = 1 ∧ (managed (fun f => { f with mgrClaimed := true, mgrUid := 7 })).chip.fabric.mgrUid = (packetOf 0x31 1 1).srcUid ∧
    (managed (fun f => { f with mgmtLock := true })).chip.fabric.mgmtLock = true ∧ (managed (fun f => { f with mgmtBusy := true })).chip.fabric.mgmtBusy = true ∧
    (packetOf 0x38 1 0).ptr = 0 := by decide +kernel

/-- R348 to R351: the manager writes a route; a locked module refuses. -/
theorem test_management :
    Table.read 0 (after (.routeEntryWrite 4095 0xFFFFFFFF) work).chip.fabric.routes 4095 = 0x8003FFFF ∧
    (let f := (after (.moduleIdWrite 0x1FFF) work).chip.fabric; (f.idValid, f.moduleId) = (false, 0)) ∧ (let f := (after (.moduleIdWrite 0x1004) work).chip.fabric; (f.idValid, f.moduleId) = (true, 4)) ∧
    Table.read 0 (after .mgmtGo (managed (fun f => { f with mgmtBuf := mgmtBits (packetOf 0x31 0 0) }))).chip.fabric.routes 2 = 0x80000005 ∧
    Table.read 0 (after (.mgmtWrite p5 (packetOf 0x31 1 1)) (managed (fun f => { f with mgrClaimed := true, mgrUid := 7 }))).chip.fabric.routes 2 = 0x80000005 ∧
    Table.read 0 (after (.mgmtWrite p5 (packetOf 0x31 1 1)) (managed (fun f => { f with mgrClaimed := true, mgrUid := 7, mgmtLock := true }))).chip.fabric.routes 2 = 0 ∧
    (after .releaseMgr (managed (fun f => { f with mgrClaimed := true, mgrUid := 7 }))).chip.fabric.mgrClaimed = false := by decide +kernel

/-! ## The host link -/

/-- The host link of a state changed. -/
def withLink (s : State) (f : HostLink → HostLink) : State := { s with chip := { s.chip with link := f s.chip.link } }
def withHostFn (s : State) (g : HostFn) (f : Function → Function) : State := { s with chip := s.chip.updFn g f }

/-- A configured queue of dome 5 on the physical function, its rings in the host's memory. -/
def queue9 : Queue := { dome := 5, configured := true, next := 9, flags := 1, subTail := 6, subHead := 2 }
def queued (q : Queue) : State := withFw work (fun f => { f with queues := [(9, some q)] })

theorem witness_host_link :
    HostUp (queued queue9) ∧ (queued queue9).fw.queue 9 = some queue9 ∧ queue9.hostRings = true ∧ queue9.fn = some .pf ∧
    HostUp State.reset ∧ State.reset.chip.link.perst = true ∧ work.chip.link.perst = false ∧ (16 : BitVec 5) = 16 ∧ work.chip.link.bifurcated = false ∧
    (withLink work (fun x => { x with bifurcated := true })).chip.link.bifurcated = true ∧ work.chip.fnUp (.vf 63) = true ∧ work.chip.fnUp .pf = true := by
  simp only [HostUp, RingUp]
  decide +kernel

/-- R366, R376: the link takes its width; an FLR of the physical function stops the queues whose rings lie with it; a hot reset keeps the mailbox's block. -/
theorem test_host_link :
    (let x := (after (.hostLinkUp 0 16 3) work).chip.link; (x.link0Up, x.width, x.speed) = (true, 16, 3)) ∧
    (after .pfFlr (queued queue9)).fw.queue 9 = some { queue9 with stopped := true, subHead := 6 } ∧
    (let y := (after (.vfFlr 63) (withHostFn work (.vf 63) (fun x => { x with msixEnable := true, block := 7 }))).chip.fn (.vf 63); (y.msixEnable, y.block) = (false, 7)) ∧
    (after (.hotReset 0) work).chip.link.link0Up = false ∧ (after (.perstDeassert true) State.reset).chip.link.bifurcated = true := by decide +kernel

theorem witness_host_configuration :
    work.chip.link.link0Up = true ∧ ((withDie work 0 (fun x => { x with fwState := 0 })).chip.die 0).fwState = 0 ∧ (work.chip.die 0).fwState = 1 ∧ work.chip.fnExists .pf1 = false ∧
    (queued queue9).chip.fnUp .pf = true ∧
    (∀ e ∈ (queued queue9).fw.queues, ∀ j : Fin 4, e.2.all (fun q => !(q.configured && decide (q.fn = some (.vf (clip 64 (4 * 3 + j.val)))))) = true) ∧
    (let q := { queue9 with flags := 0x100 }
     (queued q).fw.queue 9 = some q ∧ q.fn = some (.vf (clip 64 (4 * 0 + 0))) ∧ Table.read 0 (queued q).chip.link.vfDome 0 ≠ (0x85 : Word32).extractLsb' 0 8 &&& 0x8F) ∧
    (withLink work (fun x => { x with copyPending := [(.pf, .token h0)] })).chip.link.copyPending = (.pf, .token h0) :: [] := by decide +kernel

/-- R367, R368, R371, R375. -/
theorem test_host_writes :
    ((after (.configRequest .pf (.bar2Size 36)) work).chip.fn .pf).bar2SizeLog2 = 36 ∧ ((after (.configRequest (.vf 0) (.bar2Size 31)) work).chip.fn (.vf 0)).bar2SizeLog2 = 0 ∧
    Table.read 0 (after (.vfDomeWrite 15 0xFF00008F) work).chip.link.vfDome 63 = 0x8F ∧
    ((after (.vfDomeWrite 0 0x85) (queued { queue9 with flags := 0x100 })).chip.head .hostlink).errStatus = 8 ∧
    (let t := after (.copyChannelResponse false) (withLink work (fun x => { x with copyPending := [(.pf, .token h0)] })); (t.chip.link.copyFailed, (t.chip.hart h0).dfault) = (1, true)) := by
  decide +kernel

/-- The window of the physical function begins at region 3 of CD0's table, which holds stack 4's frame 2. -/
def windowed : State := withHostFn (withDie work 0 (fun x => { x with regions := [(3, entry3)] })) .pf (fun x => { x with bar2Base := BitVec.ofNat 64 (3 * 2 ^ 30) })

theorem witness_bar_two :
    windowed.chip.barOpen .pf = true ∧ windowed.chip.link.ide = [] ∧ windowed.chip.bar2Addr .pf 0x1040 = a3 ∧ (0x1040 : Nat) + 16 ≤ 2 ^ windowed.chip.bar2Log .pf ∧
    windowed.chip.findLine 4 (x3 / 256) = none ∧ Reaches windowed (whoOf (.host .pf)) a3 false 4 x3 ∧ Reaches windowed (whoOf (.host .pf)) a3 true 4 x3 := by
  simp only [Reaches]
  decide +kernel

/-- R366, R371, R372: the window reaches stack memory; a poisoned write stores nothing. -/
theorem test_bar_two :
    (after (.bar2Read .pf 0x1040 3) { windowed with chip := { windowed.chip with dram := [(dramKey 4 (x3 + 2), 5)] } }).chip.out = .bytes [0, 0, 5] ∧
    (after (.bar2Write .pf 0x1040 [1, 2] false) windowed).chip.dram = [(dramKey 4 x3, 1), (dramKey 4 x3 + 1, 2)] ∧
    (let t := after (.bar2Write .pf 0x1040 [1, 2] true) windowed; (t.chip.dram, t.chip.link.poisonedTlp, (t.chip.head .hostlink).errStatus) = ([], 1, 2)) ∧
    (let t := after (.atomicOp .pf 0x1040 ⟨.cas, 3, 0, 9⟩) windowed; (t.chip.out, t.chip.dram) = (.bytes [0, 0, 0, 0, 0, 0, 0, 0], [(dramKey 4 x3, 9)])) := by decide +kernel

theorem witness_host_pages :
    work.chip.barOpen (.vf 0) = true ∧ work.chip.barOpen .pf = true ∧ (work.chip.fn (.vf 0)).busy = false ∧ ((withHostFn work (.vf 0) (fun x => { x with busy := true })).chip.fn (.vf 0)).busy = true ∧
    (queued queue9).reach.pageQueue .pf 9 = some 9 ∧ queue9.broken = false ∧
    (6 + 2 ^ 32 - queue9.subHead) % 2 ^ 32 ≤ (18 + 2 ^ 32 - queue9.subHead) % 2 ^ 32 ∧ (18 + 2 ^ 32 - queue9.subHead) % 2 ^ 32 ≤ 2 ^ queue9.subLog2 ∧
    ((5 : Nat) + 2 ^ 32 - queue9.subHead) % 2 ^ 32 < (queue9.subTail + 2 ^ 32 - queue9.subHead) % 2 ^ 32 ∧
    ((withHostFn work .pf (fun x => { x with block := 0x10 })).chip.fn .pf).block.toNat % 65536 ∈ callCodes ∧ (work.chip.fn .pf).block.toNat % 65536 ∉ callCodes ∧ work.chip.ready = true := by decide +kernel

/-- R312, R315, R370, R374. -/
theorem test_host_pages :
    (after (.queueDoorbell .pf 9 0 4 18) (queued queue9)).fw.queue 9 = some { queue9 with subTail := 18 } ∧
    ((after (.queueDoorbell .pf 9 0 4 5) (queued queue9)).fw.queue 9).map (fun q => (q.broken, q.stopped)) = some (true, true) ∧
    ((after (.queueDoorbell .pf 9 4 4 5) (queued queue9)).chip.head .hostlink).errStatus = 4 ∧
    ((after (.mailboxGo .pf) (withHostFn work .pf (fun x => { x with block := 0x10 }))).chip.fn .pf).busy = true ∧
    (let y := (after (.mailboxGo .pf) (withHostFn work .pf (fun x => { x with block := 0xABCD }))).chip.fn .pf; (y.done, y.block.extractLsb' 16 16) = (true, Code.callMalformed)) ∧
    ((after (.bar0Access (.vf 0) 0x3C (.write (.w32 9))) work).chip.fn (.vf 0)).block.extractLsb' 480 32 = 9 ∧
    ((after (.viewSelWrite 0 0xFFFFFFFF) work).chip.fn (.vf 0)).viewSel = 0xC000FFFF ∧
    (after (.bar0Access .pf 0x1110C (.write (.w32 5000))) work).chip.power.pLimit = 5000 := by decide +kernel

theorem witness_register_writes : RingUp work 1 ∧ agentDie (.hart h0) = 1 ∧ work.fw.queues = [] := by
  simp only [RingUp]
  decide +kernel

/-- R67, R68, R70: a word of the exchange area; a pair of halves; a denied agent. -/
theorem test_register_writes :
    (let base := 0x200000000000 + 2 ^ 24
     let w (a : Nat) (v : RegData) (s : State) : State := after (.registerWrite (.meridian 1) (BitVec.ofNat 52 (base + a)) v) s
     (Table.read 0 ((w 0xFFFC (.w32 7) work).chip.die 1).exchange 0x3FFF, ((w 0x60F104 (.w32 5) (w 0x60F100 (.w32 6) work)).chip.hart ⟨1, 15⟩).resetPc,
      (after (.registerWrite (.other (.hart h0)) (BitVec.ofNat 52 (base + 0x600100)) (.w64 1)) work).chip.out) = (7, 0x500000006, .fault Code.regDenied)) := by decide +kernel

/-! ## Resets, boot and trust -/

theorem witness_resets :
    work.chip.power.lockout = false ∧ work.chip.frozen = false ∧ work.chip.cache = [] ∧ (∀ k, ∀ e ∈ (work.chip.stack k).slots, e.2.active = none) ∧
    (∀ k, (work.chip.stack k).domainOn = true ∧ (work.chip.stack k).filled = true) ∧ State.reset.chip.ready = false ∧ State.reset.chip.power.lockout = false := by decide +kernel

theorem test_power_down :
    (let t := after .explicitPowerDown { mapped with chip := { mapped.chip with dram := [(5, 1)] } }; ((t.chip.die 3).ringOn, (t.chip.stack 3).domainOn, t.chip.dram) = (false, true, [(5, 1)])) := by
  decide +kernel

theorem witness_boot :
    RingUp State.reset 1 ∧ (State.reset.chip.die 1).fwState = 0 ∧ (State.reset.chip.die 1).ringReturned = false ∧ State.reset.chip.route 0 1 = true ∧
    (let s := withDie work 1 (fun x => { x with fwState := 0 }); s.chip.running 0 = true ∧ (s.chip.die 1).fwState = 0 ∧ RingUp s 1) ∧
    (let s := withDie work 1 (fun x => { x with svnNew := 4 }); (s.chip.die 1).svnBusy = false ∧ Table.read 0 s.fuses.svnMin 1 < (s.chip.die 1).svnNew) ∧
    (work.chip.die 1).svnNew ≤ Table.read 0 work.fuses.svnMin 1 ∧ ((withDie work 1 (fun x => { x with svnBusy := true })).chip.die 1).svnBusy = true := by
  simp only [RingUp]
  decide +kernel

/-- R380, R381: GO latches a larger value, refuses another, and the fuses never fall. -/
theorem test_security_versions :
    ((after (.svnGo 1) (withDie work 1 (fun x => { x with svnNew := 4 }))).chip.die 1).svnLatched = 4 ∧ ((after (.svnGo 1) work).chip.head (.security 1)).errStatus = 1 ∧
    Table.read 0 (after (.svnFuseDone 1) (withDie work 1 (fun x => { x with svnBusy := true, svnLatched := 4 }))).fuses.svnMin 1 = 4 ∧
    Table.read 0 (after (.svnFuseDone 1) { withDie work 1 (fun x => { x with svnBusy := true, svnLatched := 4 }) with fuses := { svnMin := [(1, 9)] } }).fuses.svnMin 1 = 9 := by decide +kernel

def spdm (f : Spdm → Spdm) : State := withLink work (fun x => { x with spdm := f x.spdm })

theorem witness_trust :
    work.chip.answers = true ∧ (spdm (fun x => { x with algorithms := true })).chip.link.spdm.algorithms = true ∧ (spdm (fun x => { x with session := true })).chip.link.spdm.session = true ∧
    work.chip.link.bifurcated = false ∧ work.chip.fnExists .pf = true ∧ work.chip.running 0 = true ∧ work.fw.handoff = none ∧
    (withFw work (fun f => { f with staged := true })).fw.staged = true := by decide +kernel

theorem test_spdm :
    (let x := (after (.negotiateAlgorithms []) (spdm (fun x => { x with capabilities := true }))).chip.link.spdm; (x.algorithms, x.nonces) = (true, 1)) ∧
    (after (.getMeasurements 0) (spdm (fun x => { x with algorithms := true }))).chip.out = .bytes [5] ∧
    (after (.finish []) (spdm (fun x => { x with handshake := true }))).chip.link.spdm.session = true ∧ (after (.finish []) work).chip.link.spdm.session = false ∧
    ((after (.ideKm 0 7 .pf [(0, 0xFFF)]) (spdm (fun x => { x with session := true }))).chip.link.ide.map (fun e => e.1)) = [(0, 7)] := by decide +kernel

/-- A handoff in which every die but one has been imported. -/
def handing : State :=
  let s : State := { work with chip := { work.chip with dies := allDies.map (fun d => (d, { workDie with fwState := 3, handoffStep := 4 })) } }
  withFw s (fun f => { f with handoff := some { step := 4, imported := allDies.filter (fun d => d ≠ 3), image := [1, 2] } })

theorem witness_handoff :
    handing.chip.frozen = false ∧ (∀ e, (handing.chip.die e).fwState = 3) ∧ (∀ h ∈ handing.fw.handoff, (3 : DieId) ∉ h.imported ∧ ∀ e : DieId, e ≠ 3 → e ∈ h.imported) ∧ handing.fw.handoff.isSome = true ∧
    (let h : Handoff := { step := 4, imported := [], image := [] }; ∃ e : DieId, e ≠ 3 ∧ e ∉ h.imported) := by decide +kernel

theorem test_handoff :
    (after (.dieImported 3 false) handing).fw.handoff = none ∧ ((after (.dieImported 3 false) handing).chip.die 5).fwState = 1 ∧
    (let t := after (.dieImported 3 true) handing; (t.fw.handoff, (t.chip.die 5).fwState, (t.chip.die 5).bank, (t.chip.die 5).gen) = (none, 1, true, 1)) ∧
    ((after .handoffAbort handing).chip.die 5).fwState = 1 := by decide +kernel

/-! ## Firmware calls -/

/-- The physical function's mailbox holds a call; each argument with its offset. -/
def calling (s : State) (flags code : Nat) (args : List (Nat × Nat)) : State :=
  withHostFn s .pf (fun x => { x with busy := true, block := BitVec.ofNat 512 (args.foldl (fun n e => n + e.2 * 2 ^ (8 * e.1)) (code + flags * 2 ^ 16)) })

/-- Dome 5's descriptor: cluster c0, stack 4 of its own, two queues, ten objects of die 1, a watchdog of 1,000 and a frame of 10,000. -/
def desc5 : BitVec 2048 :=
  BitVec.ofNat 2048 (5 + 2 * 2 ^ 48 + 2 ^ (0x40 + 18) + 2 ^ (0xC0 + 4) + 10 * 2 ^ (8 * 0x32) + 1000 * 2 ^ (8 * 0x44) + 10000 * 2 ^ (8 * 0x48))
def dome5 : Dome := { desc := desc5, home := 1, queues := [9, 10] }

/-- Dome 5 as firmware keeps it, its cluster assigned. -/
def domed (m : Dome) (f : Firmware → Firmware) : State :=
  withFw (withCluster work c0 (fun x => { x with assigned := true, dome := 5 })) (fun w => f { w with domes := [(5, some m)] })

def waiting5 : Sequence := { index := 3, generation := 1, dome := 5, queue := 9, submitted := 9, cookie := 0xC0, promptLen := 4, maxNew := 8, prompt := 0, out := 0, adapter := 0, spec := false, stop := 0xFFFFFFFF }

theorem witness_setting_dome :
    (∀ e ∈ [(0, 0x03, [(8, 5)]), (0, 0x31, [(8, 5), (0xA, 2)]), (1, 0x30, [(8, 5), (0xA, 2)])], ((calling (domed dome5 id) e.1 e.2.1 e.2.2).chip.fn .pf).busy = true) ∧
    CallWaits (calling (domed dome5 id) 0 0x03 [(8, 5)]) 0 0x03 [(8, 1)] ∧ callArg (calling (domed dome5 id) 0 0x03 [(8, 5)]) 8 1 = 5 ∧ (domed dome5 id).chip.domeHeld dome5 = false ∧
    CallWaits (calling (domed dome5 id) 0 0x31 [(8, 5), (0xA, 1023)]) 0 0x31 [(8, 1), (0xA, 2)] ∧ callArg (calling (domed dome5 id) 0 0x31 [(8, 5), (0xA, 1023)]) 0xA 2 = 1023 := by
  simp only [CallWaits]
  decide +kernel

theorem witness_setting_adapter :
    (let s := calling (domed dome5 id) 1 0x30 [(8, 5), (0xA, 1), (0xC, 2), (0x10, 0x100), (0x18, 64)]
     s.chip.fnUp .pf = true ∧ s.chip.route dome5.home 0 = true ∧ callArg s 8 1 = 5 ∧ callArg s 0xA 2 = 1 ∧ callArg s 0xC 4 = 2 ∧ Table.read {} s.fw.adapters (5, 1) = {}) ∧
    (let full : Adapter := { versions := List.replicate 512 { number := 1, form := 0, pins := 0 } }
     512 ≤ sumNat (([((5, 2), full)].filter (fun e : (DomeId × Nat) × Adapter => e.1.1 = 5)).map (fun e => e.2.versions.length))) := by decide +kernel

theorem witness_adapter_call : CallWaits (calling (domed dome5 id) 1 0x30 [(8, 5), (0xA, 1), (0xC, 2), (0x10, 0x100), (0x18, 64)]) 1 0x30 [(8, 1), (0xA, 6), (0x10, 8), (0x18, 8)] := by
  simp only [CallWaits]
  decide +kernel

theorem witness_setting_trace :
    CallWaits (calling (domed dome5 id) 0 0x61 [(8, 5), (0x10, 7)]) 0 0x61 [(8, 1), (0x10, 8)] ∧
    CallWaits (calling (domed dome5 id) 0 0x60 [(8, 5), (9, 20), (0xA, 63), (0x10, 4096), (0x18, 64)]) 0 0x60 [(8, 1), (9, 1), (0xA, 2), (0x10, 8), (0x18, 8)] ∧
    ((domed dome5 id).chip.trace 5).held = [] := by
  simp only [CallWaits]
  decide +kernel

/-- Queue 9 with every entry of its ring consumed. -/
def quiet9 : Queue := { queue9 with subHead := 6 }

theorem witness_setting_others :
    CallWaits (calling work 0 0x04 [(8, 3)]) 0 0x04 [(8, 4)] ∧ (∀ e ∈ (calling work 0 0x04 [(8, 3)]).fw.domes, e.2 = none) ∧
    CallWaits (calling (queued queue9) 0 0x11 [(8, 9)]) 0 0x11 [(8, 2)] ∧ (calling (queued queue9) 0 0x11 [(8, 9)]).fw.queue 9 = some queue9 ∧
    CallWaits (calling work 0 0x50 [(8, 2047), (0xA, 2), (0x10, 64)]) 0 0x50 [(8, 2), (0xA, 1), (0x10, 8)] ∧ callArg (calling work 0 0x50 [(8, 2047), (0xA, 2), (0x10, 64)]) 8 2 = 2047 := by
  simp only [CallWaits]
  decide +kernel

def stepping (x : StepRun) : Dome := { dome5 with step := some x }
def row3 : Row := { seq := 3, pos := 4, count := 2, commitFrom := 0, verify := false, sample := true, commitObj := obj0, commitBase := 0 }
def step8 : StepRun := { queue := 9, kind := 0, number := 8, rows := [row3], replay := false }
/-- Dome 5 runs a step of request 3. -/
def served (m : Dome) : State := domed m (fun f => { f with queues := [(9, some quiet9)], seqs := [waiting5] })

theorem witness_setting_cancel :
    CallWaits (calling (served (stepping step8)) 0 0x20 [(8, 9), (0x10, 0xC0)]) 0 0x20 [(8, 2), (0x10, 8)] ∧ (served (stepping step8)).fw.queue 9 = some quiet9 ∧
    (served (stepping step8)).fw.seqs.find? (fun y => y.submitted = 9 ∧ y.cookie = BitVec.ofNat 64 0xC0 ∧ y.ended = false) = some waiting5 ∧ (served (stepping step8)).fw.seq 3 = some waiting5 ∧
    (served (stepping step8)).fw.dome 5 = some (stepping step8) ∧ (stepping step8).inStep 3 = true ∧ ((served (stepping step8)).chip.trace 5).points = 0 := by
  simp only [CallWaits]
  decide +kernel

theorem witness_setting_route :
    (let s := calling (ownObj (domed dome5 id) 0) 0 0x41 [(8, objAddr obj0 % 2 ^ 32), (0xC, 29 + 64 * 2 ^ 16)]
     CallWaits s 0 0x41 [(8, 4), (0xC, 4)] ∧ namedObject (callArg s 8 4) = some obj0 ∧ (s.chip.obj obj0).assigned = true ∧ s.fw.dome (clip 16 (s.chip.obj obj0).dome.toNat) = some dome5) ∧
    targetGood dome5 (BitVec.ofNat 32 (29 + 64 * 2 ^ 16)) = true := by
  simp only [CallWaits]
  decide +kernel

/-- R289, R314, R331, R424, R470: what each call leaves in firmware's account; R337: 0xFFFFFFFF takes a route away. -/
theorem test_setting_calls :
    ((after (.domeDrain (.fn .pf)) (calling (domed dome5 id) 0 0x03 [(8, 5)])).fw.dome 5).map (fun m => m.draining) = some true ∧
    (after (.sharedSet (.fn .pf)) (calling work 0 0x04 [(8, 3)])).fw.sharedSet = 3 ∧
    ((after (.queueStop (.fn .pf)) (calling (queued queue9) 0 0x11 [(8, 9)])).fw.queue 9).map (fun q => q.stopped) = some true ∧
    Table.read none (after (.sourceSet (.fn .pf)) (calling work 0 0x50 [(8, 2047), (0xA, 2), (0x10, 64)])).fw.sources 2047 = some ⟨2, 64⟩ ∧
    Table.read none (after (.notifyRoute (.fn .pf)) (calling (withFw (ownObj (domed dome5 id) 0) (fun f => { f with routes := [(obj0, some 7)] })) 0 0x41 [(8, objAddr obj0 % 2 ^ 32), (0xC, 0xFFFFFFFF)])).fw.routes obj0 = none := by
  decide +kernel

/-- R311: a reserved byte that is not 0, and a dome that does not exist, give CALL_MALFORMED in the reply. -/
theorem test_calls_malformed :
    (∀ args ∈ [[(8, 5), (9, 1)], [(8, 6)]], let t := after (.domeDrain (.fn .pf)) (calling (domed dome5 id) 0 0x03 args)
      callArg t 2 2 = Code.callMalformed.toNat ∧ t.fw.dome 5 = some dome5) := by decide +kernel

/-! ## Domes, dies, logs -/

/-- The server host's memory holds the descriptor of dome 5 at 0x1000. -/
def described : State := { calling work 1 0x01 [(8, 0x1000), (0x10, 0x2000)] with hostMem := Memory.putBytes [] 0x1000 (leBytes 256 desc5.toNat) }

theorem witness_defining :
    CallWaits described 1 0x01 [(8, 8), (0x10, 8)] ∧ described.chip.fnUp .pf = true ∧ descMalformed desc5 described.fw.sharedSet = false ∧ described.fw.conflict 5 desc5 = false ∧
    described.fw.dome 5 = none ∧ described.chip.route 0 0 = true ∧ (∀ c ∈ descClusters desc5, (described.chip.cluster c).running = false) ∧ clip 16 (descF desc5 0 1) = 5 ∧ descClusters desc5 = [c0] ∧ BitVec.ofNat 2048 (leNat (described.hostMem.bytes 0x1000 256)) = desc5 := by
  simp only [CallWaits]
  decide +kernel

theorem witness_releasing :
    (domed dome5 id).fw.dome 5 = some dome5 ∧ dome5.step = none ∧ dome5.reporting = none ∧ (domed dome5 id).fw.seqs = [] ∧ (domed dome5 id).chip.route dome5.home 0 = true ∧
    (∀ c ∈ dome5.clusters, ((domed dome5 id).chip.cluster c).running = false) ∧ (domed dome5 id).chip.cache = [] ∧
    CallWaits (calling (domed dome5 id) 0 0x02 [(8, 5)]) 0 0x02 [(8, 1)] ∧ CallWaits (calling (domed dome5 id) 1 0x05 [(8, 5), (0x10, 64), (0x18, 64)]) 1 0x05 [(8, 1), (0x10, 8), (0x18, 8)] := by
  simp only [CallWaits]
  decide +kernel

/-- A slot: REALTIME or BEST_EFFORT, queue 9, a quantum of 1 (R304). -/
def slot9 (cls : Nat) : Word64 := BitVec.ofNat 64 (9 + cls * 2 ^ 22 + 2 ^ 24)

theorem witness_table :
    (let s : State := { calling (domed dome5 id) 1 0x06 [(8, 5), (0x10, 0x3000), (0x18, 1)] with hostMem := Memory.putBytes [] 0x3000 (leBytes 8 (slot9 2).toNat) }
     CallWaits s 1 0x06 [(8, 1), (0x10, 8), (0x18, 8)] ∧ (List.range 1).map (fun i => BitVec.ofNat 64 (leNat (s.hostMem.bytes (callArg s 0x10 8 + 8 * i) 8))) = [slot9 2] ∧
     slotOverrun s.fw dome5 ((dome5.image.map (fun i => i.kinds)).getD []) [slot9 2] = none) ∧
    [slot9 2].any (slotMalformed dome5) = false := by
  simp only [CallWaits]
  decide +kernel

theorem witness_queue :
    (let s := calling (domed dome5 (fun f => { f with queues := [(9, some { dome := 5, next := 9 })] })) 0 0x10
       [(8, 9), (0xA, 4), (0xB, 12), (0xD, 64), (0xE, 9), (0x10, 64), (0x18, 128), (0x20, 192), (0x28, 1), (0x30, 100), (0x34, 1), (0x36, 16), (0x38, 0xFFFF)]
     CallWaits s 0 0x10 [(8, 8), (0x10, 8), (0x18, 8), (0x20, 8), (0x28, 8), (0x30, 5), (0x36, 4)] ∧ s.fw.queue 9 = some { dome := 5, next := 9 } ∧
     (s.fw.dome 5).bind (fun m => m.image) = none ∧ callArg s 8 2 = 9 ∧ callArg s 0xE 2 = 9 ∧ callArg s 0x28 4 ≤ 1 ∧ callArg s 0x34 1 = 1 ∧ callArg s 0x2C 2 < 128 ∧ callArg s 0x38 2 = 0xFFFF) := by
  simp only [CallWaits]
  decide +kernel

theorem witness_administering :
    (let s := calling work 0 0x51 [(8, 3)]; CallWaits s 0 0x51 [(8, 1)] ∧ callArg s 8 1 = 3 ∧ (s.chip.die 3).ringOn = true) ∧
    (let s := calling (withDie work 3 (fun x => { x with fenced := true, coreOn := false })) 0 0x52 [(8, 3)]; CallWaits s 0 0x52 [(8, 1)] ∧ (s.chip.die 3).fenced = true) ∧
    (let s := calling work 0 0x53 [(8, 3)]; CallWaits s 0 0x53 [(8, 1)] ∧ s.fw.handoff = none ∧ ∀ i : Fin 16, (s.chip.hart ⟨3, i⟩).call = none) ∧
    (let s := calling work 1 0x62 [(8, 3), (0x10, 1), (0x18, 4096), (0x20, 0x4000)]; CallWaits s 1 0x62 [(8, 1), (0x10, 8), (0x18, 8), (0x20, 8)] ∧ s.chip.route 0 0 = true ∧ s.chip.route 0 3 = true) := by
  simp only [CallWaits]
  decide +kernel

/-- An address that CD0's Meridian reaches: region 3 of CD0's table. -/
theorem witness_counters_and_ranges :
    (let s := calling windowed 0 0x63 [(8, 18), (0x10, a3)]
     CallWaits s 0 0x63 [(8, 4), (0x10, 8)] ∧ callArg s 8 4 = c0.die.val * 16 + c0.idx.val ∧ ClusterUp s c0 ∧ callArg s 0x10 8 % 64 = 0 ∧ s.chip.findLine 4 (x3 / 256) = none ∧
     Reaches s (whoOf (.meridian 0)) (callArg s 0x10 8) true 4 x3) ∧
    HartUp hosted h0 ∧ hosted.chip.running h0.die = true ∧ (hosted.chip.hart h0).call = none := by
  simp only [CallWaits, ClusterUp, Reaches, HartUp, RingUp]
  decide +kernel

/-- A hart of dome 5 whose call waits: CACHE_RANGE over 256 bytes, invalidate, its block at the address of x3. -/
def asking : State :=
  { hosted with chip := { (hosted.chip.updHart h0 (fun x => { x with call := some (BitVec.ofNat 56 a3), assigned := true, dome := 5 })) with
      dram := Memory.putBytes [] (dramKey 4 x3) (leBytes 64 (0x40 + (a3 / 256 * 256) * 2 ^ 64 + 256 * 2 ^ 128 + 2 * 2 ^ 192)) } }

theorem witness_hart_call :
    (asking.chip.hart h0).call = some (BitVec.ofNat 56 a3) ∧ bytesAt (dramBytes asking 4 x3 64) 0 4 = 0x40 ∧ (List.range 32).all (fun i => bytesAt (dramBytes asking 4 x3 64) (0x20 + i) 1 = 0) = true ∧
    bytesAt (dramBytes asking 4 x3 64) 0x18 8 = 2 ∧ bytesAt (dramBytes asking 4 x3 64) 0x10 8 = 256 ∧ bytesAt (dramBytes asking 4 x3 64) 0 2 ∈ callCodes ∧
    Reaches asking (whoOf (.meridian h0.die)) a3 false 4 x3 := by
  simp only [Reaches]
  decide +kernel

/-- R289, R290: DOME_RELEASE frees the dome and its queues. R427: a fence switches the core domain off. R475: the log's entries, 32 bytes each, from the asked number on. -/
theorem test_administering :
    (let t := after (.domeRelease (.fn .pf)) (calling (domed dome5 (fun f => { f with queues := [(9, some queue9)] })) 0 0x02 [(8, 5)]); (t.fw.dome 5, t.fw.queue 9, (t.chip.cluster c0).assigned) = (none, none, false)) ∧
    (let t := after (.dieFence (.fn .pf)) (calling work 0 0x51 [(8, 3)]); ((t.chip.die 3).coreOn, (t.chip.die 3).fenced, (t.chip.die 2).coreOn) = (false, true, true)) ∧
    (let t := after (.nightlogRead (.fn .pf)) (calling work 1 0x62 [(8, 3), (0x10, 1), (0x18, 4096), (0x20, 0x4000)]); (callArg t 0x10 8, callArg t 0x18 8, callArg t 0x20 4, t.hostMem.byte 0x4000) = (1, 1, 1, 1)) := by decide +kernel

/-- R311: one call of a hart at a time, and an address off its 64-byte boundary is turned away. -/
theorem test_hart_call :
    ((after (.sbiFirmwareCall h0 8) hosted).chip.hart h0).sbiResult = some (-5) ∧
    (after (.cacheRange (.hart h0)) asking).chip.out = asking.chip.out ∧ ((after (.cacheRange (.hart h0)) asking).chip.hart h0).call = none := by decide +kernel

/-! ## Frames and steps -/

def kind0 : StepKind := { bound := 100, tOut := 0, placement := 0, consts := [] }
def image5 : Image := { kinds := [kind0], programs := [(0, [7], [])], counters := [], placements := [], digest := 0, bindings := 0, steps := 8 }
/-- Dome 5 owns four objects of its home die. -/
def ownedFour (s : State) : State := [72, 73, 74, 77].foldl (fun t i => withObj t (.die 1 i) (fun x => { x with assigned := true, dome := 5 })) s
def framed (m : Dome) : State := ownedFour (domed m (fun f => { f with queues := [(9, some { quiet9 with kind := 0 })], seqs := [waiting5] }))

theorem witness_frames :
    (let s := framed { dome5 with image := some image5, table := [slot9 1] }
     s.reach.serves 5 = true ∧ s.chip.domeHeld dome5 = false ∧ (s.chip.trace 5).points = 0 ∧ s.fw.ready { dome5 with image := some image5, table := [slot9 1] } 9 = true) ∧
    slotClass (slot9 1) = 1 ∧ slotQuantum (slot9 1) = 1 ∧ slotQueue (slot9 1) = 9 ∧ (framed dome5).fw.queue 9 = some { quiet9 with kind := 0 } ∧ quiet9.maxRows = 1 ∧
    (framed dome5).chip.rowObjects 5 dome5 = 2 := by decide +kernel

theorem witness_empty_frames :
    (domed { dome5 with image := some image5, table := [slot9 2] } id).fw.ready { dome5 with image := some image5, table := [slot9 2] } (slotQueue (slot9 2)) = false ∧
    (∀ d, ((domed dome5 id).chip.die d).coel.armed = false) ∧ (domed dome5 id).reach.serves 5 = true ∧ ((domed dome5 id).chip.die 1).timer = 0 := by decide +kernel

theorem frames_no_producers (m : Dome) (l : List Sequence) :
    QueuesQuiet (domed m (fun f => { f with queues := [(9, some { quiet9 with kind := 0 })], seqs := l })) := by
  intro n q h
  simp only [domed, withFw, Firmware.queue, Table.read] at h
  by_cases e : n = 9
  · subst e; simp only [if_true] at h; cases h; exact .inr (by decide)
  · simp only [if_neg (Ne.symm e)] at h; cases h

/-- R306, R321: the frame is anchored at the present time and its first step is number 8, on cluster c0 at entry 7. -/
theorem test_frame :
    (let t := after (.frameStart 5) (framed { dome5 with image := some image5, table := [slot9 1] })
     ((t.fw.dome 5).bind (fun m => m.step)).map (fun x => (x.number, x.queue, x.rows.map (fun r => (r.seq, r.pos, r.count)))) = some (8, 9, [(3, 0, 1)]) ∧
     (t.chip.cluster c0).running = true ∧ (t.chip.cluster c0).pc = 7) ∧
    ((after (.frameStart 5) (domed { dome5 with image := some image5, table := [slot9 2] } id)).fw.dome 5).map (fun m => (m.frameEnd, m.rotation)) = some (10000, 1) := by decide +kernel

theorem witness_step_end :
    (served (stepping step8)).reach.serves 5 = true ∧ step8.rows = [row3] ∧ ((served (stepping step8)).fw.seqs.filter (fun y => y.index = 3) = [waiting5]) ∧
    ((served (stepping step8)).chip.cluster c0).running = false ∧ (served (stepping step8)).chip.stepFault 5 (stepping step8) step8 = none ∧ (stepping step8).clusters = [c0] := by decide +kernel

theorem witness_step_faults :
    (withCluster (served (stepping step8)) c0 (fun x => { x with faultedFlag := true, stepCode := Code.operandAlign })).chip.stepFault 5 (stepping step8) step8 = some Code.operandAlign ∧
    (served (stepping step8)).chip.outstanding c0 = false ∧ (served (stepping step8)).chip.countsLost (stepping step8) step8 = false ∧ Code.operandAlign ≠ Code.uncorrectable ∧ Code.operandAlign ≠ Code.poisoned ∧
    (stepping step8).watchdog * 100 < (((withDie (served (stepping step8)) 1 (fun x => { x with timer := 200000 })).chip.die 1).timer - step8.started).toNat := by decide +kernel

def report (n : Nat) (stop : Byte) : RowReport := ⟨1, stop, 0, BitVec.ofNat 32 n, 0, List.replicate 16 0⟩

theorem witness_reports : reportGood false 2 none (report 1 0) = true ∧ reportGood false 2 none (report 1 1) = true ∧ waiting5.emitted + 1 < waiting5.maxNew ∧
    (served { dome5 with reporting := some step8 }).fw.queue 9 = some quiet9 := by decide +kernel

/-- R306, R325, R328: the row's position moves, the step waits for its report, and the report adds its token; R308: a step past its watchdog. -/
theorem test_step_end :
    (let t := after (.domeStepEnd 5) (served (stepping step8)); ((t.fw.seq 3).map (fun q => q.pos), (t.fw.dome 5).map (fun m => m.reporting.isSome)) = (some 6, some true)) ∧
    (let t := after (.rowReports 5 [report 1 0]) (served { dome5 with reporting := some step8 }); (t.fw.seq 3).map (fun q => q.emitted) = some 1) ∧
    (let t := after (.stepWatchdog 5) (withCluster (withDie (served (stepping step8)) 1 (fun x => { x with timer := 200000 })) c0 (fun x => { x with running := true }))
     ((t.fw.dome 5).bind (fun m => m.step)).map (fun x => x.fault) = some Code.stepWatchdog ∧ (t.chip.cluster c0).stop = some .aborted) := by decide +kernel

/-- A micro-instruction of an operation and an immediate. -/
def microWord (op imm : Nat) : BitVec 128 := BitVec.ofNat 128 (op * 2 ^ 120 + imm)

/-- R226: two ROW_OPENs need a yield point between them; a REP body runs at least twice; a branch goes either way. -/
theorem test_yield_distance :
    yieldSearch [microWord 0x20 0, microWord 0x24 0, microWord 0x20 0, microWord 0x3F 0] 99 [⟨0, none, false⟩] [] = none ∧
    yieldSearch [microWord 0x20 0, microWord 0x01 0, microWord 0x20 0, microWord 0x3F 0] 99 [⟨0, none, false⟩] [] = some 2 ∧
    yieldSearch [microWord 0x06 2, microWord 0x20 0, microWord 0x01 0, microWord 0x3F 0] 99 [⟨0, none, false⟩] [] = some 1 ∧
    yieldSearch [microWord 0x06 2, microWord 0x20 0, microWord 0x24 0, microWord 0x3F 0] 99 [⟨0, none, false⟩] [] = none ∧
    yieldSearch [microWord 0x20 0, microWord 0x03 2, microWord 0x24 0, microWord 0x20 0, microWord 0x3F 0] 99 [⟨0, none, false⟩] [] = some 3 := by decide +kernel

/-! ## The Photometer -/

/-- A frame of the tap, as a die sends it (R391). -/
def frame (kind : BitVec 2) (m : BitVec 4) (n : Nat) (tg : Bool) : BitVec 32 := frameOf kind m n tg

theorem frame_commit : (frame 1 5 1 true).extractLsb' 0 8 = frameCrc (frame 1 5 1 true) ∧ frameFormed (frame 1 5 1 true) = true := by decide +kernel

theorem frame_emission : (frame 2 15 1023 true).extractLsb' 0 8 = frameCrc (frame 2 15 1023 true) ∧ frameFormed (frame 2 15 1023 true) = true := by decide +kernel

theorem frame_resync : (frame 3 0 0 false).extractLsb' 0 8 = frameCrc (frame 3 0 0 false) ∧ frameFormed (frame 3 0 0 false) = true := by decide +kernel

theorem witness_taps :
    frameKind (frame 1 5 1 true) = 1 ∧ frameKind (frame 2 15 1023 true) = 2 ∧ frameKind (frame 3 0 0 false) = 3 ∧ frameToggle (frame 1 5 1 true) ≠ Table.read false work.phot.toggles 3 ∧
    frameToggle (frame 1 5 1 false) = Table.read false work.phot.toggles 3 ∧ work.phot.acceptAny = [] ∧ work.phot.on = true ∧ work.phot.requests = [] ∧
    Table.read 0 (withPhot work (fun p => { p with badRun := [(3, 15)] })).phot.badRun 3 = 15 ∧ Table.read 0 work.phot.badRun 3 ≠ 15 := by decide +kernel

/-- Die 3's end of its tap. -/
def tapped (f : Tap → Tap) : State := withDie work 3 (fun x => { x with tap := f { buffer := [⟨1, 5, 7⟩], resync := false } })

theorem witness_tap_ends :
    ((tapped (fun x => { x with outstanding := true })).chip.die 3).tap.outstanding = true ∧ ((tapped (fun x => { x with outstanding := true, resync := true })).chip.die 3).tap.resync = true ∧
    ((tapped id).chip.die 3).ringOn = true ∧ ((tapped id).chip.die 3).tap.buffer ≠ [] ∧ ((tapped id).chip.die 3).coel.armed = false ∧
    ((withDie (tapped id) 3 (fun x => { x with coel := { x.coel with freezing := true } })).chip.die 3).coel.freezing = true := by decide +kernel

/-- R389 to R393: a frame is counted once; a sample adds U times I; an acknowledged frame leaves the buffer. -/
theorem test_taps :
    (let t := after (.tapKvCommit 3 (frame 1 5 7 true)) work; (t.phot.counts, t.phot.acks, Table.read (0, 0) (after (.tapKvCommit 3 (frame 1 5 7 true)) t).phot.counts 5) = ([(5, (7, 0))], [(3, true)], (7, 0))) ∧
    (let t := after (.photometerSample 48000000 2000000) work; (t.phot.energy, t.phot.mono, t.phot.vOut) = (96000000000000, 1, false)) ∧
    (let t := after (.tapAck 3 true) (tapped (fun x => { x with outstanding := true })); ((t.chip.die 3).tap.buffer, (t.chip.die 3).tap.toggle) = ([], true)) ∧
    (after (.tapBadFrame 3) (withPhot work (fun p => { p with badRun := [(3, 15)] }))).phot.eventCount = 1 := by decide +kernel

def record1 : MeterRecord :=
  { kind := 1, seq := 6, prev := 5, event := 0, time := 0, mono := 0, energy := 0, vAvg := 0, iAvg := 0, eventCount := 0, powerCycles := 0, status := 0, period := 300, nonce := 0, counts := [] }
/-- The Photometer has stored record 6. -/
def metered (f : Photometer → Photometer) : State := withPhot work (fun p => f { p with stored := [record1], lastStored := 6, nextSeq := 7, service := true })

theorem witness_records :
    (metered id).phot.on = true ∧ (metered id).phot.requests = [] ∧ (metered id).phot.stored.find? (fun r => r.seq = 6) = some record1 ∧ (∀ r ∈ (metered id).phot.stored, r.seq ≠ 3) ∧
    (metered id).phot.lastDemand = none ∧ (metered (fun p => { p with lastDemand := some 8 })).phot.mono.toNat < (8 : Word64).toNat + 8192 ∧
    (metered (fun p => { p with events := [⟨1, 0, 0, 1, 0⟩] })).phot.events.length = 1 ∧ work.phot.service = false ∧ (metered (fun p => { p with testing := true })).phot.testing = true ∧
    (metered (fun p => { p with testing := true, mono := 3600 * 32768 })).phot.testStart.toNat + 3600 * 32768 ≤ (3600 * 32768 : Word64).toNat ∧
    RingUp (metered id) 3 ∧ ((metered id).chip.die 3).chan.busy = false ∧ ((metered id).chip.die 3).coel.armed = false := by
  simp only [RingUp]
  decide +kernel

/-- R398, R404, R405: the sequence goes on; a record that was not stored is answered with status 4; a period outside 60 to 3,600 is refused; test counts stay apart. -/
theorem test_records :
    (let t := after .periodicRecord (metered id); (t.phot.nextSeq, t.phot.lastStored, t.phot.stored.map (fun r => (r.kind, r.seq, r.prev))) = (8, 7, [(1, 6, 5), (1, 7, 6)])) ∧
    (after (.getRecord 3) (metered id)).phot.reply = some (0x81, 4, []) ∧
    (after (.setPeriod 3601) (metered id)).phot.period = 300 ∧ (after (.setPeriod 3600) (metered id)).phot.period = 3600 ∧
    (let t := after (.testInject 5 1 9) (metered (fun p => { p with testing := true })); (t.phot.testCounts, t.phot.counts) = ([(5, (9, 0))], [])) ∧
    ((after .sealBroken (metered id)).phot.sealOpen, (after .sealBroken (metered id)).phot.eventCount) = (true, 1) ∧
    ((after (.reqGetRecord 3) (metered id)).chip.die 3).chan.done = true := by decide +kernel

def off (f : Photometer → Photometer) : State := withPhot work (fun p => f { p with on := false })
def point1 : Checkpoint := { seq := 4, counts := List.replicate 16 (1, 2), energy := 9, toggles := [] }

theorem witness_photometer_power :
    (off id).phot.on = false ∧ (off id).phot.breakOwed = false ∧ (off id).phot.powerDownOk = true ∧
    (off (fun p => { p with powerDownOk := false, checkpoint := some point1 })).phot.checkpoint = some point1 ∧ point1.counts.length = 16 := by decide +kernel

/-- R405, R406: after an incomplete power-down the Photometer goes back to its checkpoint. -/
theorem test_photometer_power :
    (let t := after (.photometerPowerUp false none) (off (fun p => { p with powerDownOk := false, checkpoint := some point1 }))
     (t.phot.on, t.phot.energy, Table.read (0, 0) t.phot.counts 15, t.phot.stored.map (fun r => r.status.getLsbD 7)) = (true, 9, (1, 2), [true, false])) ∧
    (let t := after (.photometerPowerUp false (some 7)) (off id); (t.phot.powerCycles, t.phot.time, t.phot.mono) = (1, 7, 0)) ∧
    (after (.photometerPowerDown true) work).phot.on = false := by decide +kernel

/-! ## The Coelostat, counters, traces -/

/-- Every die armed, with both permissions and triggers of die 3 enabled. -/
def armedAll : State := { work with chip := { work.chip with dies := allDies.map (fun d => (d, { workDie with coel := { armed := true, perms := 3, trigCtrl := 3 } })) } }
def frozenAll : State := { work with chip := { work.chip with dies := allDies.map (fun d => (d, { workDie with coel := { armed := true, perms := 3, frozen := true, freezing := true } })) } }

theorem witness_coelostat :
    RingUp work 0 ∧ RingUp armedAll 3 ∧ (work.chip.die 3).coel.armed = false ∧ ((armedAll.chip.die 3).coel.armed = true ∧ (armedAll.chip.die 3).coel.perms.getLsbD 0 = true) ∧
    (armedAll.chip.die 3).coel.trigCtrl.getLsbD 0 = true ∧ (armedAll.chip.die 3).coel.trigCtrl.getLsbD 1 = true ∧
    (frozenAll.chip.die c0.die).coel.perms.getLsbD 1 = true ∧ (∀ e, (frozenAll.chip.die e).coel.frozen = true) ∧ (work.chip.die (readoutDie (.nightLog 3 1))).coel.perms.getLsbD 1 = false := by
  simp only [RingUp]
  decide +kernel

/-- R477 to R480: nothing is armed by a block of zeros; the debug pin freezes from die 3; a frozen module reads out a sequencer's register. -/
theorem test_coelostat :
    ((after .authGo work).chip.die 3).coel.armed = false ∧ ((after (.disarm 2) armedAll).chip.die 3).coel.armed = false ∧
    (let t := after .coelTrig armedAll; ((t.chip.die 7).coel.frozen, (t.chip.die 7).coel.cause, t.chip.link.link0Up) = (true, 0x301, false)) ∧
    ((after (.freeze 3) work).chip.head (.coelostat 3)).errStatus = 2 ∧
    (after (.jtagReadout (.sequencer c0 6)) (withCluster frozenAll c0 (fun x => { x with regs := [(6, 77)] }))).chip.out = .word 77 ∧
    (after (.jtagReadout (.nightLog 3 1)) work).chip.out = .unsupported := by decide +kernel

/-- Dome 5's ring in region 3 of its home die: its control block lies 0x1000 above its first record. -/
def tracing (n : Nat) : State :=
  let s := withFw mapped (fun f => { f with domes := [(5, some dome5)] })
  { s with chip := s.chip.updTrace 5 (fun u =>
      { u with sizeLog2 := 10, sources := 1, base := BitVec.ofNat 64 (a3 - 0x40), ctl := BitVec.ofNat 64 (a3 + 0x1000), written := n, queue := [{ time := 5, src := 1, type := 2, tag := 0, unit := 18 }] }) }

theorem witness_counters :
    ClusterUp work c0 ∧ StackUp work 4 ∧ (work.chip.updHead (.core (coreOf c0 3)) (fun h => { h with counters := [(0, 9)] })).head (.core (coreOf c0 3)) = { counters := [(0, 9)] } := by
  simp only [ClusterUp, StackUp, RingUp]
  decide +kernel

theorem witness_traces :
    (tracing 1).fw.home 5 = 1 ∧ RingUp (tracing 1) 1 ∧ ((tracing 1).chip.trace 5).sizeLog2 = 10 ∧ (tracing 1).chip.findLine 4 ((x3 + 0x1008) / 256) = none ∧
    Reaches (tracing 1) (whoOf (.meridian 1)) (a3 + 0x1008) false 4 (x3 + 0x1008) ∧ Reaches (tracing 1) (whoOf (.meridian 1)) (a3 + 0x1000) true 4 (x3 + 0x1000) ∧
    Reaches (tracing 1) (whoOf (.meridian 1)) (a3 - 0x20) true 4 (x3 - 0x20) ∧ (tracing 1).chip.domeReaches 1 5 none (a3 - 0x20) 32 true = true ∧
    (tracing 1).chip.domeReaches 1 5 none (a3 + 0x1000) 8 true = true ∧ dramKey 4 (x3 - 0x20) + 32 ≤ dramKey 4 (x3 + 0x1000) := by
  simp only [RingUp, Reaches]
  decide +kernel

/-- R468 to R470: a record takes its slot and the count goes up; a full ring drops it. R464: the snapshot takes the counter. -/
theorem test_traces :
    (let t := after (.traceRecordWrite 5) (tracing 1); ((t.chip.trace 5).written, dramBytes t 4 (x3 + 0x1000) 1, (t.chip.trace 5).queue) = (2, [2], [])) ∧
    (let t := after (.traceRecordWrite 5) (tracing 1024); ((t.chip.trace 5).written, (t.chip.trace 5).dropped) = (1024, 1)) ∧
    Table.read 0 ((after (.perfSnap (.cluster c0)) { work with chip := work.chip.updHead (.perf (.cluster c0)) (fun h => { h with counters := [(2, 9)] }) }).chip.cluster c0).snaps 2 = 9 := by
  decide +kernel

/-! ## The whole machine -/

theorem witness_idle : work.pending = [] ∧ work.chip.frozen = false ∧ (∀ d, (work.chip.die d).retest = false) ∧ frozenAll.chip.frozen = true := by decide +kernel

theorem work_no_producers : QueuesQuiet work := by
  intro n q h
  simp [work, Firmware.queue, Table.read] at h

def stepped (s : State) : State := match step s with
  | .next t => t
  | .fault _ => s
  | .refused _ => s

theorem witness_host_memory : State.reset.hostMem.wf = true ∧ step State.reset = .next (stepped State.reset) := ⟨by decide +kernel, rfl⟩

/-- R43: a tick of 100 ns is ten steps of the Standby controller's 10 ns counter. -/
theorem test_idle_step : (stepped work).chip.power.standby = 10 ∧ (stepped work).pending = [] := by decide +kernel

/-- The command at the front runs, and the rest waits. -/
theorem test_front_command :
    (let t := stepped { work with pending := [.stackSelfRefresh 4, .coelTrig] }; (t.chip.stack 4).selfRefresh = true ∧ t.pending = [.coelTrig]) := by decide +kernel

/-! ## What reset leaves -/

/-- R45, R50, R74, R125, R198, R366, R388 and the reset column of the tables. -/
theorem test_reset :
    ((State.reset.chip.die 3).ringOn, (State.reset.chip.die 3).coreOn, (State.reset.chip.die 3).fwState) = (true, false, 0) ∧
    ((State.reset.chip.cluster c0).running, (State.reset.chip.cluster c0).bmask, (State.reset.chip.cluster c0).assigned) = (false, 0xFFFFFFFF, false) ∧
    ((State.reset.chip.core k0).lfsr, (State.reset.chip.core k0).scaleA) = (1, 0x3F800000) ∧
    ((State.reset.chip.stack 4).online, (State.reset.chip.stack 4).scrubEn, (State.reset.chip.port p5).uncorrMax) = (false, true, 8) ∧
    (State.reset.chip.link.perst, State.reset.chip.power.pLimit, State.reset.chip.fabric.timeout, State.reset.phot.period) = (true, 0x1450, 0x2710, 300) := by decide +kernel

/-! ## Ill-formed operands -/

def stackReq0 : StackReq := ⟨0, 0, none, 0⟩
def badReq : FabricReq := { request 2 0 [1, 2] 0 with lenM1 := 5 }

theorem test_ill_formed_accesses :
    (∀ i ∈ [Instr.portholeAccess k0 (.de k0) ⟨0, 0, none⟩, .mainPathAccess (.de k0) stackReq0, .slitAccess (.de k0) { stackReq0 with data := some [] }, .postedReduction (.de k0) ⟨0, 1, 11, []⟩,
            .bar2Read .pf 0 0, .bar2Write .pf 0 [] false, .queueDoorbell .pf 1024 0 4 0, .queueDoorbell .pf 9 0 3 0, .configRequest .pf (.bar2Size 27), .configRequest .pf (.bar2Size 37)],
      i.wellFormed = false) := by decide +kernel

theorem test_ill_formed_messages :
    (∀ i ∈ [Instr.stackSensorSample 4 [], .thermalSample 3 (List.replicate 63 0), .dataFlit p5 0 .clean (cleanFlit 0) [.req badReq], .remoteStore p5 badReq, .remoteReduce p5 badReq,
            .ideKm 0 7 .pf [(9, 8)], .pldmPlatformMonitoring 1284, .rowReports 5 [{ report 1 0 with path := [] }], .hostLinkUp 0 3 3, .hostLinkUp 0 16 4],
      i.wellFormed = false) := by decide +kernel

theorem test_well_formed :
    (∀ i ∈ [Instr.configRequest .pf (.bar2Size 28), .configRequest .pf (.bar2Size 36), .queueDoorbell .pf 1023 0 8 0, .rowReports 5 [report 1 0], .hostLinkUp 0 16 3, .thermalSample 3 (List.replicate 64 0)],
      i.wellFormed = true) := by decide +kernel

/-! ## The functions of R90 -/

/-- R90: 2^0.5, log2 3, 1 / sqrt 2, tanh 0.5 and GELU(2) rounded to FP32, as calculated outside the model; 2^-149 is the least subnormal. -/
theorem test_functions :
    exp2Bits fp32 (f32 0x3F000000) = 0x3FB504F3 ∧ exp2Bits fp32 (f32 0xC3150000) = 1 ∧ exp2Bits bf16 (f32 0x3F000000) = 0x3FB5 ∧ log2Bits 3 0 = (false, 0x3FCAE00D) ∧
    rsqrtBits 1 1 = 0x3F3504F3 ∧ toF32 (.fin false (tanhFx (toFx 1 (-1))) (-160)) = 0x3EEC9A9F ∧ toF32 (.fin false (geluFx false (toFx 2 0)) (-160)) = 0x3FFA2D0C := by decide +kernel

/-! ## Further witnesses: the boundaries of the premises -/

theorem witness_waiting_phases :
    (withCluster work c0 (fun x => { x with running := true, phase := .waiting 9 77 4 true })).chip.frozen = false ∧ (intMma.fresh = false ∧ (work.chip.sync (unitOf obj0)).clearBusy = false) ∧
    ((withCluster work c0 (fun x => { x with running := true, stop := some .ended })).chip.cluster c0).phase = .ready ∧ (work.chip.die 1).coel.armed = false ∧
    isPacketWord ((running [] 9 [pw 0x60 0 0 0 0 0]).chip.word c0) 10 = true := by decide +kernel

/-- R116: in the wait's own beat nothing is read; in a later one COUNT 3 of the object ends a wait for 3. -/
theorem test_wait_phases :
    (let s := withCluster (ownObj (running [] 9 [pw 0x50 0 6 7 0 7]) 3) c0 (fun x => { x with phase := .waiting 9 77 3 true })
     ((after (.waitSatisfied c0) s).chip.cluster c0).phase = .waiting 9 77 3 true) ∧
    (let s := withCluster (ownObj (running [] 9 [pw 0x50 0 6 7 0 7]) 3) c0 (fun x => { x with phase := .waiting 9 77 3 false })
     ((after (.waitSatisfied c0) s).chip.cluster c0).phase = .retire 9 none) := by decide +kernel

theorem witness_reduction_queue : (mapped.chip.stack 4).redWait = [] ∧
    (withStack mapped 4 (fun x => { x with redQueue := [⟨.de k0, x3, 1, 11, [2, 0, 0, 0], 0, false, 1, false⟩] })).chip.frozen = false := by decide +kernel

/-- Dome 5 with the floor point Reference. -/
def floor5 : Dome := { dome5 with desc := desc5 ||| 2 ^ 32 }

/-- R303: a dome whose floor is the Reference point keeps its die from the Floor point. R444: Peak only inside the envelope. -/
theorem witness_points :
    Reach.maySelect ⟨work.chip, work.fw, work.hostMem⟩ 1 0 = true ∧ Reach.maySelect ⟨work.chip, work.fw, work.hostMem⟩ 1 2 = true ∧
    (let s := domed floor5 id; Reach.maySelect ⟨s.chip, s.fw, s.hostMem⟩ 1 0 = false) ∧
    after (.pointWrite 1 0) (domed floor5 id) = domed floor5 id := by decide +kernel

/-- R269: a machine-mode hart, and one of user mode whose controls forbid. -/
theorem witness_zicbom :
    (work.chip.hart h0).cboAllowed true true ≠ none ∧ (work.chip.hart h0).cboAllowed false true = some false := by decide +kernel

theorem witness_emission_route : hosted.chip.route h0.die 0 = true := by decide +kernel

/-- A packet of one hop, by port 5, in MGMT_BUF. -/
def onward : MgmtPacket := { packetOf 0x30 1 0 with fwd := 5 }

theorem witness_mgmt_go :
    (let f := (managed (fun f => { f with mgmtBuf := mgmtBits onward })).chip.fabric
     f.mgmtBusy = false ∧ mgmtOf f.mgmtBuf = onward ∧ onward.ptr.toNat < onward.hops.toNat ∧ (linked.chip.die (portDie (clip 16 (onward.fwd.toNat / 16 ^ onward.ptr.toNat % 16)))).ringOn = true ∧
     clip 16 (onward.fwd.toNat / 16 ^ onward.ptr.toNat % 16) = p5) ∧
    (packetOf 0x30 0 0).hops.toNat ≤ (packetOf 0x30 0 0).ptr.toNat ∧ (packetOf 0x30 0 0).op = 0x30 ∧ (packetOf 0x30 0 0).target.extractLsb' 0 2 = 1 := by decide +kernel

/-- R348: the packet leaves by its first port with its pointer one further; R349: with no hops it is answered here. -/
theorem test_mgmt_go :
    (let t := after .mgmtGo (managed (fun f => { f with mgmtBuf := mgmtBits onward }))
     (t.chip.fabric.mgmtBusy, ((t.chip.port p5).retry.map (fun e => e.2))) = (true, [[.mgmt { onward with ptr := 1 }]])) ∧
    (let m := mgmtOf (after .mgmtGo (managed (fun f => { f with mgmtBuf := mgmtBits (packetOf 0x30 0 0), routes := [(2, 0x80000007)] }))).chip.fabric.mgmtBuf
     (m.op, m.fault, m.data) = (0x38, 0, 0x80000007)) ∧
    (mgmtOf (after .mgmtGo (managed (fun f => { f with mgmtBuf := mgmtBits (packetOf 0x30 0 0), mgmtLock := true }))).chip.fabric.mgmtBuf).fault = Code.mgmtDenied := by decide +kernel

theorem witness_doorbells :
    (let s := withDie work 1 (fun x => { x with dbTxDst := 0xFFF }); s.chip.frozen = false ∧ (∀ e, (s.chip.die e).ringOn = true) ∧ (s.chip.die 1).dbTxDst.toNat = 0xFFF ∧ (s.chip.die 1).dbRx.length < 16) ∧
    (let s := withDie linked 1 (fun x => { x with dbTxDst := 9 }); (s.chip.die 1).dbTxDst.toNat ≠ 0xFFF ∧ (s.chip.die 1).dbTxDst ≠ s.chip.fabric.moduleId) := by decide +kernel

/-- R49: a doorbell to 0xFFF rings its own die. -/
theorem test_own_doorbell : ((after (.dbTxDataWrite 1 5) (withDie work 1 (fun x => { x with dbTxDst := 0xFFF }))).chip.die 1).dbRx = [(0xFFF, 5)] := by decide +kernel

theorem witness_block_scales :
    scalesOk 3 (List.replicate 256 0) ∧
    ((openState [] 0).chip.stack 4).foreignReads 3 = [] ∧ ((pagedState 0 []).chip.stack 4).foreignReads 3 = [] ∧ ((pagedState 0 []).chip.stack 4).retireBusy = false ∧
    (∀ i, Table.read 0 ((pagedState 0 []).chip.stack 4).owed i = 0) := by
  simp only [scalesOk]
  decide +kernel

/-- R74: 0xF8 is no block scale. -/
theorem witness_bad_scale : isScaled 5 = true ∧ ¬ scalesOk 5 (List.replicate (streamBytes 5) 0xF8) := by
  simp only [scalesOk]
  decide +kernel

/-- Die 3's buffer is full of frames that hold as much as they can. -/
def brimming : State := tapped (fun x => { x with buffer := List.replicate 64 ⟨1, 5, 1023⟩, outstanding := true, owed := [(2, 1), (1, 5)] })

theorem witness_owed_events :
    (brimming.chip.die 3).tap.owed = (2, 1) :: [(1, 5)] ∧ (brimming.chip.die 3).tap.buffer.length = 64 ∧ (∀ f ∈ (brimming.chip.die 3).tap.buffer, f.count = 1023) ∧
    (∀ e ∈ [((1 : BitVec 2), (5 : DomeId))], e.1 ≠ 2 ∨ e.2 ≠ 1) ∧ (brimming.chip.die 3).tap.resync = false ∧ ((tapped (fun x => { x with outstanding := true })).chip.die 3).tap.owed = [] := by decide +kernel

/-- R392: the place that an acknowledged frame leaves takes the oldest event that waited. -/
theorem test_owed_events :
    (let x := ((after (.tapAck 3 true) brimming).chip.die 3).tap; (x.buffer.length, x.buffer.getLast?.map (fun f => (f.kind, f.dome, f.count)), x.owed)) = (64, some (2, 1, 1), [(1, 5)]) := by decide +kernel

theorem witness_frame_times :
    (let m : Dome := { dome5 with image := some image5, table := [slot9 2], anchor := some 0, frameEnd := 500 }
     (domed m id).fw.dome 5 = some m ∧ ((domed m id).chip.die 1).timer.toNat < m.frameEnd.toNat ∧ m.anchor.isSome = true) ∧
    (stepping step8).step.isSome = true := by decide +kernel

/-- R306, R307: the frame waits for its anchor and for the end of a step. -/
theorem test_frame_waits :
    (let m : Dome := { dome5 with image := some image5, table := [slot9 2], anchor := some 0, frameEnd := 500 }; after (.frameStart 5) (domed m id) = domed m id) ∧
    after (.frameStart 5) (served (stepping step8)) = served (stepping step8) := by decide +kernel

/-! ## Codewords in the caches and scratchpads, credits, and what the review's repairs added -/

/-- The line that holds x3 in codeword 1, whose error pattern is given; the state with that line alone. -/
def badLine (pat : ErrorPattern) : CacheLine := { stack := 4, line := x3 / 256, data := List.replicate 256 7, dirty := true, retained := false, errors := [(1, pat)] }
def badCache (pat : ErrorPattern) : State := { cached [] with chip := { (cached []).chip with cache := [badLine pat] } }

/-- MSCALE over a poisoned codeword. -/
def badScratch : State :=
  let s := mscaleState [0, 0, 0x80, 0x3F]
  { s with chip := { s.chip with scratchErrors := [(scratchKey k0 0x40 / 64, poisonPattern)] } }

theorem witness_bad_codewords :
    EngineWaits badScratch k0 .me 2 { packet := packet 0 2 0 0 0 0, a := 0x40 } [] ∧ badScratch.chip.scratchBad k0 0x40 8 = some Code.poisoned ∧
    (badCache poisonPattern).chip.findLine 4 (x3 / 256) = some (badLine poisonPattern) ∧ Reaches (badCache poisonPattern) (whoOf (.de k0)) a3 false 4 x3 ∧
    clip 4 (x3 % 256 / 64) = (1 : Fin 4) ∧ (badLine [(0, 1)]).errors ≠ [] := by
  simp only [EngineWaits, ClusterUp, Reaches]
  decide +kernel

/-- R411, R415: the poisoned codewords have no data to give. -/
theorem witness_bad_words : (match (badLine poisonPattern).word 1 with | .error f => f == Code.poisoned | .ok _ => false) = true := by decide +kernel

/-- R412, R415: a hit on a poisoned codeword faults; a corrected one reads right, keeps its check bytes in the cache and on its way back, and loses them when it is merged; an uncorrectable one is written back poisoned. -/
theorem test_cache_codewords :
    (after (.mainPathAccess (.de k0) (stackReq a3 3 none)) (badCache poisonPattern)).chip.out = .fault Code.poisoned ∧
    (after (.mainPathAccess (.de k0) (stackReq a3 3 none)) (badCache [(0, 1)])).chip.out = .bytes [7, 7, 7] ∧
    Table.read [] (after (.stackCacheClean 1) (badCache [(0, 1)])).chip.codeErrors (cwKey 4 x3) = [(0, 1)] ∧
    Table.read [] (after (.stackCacheClean 1) (badCache [(0, 1), (5, 9)])).chip.codeErrors (cwKey 4 x3) = poisonPattern ∧
    (after (.mainPathAccess (.de k0) (stackReq a3 0 (some [1, 2]))) (badCache [(5, 1)])).chip.cache.map (fun l => (l.errors, (l.raw 1).take 3)) = [([], [1, 2, 7])] := by decide +kernel

/-- R415: MSCALE over a poisoned codeword stops the step and sets no scale. -/
theorem test_scratchpad_codewords :
    (let t := after (.mscale k0) badScratch; ((t.chip.cluster c0).stop, (t.chip.core k0).scaleA, (t.chip.head (.clusterSeq c0)).errTag)) = (some .faulted, 0x3F800000, 0x30020000) := by decide +kernel

/-- A packet that came in by port 3 waits at port 5, which owes a NAK and credits. -/
def transit : State := withPort linked (fun x => { x with queue := [(1, 3, .req (request 2 a3 (List.replicate 256 1) 0))], credits := [(1, 18)], nakOwed := true, creditOwed := [(2, 4), (3, 5)] })

/-- R341, R354: word 0 tells the NAK and the credits of the lowest channel; the packet's own credits are owed where it came in; a new link owes 2,048 of each channel. -/
theorem test_credits :
    (let m := FabricMsg.req (request 2 a3 (List.replicate 256 1) 0)
     let y := (transit.chip.port p5).transmit m
     (y.sent, Table.read 0 y.creditOwed 2, Table.read 0 y.creditOwed 3, Table.read 0 ((transit.chip.freeBuffer 3 m).port 3).creditOwed 0)) = (some ⟨0, 0, true, 2, 4⟩, 0, 5, 18) ∧
    ((after (.finderFrame p5 neighbour) (portState (fun x => { x with state := 5 }))).chip.port p5).creditOwed = [(0, 2048), (1, 2048), (2, 2048), (3, 2048)] := by decide +kernel

/-- R365: a management WRITE of MGMT_CMD sends the packet of MGMT_BUF; the response is the second flit. -/
theorem test_remote_go :
    (let t := after (.mgmtWrite p5 { packetOf 0x31 1 1 with target := 0, offset := 0x160, data := 0x80000000 }) (managed (fun f => { f with mgrClaimed := true, mgrUid := 7, mgmtBuf := mgmtBits onward }))
     (t.chip.fabric.mgmtBusy, (t.chip.port p5).retry.length)) = (true, 2) := by decide +kernel

/-- R462, R465: dome 5's counters of a shared-weight stack are 10 and 11, of its class. -/
theorem test_dome_counters :
    (let s := mapped.chip.assignCounters 5 20; (s.selector (.stack 20) 10, s.selector (.stack 20) 11, s.selector (.stack 20) 12)) = (0x2500, 0x2500, 0) := by decide +kernel
end Sys2Proof.Tests
end

section
/-! Which bits a recorded error sets, and the commands that configure a cluster or join a porthole gate (R61, R63, R125, R126). -/

namespace Sys2Proof.Machine

open Host

/-! ## Recorded errors -/

theorem bitMask_getLsbD (n i : Nat) (h : n < 32) : (bitMask n).getLsbD i = decide (i = n) := by
  have e : bitMask n = BitVec.twoPow 32 n := by
    apply BitVec.eq_of_toNat_eq
    simp [bitMask, BitVec.toNat_twoPow]
  rw [e, BitVec.getLsbD_twoPow]
  by_cases g : i = n
  · simp [g, h]
  · simp [g, Ne.symm g]

theorem Head.record_errStatus (h : Head) (e : ErrorInfo) : (h.record e).errStatus = h.errStatus ||| bitMask e.bit := by
  unfold Head.record
  dsimp only
  split <;> rfl

theorem Head.record_sets_bit (h : Head) (e : ErrorInfo) (lt : e.bit < 32) : (h.record e).errStatus.getLsbD e.bit = true := by
  rw [Head.record_errStatus, BitVec.getLsbD_or, bitMask_getLsbD _ _ lt]
  simp

theorem Chip.err_head_same (s : Chip) (b : Block) (e : ErrorInfo) : (s.err b e).head b = (s.head b).record e := by
  have h : (s.err b e).head b = (s.updHead b (fun h => h.record e)).head b := by
    simp only [Chip.err, Chip.head, Chip.faultTrigger_heads]
  rw [h, Chip.updHead_head_same]

/-- A recorded error stands in its block's ERR_STATUS (R66). -/
theorem Chip.err_sets_bit (s : Chip) (b : Block) (e : ErrorInfo) (h : e.bit < 32) : ((s.err b e).head b).errStatus.getLsbD e.bit = true := by
  rw [s.err_head_same, Head.record_sets_bit _ _ h]

@[simp] theorem Chip.err_cluster (s : Chip) (b : Block) (e : ErrorInfo) : (s.err b e).cluster = s.cluster := by
  funext c
  simp only [Chip.cluster, Chip.err_clusters]

/-- Outside a freeze a meaning acts (R478). -/
theorem Chip.live_unfrozen (f : Chip → Chip) {s : Chip} (h : s.frozen = false) : s.live f = f s := by
  simp [Chip.live, h]

/-! ## A cluster's configuration -/

theorem clusterLive_of_up {s : State} {c : ClusterId} (h : ClusterUp s c) : s.chip.clusterLive c = true := by
  obtain ⟨hfrozen, hring, hcore⟩ := h
  simp [Chip.clusterLive, hfrozen, hring, hcore]

/-- While a step runs, a write of the cluster's configuration is recorded and dropped (R125). -/
theorem Chip.configDropped_frame (s : Chip) (c : ClusterId) :
    (s.configDropped c).cluster c = s.cluster c ∧ (s.configDropped c).pstore = s.pstore ∧
      ((s.configDropped c).head (.clusterSeq c)).errStatus.getLsbD 10 = true :=
  ⟨by simp [Chip.configDropped], by simp [Chip.configDropped], Chip.err_sets_bit _ _ _ (show 10 < 32 by omega)⟩

/-- A program word written is read back at its address alone. -/
theorem Chip.word_pstore_write (s : Chip) (c k : ClusterId) (a : BitVec 15) (n : Nat) (d : Word64) (h : n < 32768) :
    Chip.word { s with pstore := Table.write s.pstore (c, clip 32768 a.toNat) d } k n = if k = c ∧ n = a.toNat then d else s.word k n := by
  have e : clip 32768 n = clip 32768 a.toNat ↔ n = a.toNat := by
    have := a.isLt
    simp only [clip, Fin.ext_iff, Fin.val_ofNat]
    omega
  simp only [Chip.word, Table.read_write, Prod.mk.injEq, e]

theorem ownerWrite_idle {s : State} {c : ClusterId} (v : Word32) (h : SeqIdle s c) :
    s.chip.ownerWrite c v = s.chip.updCluster c (fun x =>
      { x with fabricOpen := v.getLsbD 31, assigned := v.getLsbD 12, dome := v.extractLsb' 8 4, phPhase := v.extractLsb' 0 3 }) := by
  simp [Chip.ownerWrite, clusterLive_of_up h.1, h.2]

theorem pstoreWrite_idle {s : State} {c : ClusterId} (d : Word64) (h : SeqIdle s c) :
    s.chip.pstoreWrite c d = Chip.updCluster { s.chip with pstore := Table.write s.chip.pstore (c, clip 32768 (s.chip.cluster c).pstoreAddr.toNat) d } c
      (fun x => { x with pstoreAddr := x.pstoreAddr + 1 }) := by
  simp [Chip.pstoreWrite, clusterLive_of_up h.1, h.2]

theorem ownerWrite_running {s : State} {c : ClusterId} (v : Word32) (h : ClusterUp s c) (run : (s.chip.cluster c).running = true) :
    s.chip.ownerWrite c v = s.chip.configDropped c := by
  simp [Chip.ownerWrite, clusterLive_of_up h, run]

theorem pstoreWrite_running {s : State} {c : ClusterId} (d : Word64) (h : ClusterUp s c) (run : (s.chip.cluster c).running = true) :
    s.chip.pstoreWrite c d = s.chip.configDropped c := by
  simp [Chip.pstoreWrite, clusterLive_of_up h, run]

/-! ## The porthole gate -/

/-- A range of bytes that does not cross a line is one piece. -/
theorem pieces_of_within (g a n : Nat) (hn : 1 ≤ n) (h : a % g + n ≤ g) : pieces g a n = [(a, n)] := by
  have hg : 0 < g := by omega
  have count : (a % g + n + g - 1) / g = 1 := by
    rw [show a % g + n + g - 1 = (a % g + n - 1) + g by omega, Nat.add_div_right _ hg, Nat.div_eq_of_lt (by omega)]
  have hdiv : a / g * g + a % g = a := by rw [Nat.mul_comm]; exact Nat.div_add_mod a g
  have lo : Nat.max a (a / g * g) = a := Nat.max_eq_left (by omega)
  have hi : Nat.min (a + n) (a / g * g + g) = a + n := Nat.min_eq_left (by omega)
  simp [pieces, count, lo, hi, show n ≠ 0 by omega]

/-- The bytes or the length of a porthole access. -/
def portholeSize (x : PortholeReq) : Nat := match x.data with
  | some bs => bs.length
  | none => x.len

/-- An access within one line joins the end of its core's gate whole (R63). -/
theorem Chip.portholeAccess_within (s : Chip) (k : CoreId) (a : Agent) (x : PortholeReq) (hn : 1 ≤ portholeSize x)
    (line : x.off.toNat % 256 + portholeSize x ≤ 256) (open_ : s.scratchRefusal (whoOf a) k x.off.toNat (portholeSize x) = none) :
    s.portholeAccess k a x = s.updCore k (fun y => { y with gate := y.gate ++ [⟨a, x.off.toNat, portholeSize x, x.data⟩] }) := by
  obtain ⟨off, len, data⟩ := x
  cases data with
  | none =>
    simp only [portholeSize] at hn line open_
    simp [Chip.portholeAccess, portholeSize, open_, pieces_of_within _ _ _ hn line]
  | some bs =>
    simp only [portholeSize] at hn line open_
    simp [Chip.portholeAccess, portholeSize, open_, pieces_of_within _ _ _ hn line]

/-- Settles O12: each write is one update of its cluster, or the recorded CONFIG_DROPPED; a porthole access is one update of its core's gate. -/
theorem clusterConfigurationAndPortholes : Obligations.ClusterConfigurationAndPortholes := by
  unfold Obligations.ClusterConfigurationAndPortholes
  refine ⟨fun s c v d => ⟨fun idle => ⟨?_, ?_⟩, fun up run => ⟨?_, ?_⟩⟩, ?_⟩
  · refine ⟨{ s with chip := s.chip.ownerWrite c v }, rfl, ?_⟩
    rw [ownerWrite_idle v idle]
    exact ⟨⟨rfl, fun k hk => Chip.updCluster_cluster_other _ _ _ _ hk⟩, Chip.updCluster_cluster_same _ _ _⟩
  · refine ⟨{ s with chip := s.chip.pstoreWrite c d }, rfl, ?_⟩
    rw [pstoreWrite_idle d idle]
    exact ⟨⟨rfl, rfl, rfl, rfl⟩, Chip.updCluster_cluster_same _ _ _, fun k n hn => Chip.word_pstore_write s.chip c k _ n d hn⟩
  · obtain ⟨hc, _, hbit⟩ := s.chip.configDropped_frame c
    exact ⟨{ s with chip := s.chip.ownerWrite c v }, rfl, by rw [ownerWrite_running v up run]; exact ⟨hc, hbit⟩⟩
  · exact ⟨{ s with chip := s.chip.pstoreWrite c d }, rfl, by rw [pstoreWrite_running d up run]; exact s.chip.configDropped_frame c⟩
  · intro s k a x n unfrozen hn line granted
    refine ⟨{ s with chip := s.chip.live (Chip.portholeAccess k a x) }, rfl, ?_⟩
    have joined := s.chip.portholeAccess_within k a x hn line granted
    rw [Chip.live_unfrozen _ unfrozen, joined]
    exact ⟨rfl, fun j hj => Chip.updCore_core_other _ _ _ _ hj, Chip.updCore_core_same _ _ _⟩

end Sys2Proof.Machine
end

section
/-! What tables read after entries are dropped or listed anew; loop-back, the stack domain and refreshes (R17, R20, R198, R199, R202, R484). -/

namespace Sys2Proof.Machine

open Host

/-! ## Tables -/

/-- A table keeps the entries of the keys a predicate picks. -/
theorem Table.read_filter {κ α : Type} [DecidableEq κ] (d : α) (t : Table κ α) (p : κ → Bool) (k : κ) :
    Table.read d (t.filter (fun e => p e.1)) k = if p k then Table.read d t k else d := by
  induction t with
  | nil => simp
  | cons e t ih =>
    obtain ⟨j, a⟩ := e
    by_cases hp : p j <;> by_cases hj : j = k
    · subst hj; simp [Table.read, hp]
    · simp [Table.read, hp, hj, ih]
    · subst hj; simp [hp, ih]
    · simp [Table.read, hp, hj, ih]

theorem Table.read_drop {κ α : Type} [DecidableEq κ] (d : α) (t : Table κ α) (p : κ → Bool) (k : κ) :
    Table.read d (t.drop p) k = if p k then d else Table.read d t k := by
  rw [Table.drop, Table.read_filter d t (fun k => !p k) k]
  cases p k <;> rfl

/-- A table that lists a value for each of some keys. -/
theorem Table.read_listed {κ α : Type} [DecidableEq κ] (d : α) (l : List κ) (f : κ → α) (k : κ) (h : k ∈ l) :
    Table.read d (l.map (fun i => (i, f i))) k = f k := by
  induction l with
  | nil => simp at h
  | cons i l ih =>
    by_cases hi : i = k
    · subst hi; simp [Table.read]
    · simp only [List.map_cons, Table.read, hi, if_false]
      exact ih (List.mem_of_ne_of_mem (Ne.symm hi) h)

/-! ## Errors and counted events of a stack -/

/-- An error without a fault code triggers no freeze (R477). -/
theorem Chip.err_codeless (s : Chip) (b : Block) (e : ErrorInfo) (h : e.code = 0) : s.err b e = s.updHead b (fun h => h.record e) := by
  simp [Chip.err, Chip.faultTrigger, h]

theorem Chip.updHead_record_sets_bit (s : Chip) (b : Block) (e : ErrorInfo) (h : e.bit < 32) :
    ((s.updHead b (fun x => x.record e)).head b).errStatus.getLsbD e.bit = true := by
  rw [Chip.updHead_head_same, Head.record_sets_bit _ _ h]

/-- A counted event changes nothing of its stack but the overflow bits, and no other stack. -/
theorem Chip.stackEvent_stack (s : Chip) (t : StackId) (event cls amount : Nat) : ∃ o : Stack → Word32,
    (s.stackEvent t event cls amount).stack = (s.updStack t (fun x => { x with ovf := o x })).stack := by
  refine ⟨fun x => x.ovf ||| ovfBits (countEvent 32 (fun i => Table.read 0 (s.stack t).sels (clip 32 i)) event cls amount (s.head (.perf (.stack t))).counters).2, ?_⟩
  rfl

/-! ## Loop-back (R199) -/

/-- The count of a loop-back run saturates. -/
theorem saturated_sum (a b : Word32) :
    (BitVec.ofNat 32 (Nat.min (a.toNat + b.toNat) 0xFFFFFFFF)).toNat = if a.toNat + b.toNat < 2 ^ 32 then a.toNat + b.toNat else 0xFFFFFFFF := by
  have e : Nat.min (a.toNat + b.toNat) 0xFFFFFFFF = if a.toNat + b.toNat < 2 ^ 32 then a.toNat + b.toNat else 0xFFFFFFFF := by
    show min _ _ = _
    split <;> omega
  rw [e, BitVec.toNat_ofNat, Nat.mod_eq_of_lt]
  split <;> omega

/-- What a run on one channel adds to its stack's fields. -/
def Stack.addMismatches (y : Stack) (r : LaneErrors) : Stack :=
  { y with lbErrCount := BitVec.ofNat 32 (Nat.min (y.lbErrCount.toNat + r.count.toNat) 0xFFFFFFFF),
           lbChanErr := y.lbChanErr ||| bitMask r.channel.val,
           lbData := Table.write y.lbData r.channel (Table.read 0 y.lbData r.channel ||| r.dataLanes),
           lbCheck := Table.write y.lbCheck r.channel (Table.read 0 y.lbCheck r.channel ||| r.checkLanes) }

theorem Chip.lbRun_mismatches {s : Chip} {t : StackId} {r : LaneErrors} (ring : (s.die (stackDie t)).ringOn = true) (run : (s.stack t).lbRun = true)
    (mode : lbMode (s.stack t).loopback ≠ 0) (some_ : r.count ≠ 0) :
    s.lbRun t r = (s.updStack t (fun y => y.addMismatches r)).err (.stackCtrl t) { bit := 2, code := 0 } := by
  simp only [Chip.lbRun, ring, run, mode, some_, Bool.true_eq_false, or_self, if_false]
  rfl

/-- A stack whose loop-back count has been read. -/
def Stack.countRead (y : Stack) : Stack := { y with lbErrCount := 0 }

theorem Chip.lbCountRead_up {s : Chip} {t : StackId} (ring : (s.die (stackDie t)).ringOn = true) :
    s.lbCountRead t = { s.updStack t Stack.countRead with out := .word (s.stack t).lbErrCount.toNat } := by
  simp only [Chip.lbCountRead, ring, Bool.true_eq_false, if_false]
  rfl

/-! ## The stack domain (R17, R20, R484) -/

theorem Chip.enterSelfRefresh_on {s : Chip} {t : StackId} (on : (s.stack t).domainOn = true) :
    s.enterSelfRefresh t = s.updStack t (fun x => { x with selfRefresh := true, onlineAck := false }) := by
  simp [Chip.enterSelfRefresh, on]

/-- The keys of a stack's codewords. -/
theorem cwKey_bounds (t : StackId) (a : Nat) (h : a < 2 ^ 36) : cwKey t 0 ≤ cwKey t a ∧ cwKey t a < cwKey t 0 + 2 ^ 30 := by
  simp only [cwKey]
  omega

theorem dramKey_bounds (t : StackId) (a : Nat) (h : a < 2 ^ 36) : dramKey t 0 ≤ dramKey t a ∧ dramKey t a < dramKey t 0 + 2 ^ 36 := by
  simp only [dramKey]
  omega

/-- A stack's bytes are lost, and no other byte. -/
theorem Memory.byte_clear_stack (m : Memory) (t : StackId) :
    (∀ a, a < 2 ^ 36 → Memory.byte (m.clear (dramKey t 0) (dramKey t 0 + 2 ^ 36)) (dramKey t a) = 0) ∧
    ∀ a, (a < dramKey t 0 ∨ dramKey t 0 + 2 ^ 36 ≤ a) → Memory.byte (m.clear (dramKey t 0) (dramKey t 0 + 2 ^ 36)) a = m.byte a := by
  refine ⟨fun a ha => ?_, fun a ha => ?_⟩
  · rw [Memory.byte_clear, if_pos (dramKey_bounds t a ha)]; rfl
  · rw [Memory.byte_clear, if_neg (by omega)]

/-- What a stack domain that switches off leaves and loses (R17). -/
theorem Chip.stackOff_on {s : Chip} {t : StackId} (on : (s.stack t).domainOn = true) :
    (s.stackOff t).scratch = s.scratch ∧ (s.stackOff t).dram = s.dram.clear (dramKey t 0) (dramKey t 0 + 2 ^ 36) ∧
    (s.stackOff t).cache = s.cache.filter (fun l => l.stack ≠ t) ∧
    (∀ o, (s.stackOff t).obj o = match o with
      | .stack u _ => if u = t then {} else s.obj o
      | .die _ _ => s.obj o) ∧
    ((s.stackOff t).stack t).domainOn = false ∧ ((s.stackOff t).stack t).filled = false ∧ ((s.stackOff t).stack t).redQueue = [] ∧
    ∀ k, k ≠ t → (s.stackOff t).stack k = s.stack k := by
  simp only [Chip.stackOff, on, Bool.true_eq_false, if_false]
  refine ⟨trivial, trivial, trivial, fun o => ?_, ?_, ?_, ?_, fun k hk => Table.read_write_other _ _ _ _ _ hk⟩
  · rw [Chip.obj, Table.read_drop]
    cases o <;> simp [Chip.obj]
  all_goals simp [Chip.stack]

/-- A stack domain that comes up is filled with zeros (R484). -/
theorem Chip.stackFill_empty {s : Chip} {t : StackId} (h : (s.stack t).filled = false) :
    s.stackFill t =
      { s with stk := Table.write s.stk t { s.stack t with domainOn := true, filled := true }, dram := s.dram.clear (dramKey t 0) (dramKey t 0 + 2 ^ 36),
               codeErrors := s.codeErrors.filter (fun e => e.1 < cwKey t 0 ∨ cwKey t 0 + 2 ^ 30 ≤ e.1) } := by
  simp [Chip.stackFill, h]

/-- No codeword of a filled stack is in error. -/
theorem codeErrors_filled (t : Table Nat (List (Nat × Byte))) (n : StackId) (a : Nat) (h : a < 2 ^ 36) :
    Table.read [] (t.filter (fun e => e.1 < cwKey n 0 ∨ cwKey n 0 + 2 ^ 30 ≤ e.1)) (cwKey n a) = [] := by
  rw [Table.read_filter [] t (fun k => decide (k < cwKey n 0 ∨ cwKey n 0 + 2 ^ 30 ≤ k))]
  have := cwKey_bounds n a h
  rw [if_neg (by simp; omega)]

/-! ## Refreshes (R198) -/

/-- The refreshes owed to a pseudo-channel of a stack. -/
def Chip.owedTo (s : Chip) (t : StackId) (q : Fin 64) : Nat := Table.read 0 (s.stack t).owed q

/-- A refresh served leaves every memory and every other stack, and one refresh less owed to its pseudo-channel. -/
theorem Chip.refreshOne_frame (s : Chip) (t : StackId) (p : Fin 64) :
    (∃ h k, s.refreshOne t p = { s with heads := h, stk := k }) ∧ (∀ k, k ≠ t → (s.refreshOne t p).stack k = s.stack k) ∧
    ∀ q, (s.refreshOne t p).owedTo t q = if q = p then s.owedTo t q - 1 else s.owedTo t q := by
  obtain ⟨o, ho⟩ := (s.updStack t (fun x => { x with owed := Table.write x.owed p (Table.read 0 x.owed p - 1) })).stackEvent_stack t 5 16 1
  refine ⟨⟨_, _, rfl⟩, fun k hk => ?_, fun q => ?_⟩
  · rw [Chip.refreshOne, ho, Chip.updStack_stack_other _ _ _ _ hk, Chip.updStack_stack_other _ _ _ _ hk]
  · rw [Chip.owedTo, Chip.refreshOne, ho, Chip.updStack_stack_same, Chip.updStack_stack_same, Table.read_write]
    by_cases h : q = p <;> simp [h, Chip.owedTo]

theorem Chip.refreshServe_owed {s : Chip} {t : StackId} {p : Fin 64} (on : (s.stack t).domainOn = true) (owed : s.owedTo t p ≠ 0)
    (closed : ∀ e ∈ (s.stack t).engines, e.2.openBlock = none) : s.refreshServe t p = s.refreshOne t p := by
  have idle : (s.stack t).anyOpen = false := by
    simp only [Stack.anyOpen, List.any_eq_false]
    intro e he
    simp [closed e he]
  rw [Chip.owedTo] at owed
  simp [Chip.refreshServe, on, owed, idle]

/-- The active runs of a stack remember a forced refresh (R216). -/
def Stack.markForced (y : Stack) : Stack := { y with slots := y.slots.map (fun e => (e.1, { e.2 with forced := e.2.forced || e.2.active.isSome })) }

theorem Chip.forcedRefresh_due {s : Chip} {t : StackId} {p : Fin 64} (on : (s.stack t).domainOn = true) (owed : 8 ≤ s.owedTo t p) :
    s.forcedRefresh t p = ((s.updStack t Stack.markForced).refreshOne t p).err (.stackCtrl t) { bit := 1, code := 0 } := by
  rw [Chip.owedTo] at owed
  simp only [Chip.forcedRefresh, on, Nat.not_lt.mpr owed, Bool.true_eq_false, or_self, if_false]
  rfl

/-- One refresh more is owed to every pseudo-channel, up to 8. -/
def Stack.oweAll (x : Stack) : Stack := { x with owed := (List.finRange 64).map (fun p => (p, Nat.min 8 (Table.read 0 x.owed p + 1))) }

theorem Chip.oweAll_owedTo (s : Chip) (t : StackId) (q : Fin 64) :
    (s.updStack t Stack.oweAll).owedTo t q = if s.owedTo t q < 8 then s.owedTo t q + 1 else 8 := by
  rw [Chip.owedTo, Chip.updStack_stack_same, Stack.oweAll, Table.read_listed 0 _ _ q (List.mem_finRange q)]
  show min 8 (s.owedTo t q + 1) = _
  split <;> omega

theorem Chip.refreshInterval_on {s : Chip} {t : StackId} (on : (s.stack t).domainOn = true) : s.refreshInterval t = s.updStack t Stack.oweAll := by
  simp only [Chip.refreshInterval, on, Bool.true_eq_false, if_false]
  rfl

/-! ## The statement -/

/-- A loop-back run's mismatches and the read of their count. -/
theorem loopBack_counts (s : State) (n : StackId) (r : LaneErrors) (up : RingUp s (stackDie n)) :
    let x := s.chip.stack n
    (x.lbRun = true → lbMode x.loopback ≠ 0 → r.count ≠ 0 →
      ∃ t, Runs (.lbRun n r) s t ∧ SameMemory s t ∧ (∀ k, k ≠ n → t.chip.stack k = s.chip.stack k) ∧
        (t.chip.stack n).lbErrCount.toNat = (if x.lbErrCount.toNat + r.count.toNat < 2 ^ 32 then x.lbErrCount.toNat + r.count.toNat else 0xFFFFFFFF) ∧
        (∀ c : Fin 32, (t.chip.stack n).lbChanErr.getLsbD c.val = (x.lbChanErr.getLsbD c.val || decide (c = r.channel))) ∧
        Table.read 0 (t.chip.stack n).lbData r.channel = Table.read 0 x.lbData r.channel ||| r.dataLanes ∧
        Table.read 0 (t.chip.stack n).lbCheck r.channel = Table.read 0 x.lbCheck r.channel ||| r.checkLanes ∧
        (t.chip.head (.stackCtrl n)).errStatus.getLsbD 2 = true) := by
  intro x run mode found
  refine ⟨{ s with chip := s.chip.live (Chip.lbRun n r) }, rfl, ?_⟩
  rw [Chip.live_unfrozen _ up.1, Chip.lbRun_mismatches up.2 run mode found, Chip.err_codeless _ _ _ rfl]
  have new : (s.chip.updStack n (fun y => y.addMismatches r)).stack n = x.addMismatches r := Chip.updStack_stack_same _ _ _
  simp only [Chip.updHead_stack]
  rw [new]
  refine ⟨⟨rfl, rfl, rfl, rfl⟩, fun k hk => Chip.updStack_stack_other _ _ _ _ hk, saturated_sum _ _, fun c => ?_, Table.read_write_same _ _ _ _, Table.read_write_same _ _ _ _, ?_⟩
  · rw [Stack.addMismatches, BitVec.getLsbD_or, bitMask_getLsbD _ _ r.channel.isLt]
    simp only [Fin.ext_iff]
  · exact Chip.updHead_record_sets_bit _ _ _ (show 2 < 32 by omega)

theorem loopBack_count_read (s : State) (n : StackId) (up : RingUp s (stackDie n)) :
    ∃ t, Runs (.lbErrCountRead n) s t ∧ SameMemory s t ∧ t.chip.out = .word (s.chip.stack n).lbErrCount.toNat ∧
      t.chip.stack n = { s.chip.stack n with lbErrCount := 0 } ∧ ∀ k, k ≠ n → t.chip.stack k = s.chip.stack k := by
  refine ⟨{ s with chip := s.chip.live (Chip.lbCountRead n) }, rfl, ?_⟩
  rw [Chip.live_unfrozen _ up.1, Chip.lbCountRead_up up.2]
  exact ⟨⟨rfl, rfl, rfl, rfl⟩, rfl, s.chip.updStack_stack_same n Stack.countRead, fun k hk => s.chip.updStack_stack_other n k Stack.countRead hk⟩

/-- Settles O22: the counts of a loop-back run, the stack domain's three changes, and the three commands on refreshes, each by the equation of its meaning. -/
theorem loopBackDomainsAndRefreshes : Obligations.LoopBackDomainsAndRefreshes := by
  unfold Obligations.LoopBackDomainsAndRefreshes
  refine ⟨fun s n r up => ⟨loopBack_counts s n r up, loopBack_count_read s n up⟩, fun s n => ⟨fun on => ⟨?_, ?_⟩, fun unfilled => ?_⟩, fun s n p live on => ⟨?_, fun owed closed => ?_, fun due => ?_⟩⟩
  · refine ⟨{ s with chip := s.chip.enterSelfRefresh n }, rfl, ?_⟩
    rw [Chip.enterSelfRefresh_on on]
    exact ⟨⟨rfl, fun k hk => Chip.updStack_stack_other _ _ _ _ hk⟩, Chip.updStack_stack_same _ _ _⟩
  · obtain ⟨scratch, dram, cache, obj, off, unfilled, empty, others⟩ := Chip.stackOff_on on
    obtain ⟨lost, kept⟩ := Memory.byte_clear_stack s.chip.dram n
    refine ⟨{ s with chip := s.chip.stackOff n }, rfl, ⟨scratch, rfl, others, ?_⟩, off, unfilled, empty, ?_, ?_, ?_, ?_⟩
    · intro a ha; rw [dram]; exact kept a ha
    · intro a ha; rw [dram]; exact lost a ha
    · intro l hl; rw [cache] at hl; simpa using (List.mem_filter.mp hl).2
    · intro k; rw [obj]; simp
    · intro d k; rw [obj]
  · obtain ⟨lost, kept⟩ := Memory.byte_clear_stack s.chip.dram n
    refine ⟨{ s with chip := s.chip.stackFill n }, rfl, ?_⟩
    rw [Chip.stackFill_empty unfilled]
    exact ⟨⟨rfl, rfl, fun k hk => Table.read_write_other _ _ _ _ _ hk, kept⟩, rfl, Table.read_write_same _ _ _ _, fun a ha => ⟨lost a ha, codeErrors_filled _ n a ha⟩⟩
  · refine ⟨{ s with chip := s.chip.live (Chip.refreshInterval n) }, rfl, ?_⟩
    rw [Chip.live_unfrozen _ live, Chip.refreshInterval_on on]
    exact ⟨⟨rfl, fun k hk => Chip.updStack_stack_other _ _ _ _ hk⟩, by rw [Chip.updStack_stack_same]; rfl, s.chip.oweAll_owedTo n⟩
  · refine ⟨{ s with chip := s.chip.live (Chip.refreshServe n p) }, rfl, ?_⟩
    obtain ⟨⟨_, _, shape⟩, others, fewer⟩ := s.chip.refreshOne_frame n p
    rw [Chip.live_unfrozen _ live, Chip.refreshServe_owed on owed closed]
    exact ⟨by rw [shape]; exact ⟨rfl, rfl, rfl, rfl⟩, others, fewer⟩
  · refine ⟨{ s with chip := s.chip.live (Chip.forcedRefresh n p) }, rfl, ?_⟩
    obtain ⟨⟨_, _, shape⟩, others, fewer⟩ := (s.chip.updStack n Stack.markForced).refreshOne_frame n p
    have same : ∀ q, (s.chip.updStack n Stack.markForced).owedTo n q = s.chip.owedTo n q := by
      intro q; rw [Chip.owedTo, Chip.updStack_stack_same]; rfl
    rw [Chip.live_unfrozen _ live, Chip.forcedRefresh_due on due, Chip.err_codeless _ _ _ rfl]
    refine ⟨by rw [shape]; exact ⟨rfl, rfl, rfl, rfl⟩, fun k hk => ?_, fun q => ?_, ?_⟩
    · exact (others k hk).trans (Chip.updStack_stack_other _ _ _ _ hk)
    · have q_fewer := fewer q
      rw [same] at q_fewer
      exact q_fewer
    · exact Chip.updHead_record_sets_bit _ _ _ (show 1 < 32 by omega)

end Sys2Proof.Machine
end

section
/-! What accesses, errors, logs and freezes leave alone: which edge rings and stack domains are on, the dies' timers, and which stacks are filled (R17, R45, R484). -/

namespace Sys2Proof.Machine

open Host

/-- Whether each edge ring is on, with its timer, and whether each stack's domain is on and filled. -/
def Chip.supply (s : Chip) : (DieId → Bool × Word64) × (StackId → Bool × Bool) :=
  (fun d => ((s.die d).ringOn, (s.die d).timer), fun t => ((s.stack t).domainOn, (s.stack t).filled))

theorem Chip.supply_eq_iff (s u : Chip) : u.supply = s.supply ↔
    (∀ d, (u.die d).ringOn = (s.die d).ringOn ∧ (u.die d).timer = (s.die d).timer) ∧
    ∀ t, (u.stack t).domainOn = (s.stack t).domainOn ∧ (u.stack t).filled = (s.stack t).filled := by
  simp [Chip.supply, funext_iff]

/-- What every step of a fold leaves alone, the fold does. -/
theorem foldl_keeps {σ α β : Type} (g : σ → β) (f : σ → α → σ) (l : List α) (s : σ) (h : ∀ s a, g (f s a) = g s) : g (l.foldl f s) = g s := by
  induction l generalizing s with
  | nil => rfl
  | cons a t ih => exact (ih _).trans (h s a)

/-! ## Updates of units -/

theorem Chip.supply_of_eq {s u : Chip} (dies : u.dies = s.dies) (stk : u.stk = s.stk) : u.supply = s.supply := by
  simp only [Chip.supply, Chip.die, Chip.stack, dies, stk]

@[simp] theorem Chip.updDie_supply (s : Chip) (d : DieId) (f : Die → Die) (h : ∀ x, (f x).ringOn = x.ringOn ∧ (f x).timer = x.timer) :
    (s.updDie d f).supply = s.supply := by
  rw [Chip.supply_eq_iff]
  refine ⟨fun e => ?_, fun t => ⟨rfl, rfl⟩⟩
  rw [Chip.updDie_die]
  split
  next e => subst e; exact h _
  next => exact ⟨rfl, rfl⟩

@[simp] theorem Chip.updStack_supply (s : Chip) (t : StackId) (f : Stack → Stack) (h : ∀ x, (f x).domainOn = x.domainOn ∧ (f x).filled = x.filled) :
    (s.updStack t f).supply = s.supply := by
  rw [Chip.supply_eq_iff]
  refine ⟨fun d => ⟨rfl, rfl⟩, fun u => ?_⟩
  rw [Chip.updStack_stack]
  split
  next e => subst e; exact h _
  next => exact ⟨rfl, rfl⟩

@[simp] theorem Chip.updHead_supply (s : Chip) (b : Block) (f : Head → Head) : (s.updHead b f).supply = s.supply := rfl
@[simp] theorem Chip.updCore_supply (s : Chip) (k : CoreId) (f : Core → Core) : (s.updCore k f).supply = s.supply := rfl
@[simp] theorem Chip.updCluster_supply (s : Chip) (c : ClusterId) (f : Cluster → Cluster) : (s.updCluster c f).supply = s.supply := rfl
@[simp] theorem Chip.updFn_supply (s : Chip) (k : HostFn) (f : Function → Function) : (s.updFn k f).supply = s.supply := rfl
@[simp] theorem Chip.updHart_supply (s : Chip) (k : HartId) (f : Hart → Hart) : (s.updHart k f).supply = s.supply := rfl
@[simp] theorem Chip.updPort_supply (s : Chip) (k : PortId) (f : Port → Port) : (s.updPort k f).supply = s.supply := rfl
@[simp] theorem Chip.updTrace_supply (s : Chip) (k : DomeId) (f : TraceUnit → TraceUnit) : (s.updTrace k f).supply = s.supply := rfl
@[simp] theorem Chip.updSlot_supply (s : Chip) (t : StackId) (n : Fin 1024) (f : Slot → Slot) : (s.updSlot t n f).supply = s.supply :=
  s.updStack_supply t _ (fun _ => ⟨rfl, rfl⟩)
@[simp] theorem Chip.updEngine_supply (s : Chip) (t : StackId) (e : Fin 32) (f : Engine → Engine) : (s.updEngine t e f).supply = s.supply :=
  s.updStack_supply t _ (fun _ => ⟨rfl, rfl⟩)

/-! ## Logs, freezes, errors and records -/

@[simp] theorem Chip.msix_supply (s : Chip) (f : HostFn) (v : Nat) : (s.msix f v).supply = s.supply :=
  Chip.supply_of_eq (s.msix_dies f v) (s.msix_stk f v)

@[simp] theorem Chip.logVector_supply (s : Chip) : s.logVector.supply = s.supply := Chip.supply_of_eq s.logVector_dies s.logVector_stk

@[simp] theorem Chip.log_supply (s : Chip) (d : DieId) (level : Nat) (code : FaultCode) (dome : Byte) (tag : BitVec 16) (detail : Word64) :
    (s.log d level code dome tag detail).supply = s.supply := by
  have sent (u : Chip) (h : u.supply = s.supply) :
      (if level = 0 then u else Chip.logVector { u with link := { u.link with logOwed := true } }).supply = s.supply := by
    split
    · exact h
    · exact (Chip.logVector_supply _).trans h
  rw [Chip.log]
  split
  · rfl
  · exact sent _ (s.updDie_supply d _ (fun _ => ⟨rfl, rfl⟩))

@[simp] theorem Chip.note_supply (s : Chip) (d : DieId) (level : Nat) (code : FaultCode) (detail : Nat) : (s.note d level code detail).supply = s.supply :=
  s.log_supply ..

theorem Die.reportFrozen_supply (x : Die) : x.reportFrozen.ringOn = x.ringOn ∧ x.reportFrozen.timer = x.timer := by
  rw [Die.reportFrozen]
  split <;> exact ⟨rfl, rfl⟩

@[simp] theorem Chip.freeze_supply (s : Chip) (d : DieId) (kind : Nat) (code : BitVec 16) : (s.freeze d kind code).supply = s.supply := by
  have dies (c : Word32) (u : Chip) : (allDies.foldl (fun (s : Chip) x =>
      if (s.die x).ringOn then
        (s.updDie x (fun y => Die.reportFrozen { y with coel := { y.coel with freezing := true, cause := c } })).log x 2 Code.coelostatFreeze 0xFF 0 (c.setWidth 64)
      else s) u).supply = u.supply := by
    refine foldl_keeps Chip.supply _ _ _ (fun u x => ?_)
    split
    · exact (Chip.log_supply ..).trans (u.updDie_supply x _ (fun _ => Die.reportFrozen_supply _))
    · rfl
  have onStacks (u : Chip) : (allStacks.foldl (fun (s : Chip) t => if (s.stack t).domainOn then s.updStack t (fun x => { x with selfRefresh := true }) else s) u).supply = u.supply := by
    refine foldl_keeps Chip.supply _ _ _ (fun u t => ?_)
    split
    · exact u.updStack_supply t _ (fun _ => ⟨rfl, rfl⟩)
    · rfl
  rw [Chip.freeze]
  split
  · rfl
  · have down (u : Chip) (p : Table PortId Port) (h : Table HartId Hart) (l : HostLink) : Chip.supply { u with ports := p, harts := h, link := l } = u.supply := rfl
    dsimp only
    rw [onStacks, down, dies]

@[simp] theorem Chip.trigger_supply (s : Chip) (d : DieId) (source kind : Nat) (code : BitVec 16) : (s.trigger d source kind code).supply = s.supply := by
  rw [Chip.trigger]
  split
  · exact s.freeze_supply ..
  · rfl

@[simp] theorem Chip.faultTrigger_supply (s : Chip) (b : Block) (code : FaultCode) : (s.faultTrigger b code).supply = s.supply := by
  rw [Chip.faultTrigger]
  split
  · exact s.trigger_supply ..
  · rfl

@[simp] theorem Chip.err_supply (s : Chip) (b : Block) (e : ErrorInfo) : (s.err b e).supply = s.supply := Chip.faultTrigger_supply ..

@[simp] theorem Chip.emit_supply (s : Chip) (d : DieId) (dome : DomeId) (source : Nat) (r : TraceRec) : (s.emit d dome source r).supply = s.supply := by
  rw [Chip.emit]
  split
  · rfl
  · dsimp only
    split
    · exact Chip.trigger_supply ..
    · rfl

/-! ## Counted events -/

@[simp] theorem Chip.stackEvent_supply (s : Chip) (t : StackId) (event cls amount : Nat) : (s.stackEvent t event cls amount).supply = s.supply :=
  (Chip.updStack_supply _ t _ (fun _ => ⟨rfl, rfl⟩))

@[simp] theorem Chip.samples_supply (s : Chip) (c : ClusterId) (sel : Nat → Word32) (l : List Nat) : (s.samples c sel l).supply = s.supply := by
  rw [Chip.samples]
  split
  · rfl
  · exact foldl_keeps Chip.supply _ _ _ (fun u i => u.emit_supply ..)

@[simp] theorem Chip.coreEvent_supply (s : Chip) (k : CoreId) (event amount : Nat) : (s.coreEvent k event amount).supply = s.supply := by
  rw [Chip.coreEvent]
  dsimp only
  split
  · rfl
  · exact Chip.samples_supply ..

/-! ## The core domain (R17) -/

@[simp] theorem Chip.coreOffDomain_supply (s : Chip) (d : DieId) : (s.coreOffDomain d).supply = s.supply := by
  rw [Chip.coreOffDomain]
  split
  · rfl
  · rw [Chip.supply_eq_iff]
    refine ⟨fun e => ?_, fun t => ⟨rfl, rfl⟩⟩
    by_cases h : e = d <;> simp [Chip.die, Chip.updDie, h]

@[simp] theorem Chip.coreOnDomain_supply (s : Chip) (d : DieId) : (s.coreOnDomain d).supply = s.supply := by
  rw [Chip.coreOnDomain]
  split
  · exact s.updDie_supply d _ (fun _ => ⟨rfl, rfl⟩)
  · rfl

/-! ## Codewords and DRAM (R410 to R416) -/

@[simp] theorem Chip.codeEvent_supply (s : Chip) (t : StackId) (a : Nat) (path : Path) (d : Decoded) : (s.codeEvent t a path d).supply = s.supply := by
  cases d with
  | clean => rfl
  | corrected k v =>
    have entered (u : Chip) (x : Stack) (h : u.supply = s.supply) (b : Block) (e : ErrorInfo) (c : CeEntry) :
        (if x.ceLog.length < 64 then u.updStack t (fun x => { x with ceLog := x.ceLog ++ [⟨c.saddr, x.laps.toNat % 2 ^ 15, c.symbol, c.path⟩] }) else u.err b e).supply = s.supply := by
      split
      · simp [h]
      · exact (u.err_supply b e).trans h
    exact entered _ _ (by simp) _ _ ⟨a / 64 * 64, 0, k, path.code⟩
  | poisoned => simp [Chip.codeEvent]
  | uncorrectable => simp [Chip.codeEvent]

@[simp] theorem Chip.readCodeword_supply (s : Chip) (t : StackId) (a : Nat) (path : Path) : (s.readCodeword t a path).1.supply = s.supply := by
  simp only [Chip.readCodeword]
  split
  · rfl
  · exact s.codeEvent_supply ..

@[simp] theorem Chip.writeCodeword_supply (s : Chip) (t : StackId) (a : Nat) (bs : List Byte) : (s.writeCodeword t a bs).supply = s.supply := rfl
@[simp] theorem Chip.poisonCodeword_supply (s : Chip) (t : StackId) (a : Nat) : (s.poisonCodeword t a).supply = s.supply := rfl

@[simp] theorem Chip.moveCodeword_supply (s : Chip) (t : StackId) (a : Nat) (raw : List Byte) (pat : ErrorPattern) : (s.moveCodeword t a raw pat).supply = s.supply := by
  rw [Chip.moveCodeword]
  split <;> rfl

@[simp] theorem Chip.readDram_supply (s : Chip) (t : StackId) (path : Path) (l : List (Nat × Nat)) : (s.readDram t path l).1.supply = s.supply := by
  induction l generalizing s with
  | nil => rfl
  | cons p rest ih =>
    have read := s.readCodeword_supply t p.1 path
    rw [Chip.readDram]
    split
    next s' c h => rw [h] at read; exact read
    next s' bs h =>
      rw [h] at read
      have later := ih s'
      split
      next h' => rw [h'] at later; exact later.trans read
      next h' => rw [h'] at later; exact later.trans read

@[simp] theorem Chip.writeDram_supply (s : Chip) (t : StackId) (bs : List Byte) (l : List (Nat × Nat)) : (s.writeDram t bs l).1.supply = s.supply := by
  induction l generalizing s bs with
  | nil => rfl
  | cons p rest ih =>
    have read := s.readCodeword_supply t p.1 .merge
    rw [Chip.writeDram]
    dsimp only
    rw [ih]
    split
    · rfl
    · split
      next h => rw [h] at read; exact read
      next h => rw [h] at read; exact read

/-! ## Stopped runs (R233, R236) -/

@[simp] theorem Chip.present_supply (s : Chip) (d : DieId) (kind : BitVec 2) (dome : BitVec 4) (n : Nat) : (s.present d kind dome n).1.supply = s.supply :=
  s.updDie_supply d _ (fun _ => ⟨rfl, rfl⟩)

@[simp] theorem Chip.presentOwed_supply (s : Chip) (d : DieId) (kind : BitVec 2) (dome : BitVec 4) : (s.presentOwed d kind dome).supply = s.supply := by
  rw [Chip.presentOwed]
  split
  · exact s.updDie_supply d _ (fun _ => ⟨rfl, rfl⟩)
  · exact s.present_supply ..

@[simp] theorem Chip.stopEngine_supply (s : Chip) (t : StackId) (x : Slot) (e : Fin 32) : (s.stopEngine t x e).supply = s.supply := by
  rw [Chip.stopEngine]
  split
  · exact (Chip.presentOwed_supply ..).trans (s.updEngine_supply ..)
  · exact s.updEngine_supply ..

@[simp] theorem Chip.stopRun_supply (s : Chip) (t : StackId) (n : Fin 1024) : (s.stopRun t n).supply = s.supply := by
  rw [Chip.stopRun]
  refine (Chip.updSlot_supply ..).trans ((foldl_keeps Chip.supply _ _ _ fun u e => ?_).trans (foldl_keeps Chip.supply _ _ _ fun u e => ?_))
  · split
    · exact u.updEngine_supply ..
    · rfl
  · split
    · exact u.stopEngine_supply ..
    · rfl

@[simp] theorem Chip.tearRuns_supply (s : Chip) (t : StackId) : (s.tearRuns t).supply = s.supply :=
  foldl_keeps Chip.supply _ _ _ (fun u _ => (Chip.stopRun_supply ..).trans (u.updSlot_supply ..))

/-- What no update of a die or of a stack touches, torn runs leave alone. -/
theorem Chip.tearRuns_keeps {β : Type} (g : Chip → β) (onDie : ∀ s d f, g (Chip.updDie s d f) = g s) (onStack : ∀ s t f, g (Chip.updStack s t f) = g s)
    (s : Chip) (t : StackId) : g (s.tearRuns t) = g s := by
  have presented (u : Chip) (d : DieId) (kind : BitVec 2) (dome : BitVec 4) : g (u.presentOwed d kind dome) = g u := by
    rw [Chip.presentOwed]
    split
    · exact onDie ..
    · simp only [Chip.present]
      exact onDie ..
  have stopped (u : Chip) (x : Slot) (e : Fin 32) : g (u.stopEngine t x e) = g u := by
    rw [Chip.stopEngine]
    split
    · exact (presented ..).trans (onStack ..)
    · exact onStack ..
  have run (u : Chip) (n : Fin 1024) : g (u.stopRun t n) = g u := by
    rw [Chip.stopRun]
    refine (onStack ..).trans ((foldl_keeps g _ _ _ fun u e => ?_).trans (foldl_keeps g _ _ _ fun u e => ?_))
    · split
      · exact onStack ..
      · rfl
    · split
      · exact stopped ..
      · rfl
  exact foldl_keeps g _ _ _ (fun u e => (run ..).trans (onStack ..))

/-- The contents of DRAM, scratchpads and engine stores. -/
def Chip.stores (s : Chip) : Memory × Memory × Memory := (s.dram, s.scratch, s.engineStore)

/-- Torn runs leave every memory as it is. -/
theorem Chip.tearRuns_stores (s : Chip) (t : StackId) : (s.tearRuns t).stores = s.stores :=
  s.tearRuns_keeps Chip.stores (fun _ _ _ => rfl) (fun _ _ _ => rfl) t

end Sys2Proof.Machine
end

section
/-! Sensor samples without a broken or a rising sensor: what the readings, the hottest of them and the rates become (R446, R447, R449). -/

namespace Sys2Proof.Machine

open Host

/-! ## Maxima -/

theorem le_maxInt_iff (l : List Int) (k : Int) (hk : -32768 < k) : k ≤ maxInt l ↔ ∃ a ∈ l, k ≤ a := by
  induction l with
  | nil => simp [maxInt]; omega
  | cons a t ih =>
    simp only [maxInt, List.mem_cons, exists_eq_or_imp, ← ih]
    split <;> omega

theorem le_maxInt_of_mem (l : List Int) (a : Int) (h : a ∈ l) : a ≤ maxInt l := by
  induction l with
  | nil => simp at h
  | cons b t ih =>
    simp only [maxInt]
    rcases List.mem_cons.mp h with rfl | later
    · split <;> omega
    · have := ih later
      split <;> omega

/-- The hottest reading in use reaches a limit exactly when some reading does. -/
theorem le_hottestOf_iff (l : List Sensor) (k : Int) (hk : -32768 < k) : k ≤ hottestOf l ↔ ∃ v ∈ l.map (fun x => x.reading), k ≤ v.toInt := by
  rw [hottestOf, le_maxInt_iff _ _ hk]
  simp

/-- No sensor has a rate of rise before its history is full. -/
theorem rateOf_eq_none (l : List Sensor) (keep : Nat) (h : ∀ x ∈ l, x.history.length ≤ keep) : rateOf l keep = none := by
  have e : l.filterMap (fun x => x.rate keep) = [] := by
    rw [List.filterMap_eq_nil_iff]
    intro x hx
    rw [Sensor.rate, if_pos (h x hx)]
  rw [rateOf, e]

/-! ## A sound sample -/

/-- A sensor that is not broken and that one more deviation does not break. -/
def Sensor.sound (x : Sensor) : Prop := x.broken = false ∧ x.deviations < 15

/-- What a sound sensor becomes that takes a reading. -/
def Sensor.takes (x : Sensor) (keep dev : Nat) (v : BitVec 16) : Sensor :=
  { x with deviations := dev, reading := v, history := (v :: x.history).take (keep + 1) }

/-- The count of deviations after the marks of one sample. -/
def markedDeviations (n : Nat) (near : Nat → List Nat) (old : Nat → Sensor) (r : List (BitVec 16)) (i : Nat) : Nat :=
  let l := (near i).filter (fun j => decide (j < n) && !(old j).broken)
  if l = [] then 0
  else if 256 < (2 * (r.getD i 0).toInt - median2 (l.map (fun j => (r.getD j 0).toInt))).natAbs then (old i).deviations + 1 else 0

/-- The sensors after a sound sample. -/
def takenSensors (n keep : Nat) (near : Nat → List Nat) (old : Nat → Sensor) (r : List (BitVec 16)) : List Sensor :=
  (List.range n).map (fun i => (old i).takes keep (markedDeviations n near old r i) (r.getD i 0))

/-- A listed function of the index, seen with its index. -/
theorem mapIdx_tabulate {α β : Type} (n : Nat) (g : Nat → α) (f : Nat → α → β) : (tabulate n g).mapIdx f = (List.range n).map (fun i => f i (g i)) := by
  apply List.ext_getElem
  · simp [tabulate]
  · intro i h₁ h₂
    simp [tabulate]

/-- The mark of a sound sensor breaks nothing. -/
theorem mark_of_sound (x : Sensor) (l : List Nat) (off : Int) (h : x.sound) :
    (if x.broken then (x, false)
     else if l = [] then ({ x with deviations := 0 }, false)
     else
       let dev := if 256 < off.natAbs then x.deviations + 1 else 0
       ({ x with deviations := dev, broken := decide (16 ≤ dev) }, decide (16 ≤ dev))) =
    (({ x with deviations := if l = [] then 0 else if 256 < off.natAbs then x.deviations + 1 else 0 } : Sensor), false) := by
  obtain ⟨reading, broken, deviations, history⟩ := x
  obtain ⟨rfl, few⟩ : broken = false ∧ deviations < 15 := h
  by_cases hl : l = []
  · simp [hl]
  · by_cases far : 256 < off.natAbs
    · simp [hl, far]; omega
    · simp [hl, far]

/-- Sound sensors all take their readings, and none becomes broken (R446). -/
theorem sampleSensors_of_sound (n : Nat) (near : Nat → List Nat) (keep : Nat) (old : Nat → Sensor) (r : List (BitVec 16)) (h : ∀ i, (old i).sound) :
    sampleSensors n near keep old r = (takenSensors n keep near old r).map (fun x => (x, false)) := by
  have marks := fun i =>
    mark_of_sound (old i) ((near i).filter (fun j => decide (j < n) && !(old j).broken))
      (2 * (r.getD i 0).toInt - median2 (((near i).filter (fun j => decide (j < n) && !(old j).broken)).map (fun j => (r.getD j 0).toInt))) (h i)
  simp only [sampleSensors, marks, mapIdx_tabulate, takenSensors, List.map_map]
  apply List.map_congr_left
  intro i _
  simp [(h i).1, Sensor.takes, markedDeviations, BitVec.ofInt_toInt]

theorem takenSensors_reading (n keep : Nat) (near : Nat → List Nat) (old : Nat → Sensor) (r : List (BitVec 16)) :
    (takenSensors n keep near old r).map (fun x => x.reading) = (List.range n).map (fun i => r.getD i 0) := by
  simp [takenSensors, Sensor.takes, Function.comp_def]

theorem le_hottestOf_take (n keep m : Nat) (near : Nat → List Nat) (old : Nat → Sensor) (r : List (BitVec 16)) (k : Int) (hk : -32768 < k) (hm : m ≤ n) :
    k ≤ hottestOf ((takenSensors n keep near old r).take m) ↔ ∃ i, i < m ∧ k ≤ (r.getD i 0).toInt := by
  rw [le_hottestOf_iff _ _ hk, List.map_take, takenSensors_reading, ← List.map_take, List.take_range, Nat.min_eq_left hm]
  simp

theorem le_hottestOf_drop (n keep m : Nat) (near : Nat → List Nat) (old : Nat → Sensor) (r : List (BitVec 16)) (k : Int) (hk : -32768 < k) :
    k ≤ hottestOf ((takenSensors n keep near old r).drop m) ↔ ∃ i, m ≤ i ∧ i < n ∧ k ≤ (r.getD i 0).toInt := by
  rw [le_hottestOf_iff _ _ hk, List.map_drop, takenSensors_reading, ← List.map_drop, List.range_eq_range', List.drop_range']
  simp only [List.mem_map, List.mem_range'_1, exists_exists_and_eq_and]
  constructor
  · rintro ⟨i, hi, hv⟩
    exact ⟨i, by omega, by omega, hv⟩
  · rintro ⟨i, lo, hi, hv⟩
    exact ⟨i, by omega, hv⟩

/-- While no history is full, a sound sample shows no rate of rise (R447, R449). -/
theorem rateOf_takenSensors (n keep : Nat) (near : Nat → List Nat) (old : Nat → Sensor) (r : List (BitVec 16)) (short : ∀ i, (old i).history.length < keep)
    (l : List Sensor) (h : ∀ x ∈ l, x ∈ takenSensors n keep near old r) : rateOf l keep = none := by
  refine rateOf_eq_none l keep (fun x hx => ?_)
  obtain ⟨i, -, rfl⟩ := List.mem_map.mp (h x hx)
  have := short i
  simp [Sensor.takes]
  omega

/-- No sensor of a sound sample has become broken. -/
theorem broken_of_sound (l : List Sensor) (n : Nat) : (List.range n).filter (fun i => ((l.map (fun x => (x, false))).getD i (({} : Sensor), false)).2) = [] := by
  rw [List.filter_eq_nil_iff]
  intro i _
  rw [List.getD_eq_getElem?_getD, List.getElem?_map]
  cases l[i]? <;> simp

/-- A table listed from a sample reads each sensor with its reading. -/
theorem reading_of_sampled (n : Nat) [NeZero n] (keep : Nat) (near : Nat → List Nat) (old : Nat → Sensor) (r : List (BitVec 16)) (i : Fin n) :
    (Table.read {} (((takenSensors n keep near old r).map (fun x => (x, false))).mapIdx (fun i (e : Sensor × Bool) => ((clip n i : Fin n), e.1))) i).reading = r.getD i.val 0 := by
  have listed : ((takenSensors n keep near old r).map (fun x => (x, false))).mapIdx (fun i (e : Sensor × Bool) => ((clip n i : Fin n), e.1)) =
      (List.finRange n).map (fun j => (j, (old j.val).takes keep (markedDeviations n near old r j.val) (r.getD j.val 0))) := by
    apply List.ext_getElem
    · simp [takenSensors]
    · intro j _ h
      have hj : j < n := by simpa using h
      simp [takenSensors, clip, Fin.ext_iff, Nat.mod_eq_of_lt hj]
  rw [listed, Table.read_listed {} _ (fun j : Fin n => (old j.val).takes keep (markedDeviations n near old r j.val) (r.getD j.val 0)) _ (List.mem_finRange i)]
  rfl

end Sys2Proof.Machine
end

section
/-! A stack's temperature sample, its trip and its recovery (R196, R197, R448, R456). -/

namespace Sys2Proof.Machine

open Host

/-! ## The refresh interval (R197) -/

theorem refreshLevel_mono {a b : Int} (h : a ≤ b) : refreshLevel a ≤ refreshLevel b := by
  simp only [refreshLevel]
  split_ifs <;> omega

/-- A reading cool enough for one step back asks for no shorter an interval than that step gives. -/
theorem refreshLevel_of_cool {rate : Nat} {hot : Int} (h : (if rate = 2 then decide (hot ≤ 1472) else decide (hot ≤ 1312)) = true) :
    refreshLevel hot ≤ rate - 1 := by
  simp only [refreshLevel]
  split at h <;> simp only [decide_eq_true_eq] at h <;> split_ifs <;> omega

/-- The interval is at least as short as the hottest reading asks for. -/
theorem Stack.refreshLevel_le_rateStep (x : Stack) (hot : Int) : refreshLevel hot ≤ (x.rateStep hot).refreshRate := by
  by_cases shorten : x.refreshRate < refreshLevel hot
  · simp [Stack.rateStep, shorten]
  · have enough : refreshLevel hot ≤ x.refreshRate := Nat.le_of_not_lt shorten
    by_cases zero : x.refreshRate = 0
    · simp only [Stack.rateStep, zero, if_true]
      omega
    · cases cool : (if x.refreshRate = 2 then decide (hot ≤ 1472) else decide (hot ≤ 1312) : Bool) with
      | false => simpa only [Stack.rateStep, shorten, zero, cool, if_false, if_true] using enough
      | true =>
        simp only [Stack.rateStep, shorten, zero, cool, if_false, Bool.true_eq_false]
        split
        · exact refreshLevel_of_cool cool
        · exact enough

theorem Stack.rateStep_nominal (x : Stack) (hot : Int) (cool : hot ≤ 1360) (zero : x.refreshRate = 0) : (x.rateStep hot).refreshRate = 0 := by
  simp [Stack.rateStep, refreshLevel, cool, zero]

theorem Stack.rateStep_frame (x : Stack) (hot : Int) :
    (x.rateStep hot).tripped = x.tripped ∧ (x.rateStep hot).online = x.online ∧ (x.rateStep hot).domainOn = x.domainOn := by
  unfold Stack.rateStep
  dsimp only
  split_ifs <;> exact ⟨rfl, rfl, rfl⟩

/-! ## A sample (R448) -/

/-- A stack's sensors after a sound sample. -/
def Stack.taken (x : Stack) (r : List (BitVec 16)) : List Sensor :=
  takenSensors 24 10 (fun i => Config.neighbours (64 + i)) (fun i => Table.read {} x.sensors (clip 24 i)) r

/-- A stack after a sound sample, before any trip. -/
def Stack.sampled (x : Stack) (r : List (BitVec 16)) : Stack :=
  let all := x.taken r
  let hot := hottestOf (all.drop 8)
  { x.rateStep hot with
    sensors := (all.map (fun x => (x, false))).mapIdx (fun i e => (clip 24 i, e.1)), hottest := BitVec.ofInt 16 hot,
    guider := { x.guider.sample 10 (hottestOf all) none false with rorWarn := false } }

theorem Chip.updStack_congr (s : Chip) (t : StackId) {f g : Stack → Stack} (h : f (s.stack t) = g (s.stack t)) : s.updStack t f = s.updStack t g := by
  rw [Chip.updStack, Chip.updStack, h]

theorem unbroken_sensors (l : List Sensor) : (l.map (fun x => (x, false))).map (fun e => e.1) = l := by
  rw [List.map_map]
  exact List.map_id l

/-- A sample of a stack whose sensors are sound and show no rate of rise. -/
theorem Chip.stackSample_of_sound {s : Chip} {t : StackId} (r : List (BitVec 16)) (on : (s.stack t).domainOn = true)
    (sound : ∀ i, (Table.read {} (s.stack t).sensors i).sound) (short : ∀ i, (Table.read {} (s.stack t).sensors i).history.length < 10) :
    s.stackSample t r =
      if 1760 ≤ hottestOf (((s.stack t).taken r).take 8) ∨ 1680 ≤ hottestOf (((s.stack t).taken r).drop 8) then
        (s.updStack t (fun y => y.sampled r)).stackTrip t
      else s.updStack t (fun y => y.sampled r) := by
  have still : rateOf ((s.stack t).taken r) 10 = none := by
    rw [Stack.taken]
    exact rateOf_takenSensors 24 10 _ _ r (fun i => short (clip 24 i)) _ (fun _ h => h)
  have out : sampleSensors 24 (fun i => Config.neighbours (64 + i)) 10 (fun i => Table.read {} (s.stack t).sensors (clip 24 i)) r =
      ((s.stack t).taken r).map (fun x => (x, false)) := by
    rw [Stack.taken]
    exact sampleSensors_of_sound 24 _ 10 _ r (fun i => sound (clip 24 i))
  have updated : s.updStack t (fun y => y.sampled r) = s.updStack t (fun y =>
      { y.rateStep (hottestOf (((s.stack t).taken r).drop 8)) with
        sensors := (((s.stack t).taken r).map (fun x => (x, false))).mapIdx (fun i e => (clip 24 i, e.1)),
        hottest := BitVec.ofInt 16 (hottestOf (((s.stack t).taken r).drop 8)),
        guider := { y.guider.sample 10 (hottestOf ((s.stack t).taken r)) none false with rorWarn := false } }) := Chip.updStack_congr _ _ rfl
  rw [updated]
  simp only [Chip.stackSample, on, out, unbroken_sensors, broken_of_sound, still, List.foldl_nil, atLeast, Bool.true_eq_false, Bool.false_eq_true,
    false_and, or_false, if_false]

/-- A sample by itself trips nothing and switches nothing. -/
theorem Stack.sampled_frame (x : Stack) (r : List (BitVec 16)) :
    (x.sampled r).tripped = x.tripped ∧ (x.sampled r).online = x.online ∧ (x.sampled r).domainOn = x.domainOn := by
  simp only [Stack.sampled, x.rateStep_frame, and_self]

theorem Stack.sampled_refreshRate (x : Stack) (r : List (BitVec 16)) :
    (x.sampled r).refreshRate = (x.rateStep (hottestOf ((x.taken r).drop 8))).refreshRate := by
  simp only [Stack.sampled]

theorem Stack.sampled_reading (x : Stack) (r : List (BitVec 16)) (i : Fin 24) : (Table.read {} (x.sampled r).sensors i).reading = r.getD i.val 0 := by
  simp only [Stack.sampled, Stack.taken]
  exact reading_of_sampled 24 10 _ _ r i

/-- A stack's readings that reach its limits: 110 degrees C in the base die, 105 in the DRAM (R448). -/
theorem Stack.over_limit_iff (x : Stack) (r : List (BitVec 16)) :
    (1760 ≤ hottestOf ((x.taken r).take 8) ∨ 1680 ≤ hottestOf ((x.taken r).drop 8)) ↔
      (∃ i, i < 8 ∧ 1760 ≤ (r.getD i 0).toInt) ∨ ∃ i, 8 ≤ i ∧ i < 24 ∧ 1680 ≤ (r.getD i 0).toInt := by
  rw [Stack.taken, le_hottestOf_take _ _ _ _ _ _ _ (by omega) (by omega), le_hottestOf_drop _ _ _ _ _ _ _ (by omega)]

/-- The interval is at least as short as each DRAM reading asks for. -/
theorem Stack.refreshLevel_le_sampled (x : Stack) (r : List (BitVec 16)) (i : Nat) (lo : 8 ≤ i) (hi : i < 24) :
    refreshLevel (r.getD i 0).toInt ≤ (x.sampled r).refreshRate := by
  have listed : (r.getD i 0).toInt ∈ ((x.taken r).drop 8).map (fun y => y.reading.toInt) := by
    have e : ((x.taken r).drop 8).map (fun y => y.reading.toInt) = (((List.range 24).map (fun i => r.getD i 0)).drop 8).map (fun v => v.toInt) := by
      rw [← takenSensors_reading 24 10 (fun i => Config.neighbours (64 + i)) (fun i => Table.read {} x.sensors (clip 24 i)), ← List.map_drop, List.map_map]
      rfl
    rw [e, ← List.map_drop, List.map_map, List.range_eq_range', List.drop_range']
    exact List.mem_map.mpr ⟨i, by rw [List.mem_range'_1]; omega, rfl⟩
  rw [Stack.sampled_refreshRate]
  exact (refreshLevel_mono (le_maxInt_of_mem _ _ listed)).trans (x.refreshLevel_le_rateStep _)

/-- Readings that ask for the nominal interval keep it. -/
theorem Stack.sampled_nominal (x : Stack) (r : List (BitVec 16)) (cool : ∀ i, 8 ≤ i → i < 24 → (r.getD i 0).toInt ≤ 1360) (zero : x.refreshRate = 0) :
    (x.sampled r).refreshRate = 0 := by
  have hot : ¬ 1361 ≤ hottestOf ((x.taken r).drop 8) := by
    rw [Stack.taken, le_hottestOf_drop _ _ _ _ _ _ _ (by omega)]
    rintro ⟨i, lo, hi, h⟩
    have := cool i lo hi
    omega
  rw [Stack.sampled_refreshRate]
  exact x.rateStep_nominal _ (by omega) zero

/-! ## A trip and its end (R448, R456) -/

@[simp] theorem Chip.note_stack (s : Chip) (d : DieId) (level : Nat) (code : FaultCode) (detail : Nat) : (s.note d level code detail).stack = s.stack := by
  funext t
  simp only [Chip.stack, Chip.note, Chip.log_stk]

@[simp] theorem Chip.note_stores (s : Chip) (d : DieId) (level : Nat) (code : FaultCode) (detail : Nat) : (s.note d level code detail).stores = s.stores := by
  simp only [Chip.stores, Chip.note, Chip.log_dram, Chip.log_scratch, Chip.log_engineStore]

/-- A stack that trips is offline in self-refresh at the quartered interval; its domain stays on and no memory changes. -/
theorem Chip.stackTrip_frame {s : Chip} {t : StackId} (h : (s.stack t).tripped = false) :
    let y := (s.stackTrip t).stack t
    (s.stackTrip t).stores = s.stores ∧ y.tripped = true ∧ y.online = false ∧ y.onlineAck = false ∧ y.selfRefresh = true ∧ y.quarteredSelf = true ∧
      y.domainOn = (s.stack t).domainOn := by
  have on := ((Chip.supply_eq_iff s (s.tearRuns t)).mp (s.tearRuns_supply t)).2 t
  simp only [Chip.stackTrip, h, Bool.false_eq_true, if_false, Chip.note_stack, Chip.note_stores, Chip.updStack_stack_same]
  exact ⟨s.tearRuns_stores t, trivial, trivial, trivial, trivial, trivial, on.1⟩

/-- A stack that has cooled down serves again (R456). -/
def Stack.recovered (x : Stack) : Stack := { x with tripped := false, quarteredSelf := false, online := true, onlineAck := true, selfRefresh := false }

theorem Chip.stackTripCleared_cool {s : Chip} {t : StackId} (on : (s.stack t).domainOn = true) (tripped : (s.stack t).tripped = true)
    (cool : ∀ e ∈ (s.stack t).sensors, e.2.reading.toInt < 1360) (runs : s.running (stackDie t) = true) (mode : lbMode (s.stack t).loopback = 0) :
    ∃ k, s.stackTripCleared t = { s with stk := k } ∧ (s.stackTripCleared t).stack t = (s.stack t).recovered ∧
      ∀ u, u ≠ t → (s.stackTripCleared t).stack u = s.stack u := by
  have below : (s.stack t).sensors.any (fun e => decide (1360 ≤ e.2.reading.toInt)) = false := by
    rw [List.any_eq_false]
    intro e he
    simpa using cool e he
  have cleared : ∀ f : Stack → Stack, (s.updStack t f).running (stackDie t) = true := fun _ => runs
  simp only [Chip.stackTripCleared, on, tripped, below, mode, cleared, Bool.true_eq_false, Bool.false_eq_true, or_self, if_false, not_true, ne_eq]
  refine ⟨_, rfl, ?_, fun u hu => ?_⟩
  · rw [Chip.updStack_stack_same, Chip.updStack_stack_same]; rfl
  · rw [Chip.updStack_stack_other _ _ _ _ hu, Chip.updStack_stack_other _ _ _ _ hu]

end Sys2Proof.Machine
end

section
/-! A die's temperature sample and the trip of its core domain (R17, R445, R448, R450, R453). -/

namespace Sys2Proof.Machine

open Host

/-! ## A sample (R447, R450) -/

/-- A die's sensors after a sound sample: 48 of the array, then 16 of the edge ring. -/
def Die.taken (x : Die) (r : List (BitVec 16)) : List Sensor := takenSensors 64 20 Config.neighbours (fun i => Table.read {} x.sensors (clip 64 i)) r

/-- A die after a sound sample, before any trip. -/
def Die.sampled (x : Die) (r : List (BitVec 16)) : Die :=
  let hot := hottestOf ((x.taken r).take 48)
  { x with sensors := ((x.taken r).map (fun y => (y, false))).mapIdx (fun i e => (clip 64 i, e.1)),
           guider := { x.guider.sample 20 hot none x.alert with rorWarn := false, throttling := decide (1600 ≤ hot) } }

theorem Chip.updDie_congr (s : Chip) (d : DieId) {f g : Die → Die} (h : f (s.die d) = g (s.die d)) : s.updDie d f = s.updDie d g := by
  rw [Chip.updDie, Chip.updDie, h]

/-- A sample of a die whose sensors are sound, show no rate of rise and leave the edge ring below its limit. -/
theorem Chip.thermalSample_of_sound {s : Chip} {d : DieId} (r : List (BitVec 16)) (on : (s.die d).ringOn = true)
    (sound : ∀ i, (Table.read {} (s.die d).sensors i).sound) (short : ∀ i, (Table.read {} (s.die d).sensors i).history.length < 20)
    (ring : ¬ 1760 ≤ hottestOf (((s.die d).taken r).drop 48)) :
    ∃ f, s.thermalSample d r =
      if 1760 ≤ hottestOf (((s.die d).taken r).take 48) then ((s.updDie d (fun y => y.sampled r)).updHead (.guider d) f).coreTrip d
      else (s.updDie d (fun y => y.sampled r)).updHead (.guider d) f := by
  have still (l : List Sensor) (h : ∀ x ∈ l, x ∈ (s.die d).taken r) : rateOf l 20 = none := by
    rw [Die.taken] at h
    exact rateOf_takenSensors 64 20 _ _ r (fun i => short (clip 64 i)) l h
  have stillArray := still (((s.die d).taken r).take 48) (fun _ => List.mem_of_mem_take)
  have stillRing := still (((s.die d).taken r).drop 48) (fun _ => List.mem_of_mem_drop)
  have out : sampleSensors 64 Config.neighbours 20 (fun i => Table.read {} (s.die d).sensors (clip 64 i)) r =
      ((s.die d).taken r).map (fun x => (x, false)) := by
    rw [Die.taken]
    exact sampleSensors_of_sound 64 _ 20 _ r (fun i => sound (clip 64 i))
  have updated : s.updDie d (fun y => y.sampled r) = s.updDie d (fun y =>
      { y with sensors := (((s.die d).taken r).map (fun x => (x, false))).mapIdx (fun i e => (clip 64 i, e.1)),
               guider := { (s.die d).guider.sample 20 (hottestOf (((s.die d).taken r).take 48)) none (s.die d).alert with
                 rorWarn := false, throttling := decide (1600 ≤ hottestOf (((s.die d).taken r).take 48)) } }) := Chip.updDie_congr _ _ rfl
  rw [updated]
  simp only [Chip.thermalSample, on, out, unbroken_sensors, broken_of_sound, stillArray, stillRing, ring, List.foldl_nil, atLeast, Bool.true_eq_false,
    Bool.false_eq_true, Bool.or_false, or_false, if_false]
  exact ⟨_, rfl⟩

theorem Die.sampled_frame (x : Die) (r : List (BitVec 16)) : (x.sampled r).ringOn = x.ringOn ∧ (x.sampled r).timer = x.timer ∧ (x.sampled r).coreOn = x.coreOn := by
  simp only [Die.sampled, and_self]

theorem Die.sampled_reading (x : Die) (r : List (BitVec 16)) (i : Fin 64) : (Table.read {} (x.sampled r).sensors i).reading = r.getD i.val 0 := by
  simp only [Die.sampled, Die.taken]
  exact reading_of_sampled 64 20 _ _ r i

/-- The array reaches a limit exactly when one of its 48 readings does. -/
theorem Die.le_array_iff (x : Die) (r : List (BitVec 16)) (k : Int) (hk : -32768 < k) :
    k ≤ hottestOf ((x.taken r).take 48) ↔ ∃ i, i < 48 ∧ k ≤ (r.getD i 0).toInt := by
  rw [Die.taken, le_hottestOf_take _ _ _ _ _ _ _ hk (by omega)]

theorem Die.le_ring_iff (x : Die) (r : List (BitVec 16)) (k : Int) (hk : -32768 < k) :
    k ≤ hottestOf ((x.taken r).drop 48) ↔ ∃ i, 48 ≤ i ∧ i < 64 ∧ k ≤ (r.getD i 0).toInt := by
  rw [Die.taken, le_hottestOf_drop _ _ _ _ _ _ _ hk]

/-- The Guider throttles exactly when an array reading is 100 degrees C or more (R450). -/
theorem Die.sampled_throttling (x : Die) (r : List (BitVec 16)) : (x.sampled r).guider.throttling = true ↔ ∃ i, i < 48 ∧ 1600 ≤ (r.getD i 0).toInt := by
  simp only [Die.sampled, decide_eq_true_eq]
  exact x.le_array_iff r 1600 (by omega)

/-- A hot sample raises the thermal duty by one, up to 7, and the duty is at least that (R450). -/
theorem Guider.sample_hot (g : Guider) (n : Nat) (tMax : Int) (rate : Option Int) (alert : Bool) (hot : 1600 ≤ tMax) :
    (g.sample n tMax rate alert).dThermal = Nat.min 7 (g.dThermal + 1) ∧ Nat.min 7 (g.dThermal + 1) ≤ (g.sample n tMax rate alert).duty := by
  simp only [Guider.sample, hot, if_true, true_and]
  exact (Nat.le_max_left _ _).trans (Nat.le_max_left _ _)

theorem Die.sampled_hot (x : Die) (r : List (BitVec 16)) (hot : ∃ i, i < 48 ∧ 1600 ≤ (r.getD i 0).toInt) :
    (x.sampled r).guider.dThermal = Nat.min 7 (x.guider.dThermal + 1) ∧ Nat.min 7 (x.guider.dThermal + 1) ≤ (x.sampled r).guider.duty := by
  simp only [Die.sampled]
  exact x.guider.sample_hot 20 _ none x.alert ((x.le_array_iff r 1600 (by omega)).mpr hot)

/-! ## The core domain switches off (R17, R453) -/

/-- What a core domain that switches off leaves and loses (R17, R281). -/
theorem Chip.coreOffDomain_on {s : Chip} {d : DieId} (on : (s.die d).coreOn = true) :
    let u := s.coreOffDomain d
    u.dram = s.dram ∧ (u.die d).ringOn = (s.die d).ringOn ∧ (u.die d).coreOn = false ∧ (∀ n, u.obj (.die d n) = {}) ∧ (∀ k, k.die = d → u.core k = {}) ∧
      ∀ a, scratchKey ⟨d, 0⟩ 0 ≤ a → a < scratchKey ⟨d, 0⟩ 0 + 2 ^ 32 → u.scratch.byte a = 0 := by
  intro u
  have e : u = s.coreOffDomain d := rfl
  rw [Chip.coreOffDomain, if_neg (by simp [on])] at e
  rw [e]
  refine ⟨rfl, ?_, ?_, fun n => ?_, fun k hk => ?_, fun a lo hi => ?_⟩
  · simp [Chip.die, Chip.updDie]
  · simp [Chip.die, Chip.updDie]
  · rw [Chip.obj, Table.read_drop]; simp
  · rw [Chip.core, Table.read_drop]; simp [hk]
  · exact (Memory.byte_clear _ _ _ _).trans (if_pos ⟨lo, hi⟩)

theorem Chip.coreTrip_on {s : Chip} {d : DieId} (on : (s.die d).coreOn = true) :
    s.coreTrip d = (s.coreOffDomain d).updDie d (fun x => { x with tripped := true, fenced := true }) := by
  simp [Chip.coreTrip, on]

@[simp] theorem Chip.coreTrip_supply (s : Chip) (d : DieId) : (s.coreTrip d).supply = s.supply := by
  rw [Chip.coreTrip]
  split
  · rfl
  · simp

/-- While the sample leaves CD0's edge ring as it is, nothing of the host link changes. -/
theorem thermalRow_of_ring {r : Reach} {d : DieId} (l : List (BitVec 16)) (h : ((r.chip.thermalSample d l).die 0).ringOn = (r.chip.die 0).ringOn) :
    thermalRow d l r = { r with chip := r.chip.thermalSample d l } := by
  simp only [thermalRow, h]
  cases (r.chip.die 0).ringOn <;> simp

/-! ## The statement -/

/-- A die's temperature sample below the limits, and one that trips the core domain. -/
theorem thermalSample_trips (s : State) (d : DieId) (r : List (BitVec 16))
    (sound : ∀ i, (Table.read {} (s.chip.die d).sensors i).broken = false ∧ (Table.read {} (s.chip.die d).sensors i).deviations < 15 ∧
      (Table.read {} (s.chip.die d).sensors i).history.length < 20)
    (ringOn : (s.chip.die d).ringOn = true) (coreOn : (s.chip.die d).coreOn = true) (ringCool : ∀ i, 48 ≤ i → i < 64 → (r.getD i 0).toInt < 1760) :
    let temp (i : Nat) : Int := (r.getD i 0).toInt
    ((∀ i, i < 48 → temp i < 1760) →
      ∃ t, Runs (.thermalSample d r) s t ∧ SameMemory s t ∧ (t.chip.die d).coreOn = true ∧ (t.chip.die d).ringOn = true ∧
        (∀ i : Fin 64, (Table.read {} (t.chip.die d).sensors i).reading = r.getD i.val 0) ∧
        ((t.chip.die d).guider.throttling = true ↔ ∃ i, i < 48 ∧ 1600 ≤ temp i) ∧
        ((∃ i, i < 48 ∧ 1600 ≤ temp i) → (t.chip.die d).guider.dThermal = Nat.min 7 ((s.chip.die d).guider.dThermal + 1) ∧
          Nat.min 7 ((s.chip.die d).guider.dThermal + 1) ≤ (t.chip.die d).guider.duty) ∧
        ∀ e, e ≠ d → t.chip.die e = s.chip.die e) ∧
    ((∃ i, i < 48 ∧ 1760 ≤ temp i) →
      ∃ t, Runs (.thermalSample d r) s t ∧ t.chip.dram = s.chip.dram ∧ (t.chip.die d).ringOn = true ∧ (t.chip.die d).coreOn = false ∧
        (t.chip.die d).tripped = true ∧ (t.chip.die d).fenced = true ∧ (∀ n, t.chip.obj (.die d n) = {}) ∧ (∀ k, k.die = d → t.chip.core k = {}) ∧
        ∀ a, scratchKey ⟨d, 0⟩ 0 ≤ a → a < scratchKey ⟨d, 0⟩ 0 + 2 ^ 32 → t.chip.scratch.byte a = 0) := by
  intro temp
  have cool : ¬ 1760 ≤ hottestOf (((s.chip.die d).taken r).drop 48) := by
    rw [Die.le_ring_iff _ _ _ (by omega)]
    rintro ⟨i, lo, hi, h⟩
    have := ringCool i lo hi
    omega
  obtain ⟨f, sampled⟩ := Chip.thermalSample_of_sound r ringOn (fun i => ⟨(sound i).1, (sound i).2.1⟩) (fun i => (sound i).2.2) cool
  obtain ⟨ring, -, core⟩ := (s.chip.die d).sampled_frame r
  -- the sample before any trip
  have u_supply : ((s.chip.updDie d (fun y => y.sampled r)).updHead (.guider d) f).supply = s.chip.supply :=
    s.chip.updDie_supply d _ (fun x => ⟨(x.sampled_frame r).1, (x.sampled_frame r).2.1⟩)
  have u_die : ((s.chip.updDie d (fun y => y.sampled r)).updHead (.guider d) f).die d = (s.chip.die d).sampled r := s.chip.updDie_die_same d (fun y => y.sampled r)
  refine ⟨fun below => ?_, fun hotter => ?_⟩
  · have array : ¬ 1760 ≤ hottestOf (((s.chip.die d).taken r).take 48) := by
      rw [Die.le_array_iff _ _ _ (by omega)]
      rintro ⟨i, hi, h⟩
      exact absurd h (not_le.mpr (below i hi))
    rw [if_neg array] at sampled
    rw [← sampled] at u_supply u_die
    refine ⟨_, onReach_next _ _, ?_⟩
    rw [thermalRow_of_ring r (((Chip.supply_eq_iff _ _).mp u_supply).1 0).1]
    simp only [u_die]
    refine ⟨⟨?_, ?_, ?_, rfl⟩, core.trans coreOn, ring.trans ringOn, (s.chip.die d).sampled_reading r, (s.chip.die d).sampled_throttling r, (s.chip.die d).sampled_hot r, fun e he => ?_⟩
    any_goals rw [sampled]; rfl
    rw [sampled]
    exact s.chip.updDie_die_other d e (fun y => y.sampled r) he
  · rw [if_pos ((Die.le_array_iff _ _ _ (by omega)).mpr hotter)] at sampled
    have on : (((s.chip.updDie d (fun y => y.sampled r)).updHead (.guider d) f).die d).coreOn = true := by rw [u_die]; exact core.trans coreOn
    obtain ⟨dram, offRing, off, objs, cores, scratch⟩ := Chip.coreOffDomain_on on
    have t_supply : (s.chip.thermalSample d r).supply = s.chip.supply := by rw [sampled, Chip.coreTrip_supply]; exact u_supply
    refine ⟨_, onReach_next _ _, ?_⟩
    rw [thermalRow_of_ring r (((Chip.supply_eq_iff _ _).mp t_supply).1 0).1]
    simp only [sampled, Chip.coreTrip_on on, Chip.updDie_die_same]
    exact ⟨dram, offRing.trans ((congrArg Die.ringOn u_die).trans (ring.trans ringOn)), off, trivial, trivial, objs, cores, scratch⟩

/-- A stack's temperature sample below the limits, and one that trips the stack. -/
theorem stackSample_trips (s : State) (n : StackId) (r : List (BitVec 16)) (on : (s.chip.stack n).domainOn = true) (untripped : (s.chip.stack n).tripped = false)
    (sound : ∀ i, (Table.read {} (s.chip.stack n).sensors i).broken = false ∧ (Table.read {} (s.chip.stack n).sensors i).deviations < 15 ∧
      (Table.read {} (s.chip.stack n).sensors i).history.length < 10) :
    let temp (i : Nat) : Int := (r.getD i 0).toInt
    let x := s.chip.stack n
    ((∀ i, i < 8 → temp i < 1760) → (∀ i, 8 ≤ i → i < 24 → temp i < 1680) →
      ∃ t, Runs (.stackSensorSample n r) s t ∧ SameMemory s t ∧ (t.chip.stack n).tripped = false ∧ (t.chip.stack n).online = x.online ∧
        (∀ i : Fin 24, (Table.read {} (t.chip.stack n).sensors i).reading = r.getD i.val 0) ∧
        (∀ i, 8 ≤ i → i < 24 → refreshLevel (temp i) ≤ (t.chip.stack n).refreshRate) ∧
        ((∀ i, 8 ≤ i → i < 24 → temp i ≤ 1360) → x.refreshRate = 0 → (t.chip.stack n).refreshRate = 0)) ∧
    ((∃ i, i < 8 ∧ 1760 ≤ temp i) ∨ (∃ i, 8 ≤ i ∧ i < 24 ∧ 1680 ≤ temp i) →
      ∃ t, Runs (.stackSensorSample n r) s t ∧ SameMemory s t ∧ (t.chip.stack n).tripped = true ∧ (t.chip.stack n).online = false ∧
        (t.chip.stack n).onlineAck = false ∧ (t.chip.stack n).selfRefresh = true ∧ (t.chip.stack n).quarteredSelf = true ∧
        (t.chip.stack n).domainOn = true) := by
  intro temp x
  have sampled := Chip.stackSample_of_sound r on (fun i => ⟨(sound i).1, (sound i).2.1⟩) (fun i => (sound i).2.2)
  obtain ⟨tripped, online, domain⟩ := x.sampled_frame r
  have u_stack : (s.chip.updStack n (fun y => y.sampled r)).stack n = x.sampled r := s.chip.updStack_stack_same n _
  refine ⟨fun base dram => ⟨_, onChip_next _ _, ?_⟩, fun hotter => ⟨_, onChip_next _ _, ?_⟩⟩
  · have under : ¬ (1760 ≤ hottestOf ((x.taken r).take 8) ∨ 1680 ≤ hottestOf ((x.taken r).drop 8)) := by
      rw [Stack.over_limit_iff]
      rintro (⟨i, hi, h⟩ | ⟨i, lo, hi, h⟩)
      · exact absurd h (not_le.mpr (base i hi))
      · exact absurd h (not_le.mpr (dram i lo hi))
    rw [sampled, if_neg under]
    simp only [u_stack]
    exact ⟨⟨rfl, rfl, rfl, rfl⟩, tripped.trans untripped, online, x.sampled_reading r, x.refreshLevel_le_sampled r, x.sampled_nominal r⟩
  · rw [sampled, if_pos ((x.over_limit_iff r).mpr hotter)]
    have before : ((s.chip.updStack n (fun y => y.sampled r)).stack n).tripped = false := by rw [u_stack]; exact tripped.trans untripped
    obtain ⟨stores, trip, off, ack, refresh, quartered, still⟩ := Chip.stackTrip_frame before
    have same := Prod.mk.inj stores
    exact ⟨⟨same.1, (Prod.mk.inj same.2).1, (Prod.mk.inj same.2).2, rfl⟩, trip, off, ack, refresh, quartered, still.trans ((congrArg Stack.domainOn u_stack).trans (domain.trans on))⟩

/-- Settles O25: the samples without a broken or a rising sensor become their readings, and trip exactly at the limits; a stack that has cooled down serves again. -/
theorem thermalTripsAndRecovery : Obligations.ThermalTripsAndRecovery := by
  unfold Obligations.ThermalTripsAndRecovery
  refine ⟨fun s d r => ?_, fun s n r => ⟨?_, ?_⟩⟩
  · intro x temp sound ringOn coreOn _ ringCool
    exact thermalSample_trips s d r sound ringOn coreOn ringCool
  · intro on _ untripped sound
    exact stackSample_trips s n r on untripped sound
  · intro on tripped cool runs mode
    obtain ⟨k, shape, stack, others⟩ := Chip.stackTripCleared_cool on tripped cool runs mode
    exact ⟨_, onChip_next _ _, ⟨by rw [shape], others⟩, stack⟩

end Sys2Proof.Machine
end

section
/-! Accesses of stack memory and of scratchpads switch nothing: no edge ring, no stack domain, no timer (R184 to R195, R61 to R63). -/

namespace Sys2Proof.Machine

open Host

/-! ## Lines of a stack cache -/

@[simp] theorem Chip.writeBack_supply (s : Chip) (l : CacheLine) : (s.writeBack l).supply = s.supply := by
  rw [Chip.writeBack]
  split
  · exact s.writeDram_supply ..
  · refine foldl_keeps Chip.supply _ _ _ (fun u j => ?_)
    dsimp only
    split
    · exact u.moveCodeword_supply ..
    · rfl

@[simp] theorem Chip.dropLine_supply (s : Chip) (t : StackId) (line : Nat) : (s.dropLine t line).supply = s.supply := rfl
@[simp] theorem Chip.setLine_supply (s : Chip) (l : CacheLine) : (s.setLine l).supply = s.supply := rfl
@[simp] theorem Chip.makeRecent_supply (s : Chip) (l : CacheLine) : (s.makeRecent l).supply = s.supply := rfl
@[simp] theorem Chip.putLine_supply (s : Chip) (l : CacheLine) (w : Fin 16) : (s.putLine l w).supply = s.supply := rfl
@[simp] theorem Chip.freeChoice_supply (s : Chip) (n : Nat) : (s.freeChoice n).2.supply = s.supply := rfl

/-- A line written back when it is dirty, then dropped. -/
theorem Chip.evict_supply (s : Chip) (l : CacheLine) (t : StackId) (line : Nat) : ((if l.dirty then s.writeBack l else s).dropLine t line).supply = s.supply := by
  split <;> simp

@[simp] theorem Chip.allocate_supply (s : Chip) (l : CacheLine) : (s.allocate l).supply = s.supply := by
  rw [Chip.allocate]
  dsimp only
  split
  · rfl
  · split
    · rfl
    · exact (Chip.putLine_supply ..).trans (s.evict_supply ..)

@[simp] theorem Chip.afterHit_supply (s : Chip) (l : CacheLine) (hint : BitVec 2) : (s.afterHit l hint).supply = s.supply := by
  rw [Chip.afterHit]
  split
  · exact s.evict_supply ..
  · split_ifs <;> rfl

@[simp] theorem Chip.readLine_supply (s : Chip) (l : CacheLine) (path : Path) (ps : List (Nat × Nat)) : (s.readLine l path ps).1.supply = s.supply := by
  induction ps generalizing s with
  | nil => rfl
  | cons p rest ih =>
    have later := ih (s.codeEvent l.stack p.1 path (decodePattern (Table.read [] l.errors (lineWord p.1))))
    rw [Chip.codeEvent_supply] at later
    rw [Chip.readLine]
    split
    · exact s.codeEvent_supply ..
    · split
      next h => rw [h] at later; exact later
      next h => rw [h] at later; exact later

@[simp] theorem Chip.readPiece_supply (s : Chip) (t : StackId) (a n : Nat) (slit : Bool) (hint : BitVec 2) (path : Path) :
    (s.readPiece t a n slit hint path).1.supply = s.supply := by
  rw [Chip.readPiece]
  dsimp only
  split
  · split
    · exact s.afterHit_supply ..
    · exact (Chip.afterHit_supply ..).trans (s.readLine_supply ..)
  · split
    · exact s.readDram_supply ..
    · have read := s.readDram_supply t path (pieces 64 (a / 256 * 256) 256)
      split
      next h => rw [h] at read; exact (Chip.allocate_supply ..).trans read
      next h => rw [h] at read; exact (Chip.readDram_supply ..).trans read

@[simp] theorem Chip.writePiece_supply (s : Chip) (t : StackId) (a : Nat) (bs : List Byte) (slit : Bool) (hint : BitVec 2) (path : Path) :
    (s.writePiece t a bs slit hint path).1.supply = s.supply := by
  rw [Chip.writePiece]
  dsimp only
  split
  · exact s.afterHit_supply ..
  · split
    · exact s.writeDram_supply ..
    · split
      · exact s.allocate_supply ..
      · have read := s.readDram_supply t path (pieces 64 (a / 256 * 256) 256)
        split
        next h => rw [h] at read; exact (Chip.allocate_supply ..).trans read
        next h => rw [h] at read; exact (Chip.writeDram_supply ..).trans read

/-- A range operation moves bytes and lines and switches nothing (R189). -/
@[simp] theorem Chip.rangeOp_supply (s : Chip) (d : DieId) (pick : CacheLine → Bool) (clean inval : Bool) : (s.rangeOp d pick clean inval).supply = s.supply := by
  have cleaned (u : Chip) (l : List CacheLine) : (l.foldl (fun (s : Chip) l => (s.writeBack l).setLine { l with dirty := false }) u).supply = u.supply :=
    foldl_keeps Chip.supply _ _ _ (fun u l => u.writeBack_supply l)
  have dropped (u : Chip) (l : List CacheLine) : (l.foldl (fun (s : Chip) l => s.dropLine l.stack l.line) u).supply = u.supply :=
    foldl_keeps Chip.supply _ _ _ (fun _ _ => rfl)
  cases clean <;> cases inval <;> simp [Chip.rangeOp, cleaned, dropped]

/-! ## Reductions and the stack port (R191 to R195) -/

@[simp] theorem Chip.reduce_supply (s : Chip) (t : StackId) (r : RedReq) : (s.reduce t r).1.supply = s.supply := by
  have read := (s.stackEvent t 3 (s.classOf r.agent) 1).readCodeword_supply t r.saddr .reducer
  rw [Chip.stackEvent_supply] at read
  rw [Chip.reduce]
  dsimp only
  split
  next h => rw [h] at read; exact read
  next h => rw [h] at read; exact read

@[simp] theorem Chip.nextPair_supply (s : Chip) (t : StackId) : (s.nextPair t).supply = s.supply := by
  rw [Chip.nextPair]
  refine s.updStack_supply t _ (fun x => ?_)
  split <;> exact ⟨rfl, rfl⟩

@[simp] theorem Chip.expel_supply (s : Chip) (t : StackId) (a : Nat) : (s.expel t a).supply = s.supply := by
  rw [Chip.expel]
  split
  · rfl
  · exact s.evict_supply ..

@[simp] theorem Chip.grant_supply (s : Chip) (t : StackId) (fuel : Nat) : (s.grant t fuel).supply = s.supply := by
  induction fuel generalizing s with
  | zero => rfl
  | succ f ih =>
    rw [Chip.grant]
    dsimp only
    split
    · rfl
    · split
      · exact (ih _).trans (s.nextPair_supply t)
      · split
        · exact (ih _).trans (s.nextPair_supply t)
        · rw [ih]; simp

@[simp] theorem Chip.popReduction_supply (s : Chip) (t : StackId) (rest : List RedReq) : (s.popReduction t rest).supply = s.supply := by
  rw [Chip.popReduction]
  split
  · simp
  · rw [Chip.grantAll]
    split
    · simp
    · rw [Chip.grant_supply]; simp

@[simp] theorem Chip.drain_supply (s : Chip) (t : StackId) (n : Nat) : (s.drain t n).1.supply = s.supply := by
  induction n generalizing s with
  | zero => rfl
  | succ n ih =>
    rw [Chip.drain]
    split
    · rfl
    · split
      · simp
      · rw [ih]; simp

@[simp] theorem Chip.settleFor_supply (s : Chip) (t : StackId) (w : Who) (slit : Bool) (x n : Nat) : (s.settleFor t w slit x n).supply = s.supply := by
  rw [Chip.settleFor]
  split <;> exact s.drain_supply ..

@[simp] theorem Chip.settleRetire_supply (s : Chip) (t : StackId) (a n : Nat) : (s.settleRetire t a n).supply = s.supply := by
  have copied (u : Chip) (b r : Nat) : (u.copyBlock t b r).supply = u.supply := by
    refine foldl_keeps Chip.supply _ _ _ (fun u i => ?_)
    dsimp only
    split <;> exact u.readCodeword_supply ..
  rw [Chip.settleRetire]
  split
  · rw [Chip.retireCopy]
    dsimp only
    split
    · rfl
    · simp [copied]
  · rfl

@[simp] theorem Chip.settleRefresh_supply (s : Chip) (t : StackId) (x : Nat) : (s.settleRefresh t x).supply = s.supply := by
  rw [Chip.settleRefresh]
  split
  · rfl
  · simp

@[simp] theorem Chip.charge_supply (s : Chip) (t : StackId) (w : Who) (n : Nat) : (s.charge t w n).supply = s.supply :=
  s.updStack_supply t _ (fun _ => ⟨rfl, rfl⟩)

@[simp] theorem Chip.pieceCost_supply (s : Chip) (t : StackId) (w : Who) (slit hit : Bool) : (s.pieceCost t w slit hit).supply = s.supply := by
  cases slit <;> cases hit <;> simp [Chip.pieceCost]

@[simp] theorem Chip.d2dErr_supply (s : Chip) (d : DieId) (c : FaultCode) (tag : BitVec 16) (addr : Word64) : (s.d2dErr d c tag addr).supply = s.supply := by
  simp only [Chip.d2dErr]
  split_ifs <;> simp

@[simp] theorem Chip.readMem_supply (s : Chip) (w : Who) (a n : Nat) (slit : Bool) : (s.readMem w a n slit).1.supply = s.supply := by
  rw [Chip.readMem, Chip.readMemVia]
  split <;> simp

@[simp] theorem Chip.writeMem_supply (s : Chip) (w : Who) (a : Nat) (bs : List Byte) (slit : Bool) : (s.writeMem w a bs slit).1.supply = s.supply := by
  rw [Chip.writeMem]
  split <;> simp

/-! ## Scratchpads and their gates (R61 to R63, R415) -/

@[simp] theorem Chip.scratchWrite_supply (s : Chip) (k : CoreId) (off : Nat) (bs : List Byte) : (s.scratchWrite k off bs).supply = s.supply := by
  have mended (lo n : Nat) : (s.mendScratch lo n).supply = s.supply := by
    refine foldl_keeps Chip.supply _ _ _ (fun u e => ?_)
    dsimp only
    split
    · rfl
    · split <;> rfl
  rw [Chip.scratchWrite]
  refine (Chip.supply_of_eq rfl rfl).trans (?_ : (if s.scratchErrors = [] then s else s.mendScratch (scratchKey k off) bs.length).supply = s.supply)
  split
  · rfl
  · exact mended ..

@[simp] theorem Chip.outsideRead_supply (s : Chip) (k : CoreId) (off n : Nat) : (s.outsideRead k off n).1.supply = s.supply := by
  simp only [Chip.outsideRead, Chip.readFree]
  split <;> rfl

@[simp] theorem Chip.writeFree_supply (s : Chip) (k : CoreId) (l : List (Nat × Nat)) (off : Nat) (bs : List Byte) : (s.writeFree k l off bs).supply = s.supply := by
  rw [Chip.writeFree]
  split
  · exact s.scratchWrite_supply ..
  · exact Chip.scratchWrite_supply ..

@[simp] theorem Chip.outsideWrite_supply (s : Chip) (k : CoreId) (off : Nat) (bs : List Byte) : (s.outsideWrite k off bs).supply = s.supply := by
  rw [Chip.outsideWrite]
  dsimp only
  split
  · exact s.writeFree_supply ..
  · exact s.writeFree_supply ..

@[simp] theorem Chip.serveGate_supply (s : Chip) (k : CoreId) : (s.serveGate k).supply = s.supply := by
  rw [Chip.serveGate]
  split
  · rfl
  next g rest _ =>
    have due : ((s.updCore k (fun x => { x with gate := rest })).coreEvent k 6 1).supply = s.supply := (Chip.coreEvent_supply ..).trans rfl
    dsimp only
    split
    · exact (Chip.outsideWrite_supply ..).trans due
    · split
      · exact due
      · exact (Chip.outsideRead_supply ..).trans due

@[simp] theorem Chip.flushGate_supply (s : Chip) (k : CoreId) (n : Nat) : (s.flushGate k n).supply = s.supply := by
  induction n with
  | zero => rfl
  | succ n ih => exact (Chip.serveGate_supply ..).trans ih

/-! ## Loads and stores at local addresses -/

@[simp] theorem Chip.placeRefusal_supply (s : Chip) (w : Who) (p : Place) : (s.placeRefusal w p).1.supply = s.supply := by
  have recorded (o : ObjId) (c : FaultCode) (scope : Option (BitVec 3)) : (s.objErr w o c scope).supply = s.supply := by
    simp only [Chip.objErr]
    split_ifs <;> simp
  cases p <;> simp only [Chip.placeRefusal]
  split
  · rfl
  · exact recorded ..

@[simp] theorem Chip.loadPiece_supply (s : Chip) (w : Who) (slit : Bool) (a n : Nat) : (s.loadPiece w slit a n).1.supply = s.supply := by
  rw [Chip.loadPiece]
  split
  · simp
  · split
    · dsimp only
      split <;> simp
    · dsimp only
      split <;> simp
  · simp

@[simp] theorem Chip.storePiece_supply (s : Chip) (w : Who) (slit : Bool) (a : Nat) (bs : List Byte) : (s.storePiece w slit a bs).1.supply = s.supply := by
  rw [Chip.storePiece]
  split
  · simp
  · split
    · dsimp only
      split <;> simp
    · simp
  · simp

theorem Chip.loadPieces_supply (s : Chip) (w : Who) (ps : List (Nat × Nat)) : (s.loadPieces w ps).1.supply = s.supply := by
  induction ps generalizing s with
  | nil => rfl
  | cons p rest ih =>
    have first := s.loadPiece_supply w (slitPiece p.1 p.2) p.1 p.2
    rw [Chip.loadPieces]
    split
    next h => rw [h] at first; exact first
    next s' bs h =>
      rw [h] at first
      have later := ih s'
      split
      next h' => rw [h'] at later; exact later.trans first
      next h' => rw [h'] at later; exact later.trans first

theorem Chip.storePieces_supply (s : Chip) (w : Who) (bs : List Byte) (ps : List (Nat × Nat)) : (s.storePieces w bs ps).1.supply = s.supply := by
  induction ps generalizing s bs with
  | nil => rfl
  | cons p rest ih => exact (ih _ _).trans (s.storePiece_supply ..)

@[simp] theorem Chip.load_supply (s : Chip) (w : Who) (a n : Nat) : (s.load w a n).1.supply = s.supply := s.loadPieces_supply ..
@[simp] theorem Chip.store_supply (s : Chip) (w : Who) (a : Nat) (bs : List Byte) : (s.store w a bs).1.supply = s.supply := s.storePieces_supply ..

end Sys2Proof.Machine
end

section
/-! Folds over units, and what an edge ring that switches off leaves; the input's lockout (R17, R20, R21, R439). -/

namespace Sys2Proof.Machine

open Host

/-! ## Folds over units -/

/-- What one element's step brings about and no step undoes holds at the end. -/
theorem foldl_reaches {σ α : Type} {P : σ → Prop} {f : σ → α → σ} {l : List α} {a : α} (mem : a ∈ l) (here : ∀ s, P (f s a))
    (stays : ∀ s b, P s → P (f s b)) (s : σ) : P (l.foldl f s) := by
  obtain ⟨before, after, rfl⟩ := List.append_of_mem mem
  rw [List.foldl_append, List.foldl_cons]
  exact List.foldlRecOn after f (here _) (fun u hu b _ => stays u b hu)

/-- An element that has one turn: P holds until then, its turn takes P to Q, and no other step undoes either. -/
theorem foldl_turn {σ α : Type} {P Q : σ → Prop} {f : σ → α → σ} {l : List α} {a : α} (once : l.Nodup) (mem : a ∈ l)
    (waits : ∀ s b, b ≠ a → P s → P (f s b)) (turn : ∀ s, P s → Q (f s a)) (stays : ∀ s b, b ≠ a → Q s → Q (f s b)) {s : σ} (start : P s) :
    Q (l.foldl f s) := by
  obtain ⟨before, after, rfl⟩ := List.append_of_mem mem
  obtain ⟨-, tail, apart⟩ := List.nodup_append.mp once
  rw [List.foldl_append, List.foldl_cons]
  have due := List.foldlRecOn before f start (fun u hu b hb => waits u b (apart b hb a (by simp)) hu)
  exact List.foldlRecOn after f (turn _ due) (fun u hu b hb => stays u b (fun e => (List.nodup_cons.mp tail).1 (e ▸ hb)) hu)

theorem mem_allDies (d : DieId) : d ∈ allDies := List.mem_finRange d
theorem mem_allStacks (t : StackId) : t ∈ allStacks := List.mem_finRange t

/-! ## An edge ring that switches off (R17) -/

theorem Chip.coreOffDomain_die_other (s : Chip) {d e : DieId} (h : e ≠ d) : (s.coreOffDomain d).die e = s.die e := by
  rw [Chip.coreOffDomain]
  split
  · rfl
  · exact Table.read_write_other _ _ _ _ _ h

/-- A die's core domain and the controllers of its stacks, once its edge ring is off. -/
def Chip.ringParts (s : Chip) (d : DieId) : Chip := (stacksOf d).foldl (fun s t => s.updStack t Stack.noController) (s.coreOffDomain d)

theorem Chip.ringParts_dies (s : Chip) (d : DieId) : (s.ringParts d).dies = (s.coreOffDomain d).dies := foldl_keeps Chip.dies _ _ _ (fun _ _ => rfl)

theorem Chip.ringParts_supply (s : Chip) (d : DieId) : (s.ringParts d).supply = s.supply :=
  (foldl_keeps Chip.supply _ _ _ (fun u t => u.updStack_supply t Stack.noController (fun _ => ⟨rfl, rfl⟩))).trans (s.coreOffDomain_supply d)

/-- A die whose edge ring has switched off. -/
def Die.offline (x : Die) : Die :=
  { ringOn := false, ringReturned := true, lostSteps := x.lostSteps, objLosses := x.objLosses, log := [], logSeq := 0, pointActive := 1 }

theorem Chip.ringOffDomain_on {s : Chip} {d : DieId} (on : (s.die d).ringOn = true) :
    s.ringOffDomain d = { s.ringParts d with
      dies := Table.write (s.ringParts d).dies d ((s.ringParts d).die d).offline,
      cache := (s.ringParts d).cache.filter (fun l => stackDie l.stack ≠ d),
      recency := (s.ringParts d).recency.drop (fun k => decide (k.1 = d)),
      hostCache := (s.ringParts d).hostCache.filter (fun l => l.die ≠ d),
      harts := (s.ringParts d).harts.drop (fun h => decide (h.die = d)),
      ports := (s.ringParts d).ports.drop (fun p => decide (portDie p = d)),
      link := if d = 0 then { (s.ringParts d).link with link0Up := false, link1Up := false, width := 0, speed := 0 } else (s.ringParts d).link,
      ready := if d = 0 then false else (s.ringParts d).ready,
      heads := (s.ringParts d).heads.drop (fun b => b.ringOfDie d) } := by
  simp only [Chip.ringOffDomain, on, Bool.true_eq_false, if_false]
  rfl

theorem Chip.ringOffDomain_off {s : Chip} {d : DieId} (off : (s.die d).ringOn = false) : s.ringOffDomain d = s := by
  simp [Chip.ringOffDomain, off]

theorem Chip.ringOffDomain_die_other (s : Chip) {d e : DieId} (h : e ≠ d) : (s.ringOffDomain d).die e = s.die e := by
  cases on : (s.die d).ringOn with
  | false => rw [Chip.ringOffDomain_off on]
  | true =>
    have parts : (s.ringParts d).die e = s.die e := (congrArg (fun m : Table DieId Die => Table.read ({} : Die) m e) (s.ringParts_dies d)).trans (s.coreOffDomain_die_other h)
    rw [Chip.ringOffDomain_on on, ← parts]
    exact Table.read_write_other _ _ _ _ _ h

theorem Chip.ringOffDomain_die_same {s : Chip} {d : DieId} (on : (s.die d).ringOn = true) :
    ((s.ringOffDomain d).die d).ringOn = false ∧ ((s.ringOffDomain d).die d).coreOn = false := by
  have e : (s.ringOffDomain d).die d = ((s.ringParts d).die d).offline := by
    rw [Chip.ringOffDomain_on on]
    exact Table.read_write_same _ _ _ _
  rw [e]
  exact ⟨rfl, rfl⟩

theorem Chip.ringOffDomain_ring (s : Chip) (d : DieId) : ((s.ringOffDomain d).die d).ringOn = false := by
  cases on : (s.die d).ringOn with
  | false => rw [Chip.ringOffDomain_off on, on]
  | true => exact (Chip.ringOffDomain_die_same on).1

/-- The stacks of a die whose ring switches off keep their domains and their contents (R20). -/
theorem Chip.ringOffDomain_stacks (s : Chip) (d : DieId) : (s.ringOffDomain d).supply.2 = s.supply.2 := by
  cases on : (s.die d).ringOn with
  | false => rw [Chip.ringOffDomain_off on]
  | true =>
    rw [Chip.ringOffDomain_on on, ← s.ringParts_supply d]
    rfl

theorem Chip.coreOffDomain_dram (s : Chip) (d : DieId) : (s.coreOffDomain d).dram = s.dram := by
  rw [Chip.coreOffDomain]
  split <;> rfl

theorem Chip.ringParts_dram (s : Chip) (d : DieId) : (s.ringParts d).dram = s.dram :=
  (foldl_keeps Chip.dram (fun s t => s.updStack t Stack.noController) _ _ (fun _ _ => rfl)).trans (s.coreOffDomain_dram d)

theorem Chip.ringOffDomain_dram (s : Chip) (d : DieId) : (s.ringOffDomain d).dram = s.dram := by
  cases on : (s.die d).ringOn with
  | false => rw [Chip.ringOffDomain_off on]
  | true =>
    rw [Chip.ringOffDomain_on on]
    exact s.ringParts_dram d

/-! ## A lockout (R439) -/

theorem Chip.stackOff_dies (s : Chip) (t : StackId) : (s.stackOff t).dies = s.dies := by
  rw [Chip.stackOff]
  split <;> rfl

/-- A module whose edge rings and stack domains a lockout has switched off. -/
def Chip.allOff (s : Chip) : Chip := allStacks.foldl (fun s t => s.stackOff t) (allDies.foldl (fun s d => s.ringOffDomain d) s)

theorem Chip.allOff_dies (s : Chip) : s.allOff.die = (allDies.foldl (fun s d => s.ringOffDomain d) s).die := by
  have same : s.allOff.dies = _ := foldl_keeps Chip.dies _ allStacks _ (fun u t => u.stackOff_dies t)
  funext d
  rw [Chip.die, Chip.die, same]

/-- Every edge ring is off, and with it the core domain of a die whose ring was on. -/
theorem Chip.allOff_die (s : Chip) (d : DieId) : (s.allOff.die d).ringOn = false ∧ ((s.die d).ringOn = true → (s.allOff.die d).coreOn = false) := by
  rw [Chip.allOff_dies]
  refine foldl_turn (P := fun u : Chip => u.die d = s.die d) (Q := fun u => (u.die d).ringOn = false ∧ ((s.die d).ringOn = true → (u.die d).coreOn = false))
    (List.nodup_finRange 8) (mem_allDies d) (fun u b h same => ?_) (fun u same => ?_) (fun u b h off => ?_) rfl
  · rw [u.ringOffDomain_die_other (Ne.symm h), same]
  · exact ⟨u.ringOffDomain_ring d, fun on => (Chip.ringOffDomain_die_same (same ▸ on)).2⟩
  · rwa [u.ringOffDomain_die_other (Ne.symm h)]

/-- A lockout switches everything off, latches its cause and leaves what lies outside the module's domains (R439). -/
theorem lockout_switches_off (s : State) (high : Bool) :
    (lockout high s).phot = s.phot ∧ (lockout high s).fuses = s.fuses ∧ (lockout high s).hostMem = s.hostMem ∧
      (lockout high s).chip.power.lockout = true ∧
      (if high then (lockout high s).chip.power.ovloEv else (lockout high s).chip.power.uvloEv) = true ∧ (lockout high s).chip.ready = false ∧
      (∀ d, ((lockout high s).chip.die d).ringOn = false ∧ ((s.chip.die d).ringOn = true → ((lockout high s).chip.die d).coreOn = false)) ∧
      ∀ n, ((lockout high s).chip.stack n).domainOn = false := by
  have die (d : DieId) : (lockout high s).chip.die d = s.chip.allOff.die d := by
    simp only [Chip.die, lockout, Chip.allOff]
  refine ⟨by rw [lockout], by rw [lockout], by rw [lockout], by rw [lockout], ?_, by rw [lockout], fun d => ?_, fun n => ?_⟩
  · cases high <;> simp [lockout]
  · rw [die]
    exact s.chip.allOff_die d
  · simp only [lockout]
    exact congrArg Stack.domainOn (Table.read_listed {} allStacks (fun _ => { domainOn := false }) n (mem_allStacks n))

end Sys2Proof.Machine
end

section
/-! What the steps of a bring-up leave alone (R481, R483, R484). -/

namespace Sys2Proof.Machine

open Host

/-! ## Memories, stores, power and waiting calls -/

/-- Memories and power stay; scratchpads, caches and calls stay empty where they were. -/
structure Chip.Spares (s u : Chip) : Prop where
  dram : u.dram = s.dram
  engineStore : u.engineStore = s.engineStore
  power : u.power = s.power
  scratch : s.scratch = [] → u.scratch = []
  cache : s.cache = [] → u.cache = []
  harts : s.harts = [] → u.harts = []
  calls : (∀ f, (s.fn f).busy = false) → ∀ f, (u.fn f).busy = false

theorem Chip.Spares.refl (s : Chip) : s.Spares s := ⟨rfl, rfl, rfl, id, id, id, id⟩

theorem Chip.Spares.trans {s u v : Chip} (h : s.Spares u) (g : u.Spares v) : s.Spares v :=
  ⟨g.dram.trans h.dram, g.engineStore.trans h.engineStore, g.power.trans h.power, g.scratch ∘ h.scratch, g.cache ∘ h.cache, g.harts ∘ h.harts,
    g.calls ∘ h.calls⟩

theorem Chip.updDie_spares (s : Chip) (d : DieId) (f : Die → Die) : s.Spares (s.updDie d f) := ⟨rfl, rfl, rfl, id, id, id, id⟩
theorem Chip.updStack_spares (s : Chip) (t : StackId) (f : Stack → Stack) : s.Spares (s.updStack t f) := ⟨rfl, rfl, rfl, id, id, id, id⟩
theorem Chip.updPort_spares (s : Chip) (p : PortId) (f : Port → Port) : s.Spares (s.updPort p f) := ⟨rfl, rfl, rfl, id, id, id, id⟩
theorem Chip.freeChoice_spares (s : Chip) (n : Nat) : s.Spares (s.freeChoice n).2 := ⟨rfl, rfl, rfl, id, id, id, id⟩

theorem Chip.msix_busy (s : Chip) (f g : HostFn) (v : Nat) : ((s.msix f v).fn g).busy = (s.fn g).busy := by
  rw [Chip.msix.eq_def, Chip.updFn_fn]
  split
  next same =>
    subst same
    split_ifs <;> rfl
  next => rfl

theorem Chip.msix_spares (s : Chip) (f : HostFn) (v : Nat) : s.Spares (s.msix f v) :=
  ⟨s.msix_dram f v, s.msix_engineStore f v, s.msix_power f v, (s.msix_scratch f v).trans, (s.msix_cache f v).trans, (s.msix_harts f v).trans,
    fun h g => (s.msix_busy f g v).trans (h g)⟩

theorem Chip.logVector_spares (s : Chip) : s.Spares s.logVector := by
  have linked (l : HostLink) (h : l.fns = s.link.fns) : s.Spares { s with link := l } :=
    ⟨rfl, rfl, rfl, id, id, id, fun idle f => (congrArg (fun t => (Table.read ({} : Function) t f).busy) h).trans (idle f)⟩
  have sent (l : HostLink) (h : l.fns = s.link.fns) : s.Spares (Chip.msix { s with link := l } .pf 1) := (linked l h).trans (Chip.msix_spares ..)
  unfold Chip.logVector
  dsimp only
  split
  all_goals
    split
    · exact Chip.Spares.refl s
    · exact sent _ rfl

theorem Chip.log_spares (s : Chip) (d : DieId) (level : Nat) (code : FaultCode) (dome : Byte) (tag : BitVec 16) (detail : Word64) :
    s.Spares (s.log d level code dome tag detail) := by
  have owed (u : Chip) : u.Spares { u with link := { u.link with logOwed := true } } := ⟨rfl, rfl, rfl, id, id, id, id⟩
  rw [Chip.log]
  dsimp only
  split
  · exact Chip.Spares.refl s
  · split
    · exact s.updDie_spares ..
    · exact (s.updDie_spares ..).trans ((owed _).trans (Chip.logVector_spares _))

theorem Chip.note_spares (s : Chip) (d : DieId) (level : Nat) (code : FaultCode) (detail : Nat) : s.Spares (s.note d level code detail) := s.log_spares ..

theorem Chip.coreOffDomain_spares (s : Chip) (d : DieId) : s.Spares (s.coreOffDomain d) := by
  rw [Chip.coreOffDomain]
  split
  · exact Chip.Spares.refl s
  · refine ⟨rfl, rfl, rfl, fun empty => ?_, id, id, id⟩
    dsimp only [Chip.updDie]
    rw [empty]
    rfl

theorem Chip.coreOnDomain_spares (s : Chip) (d : DieId) : s.Spares (s.coreOnDomain d) := by
  rw [Chip.coreOnDomain]
  split
  · exact s.updDie_spares ..
  · exact Chip.Spares.refl s

theorem Chip.ringOffDomain_spares (s : Chip) (d : DieId) : s.Spares (s.ringOffDomain d) := by
  cases on : (s.die d).ringOn with
  | false =>
    rw [Chip.ringOffDomain_off on]
    exact Chip.Spares.refl s
  | true =>
    have parts : s.Spares (s.ringParts d) :=
      List.foldlRecOn (stacksOf d) _ (s.coreOffDomain_spares d) (fun u h t _ => h.trans (u.updStack_spares t _))
    rw [Chip.ringOffDomain_on on]
    refine parts.trans ⟨rfl, rfl, rfl, id, fun empty => ?_, fun empty => ?_, fun idle f => ?_⟩
    · dsimp only
      rw [empty]
      rfl
    · dsimp only
      rw [empty]
      rfl
    · rw [Chip.fn]
      dsimp only
      split <;> exact idle f

/-! ## The boot state of the dies -/

/-- What the mask ROM has made of each die: its firmware's state, whether its image is verified, and recovery. -/
def Chip.boot (s : Chip) (d : DieId) : Nat × Bool × Bool := ((s.die d).fwState, (s.die d).verified, (s.die d).recovery)

theorem Chip.boot_of_dies {s u : Chip} (h : u.dies = s.dies) : u.boot = s.boot := by
  funext d
  rw [Chip.boot, Chip.boot, Chip.die, Chip.die, h]

theorem Chip.updDie_boot (s : Chip) (d : DieId) (f : Die → Die) (h : ∀ x, (f x).fwState = x.fwState ∧ (f x).verified = x.verified ∧ (f x).recovery = x.recovery) :
    (s.updDie d f).boot = s.boot := by
  funext e
  rw [Chip.boot, Chip.boot, Chip.updDie_die]
  split
  next same =>
    obtain ⟨state, verified, recovery⟩ := h (s.die d)
    rw [same, state, verified, recovery]
  next => rfl

theorem Chip.log_boot (s : Chip) (d : DieId) (level : Nat) (code : FaultCode) (dome : Byte) (tag : BitVec 16) (detail : Word64) :
    (s.log d level code dome tag detail).boot = s.boot := by
  have sent (u : Chip) (h : u.boot = s.boot) :
      (if level = 0 then u else Chip.logVector { u with link := { u.link with logOwed := true } }).boot = s.boot := by
    split
    · exact h
    · exact (Chip.boot_of_dies (Chip.logVector_dies _)).trans h
  rw [Chip.log]
  split
  · rfl
  · exact sent _ (s.updDie_boot d _ (fun _ => ⟨rfl, rfl, rfl⟩))

theorem Chip.coreOffDomain_boot (s : Chip) (d : DieId) : (s.coreOffDomain d).boot = s.boot := by
  rw [Chip.coreOffDomain]
  split
  · rfl
  · funext e
    by_cases h : e = d <;> simp [Chip.boot, Chip.die, Chip.updDie, h]

theorem Chip.coreOnDomain_boot (s : Chip) (d : DieId) : (s.coreOnDomain d).boot = s.boot := by
  rw [Chip.coreOnDomain]
  split
  · exact s.updDie_boot d _ (fun _ => ⟨rfl, rfl, rfl⟩)
  · rfl

/-! ## Steps of a bring-up that switch nothing -/

/-- A step that spares the memories switches no ring or stack and boots no die. -/
structure Chip.Upholds (s u : Chip) : Prop extends Chip.Spares s u where
  supply : u.supply = s.supply
  boot : u.boot = s.boot

theorem Chip.Upholds.refl (s : Chip) : s.Upholds s := ⟨Chip.Spares.refl s, rfl, rfl⟩

theorem Chip.Upholds.trans {s u v : Chip} (h : s.Upholds u) (g : u.Upholds v) : s.Upholds v :=
  ⟨h.toSpares.trans g.toSpares, g.supply.trans h.supply, g.boot.trans h.boot⟩

theorem Chip.updDie_upholds (s : Chip) (d : DieId) (f : Die → Die) (ring : ∀ x, (f x).ringOn = x.ringOn ∧ (f x).timer = x.timer)
    (boot : ∀ x, (f x).fwState = x.fwState ∧ (f x).verified = x.verified ∧ (f x).recovery = x.recovery) : s.Upholds (s.updDie d f) :=
  ⟨s.updDie_spares d f, s.updDie_supply d f ring, s.updDie_boot d f boot⟩

theorem Chip.updStack_upholds (s : Chip) (t : StackId) (f : Stack → Stack) (h : ∀ x, (f x).domainOn = x.domainOn ∧ (f x).filled = x.filled) :
    s.Upholds (s.updStack t f) :=
  ⟨s.updStack_spares t f, s.updStack_supply t f h, rfl⟩

theorem Chip.note_upholds (s : Chip) (d : DieId) (level : Nat) (code : FaultCode) (detail : Nat) : s.Upholds (s.note d level code detail) :=
  ⟨s.note_spares .., s.note_supply .., s.log_boot ..⟩

theorem Chip.msix_upholds (s : Chip) (f : HostFn) (v : Nat) : s.Upholds (s.msix f v) :=
  ⟨s.msix_spares f v, s.msix_supply f v, Chip.boot_of_dies (s.msix_dies f v)⟩

theorem Chip.coreOffDomain_upholds (s : Chip) (d : DieId) : s.Upholds (s.coreOffDomain d) :=
  ⟨s.coreOffDomain_spares d, s.coreOffDomain_supply d, s.coreOffDomain_boot d⟩

theorem Chip.coreOnDomain_upholds (s : Chip) (d : DieId) : s.Upholds (s.coreOnDomain d) :=
  ⟨s.coreOnDomain_spares d, s.coreOnDomain_supply d, s.coreOnDomain_boot d⟩

theorem Chip.portEnable_upholds (s : Chip) (p : PortId) : s.Upholds (s.portEnable p) := by
  rw [Chip.portEnable]
  split
  · exact Chip.Upholds.refl s
  · exact ⟨s.updPort_spares .., s.updPort_supply .., rfl⟩

/-! ## Stacks and dies come up (R483, R484) -/

/-- Every stack's domain is on and its contents are filled. -/
def Chip.Filled (s : Chip) : Prop := ∀ t, (s.stack t).domainOn = true ∧ (s.stack t).filled = true

theorem Chip.Filled.of_supply {s u : Chip} (h : s.Filled) (e : u.supply.2 = s.supply.2) : u.Filled := fun t => by
  obtain ⟨on, filled⟩ := Prod.mk.inj (congrFun e t)
  rw [on, filled]
  exact h t

theorem Chip.stackFill_of_filled {s : Chip} {t : StackId} (h : s.Filled) : s.stackFill t = s := by
  obtain ⟨on, filled⟩ := h t
  simp [Chip.stackFill, on, filled]

theorem Chip.stackUp_upholds (s : Chip) (t : StackId) (fail : Bool) (h : s.Filled) : s.Upholds (s.stackUp t fail) := by
  have choice : s.Upholds (s.freeChoice 2).2 := ⟨s.freeChoice_spares 2, s.freeChoice_supply 2, rfl⟩
  have failed (f : Stack → Stack) (hf : ∀ x, (f x).domainOn = x.domainOn ∧ (f x).filled = x.filled) (n : Nat) :
      s.Upholds (((s.freeChoice 2).2.updStack t f).note (stackDie t) 2 Code.stackFailed n) :=
    choice.trans ((Chip.updStack_upholds _ t f hf).trans (Chip.note_upholds ..))
  rw [Chip.stackUp, Chip.stackFill_of_filled h]
  dsimp only
  split
  · refine failed _ ?_ _
    exact fun _ => ⟨rfl, rfl⟩
  · refine s.updStack_upholds t (fun x => if x.tripped then x else { x with online := true, onlineAck := true, selfRefresh := false, quarteredSelf := false }) (fun x => ?_)
    split <;> exact ⟨rfl, rfl⟩

theorem Chip.dieUp_upholds (s : Chip) (d : DieId) (b : BringUp) (h : s.Filled) : s.Upholds (s.dieUp d b) := by
  have ups (u : Chip) (e : s.Upholds u) (t : StackId) : s.Upholds (u.stackUp t (b.stackFail.getLsbD t.val)) :=
    e.trans (u.stackUp_upholds t _ (h.of_supply (congrArg Prod.snd e.supply)))
  have stacksUp := List.foldlRecOn (stacksOf d) (fun s t => Chip.stackUp s t (b.stackFail.getLsbD t.val)) (Chip.Upholds.refl s) (fun u e t _ => ups u e t)
  have coreUp := stacksUp.trans (Chip.coreOnDomain_upholds _ d)
  have put (u : Chip) (f : Die → Die) (h : s.Upholds u) (ring : ∀ x, (f x).ringOn = x.ringOn ∧ (f x).timer = x.timer)
      (boot : ∀ x, (f x).fwState = x.fwState ∧ (f x).verified = x.verified ∧ (f x).recovery = x.recovery) : s.Upholds (u.updDie d f) :=
    h.trans (u.updDie_upholds d f ring boot)
  rw [Chip.dieUp]
  split
  · exact Chip.Upholds.refl s
  · dsimp only
    split
    · refine (put _ _ (coreUp.trans (Chip.coreOffDomain_upholds _ d)) ?_ ?_).trans (Chip.note_upholds ..)
      · exact fun _ => ⟨rfl, rfl⟩
      · exact fun _ => ⟨rfl, rfl, rfl⟩
    · refine put _ _ coreUp ?_ ?_
      · exact fun _ => ⟨rfl, rfl⟩
      · exact fun _ => ⟨rfl, rfl, rfl⟩

end Sys2Proof.Machine
end

section
/-! The bring-up: the mask ROM's choice, absent dies, the dies' stacks and cores, and the module's opening (R380, R381, R481 to R483). -/

namespace Sys2Proof.Machine

open Host

/-! ## The mask ROM of one die (R380) -/

/-- A step that spares the memories, switches nothing and touches no die but one. -/
structure Chip.Touches (d : DieId) (s u : Chip) : Prop extends Chip.Spares s u where
  supply : u.supply = s.supply
  others : ∀ e, e ≠ d → u.die e = s.die e

theorem Chip.Touches.refl (d : DieId) (s : Chip) : Chip.Touches d s s := ⟨Chip.Spares.refl s, rfl, fun _ _ => rfl⟩

theorem Chip.Touches.trans {d : DieId} {s u v : Chip} (h : Chip.Touches d s u) (g : Chip.Touches d u v) : Chip.Touches d s v :=
  ⟨h.toSpares.trans g.toSpares, g.supply.trans h.supply, fun e he => (g.others e he).trans (h.others e he)⟩

theorem Chip.updDie_touches (s : Chip) (d : DieId) (f : Die → Die) (ring : ∀ x, (f x).ringOn = x.ringOn ∧ (f x).timer = x.timer) :
    Chip.Touches d s (s.updDie d f) :=
  ⟨s.updDie_spares d f, s.updDie_supply d f ring, fun e he => s.updDie_die_other d e f he⟩

theorem Chip.raiseSvn_touches (s : Chip) (u : Fuses) (d : DieId) (x : Bank) : Chip.Touches d s (s.raiseSvn u d x) := by
  rw [Chip.raiseSvn]
  split
  · refine s.updDie_touches d _ ?_
    exact fun _ => ⟨rfl, rfl⟩
  · exact Chip.Touches.refl d s

theorem Chip.raiseSvn_boot (s : Chip) (u : Fuses) (d : DieId) (x : Bank) : (s.raiseSvn u d x).boot = s.boot := by
  rw [Chip.raiseSvn]
  split
  · refine s.updDie_boot d _ ?_
    exact fun _ => ⟨rfl, rfl, rfl⟩
  · rfl

/-- The mask ROM of a die leaves the flash, the host and the other dies. -/
theorem romBoot_touches (u : Fuses) (d : DieId) (r : Reach) :
    (romBoot u d r).fw = r.fw ∧ (romBoot u d r).host = r.host ∧ Chip.Touches d r.chip (romBoot u d r).chip := by
  have put (f : Die → Die) (ring : ∀ x, (f x).ringOn = x.ringOn ∧ (f x).timer = x.timer) : Chip.Touches d r.chip (r.chip.updDie d f) :=
    r.chip.updDie_touches d f ring
  rw [romBoot]
  dsimp only
  split
  · exact ⟨rfl, rfl, Chip.Touches.refl d _⟩
  · split
    · refine ⟨rfl, rfl, (put _ ?_).trans (Chip.raiseSvn_touches ..)⟩
      exact fun _ => ⟨rfl, rfl⟩
    · refine ⟨rfl, rfl, ?_⟩
      dsimp only
      refine put _ ?_
      exact fun _ => ⟨rfl, rfl⟩

theorem Firmware.mem_bootOrder (fw : Firmware) (b : Bool) : b ∈ fw.bootOrder := by
  rw [Firmware.bootOrder]
  split <;> cases b <;> simp

/-- Some bank holds an image that a die's mask ROM takes. -/
def Firmware.Passes (fw : Firmware) (u : Fuses) (d : DieId) : Prop := ∃ k, imageCheck (fw.bank k).image (Table.read 0 u.svnMin d) = none

/-- What the mask ROM makes of a die whose turn it is (R380). -/
def Chip.Booted (s : Chip) (fw : Firmware) (u : Fuses) (d : DieId) : Prop :=
  (fw.Passes u d → (s.die d).fwState = 1 ∧ (s.die d).verified = true) ∧ (¬ fw.Passes u d → (s.die d).fwState = 4 ∧ (s.die d).recovery = true)

theorem Chip.Booted.of_boot {s u : Chip} {fw : Firmware} {z : Fuses} {d : DieId} (h : s.Booted fw z d) (e : u.boot d = s.boot d) : u.Booted fw z d := by
  obtain ⟨state, rest⟩ := Prod.mk.inj e
  obtain ⟨verified, recovery⟩ := Prod.mk.inj rest
  rw [Chip.Booted, state, verified, recovery]
  exact h

theorem romBoot_boots (u : Fuses) (d : DieId) (r : Reach) (on : (r.chip.die d).ringOn = true) (fresh : (r.chip.die d).fwState = 0)
    (route : r.chip.route 0 d = true) : (romBoot u d r).chip.Booted r.fw u d := by
  have turn : ¬ ((r.chip.die d).ringOn = false ∨ (r.chip.die d).fwState ≠ 0 ∨ r.chip.route 0 d = false) := by simp [on, fresh, route]
  rw [romBoot]
  simp only [if_neg turn]
  split
  next b found =>
    have taken := List.find?_some found
    have pass : r.fw.Passes u d := ⟨b, Option.isNone_iff_eq_none.mp taken⟩
    refine Chip.Booted.of_boot (s := r.chip.updDie d _) ⟨fun _ => ?_, fun no => absurd pass no⟩ (congrFun (Chip.raiseSvn_boot ..) d)
    rw [Chip.updDie_die_same]
    exact ⟨rfl, rfl⟩
  next none =>
    have fail : ¬ r.fw.Passes u d := by
      rintro ⟨k, pass⟩
      exact List.find?_eq_none.mp none k (r.fw.mem_bootOrder k) (Option.isNone_iff_eq_none.mpr pass)
    refine ⟨fun pass => absurd pass fail, fun _ => ?_⟩
    rw [Chip.updDie_die_same]
    exact ⟨rfl, rfl⟩

/-! ## The stages of a bring-up (R481 steps 3 to 5) -/

/-- The mask ROMs of the dies present. -/
def Reach.romStage (u : Fuses) (b : BringUp) (r : Reach) : Reach := allDies.foldl (fun r d => if b.absent.getLsbD d.val then r else romBoot u d r) r

/-- A die that does not answer counts as one whose edge ring is down. -/
def Chip.markAbsent (b : BringUp) (s : Chip) (d : DieId) : Chip :=
  if b.absent.getLsbD d.val ∧ d ≠ 0 then ((s.note 0 2 Code.dieAbsent d.val).ringOffDomain d).updDie d (fun x => { x with ringReturned := false }) else s

def Chip.absentStage (b : BringUp) (s : Chip) : Chip := allDies.foldl (fun s d => s.markAbsent b d) s

def Chip.dieStage (b : BringUp) (s : Chip) : Chip := allDies.foldl (fun s d => s.dieUp d b) s

theorem Reach.bringUp_eq (u : Fuses) (b : BringUp) (r : Reach) :
    r.bringUp u b = Reach.openModule { r.romStage u b with chip := ((r.romStage u b).chip.absentStage b).dieStage b } := rfl

theorem Reach.romStage_keeps (u : Fuses) (b : BringUp) (r : Reach) :
    (r.romStage u b).fw = r.fw ∧ (r.romStage u b).host = r.host ∧ r.chip.Spares (r.romStage u b).chip ∧ (r.romStage u b).chip.supply = r.chip.supply := by
  refine List.foldlRecOn allDies _ (motive := fun q : Reach => q.fw = r.fw ∧ q.host = r.host ∧ r.chip.Spares q.chip ∧ q.chip.supply = r.chip.supply)
    ⟨rfl, rfl, Chip.Spares.refl _, rfl⟩ (fun q h d _ => ?_)
  obtain ⟨fw, host, spares, supply⟩ := h
  obtain ⟨fw', host', touches⟩ := romBoot_touches u d q
  split
  · exact ⟨fw, host, spares, supply⟩
  · exact ⟨fw'.trans fw, host'.trans host, spares.trans touches.toSpares, touches.supply.trans supply⟩

/-- Every die is reached from CD0 while all edge rings are on (R16). -/
theorem Chip.route_of_rings {s : Chip} (on : ∀ d, (s.die d).ringOn = true) (d : DieId) : s.route 0 d = true := by
  have reach : ∀ d : DieId, (let spread := fun from_ : List DieId => allDies.filter (fun d => from_.contains d || (true && from_.any (fun x => adjacent x d)))
      spread (spread (spread (spread (spread (spread (spread [0]))))))).contains d = true := by decide
  simp only [Chip.route, Chip.spread, on]
  exact reach d

/-- Every die present that starts afresh boots, or stays in recovery. -/
theorem Reach.romStage_boots (u : Fuses) (b : BringUp) (r : Reach) (on : ∀ d, (r.chip.die d).ringOn = true) (fresh : ∀ d, (r.chip.die d).fwState = 0)
    (d : DieId) (present : b.absent.getLsbD d.val = false) : (r.romStage u b).chip.Booted r.fw u d := by
  refine foldl_turn (P := fun q : Reach => q.fw = r.fw ∧ (∀ e, (q.chip.die e).ringOn = true) ∧ (q.chip.die d).fwState = 0)
    (Q := fun q : Reach => q.chip.Booted r.fw u d) (List.nodup_finRange 8) (mem_allDies d) (fun q e other h => ?_) (fun q h => ?_) (fun q e other h => ?_)
    ⟨rfl, on, fresh d⟩
  · obtain ⟨fw, rings, waits⟩ := h
    obtain ⟨fw', -, touches⟩ := romBoot_touches u e q
    split
    · exact ⟨fw, rings, waits⟩
    · refine ⟨fw'.trans fw, fun x => ?_, ?_⟩
      · rw [((Chip.supply_eq_iff _ _).mp touches.supply).1 x |>.1, rings]
      · rw [touches.others d (Ne.symm other), waits]
  · obtain ⟨fw, rings, waits⟩ := h
    rw [present, ← fw]
    exact romBoot_boots u d q (rings d) waits (Chip.route_of_rings rings d)
  · split
    · exact h
    · refine h.of_boot ?_
      rw [Chip.boot, Chip.boot, (romBoot_touches u e q).2.2.others d (Ne.symm other)]

theorem Chip.markAbsent_spares (b : BringUp) (s : Chip) (d : DieId) : s.Spares (s.markAbsent b d) := by
  rw [Chip.markAbsent]
  split
  · exact (s.note_spares ..).trans ((Chip.ringOffDomain_spares ..).trans (Chip.updDie_spares ..))
  · exact Chip.Spares.refl s

theorem Chip.markAbsent_stacks (b : BringUp) (s : Chip) (d : DieId) : (s.markAbsent b d).supply.2 = s.supply.2 := by
  rw [Chip.markAbsent]
  split
  · exact (Chip.ringOffDomain_stacks _ d).trans (congrArg Prod.snd (s.note_supply ..))
  · rfl

/-- What of a die the marking of another leaves. -/
def Chip.dieState (s : Chip) (d : DieId) : (Bool × Word64) × (Nat × Bool × Bool) := (s.supply.1 d, s.boot d)

theorem Chip.markAbsent_present (b : BringUp) (s : Chip) (d : DieId) {e : DieId} (present : b.absent.getLsbD e.val = false) :
    (s.markAbsent b d).dieState e = s.dieState e := by
  rw [Chip.markAbsent]
  split
  next gone =>
    have other : e ≠ d := fun h => by rw [h, gone.1] at present; exact Bool.noConfusion present
    have die := ((s.note 0 2 Code.dieAbsent d.val).ringOffDomain d).updDie_die_other d e (fun x => { x with ringReturned := false }) other
    rw [Chip.ringOffDomain_die_other _ other] at die
    have up := s.note_upholds 0 2 Code.dieAbsent d.val
    have noted : (s.note 0 2 Code.dieAbsent d.val).dieState e = s.dieState e := by rw [Chip.dieState, Chip.dieState, up.supply, up.boot]
    rw [← noted]
    simp only [Chip.dieState, Chip.supply, Chip.boot, die]
  next => rfl

theorem Chip.absentStage_spares (b : BringUp) (s : Chip) : s.Spares (s.absentStage b) :=
  List.foldlRecOn allDies _ (Chip.Spares.refl s) (fun u h d _ => h.trans (u.markAbsent_spares b d))

theorem Chip.absentStage_stacks (b : BringUp) (s : Chip) : (s.absentStage b).supply.2 = s.supply.2 :=
  foldl_keeps (fun u : Chip => u.supply.2) _ _ _ (fun (u : Chip) d => u.markAbsent_stacks b d)

theorem Chip.absentStage_present (b : BringUp) (s : Chip) {e : DieId} (present : b.absent.getLsbD e.val = false) :
    (s.absentStage b).dieState e = s.dieState e :=
  foldl_keeps (fun u : Chip => u.dieState e) _ _ _ (fun (u : Chip) d => u.markAbsent_present b d present)

/-- The edge ring of an absent die is off (R381). -/
theorem Chip.absentStage_absent (b : BringUp) (s : Chip) {e : DieId} (absent : b.absent.getLsbD e.val = true) (nonzero : e ≠ 0) :
    ((s.absentStage b).die e).ringOn = false := by
  refine foldl_reaches (P := fun u : Chip => (u.die e).ringOn = false) (mem_allDies e) (fun u => ?_) (fun u d off => ?_) s
  · rw [Chip.markAbsent, if_pos ⟨absent, nonzero⟩, Chip.updDie_die_same]
    exact Chip.ringOffDomain_ring _ e
  · rw [Chip.markAbsent]
    split
    · have noted := ((Chip.supply_eq_iff _ _).mp (u.note_supply 0 2 Code.dieAbsent d.val)).1 e
      by_cases same : e = d
      · rw [same, Chip.updDie_die_same]
        exact Chip.ringOffDomain_ring _ d
      · rw [Chip.updDie_die_other _ _ _ _ same, Chip.ringOffDomain_die_other _ same, noted.1, off]
    · exact off

theorem Chip.dieStage_upholds (b : BringUp) (s : Chip) (h : s.Filled) : s.Upholds (s.dieStage b) :=
  List.foldlRecOn allDies _ (Chip.Upholds.refl s) (fun u e d _ => e.trans (u.dieUp_upholds d b (h.of_supply (congrArg Prod.snd e.supply))))

end Sys2Proof.Machine
end

section
/-! The module opens: what waits is answered; what a whole bring-up leaves (R311, R380, R481 to R483). -/

namespace Sys2Proof.Machine

open Host

/-! ## Calls that are answered switch nothing (R311, R312) -/

/-- Which rings and stacks are on, the timers, and the server host's memory. -/
def Reach.outside (r : Reach) : ((DieId → Bool × Word64) × (StackId → Bool × Bool)) × Memory := (r.chip.supply, r.host)

theorem Reach.outside_chip (r : Reach) (c : Chip) (h : c.supply = r.chip.supply) : Reach.outside { r with chip := c } = r.outside := by
  rw [Reach.outside, Reach.outside, h]

theorem Reach.readAt_local_outside (r : Reach) (d : DieId) (a n : Nat) : (r.readAt d none a n).1.outside = r.outside :=
  r.outside_chip _ (r.chip.load_supply ..)

theorem Reach.writeAt_local_outside (r : Reach) (d : DieId) (a : Nat) (bs : List Byte) : (r.writeAt d none a bs).1.outside = r.outside :=
  r.outside_chip _ (r.chip.store_supply ..)

theorem Reach.updHart_outside (r : Reach) (h : HartId) (f : Hart → Hart) : Reach.outside { r with chip := r.chip.updHart h f } = r.outside := rfl

theorem Reach.outstanding_outside (r : Reach) (c : Caller) : (r.outstanding c).1.outside = r.outside := by
  rw [Reach.outstanding.eq_def]
  split
  next => rfl
  next h =>
    split
    next => rfl
    next a _ =>
      split
      next => rfl
      next =>
        have read := r.readAt_local_outside h.die a.toNat 64
        dsimp only
        split
        · exact read
        · exact (Reach.updHart_outside _ h _).trans read

/-- The night log's entry for an answer that is not 0. -/
def Reach.logAnswer (r : Reach) (a : Answer) : Reach := if a.code = 0 then r else { r with chip := r.chip.log a.die 1 a.code a.dome 0 a.locator }

/-- The reply itself. -/
def Reach.deliver (r : Reach) (c : Call) (a : Answer) : Reach :=
  match c.caller with
  | .fn f =>
    let x := r.chip.fn f
    if x.busy = false then r
    else if x.discardReply then { r with chip := r.chip.updFn f (fun y => { y with busy := false, discardReply := false }) }
    else
      let chip := r.chip.updFn f (fun y => { y with busy := false, done := true, block := BitVec.ofNat 512 (leNat (replyBytes c a)) })
      { r with chip := chip.msix f 0 }
  | .hart h =>
    match (r.chip.hart h).call with
    | none => r
    | some at_ =>
      let q := r.writeAt h.die none at_.toNat (replyBytes c a)
      { q.1 with chip := q.1.chip.updHart h (fun y => { y with call := none, sbiResult := some (if q.2 then 0 else sbiInvalidAddress) }) }

theorem Reach.finish_eq (r : Reach) (c : Call) (a : Answer) : r.finish c a = (r.logAnswer a).deliver c a := rfl

theorem Reach.logAnswer_outside (r : Reach) (a : Answer) : (r.logAnswer a).outside = r.outside := by
  rw [Reach.logAnswer]
  split
  · rfl
  · exact r.outside_chip _ (r.chip.log_supply ..)

theorem Reach.deliver_outside (r : Reach) (c : Call) (a : Answer) : (r.deliver c a).outside = r.outside := by
  rw [Reach.deliver]
  split
  · dsimp only
    split
    · rfl
    · split
      · rfl
      · exact r.outside_chip _ ((Chip.msix_supply ..).trans (Chip.updFn_supply ..))
  next =>
    split
    · rfl
    · exact (Reach.updHart_outside ..).trans (r.writeAt_local_outside ..)

theorem Reach.finish_outside (r : Reach) (c : Call) (a : Answer) : (r.finish c a).outside = r.outside := by
  rw [Reach.finish_eq, Reach.deliver_outside, Reach.logAnswer_outside]

theorem unknownCall_outside (c : Caller) (r : Reach) : (unknownCall c r).outside = r.outside := by
  have taken := r.outstanding_outside c
  rw [unknownCall]
  split
  next e => rw [e] at taken; exact taken
  next e =>
    rw [e] at taken
    split
    · exact taken
    · exact (Reach.finish_outside ..).trans taken

theorem Reach.answerHeld_outside (r : Reach) : r.answerHeld.outside = r.outside := by
  rw [Reach.answerHeld]
  refine (foldl_keeps Reach.outside _ _ _ fun q h => ?_).trans (foldl_keeps Reach.outside _ _ _ fun q f => ?_)
  · split
    · exact unknownCall_outside ..
    · rfl
  · split
    · have taken := q.outstanding_outside (.fn f)
      split
      next e => rw [e] at taken; exact (Reach.finish_outside ..).trans taken
      next e => rw [e] at taken; exact taken
    · exact unknownCall_outside ..

theorem Reach.recoveryReply_outside (r : Reach) : r.recoveryReply.outside = r.outside := by
  rw [Reach.recoveryReply]
  dsimp only
  split <;> rfl

/-! ## No call waits -/

/-- No hart has a state of its own and no function has a call outstanding. -/
def Chip.Idle (s : Chip) : Prop := s.harts = [] ∧ ∀ f, (s.fn f).busy = false

theorem Chip.Spares.idle {s u : Chip} (h : s.Spares u) (idle : s.Idle) : u.Idle := ⟨h.harts idle.1, h.calls idle.2⟩

theorem Reach.outstanding_idle {r : Reach} {f : HostFn} (h : (r.chip.fn f).busy = false) : r.outstanding (.fn f) = (r, none) := by
  simp [Reach.outstanding, h]

theorem Reach.answerHeld_idle {r : Reach} (h : r.chip.Idle) : r.answerHeld = r := by
  obtain ⟨harts, calls⟩ := h
  have noCall (x : HartId) : (r.chip.hart x).call = none := by rw [Chip.hart, harts]; rfl
  rw [Reach.answerHeld, List.foldl_fixed' (fun f => ?_) (r.chip.link.fns.map fun e => e.1), List.foldl_fixed' (fun x => ?_)]
  · simp [noCall]
  · simp [unknownCall, Reach.outstanding_idle (calls f)]

theorem Reach.recoveryReply_idle {r : Reach} (h : r.chip.Idle) : r.recoveryReply = r := by
  simp [Reach.recoveryReply, h.2]

/-! ## The module opens (R481 step 6) -/

/-- A module whose ports are enabled and whose firmware has announced it. -/
def Chip.opened (s : Chip) : Chip := ((allPorts.foldl (fun s p => Chip.portEnable p s) { s with ready := true }).note 0 0 Code.moduleReady 0).msix .pf 1

theorem Reach.openModule_eq (r : Reach) : r.openModule = if r.chip.running 0 = false then r.recoveryReply else Reach.answerHeld { r with chip := r.chip.opened } := rfl

theorem Chip.opened_upholds (s : Chip) : s.Upholds s.opened := by
  have ready : s.Upholds { s with ready := true } := ⟨⟨rfl, rfl, rfl, id, id, id, id⟩, rfl, rfl⟩
  have ports := List.foldlRecOn allPorts (fun s p => Chip.portEnable p s) ready (fun u h p _ => h.trans (u.portEnable_upholds p))
  exact ports.trans ((Chip.note_upholds ..).trans (Chip.msix_upholds ..))

theorem Reach.openModule_outside (r : Reach) : r.openModule.outside = r.outside := by
  rw [Reach.openModule_eq]
  split
  · exact r.recoveryReply_outside
  · exact (Reach.answerHeld_outside _).trans (r.outside_chip _ r.chip.opened_upholds.supply)

theorem Reach.openModule_idle (r : Reach) {c : Chip} (h : c.Idle) :
    (Reach.openModule { r with chip := c }).fw = r.fw ∧ c.Upholds (Reach.openModule { r with chip := c }).chip := by
  rw [Reach.openModule_eq]
  split
  · rw [Reach.recoveryReply_idle (r := { r with chip := c }) h]
    exact ⟨rfl, Chip.Upholds.refl c⟩
  · have idle : c.opened.Idle := c.opened_upholds.toSpares.idle h
    rw [Reach.answerHeld_idle (r := { r with chip := c.opened }) idle]
    exact ⟨rfl, c.opened_upholds⟩

/-! ## The whole bring-up -/

/-- A bring-up of filled stacks keeps them, the host's memory, and the rings and timers of the dies present. -/
theorem Reach.bringUp_outside (u : Fuses) (b : BringUp) (r : Reach) (filled : r.chip.Filled) :
    (r.bringUp u b).host = r.host ∧ (r.bringUp u b).chip.Filled ∧
      ∀ d, b.absent.getLsbD d.val = false → (r.bringUp u b).chip.supply.1 d = r.chip.supply.1 d := by
  obtain ⟨-, romHost, -, rom⟩ := r.romStage_keeps u b
  have fills : ((r.romStage u b).chip.absentStage b).supply.2 = r.chip.supply.2 := (Chip.absentStage_stacks b _).trans (congrArg Prod.snd rom)
  have up := Chip.dieStage_upholds b _ (filled.of_supply fills)
  obtain ⟨opened, host⟩ := Prod.mk.inj (Reach.openModule_outside { r.romStage u b with chip := ((r.romStage u b).chip.absentStage b).dieStage b })
  rw [← Reach.bringUp_eq] at opened host
  refine ⟨host.trans romHost, filled.of_supply ?_, fun d present => ?_⟩
  · rw [opened, up.supply, fills]
  · rw [opened, up.supply, (Prod.mk.inj (Chip.absentStage_present b _ present)).1, rom]

/-- A bring-up with no call waiting: firmware, memories, the boot state of the dies present, and the rings of the absent ones. -/
theorem Reach.bringUp_idle (u : Fuses) (b : BringUp) (r : Reach) (filled : r.chip.Filled) (idle : r.chip.Idle) :
    (r.bringUp u b).fw = r.fw ∧ r.chip.Spares (r.bringUp u b).chip ∧
      (∀ d, b.absent.getLsbD d.val = true → d ≠ 0 → ((r.bringUp u b).chip.die d).ringOn = false) ∧
      ∀ d, b.absent.getLsbD d.val = false → (r.bringUp u b).chip.boot d = (r.romStage u b).chip.boot d := by
  obtain ⟨romFw, -, romSpares, rom⟩ := r.romStage_keeps u b
  have fills : ((r.romStage u b).chip.absentStage b).supply.2 = r.chip.supply.2 := (Chip.absentStage_stacks b _).trans (congrArg Prod.snd rom)
  have up := Chip.dieStage_upholds b _ (filled.of_supply fills)
  have spares := romSpares.trans ((Chip.absentStage_spares b _).trans up.toSpares)
  have still : (((r.romStage u b).chip.absentStage b).dieStage b).Idle := spares.idle idle
  obtain ⟨fw, opened⟩ := Reach.openModule_idle (r.romStage u b) still
  rw [← Reach.bringUp_eq] at opened fw
  refine ⟨fw.trans romFw, spares.trans opened.toSpares, fun d absent nonzero => ?_, fun d present => ?_⟩
  · rw [((Chip.supply_eq_iff _ _).mp (opened.supply.trans up.supply)).1 d |>.1]
    exact Chip.absentStage_absent b _ absent nonzero
  · rw [opened.boot, up.boot, (Prod.mk.inj (Chip.absentStage_present b _ present)).2]

end Sys2Proof.Machine
end

section
/-! The cold and the warm module reset, and a lockout that clears (R439, R485 to R487). -/

namespace Sys2Proof.Machine

open Host

/-! ## The cold reset (R486) -/

/-- What a cold reset boots: every domain afresh, and firmware that knows nothing but the flash. -/
def coldStart (s : State) : Reach := ⟨coldChip s.chip, s.fw.lost, s.hostMem⟩

theorem coldReset_unlocked {s : State} (b : BringUp) (h : s.chip.power.lockout = false) :
    coldReset b s = s.withReach (Reach.bringUp s.fuses b (coldStart s)) := by
  rw [coldReset, if_neg (by simp [h])]
  rfl

/-- A die whose edge ring has just powered on. -/
def freshDie (draw : Nat) (d : DieId) : Die := { coel := { attempts := draw + d.val } }

theorem coldChip_die (s : Chip) (d : DieId) : (coldChip s).die d = freshDie s.free d := by
  rw [Chip.die, coldChip, freshDies]
  exact Table.read_listed ({} : Die) allDies (freshDie s.free) d (mem_allDies d)

theorem coldChip_filled (s : Chip) : (coldChip s).Filled := fun t => by
  have stack : (coldChip s).stack t = { filled := true } := by
    rw [Chip.stack, coldChip]
    exact Table.read_listed ({} : Stack) allStacks (fun _ => { filled := true }) t (mem_allStacks t)
  rw [stack]
  exact ⟨rfl, rfl⟩

theorem coldChip_idle (s : Chip) : (coldChip s).Idle := ⟨rfl, fun _ => rfl⟩

theorem coldStart_chip (s : State) : (coldStart s).chip = coldChip s.chip := rfl

/-- What the bring-up makes of a cold module (R486). -/
theorem coldStart_bringUp (s : State) (b : BringUp) {q : Reach} (hq : Reach.bringUp s.fuses b (coldStart s) = q) :
    q.host = s.hostMem ∧ q.fw = s.fw.lost ∧ (coldChip s.chip).Spares q.chip ∧ q.chip.Filled ∧
      (∀ d, b.absent.getLsbD d.val = true → d ≠ 0 → (q.chip.die d).ringOn = false) ∧
      ∀ d, b.absent.getLsbD d.val = false → (q.chip.die d).ringOn = true ∧ q.chip.Booted s.fw s.fuses d := by
  have filled : (coldStart s).chip.Filled := coldStart_chip s ▸ coldChip_filled s.chip
  have idle : (coldStart s).chip.Idle := coldStart_chip s ▸ coldChip_idle s.chip
  have die (d : DieId) : (coldStart s).chip.die d = freshDie s.chip.free d := (congrArg (Chip.die · d) (coldStart_chip s)).trans (coldChip_die s.chip d)
  obtain ⟨host, full, rings⟩ := Reach.bringUp_outside s.fuses b (coldStart s) filled
  obtain ⟨fw, spares, absent, boot⟩ := Reach.bringUp_idle s.fuses b (coldStart s) filled idle
  rw [hq] at host full rings fw spares absent boot
  refine ⟨host, fw, spares, full, absent, fun d present => ⟨?_, ?_⟩⟩
  · have ring := congrArg Prod.fst (rings d present)
    exact ring.trans (congrArg Die.ringOn (die d))
  · have booted := (coldStart s).romStage_boots s.fuses b (fun d => by rw [die]; rfl) (fun d => by rw [die]; rfl) d present
    exact booted.of_boot (boot d present)

/-- A cold reset empties every memory, fills the stacks, and boots each die present (R486). -/
theorem coldReset_effect (s : State) (b : BringUp) (h : s.chip.power.lockout = false) :
    (coldReset b s).fuses = s.fuses ∧ (coldReset b s).hostMem = s.hostMem ∧ (coldReset b s).pending = s.pending ∧ (coldReset b s).phot = s.phot ∧
      (coldReset b s).fw = s.fw.lost ∧ (coldChip s.chip).Spares (coldReset b s).chip ∧ (coldReset b s).chip.Filled ∧
      (∀ d, b.absent.getLsbD d.val = true → d ≠ 0 → ((coldReset b s).chip.die d).ringOn = false) ∧
      ∀ d, b.absent.getLsbD d.val = false → ((coldReset b s).chip.die d).ringOn = true ∧ (coldReset b s).chip.Booted s.fw s.fuses d := by
  rw [coldReset_unlocked b h]
  generalize hq : Reach.bringUp s.fuses b (coldStart s) = q
  obtain ⟨host, fw, rest⟩ := coldStart_bringUp s b hq
  exact ⟨rfl, host, rfl, rfl, fw, rest⟩

/-! ## The lockout clears (R439) -/

theorem State.withReach_reach (s : State) : s.withReach s.reach = s := rfl

/-- A module whose lockout is over. -/
def State.unlocked (s : State) : State := { s with chip := { s.chip with power := { s.chip.power with lockout := false } } }

theorem lockoutClear_effect (s : State) (locked : s.chip.power.lockout = true) :
    (lockoutClear s).chip.power.lockout = false ∧ (lockoutClear s).phot = s.phot ∧ (lockoutClear s).fuses = s.fuses ∧
      (lockoutClear s).chip.Filled ∧ (∀ a, (lockoutClear s).chip.dram.byte a = 0) ∧ (lockoutClear s).pending = s.pending := by
  have e : lockoutClear s =
      { coldReset allWell s.unlocked with chip := (coldReset allWell s.unlocked).chip.note 0 2 Code.inputLockout 0 } := by
    rw [lockoutClear, if_neg (by simp [locked]), State.unlocked]
  obtain ⟨fuses, -, pending, phot, -, spares, filled, -⟩ := coldReset_effect s.unlocked allWell rfl
  rw [e]
  generalize coldReset allWell s.unlocked = t at fuses pending phot spares filled
  have all := spares.trans (t.chip.note_spares 0 2 Code.inputLockout 0)
  refine ⟨?_, phot, fuses, filled.of_supply (congrArg Prod.snd (t.chip.note_supply 0 2 Code.inputLockout 0)), fun a => ?_, pending⟩
  · exact congrArg Power.lockout all.power
  · exact congrArg (fun m : Memory => m.byte a) all.dram

/-! ## The warm reset (R487) -/

theorem Chip.rangeOp_empty {s : Chip} (h : s.cache = []) (d : DieId) (pick : CacheLine → Bool) (clean inval : Bool) : s.rangeOp d pick clean inval = s := by
  cases clean <;> cases inval <;> simp [Chip.rangeOp, h]

/-- What is switched on, stack memory and the lines of its caches. -/
def Chip.holding (s : Chip) : ((DieId → Bool × Word64) × (StackId → Bool × Bool)) × Memory × List CacheLine := (s.supply, s.dram, s.cache)

theorem Chip.holding_eq {s u : Chip} (supply : u.supply = s.supply) (dram : u.dram = s.dram) (cache : u.cache = s.cache) : u.holding = s.holding := by
  rw [Chip.holding, Chip.holding, supply, dram, cache]

theorem Chip.updDie_holding (s : Chip) (d : DieId) (f : Die → Die) (h : ∀ x, (f x).ringOn = x.ringOn ∧ (f x).timer = x.timer) :
    (s.updDie d f).holding = s.holding := Chip.holding_eq (s.updDie_supply d f h) rfl rfl

theorem Chip.updStack_holding (s : Chip) (t : StackId) (f : Stack → Stack) (h : ∀ x, (f x).domainOn = x.domainOn ∧ (f x).filled = x.filled) :
    (s.updStack t f).holding = s.holding := Chip.holding_eq (s.updStack_supply t f h) rfl rfl

theorem Chip.err_holding (s : Chip) (b : Block) (e : ErrorInfo) : (s.err b e).holding = s.holding :=
  Chip.holding_eq (s.err_supply b e) (s.err_dram b e) (s.err_cache b e)

theorem Chip.note_holding (s : Chip) (d : DieId) (level : Nat) (code : FaultCode) (detail : Nat) : (s.note d level code detail).holding = s.holding :=
  Chip.holding_eq (s.note_supply ..) (s.log_dram ..) (s.log_cache ..)

theorem Chip.coreOffDomain_holding (s : Chip) (d : DieId) : (s.coreOffDomain d).holding = s.holding := by
  refine Chip.holding_eq (s.coreOffDomain_supply d) (s.coreOffDomain_dram d) ?_
  rw [Chip.coreOffDomain]
  split <;> rfl

theorem Chip.tearRuns_holding (s : Chip) (t : StackId) : (s.tearRuns t).holding = s.holding :=
  Chip.holding_eq (s.tearRuns_supply t) (s.tearRuns_keeps Chip.dram (fun _ _ _ => rfl) (fun _ _ _ => rfl) t)
    (s.tearRuns_keeps Chip.cache (fun _ _ _ => rfl) (fun _ _ _ => rfl) t)

theorem Stack.pend_frame (x : Stack) (n : Fin 1024) (count : Nat) : (x.pend n count).domainOn = x.domainOn ∧ (x.pend n count).filled = x.filled := by
  rw [Stack.pend]
  dsimp only
  split <;> exact ⟨rfl, rfl⟩

theorem Chip.resetEnd_holding (s : Chip) (t : StackId) : (s.resetEnd t).holding = s.holding := by
  rw [Chip.resetEnd]
  split
  · rfl
  · refine (foldl_keeps Chip.holding _ _ _ fun u n => ?_).trans ?_
    · exact u.updStack_holding t _ (fun x => x.pend_frame n _)
    · refine s.updStack_holding t _ ?_
      exact fun _ => ⟨rfl, rfl⟩

/-- A unit reset reaches no stack memory and switches nothing (R236). -/
theorem Chip.unitReset_holding (s : Chip) (t : StackId) : (s.unitReset t).holding = s.holding := by
  have slots (u : Chip) : ((List.finRange 1024).foldl (fun s n =>
      let x := s.slotOf t n
      let count := (s.obj (.stack t (clip 256 x.dbObj.toNat))).count
      if x.runSeq = count then s else s.updSlot t n (fun x => { x with runSeq := count })) u).holding = u.holding := by
    refine foldl_keeps Chip.holding _ _ _ (fun u n => ?_)
    dsimp only
    split
    · rfl
    · exact Chip.holding_eq (u.updSlot_supply ..) rfl rfl
  have stores (u : Chip) : ((List.finRange 32).foldl (fun s e => s.storeClear t e) u).holding = u.holding := foldl_keeps Chip.holding _ _ _ (fun _ _ => rfl)
  have emptied (u : Chip) (f : Stack → Stack) (h : ∀ x, (f x).domainOn = x.domainOn ∧ (f x).filled = x.filled) :
      ((u.updStack t f).resetEnd t).holding = u.holding := (Chip.resetEnd_holding _ t).trans (u.updStack_holding t f h)
  rw [Chip.unitReset]
  split
  · rfl
  · refine (emptied _ _ ?_).trans ((stores _).trans ((slots _).trans (s.tearRuns_holding t)))
    exact fun _ => ⟨rfl, rfl⟩

/-- With no line cached, the stop of a warm reset cleans nothing and reaches no stack memory. -/
theorem warmStop_holding {s : Chip} (empty : s.cache = []) : (warmStop s).holding = s.holding := by
  have cores := foldl_keeps Chip.holding (fun s d => Chip.coreOffDomain d s) allDies s (fun u d => u.coreOffDomain_holding d)
  have units (u : Chip) := foldl_keeps Chip.holding (fun s t => Chip.unitReset t s) allStacks u (fun u t => u.unitReset_holding t)
  rw [warmStop]
  generalize stopped : allStacks.foldl (fun s t => Chip.unitReset t s) (allDies.foldl (fun s d => Chip.coreOffDomain d s) s) = u
  have held : u.holding = s.holding := stopped ▸ (units _).trans cores
  have lines : u.cache = [] := (Prod.mk.inj (Prod.mk.inj held).2).2.trans empty
  rw [List.foldl_fixed' (fun d => ?_), held]
  rw [Chip.rangeOp_empty lines]
  split <;> rfl

theorem tapDrain_holding (s : Chip) (p : Photometer) (d : DieId) : (tapDrain s p d).1.holding = s.holding := by
  rw [tapDrain]
  split
  · rfl
  · split
    · rw [Chip.tapGiveUp]
      dsimp only
      split
      · rfl
      · refine (Chip.err_holding ..).trans ((Chip.note_holding ..).trans (s.updDie_holding d _ ?_))
        exact fun _ => Die.reportFrozen_supply _
    · refine s.updDie_holding d _ ?_
      exact fun _ => ⟨rfl, rfl⟩

/-- What every entry of a table keeps, a read keeps. -/
theorem Table.read_map_keeps {κ α β : Type} [DecidableEq κ] (p : α → β) (f : α → α) (h : ∀ a, p (f a) = p a) (d : α) (t : Table κ α) (k : κ) :
    p (Table.read d (t.map (fun e => (e.1, f e.2))) k) = p (Table.read d t k) := by
  induction t with
  | nil => rfl
  | cons e t ih =>
    by_cases same : e.1 = k
    · simp [Table.read, same, h]
    · simpa [Table.read, same] using ih

/-- The edge-ring logic of a die that a warm reset has reset (R487). -/
def Chip.warmDie (s : Chip) (d : DieId) : Die :=
  if (s.die d).ringOn then
    { coel := { attempts := s.free + d.val }, timer := (s.die d).timer, phase := (s.die d).phase, log := (s.die d).log, logSeq := (s.die d).logSeq }
  else freshDie s.free d

theorem warmChip_die (s : Chip) (d : DieId) : (warmChip s).die d = s.warmDie d := by
  rw [Chip.die, warmChip]
  exact Table.read_listed ({} : Die) allDies s.warmDie d (mem_allDies d)

theorem warmChip_timer {s : Chip} {d : DieId} (on : (s.die d).ringOn = true) : ((warmChip s).die d).timer = (s.die d).timer := by
  rw [warmChip_die, Chip.warmDie, if_pos on]

theorem warmChip_filled {s : Chip} (h : s.Filled) : (warmChip s).Filled := fun t => by
  have kept : (((warmChip s).stack t).domainOn, ((warmChip s).stack t).filled) = ((s.stack t).domainOn, (s.stack t).filled) := by
    rw [Chip.stack, warmChip]
    exact Table.read_map_keeps (fun x : Stack => (x.domainOn, x.filled)) (fun x : Stack => { x.noController with selfRefresh := x.domainOn }) (fun _ => rfl) {} s.stk t
  obtain ⟨on, filled⟩ := Prod.mk.inj kept
  rw [on, filled]
  exact h t

theorem warmChip_idle (s : Chip) : (warmChip s).Idle := ⟨rfl, fun _ => rfl⟩

/-- The chip and the Photometer after the stop and the drain of a warm reset. -/
def warmDrained (s : State) : Chip × Photometer :=
  allDies.foldl (fun (acc : Chip × Photometer) d => tapDrain acc.1 acc.2 d) (warmStop s.chip, s.phot)

theorem warmDrained_holding {s : State} (empty : s.chip.cache = []) : (warmDrained s).1.holding = s.chip.holding := by
  have drained := foldl_keeps (fun acc : Chip × Photometer => acc.1.holding) (fun acc d => tapDrain acc.1 acc.2 d) allDies (warmStop s.chip, s.phot)
    (fun acc d => tapDrain_holding acc.1 acc.2 d)
  dsimp only at drained
  unfold warmDrained
  rw [drained, warmStop_holding empty]

theorem warmReset_unlocked {s : State} (b : BringUp) (unlocked : s.chip.power.lockout = false) (live : s.chip.frozen = false) :
    warmReset b s = ({ s with phot := (warmDrained s).2 } : State).withReach
      (Reach.bringUp s.fuses b ⟨warmChip (warmDrained s).1, s.fw.lost, s.hostMem⟩) := by
  rw [warmReset, if_neg (by simp [unlocked, live]), warmDrained]

/-- A warm reset of a module with no line cached keeps stack memory and the timers (R487). -/
theorem warmReset_effect {s : State} (b : BringUp) (unlocked : s.chip.power.lockout = false) (live : s.chip.frozen = false) (empty : s.chip.cache = [])
    (filled : s.chip.Filled) :
    (warmReset b s).fuses = s.fuses ∧ (warmReset b s).hostMem = s.hostMem ∧ (warmReset b s).pending = s.pending ∧ (warmReset b s).fw = s.fw.lost ∧
      (warmReset b s).chip.dram = s.chip.dram ∧ (warmReset b s).chip.scratch = [] ∧
      ∀ d, (s.chip.die d).ringOn = true → b.absent.getLsbD d.val = false → ((warmReset b s).chip.die d).timer = (s.chip.die d).timer := by
  have held := warmDrained_holding empty
  rw [warmReset_unlocked b unlocked live]
  generalize (warmDrained s).1 = c at held
  obtain ⟨supply, lines⟩ := Prod.mk.inj held
  have full : (warmChip c).Filled := warmChip_filled (filled.of_supply (congrArg Prod.snd supply))
  obtain ⟨host, -, rings⟩ := Reach.bringUp_outside s.fuses b ⟨warmChip c, s.fw.lost, s.hostMem⟩ full
  obtain ⟨fw, spares, -, -⟩ := Reach.bringUp_idle s.fuses b ⟨warmChip c, s.fw.lost, s.hostMem⟩ full (warmChip_idle c)
  generalize Reach.bringUp s.fuses b ⟨warmChip c, s.fw.lost, s.hostMem⟩ = q at host rings fw spares
  refine ⟨rfl, host, rfl, fw, spares.dram.trans (Prod.mk.inj lines).1, spares.scratch rfl, fun d on present => ?_⟩
  obtain ⟨ring, timer⟩ := ((Chip.supply_eq_iff _ _).mp supply).1 d
  have kept : (q.chip.die d).timer = ((warmChip c).die d).timer := congrArg Prod.snd (rings d present)
  exact kept.trans ((warmChip_timer (ring.trans on)).trans timer)

end Sys2Proof.Machine
end

section
/-! Power-up, the explicit power-down and the MODULE_RESET call (R190, R311 to R313, R438, R481, R485). -/

namespace Sys2Proof.Machine

open Host

/-! ## Power-up (R481) -/

theorem Chip.stackFill_same (s : Chip) (t : StackId) : ((s.stackFill t).stack t).domainOn = true ∧ ((s.stackFill t).stack t).filled = true := by
  rw [Chip.stackFill]
  split
  next up => exact up
  next =>
    rw [Chip.stack, Table.read_write_same]
    exact ⟨rfl, rfl⟩

theorem Chip.stackFill_other (s : Chip) {t u : StackId} (h : u ≠ t) : (s.stackFill t).stack u = s.stack u := by
  rw [Chip.stackFill]
  split
  · rfl
  · exact Table.read_write_other _ _ _ _ _ h

/-- Stack domains that are off come on, filled. -/
def Chip.stacksUp (s : Chip) : Chip := allStacks.foldl (fun s t => s.stackFill t) s

theorem Chip.stacksUp_filled (s : Chip) : s.stacksUp.Filled := fun t => by
  refine foldl_reaches (P := fun u : Chip => (u.stack t).domainOn = true ∧ (u.stack t).filled = true) (mem_allStacks t) (fun u => u.stackFill_same t)
    (fun u b up => ?_) s
  by_cases same : t = b
  · exact same ▸ u.stackFill_same t
  · rw [u.stackFill_other same]
    exact up

/-- A die's edge ring powers on at a power-up, whatever became of it before. -/
def Chip.ringUp (s : Chip) (d : DieId) : Chip := (s.ringOnDomain d).updDie d (fun x => { x with ringReturned := false })

theorem Chip.ringUp_stacks (s : Chip) (d : DieId) : (s.ringUp d).supply.2 = s.supply.2 := by
  rw [Chip.ringUp, Chip.ringOnDomain]
  split <;> rfl

theorem Chip.ringUp_same (s : Chip) (d : DieId) : ((s.ringUp d).die d).ringOn = true := by
  rw [Chip.ringUp, Chip.updDie_die_same, Chip.ringOnDomain]
  split
  next on => exact on
  next => simp [Chip.die, Chip.updDie]

theorem Chip.ringUp_other (s : Chip) {d e : DieId} (h : e ≠ d) : (s.ringUp d).die e = s.die e := by
  rw [Chip.ringUp, Chip.updDie_die_other _ _ _ _ h, Chip.ringOnDomain]
  split
  · rfl
  · exact Table.read_write_other _ _ _ _ _ h

/-- Stack domains, then edge rings. -/
def Chip.poweredUp (s : Chip) : Chip := allDies.foldl (fun s d => s.ringUp d) s.stacksUp

theorem Chip.poweredUp_filled (s : Chip) : s.poweredUp.Filled :=
  s.stacksUp_filled.of_supply (foldl_keeps (fun u : Chip => u.supply.2) (fun s d => s.ringUp d) allDies s.stacksUp (fun u d => u.ringUp_stacks d))

theorem Chip.poweredUp_ring (s : Chip) (d : DieId) : (s.poweredUp.die d).ringOn = true := by
  refine foldl_reaches (P := fun u : Chip => (u.die d).ringOn = true) (mem_allDies d) (fun u => u.ringUp_same d) (fun u b on => ?_) s.stacksUp
  by_cases same : d = b
  · exact same ▸ u.ringUp_same d
  · rw [u.ringUp_other same, on]

theorem powerUp_unlocked {s : State} (b : BringUp) (down : s.chip.ready = false) (unlocked : s.chip.power.lockout = false) (live : s.chip.frozen = false) :
    powerUp b s = s.withReach (Reach.bringUp s.fuses b { s.reach with chip := s.chip.poweredUp }) := by
  rw [powerUp, if_neg (by simp [down, unlocked, live]), Chip.poweredUp, Chip.stacksUp]
  rfl

/-- Power-up fills the stacks and switches the rings of the dies present on (R481). -/
theorem powerUp_effect {s : State} (b : BringUp) (down : s.chip.ready = false) (unlocked : s.chip.power.lockout = false) (live : s.chip.frozen = false) :
    (powerUp b s).fuses = s.fuses ∧ (powerUp b s).hostMem = s.hostMem ∧ (powerUp b s).phot = s.phot ∧ (powerUp b s).chip.Filled ∧
      ∀ d, b.absent.getLsbD d.val = false → ((powerUp b s).chip.die d).ringOn = true := by
  have full := s.chip.poweredUp_filled
  have on := s.chip.poweredUp_ring
  rw [powerUp_unlocked b down unlocked live]
  generalize s.chip.poweredUp = c at full on
  obtain ⟨host, filled, rings⟩ := Reach.bringUp_outside s.fuses b { s.reach with chip := c } full
  generalize Reach.bringUp s.fuses b { s.reach with chip := c } = q at host filled rings
  exact ⟨rfl, host, rfl, filled, fun d present => (congrArg Prod.fst (rings d present)).trans (on d)⟩

/-! ## The explicit power-down (R190) -/

/-- The stack caches that running firmware cleans. -/
def Chip.cleaned (s : Chip) : Chip := allDies.foldl (fun s d => if s.running d then s.rangeOp d (fun _ => true) true true else s) s

theorem Chip.cleaned_supply (s : Chip) : s.cleaned.supply = s.supply :=
  foldl_keeps Chip.supply (fun s d => if s.running d then s.rangeOp d (fun _ => true) true true else s) allDies s (fun u d => by
    split
    · exact u.rangeOp_supply ..
    · rfl)

theorem Chip.cleaned_empty {s : Chip} (h : s.cache = []) : s.cleaned = s :=
  List.foldl_fixed' (fun d => by rw [Chip.rangeOp_empty h, ite_self]) allDies

/-- A die's edge ring goes down with the module. -/
def Chip.ringDown (s : Chip) (d : DieId) : Chip := (s.ringOffDomain d).updDie d (fun x => { x with ringReturned := false })

theorem Chip.ringDown_off (s : Chip) (d : DieId) : ((s.ringDown d).die d).ringOn = false := by
  rw [Chip.ringDown, Chip.updDie_die_same]
  exact s.ringOffDomain_ring d

theorem Chip.ringDown_other (s : Chip) {d e : DieId} (h : e ≠ d) : (s.ringDown d).die e = s.die e := by
  rw [Chip.ringDown, Chip.updDie_die_other _ _ _ _ h, s.ringOffDomain_die_other h]

def Chip.poweredDown (s : Chip) : Chip := allDies.foldl (fun s d => s.ringDown d) s.cleaned

theorem Chip.poweredDown_off (s : Chip) (d : DieId) : (s.poweredDown.die d).ringOn = false := by
  refine foldl_reaches (P := fun u : Chip => (u.die d).ringOn = false) (mem_allDies d) (fun u => u.ringDown_off d) (fun u b off => ?_) s.cleaned
  by_cases same : d = b
  · exact same ▸ u.ringDown_off d
  · rw [u.ringDown_other same, off]

theorem Chip.poweredDown_stacks (s : Chip) : s.poweredDown.supply.2 = s.supply.2 :=
  (foldl_keeps (fun u : Chip => u.supply.2) (fun s d => s.ringDown d) allDies s.cleaned (fun u d => u.ringOffDomain_stacks d)).trans
    (congrArg Prod.snd s.cleaned_supply)

theorem Chip.poweredDown_dram {s : Chip} (h : s.cache = []) : s.poweredDown.dram = s.dram :=
  (foldl_keeps Chip.dram (fun s d => s.ringDown d) allDies s.cleaned (fun u d => u.ringOffDomain_dram d)).trans (congrArg Chip.dram (Chip.cleaned_empty h))

theorem powerDown_live {s : State} (live : s.chip.frozen = false) :
    powerDown s = { s with chip := { s.chip.poweredDown with ready := false, traces := [] }, fw := s.fw.lost } := by
  rw [powerDown, if_neg (by simp [live]), Chip.poweredDown, Chip.cleaned]
  rfl

/-- The explicit power-down switches the rings off and keeps the stacks (R190). -/
theorem powerDown_effect {s : State} (live : s.chip.frozen = false) :
    (powerDown s).fuses = s.fuses ∧ (powerDown s).hostMem = s.hostMem ∧ (powerDown s).pending = s.pending ∧ (powerDown s).fw = s.fw.lost ∧
      (powerDown s).phot = s.phot ∧ (powerDown s).chip.ready = false ∧ (∀ d, ((powerDown s).chip.die d).ringOn = false) ∧
      (∀ k, ((powerDown s).chip.stack k).domainOn = (s.chip.stack k).domainOn) ∧ (s.chip.cache = [] → (powerDown s).chip.dram = s.chip.dram) := by
  have off := s.chip.poweredDown_off
  have domains := s.chip.poweredDown_stacks
  have kept := Chip.poweredDown_dram (s := s.chip)
  rw [powerDown_live live]
  generalize s.chip.poweredDown = c at off domains kept
  exact ⟨rfl, rfl, rfl, rfl, rfl, rfl, off, fun k => congrArg Prod.fst (congrFun domains k), kept⟩

/-! ## Numbers in a call block (R311) -/

theorem leBytes_drop (n v off : Nat) : (leBytes n v).drop off = leBytes (n - off) (v / 256 ^ off) := by
  induction off generalizing n v with
  | zero => simp
  | succ k ih =>
    cases n with
    | zero => simp [leBytes]
    | succ n => rw [leBytes, List.drop_succ_cons, ih, Nat.succ_sub_succ, Nat.div_div_eq_div_mul, Nat.pow_succ, Nat.mul_comm 256]

theorem leBytes_take (n v k : Nat) (h : k ≤ n) : (leBytes n v).take k = leBytes k v := by
  induction k generalizing n v with
  | zero => rfl
  | succ k ih =>
    obtain ⟨n, rfl⟩ := Nat.exists_eq_succ_of_ne_zero (Nat.ne_of_gt (Nat.lt_of_lt_of_le k.succ_pos h))
    rw [leBytes, leBytes, List.take_succ_cons, ih n _ (Nat.le_of_succ_le_succ h)]

/-- A field of a number's bytes. -/
theorem bytesAt_leBytes (n v off k : Nat) (h : off + k ≤ n) : bytesAt (leBytes n v) off k = v / 2 ^ (8 * off) % 2 ^ (8 * k) := by
  rw [bytesAt, leBytes_drop, leBytes_take _ _ _ (by omega), leNat_leBytes, Nat.pow_mul, Nat.pow_mul]

/-- A byte of a list is its field of one byte. -/
theorem bytesAt_one (l : List Byte) (i : Nat) : bytesAt l i 1 = (l.getD i 0).toNat := by
  rw [bytesAt]
  cases e : l.drop i with
  | nil =>
    rw [List.getD_eq_default _ _ (List.drop_eq_nil_iff.mp e)]
    rfl
  | cons b t =>
    have get : l[i]? = some b := by simpa [e] using (List.getElem?_drop (xs := l) (i := i) (j := 0)).symm
    simp [leNat, List.getD_eq_getElem?_getD, get]

/-! ## MODULE_RESET (R485) -/

/-- The call in the physical function's mailbox. -/
def State.pfCall (s : State) : Call := ⟨.fn .pf, leBytes 64 (s.chip.fn .pf).block.toNat⟩

theorem State.pfCall_arg (s : State) (off n : Nat) (h : off + n ≤ 64) : s.pfCall.arg off n = callArg s off n := bytesAt_leBytes 64 _ off n h

theorem CallWaits.outstanding {s : State} {flags code : Nat} {used : List (Nat × Nat)} (h : CallWaits s flags code used) :
    s.reach.outstanding (.fn .pf) = (s.reach, some s.pfCall) := by
  obtain ⟨busy, -, ready, running, -⟩ := h
  simp [Reach.outstanding, State.reach, State.pfCall, busy, ready, running]

theorem CallWaits.clean {s : State} {flags code : Nat} {used : List (Nat × Nat)} (h : CallWaits s flags code used) : s.pfCall.clean used = true := by
  obtain ⟨-, -, -, -, -, -, zero⟩ := h
  rw [Call.clean, List.all_eq_true]
  intro i hi
  have bound : i < 56 := List.mem_range.mp hi
  by_cases named : ∃ u ∈ used, u.1 ≤ 8 + i ∧ 8 + i < u.1 + u.2
  · simp [named]
  · have none : callArg s (8 + i) 1 = 0 := zero (8 + i) (by omega) (by omega) (fun u hu within => named ⟨u, hu, within⟩)
    rw [← s.pfCall_arg (8 + i) 1 (by omega), Call.arg, bytesAt_one] at none
    have byte : s.pfCall.bytes.getD (8 + i) 0 = 0 := BitVec.eq_of_toNat_eq none
    simp only [byte, decide_true, Bool.or_true]

/-- MODULE_RESET by the physical function does the reset that its argument names. -/
theorem moduleReset_waiting {s : State} (h : CallWaits s 0 0x54 [(8, 1)]) (known : callArg s 8 1 ≤ 1) :
    moduleReset (.fn .pf) s = if callArg s 8 1 = 1 then coldReset allWell s else warmReset allWell s := by
  have clean := h.clean
  have taken := h.outstanding
  obtain ⟨-, -, -, -, code, flags, -⟩ := h
  rw [← s.pfCall_arg 0 2 (by omega)] at code
  rw [← s.pfCall_arg 2 2 (by omega)] at flags
  rw [← s.pfCall_arg 8 1 (by omega)] at known ⊢
  have may : s.chip.mayCall {} (.fn .pf) = true := rfl
  have one : ¬ 1 < s.pfCall.arg 8 1 := by omega
  simp only [moduleReset, taken, State.withReach_reach, Call.code, code, flags, may, clean, one, ne_eq, not_true_eq_false, if_false, Bool.true_eq_false,
    Nat.zero_div, or_self]

end Sys2Proof.Machine
end

section
/-! What lockouts and the module resets lose and keep (R21, R438, R439, R481, R485 to R487). -/

namespace Sys2Proof.Machine

open Host

/-- A lockout, and what it keeps from happening until it clears (R439). -/
theorem lockout_holds (s : State) :
    (∀ high : Bool, ∃ t, Runs (if high then .ovlo else .uvlo) s t ∧ t.phot = s.phot ∧ t.fuses = s.fuses ∧ t.hostMem = s.hostMem ∧
      t.chip.power.lockout = true ∧ (if high then t.chip.power.ovloEv else t.chip.power.uvloEv) = true ∧ t.chip.ready = false ∧
      (∀ d, (t.chip.die d).ringOn = false ∧ ((s.chip.die d).ringOn = true → (t.chip.die d).coreOn = false)) ∧ ∀ n, (t.chip.stack n).domainOn = false) ∧
    (s.chip.power.lockout = true → ∀ b,
      Runs (.coldModuleReset b) s s ∧ Runs (.warmModuleReset b) s s ∧ Runs (.powerUp b) s s ∧
      ∃ t, Runs .lockoutClear s t ∧ t.chip.power.lockout = false ∧ t.phot = s.phot ∧ t.fuses = s.fuses ∧
        (∀ n, (t.chip.stack n).domainOn = true ∧ (t.chip.stack n).filled = true) ∧ (∀ a, t.chip.dram.byte a = 0) ∧ t.pending = s.pending) := by
  refine ⟨fun high => ⟨lockout high s, ?_, lockout_switches_off s high⟩, fun locked b => ⟨?_, ?_, ?_, lockoutClear s, rfl, lockoutClear_effect s locked⟩⟩
  · cases high <;> rfl
  · exact congrArg Outcome.next (if_pos locked)
  · exact congrArg Outcome.next (if_pos (Or.inl locked))
  · exact congrArg Outcome.next (if_pos (Or.inr (Or.inl locked)))

/-- A cold reset, in the words of the boot of each die (R380, R486). -/
theorem coldModuleReset_boots (s : State) (b : BringUp) (unlocked : s.chip.power.lockout = false) :
    ∃ t, Runs (.coldModuleReset b) s t ∧ (t.fuses = s.fuses ∧ t.hostMem = s.hostMem ∧ t.pending = s.pending ∧ t.fw = s.fw.lost) ∧ t.phot = s.phot ∧
      t.chip.dram = [] ∧ t.chip.scratch = [] ∧ t.chip.engineStore = [] ∧ t.chip.cache = [] ∧ t.chip.Filled ∧
      ∀ d, if b.absent.getLsbD d.val then (d ≠ 0 → (t.chip.die d).ringOn = false)
        else (t.chip.die d).ringOn = true ∧ (s.fw.Passes s.fuses d → (t.chip.die d).fwState = 1 ∧ (t.chip.die d).verified = true) ∧
          (¬ s.fw.Passes s.fuses d → (t.chip.die d).fwState = 4 ∧ (t.chip.die d).recovery = true) := by
  obtain ⟨fuses, host, pending, phot, fw, spares, filled, absent, present⟩ := coldReset_effect s b unlocked
  refine ⟨coldReset b s, rfl, ⟨fuses, host, pending, fw⟩, phot, spares.dram, spares.scratch rfl, spares.engineStore, spares.cache rfl, filled, fun d => ?_⟩
  split
  next gone => exact absent d gone
  next here => exact present d (Bool.eq_false_of_not_eq_true here)

theorem moduleReset_names (s : State) (h : CallWaits s 0 0x54 [(8, 1)]) :
    (callArg s 8 1 = 1 → ∃ t, Runs (.moduleReset (.fn .pf)) s t ∧ Runs (.coldModuleReset ⟨0, 0, 0⟩) s t) ∧
    (callArg s 8 1 = 0 → ∃ t, Runs (.moduleReset (.fn .pf)) s t ∧ Runs (.warmModuleReset ⟨0, 0, 0⟩) s t) := by
  refine ⟨fun one => ⟨coldReset allWell s, congrArg Outcome.next ?_, rfl⟩, fun zero => ⟨warmReset allWell s, congrArg Outcome.next ?_, rfl⟩⟩
  · rw [moduleReset_waiting h (by omega), if_pos one]
  · rw [moduleReset_waiting h (by omega), if_neg (by omega)]

/-- Settles O28, from what each reset's bring-up leaves: the mask ROMs touch their own dies, the later stages switch nothing of a die present, and filled stacks stay. -/
theorem lockoutsAndModuleResets : Obligations.LockoutsAndModuleResets := by
  unfold Obligations.LockoutsAndModuleResets
  refine ⟨lockout_holds, fun s b => ⟨coldModuleReset_boots s b, fun unlocked live empty _ filled => ?_, fun unlocked live down => ?_, fun live => ?_,
    moduleReset_names s⟩⟩
  · obtain ⟨fuses, host, pending, fw, rest⟩ := warmReset_effect b unlocked live empty filled
    exact ⟨warmReset b s, rfl, ⟨fuses, host, pending, fw⟩, rest⟩
  · exact ⟨powerUp b s, rfl, powerUp_effect b down unlocked live⟩
  · obtain ⟨fuses, host, pending, fw, rest⟩ := powerDown_effect live
    exact ⟨powerDown s, rfl, ⟨fuses, host, pending, fw⟩, rest⟩

end Sys2Proof.Machine
end

section
/-! Folds that give each unit of a list one turn. -/

namespace Sys2Proof.Machine

open Host

/-- A fold whose step replaces the one unit it is at gives each unit of the list its own replacement, once. -/
theorem foldl_units {σ κ α : Type} [DecidableEq κ] (get : σ → κ → α) (g : κ → α → α) {f : σ → κ → σ}
    (step : ∀ s k j, get (f s k) j = if j = k then g k (get s k) else get s j) {l : List κ} (once : l.Nodup) (s : σ) (j : κ) :
    get (l.foldl f s) j = if j ∈ l then g j (get s j) else get s j := by
  induction l generalizing s with
  | nil => simp
  | cons k t ih =>
    obtain ⟨fresh, tail⟩ := List.nodup_cons.mp once
    rw [List.foldl_cons, ih tail, step]
    by_cases h : j = k
    · subst h; simp [fresh]
    · simp [h]

theorem nodup_allDies : allDies.Nodup := List.nodup_finRange 8
theorem nodup_allStacks : allStacks.Nodup := List.nodup_finRange 32

/-- A fold whose every step replaces one part of the state replaces that part. -/
theorem foldl_replaces {σ α β : Type} (put : β → σ → σ) (stay : ∀ s, ∃ v, s = put v s) (again : ∀ s v w, put w (put v s) = put w s) {f : σ → α → σ}
    (step : ∀ s a, ∃ v, f s a = put v s) (l : List α) (s : σ) : ∃ v, l.foldl f s = put v s := by
  induction l generalizing s with
  | nil => exact stay s
  | cons a t ih =>
    obtain ⟨v, h⟩ := step s a
    obtain ⟨w, g⟩ := ih (f s a)
    exact ⟨w, by rw [List.foldl_cons, g, h, again]⟩

/-- A fold that changes dies alone. -/
theorem foldl_dies {f : Chip → DieId → Chip} (step : ∀ s d, ∃ v, f s d = { s with dies := v }) (l : List DieId) (s : Chip) :
    ∃ v, l.foldl f s = { s with dies := v } :=
  foldl_replaces (fun v s => { s with dies := v }) (fun s => ⟨s.dies, rfl⟩) (fun _ _ _ => rfl) step l s

end Sys2Proof.Machine
end

section
/-! Alerts, operating points, the envelope's checks and latched events (R38, R303, R442 to R444, R458). -/

namespace Sys2Proof.Machine

open Host

/-! ## PWR_ALERT and its end (R443) -/

/-- A die whose Guider has taken over the input's alert. -/
def Die.alerted (x : Die) (on : Bool) : Die := if x.ringOn then { x with alert := on, guider := x.guider.recompute on } else x

theorem Die.alerted_on {x : Die} (on : Bool) (h : x.ringOn = true) : x.alerted on = { x with alert := on, guider := x.guider.recompute on } := if_pos h

/-- An alert keeps the duty at 4 or more. -/
theorem Guider.four_le_duty_of_alert (g : Guider) : 4 ≤ (g.recompute true).duty :=
  (Nat.le_max_left 4 g.ctrlDuty.toNat).trans (Nat.le_max_right _ _)

/-- The alert reaches one die: its Guider, and the recorded error of its POWER page. -/
def Chip.alertDie (s : Chip) (d : DieId) : Chip :=
  if (s.die d).ringOn = false then s else
  (s.updDie d (fun x => { x with alert := true, guider := x.guider.recompute true })).err (.power d) { bit := 0, code := 0 }

theorem Chip.pwrAlertOn_eq (s : Chip) :
    s.pwrAlertOn = allDies.foldl Chip.alertDie { s with power := { s.power with pwrAlert := true, lastAlert := some s.power.standby } } := rfl

theorem Chip.alertDie_on {s : Chip} {d : DieId} (h : (s.die d).ringOn = true) :
    s.alertDie d = (s.updDie d (fun x => x.alerted true)).updHead (.power d) (fun y => y.record { bit := 0, code := 0 }) := by
  rw [Chip.alertDie, if_neg (by simp [h]), Chip.err_codeless _ _ _ rfl]
  congr 1
  exact s.updDie_congr d (Die.alerted_on true h).symm

theorem Chip.alertDie_off {s : Chip} {d : DieId} (h : (s.die d).ringOn = false) : s.alertDie d = s := if_pos h

theorem Chip.alertDie_shape (s : Chip) (d : DieId) : ∃ h v, s.alertDie d = { s with heads := h, dies := v } := by
  cases ring : (s.die d).ringOn with
  | false => exact ⟨s.heads, s.dies, Chip.alertDie_off ring⟩
  | true => exact ⟨_, _, Chip.alertDie_on ring⟩

theorem Chip.alertDie_die (s : Chip) (d e : DieId) : (s.alertDie d).die e = if e = d then (s.die d).alerted true else s.die e := by
  cases ring : (s.die d).ringOn with
  | false =>
    rw [Chip.alertDie_off ring, Die.alerted, ring]
    split
    next h => rw [h]; rfl
    next => rfl
  | true => rw [Chip.alertDie_on ring, Chip.updHead_die, Chip.updDie_die]

/-- What the alert leaves and raises. -/
theorem Chip.pwrAlertOn_effect (s : Chip) :
    (∃ h v, s.pwrAlertOn = { s with heads := h, dies := v, power := { s.power with pwrAlert := true, lastAlert := some s.power.standby } }) ∧
    (∀ d, s.pwrAlertOn.die d = (s.die d).alerted true) ∧
    ∀ d, (s.die d).ringOn = true → (s.pwrAlertOn.head (.power d)).errStatus.getLsbD 0 = true := by
  rw [Chip.pwrAlertOn_eq]
  refine ⟨?_, fun d => ?_, fun d ring => ?_⟩
  · obtain ⟨⟨h, v⟩, e⟩ := foldl_replaces (fun (v : Table Block Head × Table DieId Die) (s : Chip) => { s with heads := v.1, dies := v.2 })
      (fun s => ⟨(s.heads, s.dies), rfl⟩) (fun _ _ _ => rfl) (fun u d => Prod.exists.mpr (u.alertDie_shape d)) allDies
      { s with power := { s.power with pwrAlert := true, lastAlert := some s.power.standby } }
    exact ⟨h, v, e⟩
  · rw [foldl_units Chip.die (fun _ x => x.alerted true) Chip.alertDie_die nodup_allDies, if_pos (mem_allDies d)]
    rfl
  · refine foldl_turn (P := fun u : Chip => (u.die d).ringOn = true) (Q := fun u : Chip => (u.head (.power d)).errStatus.getLsbD 0 = true) nodup_allDies (mem_allDies d)
      (fun u e ne on => ?_) (fun u on => ?_) (fun u e ne set => ?_) ring
    · rwa [Chip.alertDie_die, if_neg (Ne.symm ne)]
    · rw [Chip.alertDie_on on, Chip.updHead_head_same]
      exact Head.record_sets_bit _ _ (show 0 < 32 by omega)
    · cases on : (u.die e).ringOn with
      | false => rwa [Chip.alertDie_off on]
      | true =>
        rw [Chip.alertDie_on on, Chip.updHead_head_other _ _ _ _ (by simpa using Ne.symm ne)]
        exact set

/-- What the end of the alert leaves. -/
theorem Chip.pwrAlertOff_effect (s : Chip) :
    (∃ v, s.pwrAlertOff =
      { s with dies := v, power := { s.power with pwrAlert := false, lastAlert := if s.power.pwrAlert then some s.power.standby else s.power.lastAlert } }) ∧
    ∀ d, s.pwrAlertOff.die d = (s.die d).alerted false := by
  rw [Chip.pwrAlertOff]
  refine ⟨foldl_dies (fun u d => ?_) _ _, fun d => ?_⟩
  · split
    · exact ⟨_, rfl⟩
    · exact ⟨u.dies, rfl⟩
  · rw [foldl_units Chip.die (fun _ x => x.alerted false) ?_ nodup_allDies, if_pos (mem_allDies d)]
    · rfl
    · intro u e j
      rw [Die.alerted]
      split
      · rw [Chip.updDie_die]
      · split
        next h => rw [h]
        next => rfl

/-! ## Operating points (R38, R444, R458) -/

/-- A die whose POINT takes a value: its supply slews to the selected point. -/
def Die.selecting (x : Die) (p : BitVec 2) : Die :=
  if x.ringOn then { x with point := p, slewing := decide (pointOf p ≠ x.pointActive) } else x

theorem Die.selecting_on {x : Die} (p : BitVec 2) (h : x.ringOn = true) :
    x.selecting p = { x with point := p, slewing := decide (pointOf p ≠ x.pointActive) } := if_pos h

theorem Chip.pointWrite_on {s : Chip} {d : DieId} (p : BitVec 2) (h : (s.die d).ringOn = true) :
    s.pointWrite d p = s.updDie d (fun x => { x with point := p, slewing := decide (pointOf p ≠ x.pointActive) }) := by
  simp [Chip.pointWrite, h]

theorem Chip.pointWrite_shape (d : DieId) (p : BitVec 2) (s : Chip) : ∃ v, s.pointWrite d p = { s with dies := v } := by
  unfold Chip.pointWrite
  split
  · exact ⟨s.dies, rfl⟩
  · exact ⟨_, rfl⟩

theorem Chip.pointWrite_die (d : DieId) (p : BitVec 2) (s : Chip) (e : DieId) :
    (s.pointWrite d p).die e = if e = d then (s.die d).selecting p else s.die e := by
  cases ring : (s.die d).ringOn with
  | false =>
    rw [Chip.pointWrite, if_pos ring, Die.selecting, ring]
    split
    next h => rw [h]; rfl
    next => rfl
  | true => rw [Chip.pointWrite_on p ring, Chip.updDie_die, Die.selecting_on p ring]

/-- Firmware's selection of one point for some dies changes those dies alone. -/
theorem Chip.pointWrites_effect (p : BitVec 2) {l : List DieId} (once : l.Nodup) (s : Chip) :
    (∃ v, l.foldl (fun s d => Chip.pointWrite d p s) s = { s with dies := v }) ∧
    ∀ d, (l.foldl (fun s d => Chip.pointWrite d p s) s).die d = if d ∈ l then (s.die d).selecting p else s.die d :=
  ⟨foldl_dies (fun u d => u.pointWrite_shape d p) l s,
    foldl_units Chip.die (fun _ x => x.selecting p) (fun u d e => u.pointWrite_die d p e) once s⟩

theorem pointOf_eq_two_iff (p : BitVec 2) : pointOf p = 2 ↔ p = 2 := by revert p; decide
theorem pointOf_eq_one_iff (p : BitVec 2) : pointOf p = 1 ↔ p = 1 ∨ p = 3 := by revert p; decide

theorem pointSelect_may {r : Reach} {d : DieId} {p : BitVec 2} (live : r.chip.frozen = false) (may : r.maySelect d p = true) :
    pointSelect d p r = { r with chip := r.chip.pointWrite d p } := by
  simp [pointSelect, live, may]

theorem pointSelect_mayNot {r : Reach} {d : DieId} {p : BitVec 2} (mayNot : ¬ r.maySelect d p = true) : pointSelect d p r = r := by
  simp [pointSelect, mayNot]

theorem Chip.slewDone_slewing {s : Chip} {d : DieId} (ring : (s.die d).ringOn = true) (slews : (s.die d).slewing = true) :
    s.slewDone d = s.updDie d (fun y => { y with slewing := false, pointActive := pointOf y.point }) := by
  simp [Chip.slewDone, ring, slews]

/-- A state whose dies alone one update has changed. -/
theorem onlyDie_updDie (s : State) (d : DieId) (f : Die → Die) : OnlyDie d s { s with chip := s.chip.updDie d f } :=
  ⟨rfl, fun _ h => Chip.updDie_die_other _ _ _ _ h⟩

/-! ## ENVELOPE_CHECK (R442, R444) -/

/-- CD0's firmware has taken the input's average, and counts so many calm checks. -/
def Chip.averaged (s : Chip) (avg : Word32) (calm : Nat) : Chip := { s with power := { s.power with inputAvg := avg, calmChecks := calm } }

section
variable {s : Chip} {avg : Word32}

theorem Chip.envelopeCheck_above (runs : s.running 0 = true) (above : s.power.limit < avg.toNat) :
    s.envelopeCheck avg = (s.averaged avg 0).throttle := by
  rw [Chip.envelopeCheck, if_neg (by simp [runs])]
  exact if_pos above

theorem Chip.envelopeCheck_calm (runs : s.running 0 = true) (calm : 20 * avg.toNat ≤ 19 * s.power.limit) (few : s.power.calmChecks < 999) :
    s.envelopeCheck avg = { s with power := { s.power with inputAvg := avg, calmChecks := s.power.calmChecks + 1, dutyWait := 0 } } := by
  rw [Chip.envelopeCheck, if_neg (by simp [runs])]
  refine (if_neg ?_).trans ((if_pos calm).trans ((if_neg ?_).trans ?_))
  · show ¬ s.power.limit < avg.toNat
    omega
  · show ¬ (s.power.calmChecks + 1 = 1000 ∨ s.power.calmChecks + 1 = 1100)
    omega
  · show ({ s with power := { s.power with inputAvg := avg, calmChecks := if s.power.calmChecks + 1 = 1100 then 1000 else s.power.calmChecks + 1, dutyWait := 0 } } : Chip) = _
    rw [if_neg (by omega)]

theorem Chip.envelopeCheck_between (runs : s.running 0 = true) (below : avg.toNat ≤ s.power.limit) (near : 19 * s.power.limit < 20 * avg.toNat) :
    s.envelopeCheck avg = s.averaged avg 0 := by
  rw [Chip.envelopeCheck, if_neg (by simp [runs])]
  exact (if_neg (Nat.not_lt.mpr below)).trans (if_neg (Nat.not_le.mpr near))

end

theorem Chip.mem_diesWith (s : Chip) (f : Die → Bool) (d : DieId) : d ∈ s.diesWith f ↔ (s.die d).ringOn = true ∧ f (s.die d) = true := by
  simp [Chip.diesWith, mem_allDies]

theorem Chip.diesWith_nodup (s : Chip) (f : Die → Bool) : (s.diesWith f).Nodup := nodup_allDies.filter _

/-- The dies at Peak, and those at Reference. -/
def Chip.atPeak (s : Chip) : List DieId := s.diesWith (fun x => pointOf x.point = 2)
def Chip.atReference (s : Chip) : List DieId := s.diesWith (fun x => pointOf x.point = 1)

theorem Chip.mem_atPeak (s : Chip) (d : DieId) : d ∈ s.atPeak ↔ (s.die d).ringOn = true ∧ (s.die d).point = 2 := by
  simp only [Chip.atPeak, Chip.mem_diesWith, decide_eq_true_eq, pointOf_eq_two_iff]

theorem Chip.mem_atReference (s : Chip) (d : DieId) : d ∈ s.atReference ↔ (s.die d).ringOn = true ∧ ((s.die d).point = 1 ∨ (s.die d).point = 3) := by
  simp only [Chip.atReference, Chip.mem_diesWith, decide_eq_true_eq, pointOf_eq_one_iff]

/-- Firmware takes some dies to a point and notes the step (R442). -/
def Chip.pushPoint (s : Chip) (n : Nat) (p : BitVec 2) (ds : List DieId) : Chip :=
  let u := ds.foldl (fun s d => Chip.pointWrite d p s) s
  { u with power := { u.power with throttleSteps := (n, ds) :: u.power.throttleSteps } }

theorem Chip.throttle_peak {s : Chip} (some_ : s.atPeak ≠ []) : s.throttle = s.pushPoint 1 1 s.atPeak := if_pos some_

theorem Chip.throttle_reference {s : Chip} (none_ : s.atPeak = []) (some_ : s.atReference ≠ []) : s.throttle = s.pushPoint 2 0 s.atReference :=
  (if_neg (not_not.mpr none_)).trans (if_pos some_)

/-- A step of points changes the points of its dies, the list of steps, and nothing else. -/
theorem Chip.pushPoint_effect (s : Chip) (n : Nat) (p : BitVec 2) {ds : List DieId} (once : ds.Nodup) (on : ∀ d ∈ ds, (s.die d).ringOn = true) :
    (∃ v w, s.pushPoint n p ds = { s with dies := v, power := { s.power with throttleSteps := w } }) ∧
    ∀ d, (d ∈ ds → ((s.pushPoint n p ds).die d).point = p) ∧ (d ∉ ds → (s.pushPoint n p ds).die d = s.die d) := by
  obtain ⟨⟨v, shape⟩, die⟩ := Chip.pointWrites_effect p once s
  refine ⟨⟨v, (n, ds) :: s.power.throttleSteps, by rw [Chip.pushPoint, shape]⟩, fun d => ⟨fun h => ?_, fun h => ?_⟩⟩
  · refine (congrArg Die.point (die d)).trans ?_
    rw [if_pos h, Die.selecting_on p (on d h)]
  · exact (die d).trans (if_neg h)

/-- Above the limit, a step of points: every die that is to step is at the new point, every other die as before, and the calm checks start again. -/
theorem envelopeCheck_steps (s : State) {avg : Word32} {n : Nat} {p : BitVec 2} {ds : List DieId} {steps : DieId → Prop}
    (check : s.chip.envelopeCheck avg = (s.chip.averaged avg 0).pushPoint n p ds) (once : ds.Nodup)
    (mem : ∀ d, d ∈ ds ↔ (s.chip.die d).ringOn = true ∧ steps d) :
    ∃ t, Runs (.envelopeCheck avg) s t ∧ SameMemory s t ∧ t.chip.power.calmChecks = 0 ∧
      ∀ d, ((s.chip.die d).ringOn = true ∧ steps d → (t.chip.die d).point = p) ∧ (¬ ((s.chip.die d).ringOn = true ∧ steps d) → t.chip.die d = s.chip.die d) := by
  obtain ⟨⟨v, w, shape⟩, die⟩ := Chip.pushPoint_effect (s.chip.averaged avg 0) n p once (fun d h => ((mem d).mp h).1)
  refine ⟨{ s with chip := s.chip.envelopeCheck avg }, rfl, ?_⟩
  rw [check]
  refine ⟨?_, by rw [shape]; rfl, fun d => ?_⟩
  · rw [shape]
    exact ⟨rfl, rfl, rfl, rfl⟩
  · rw [← mem]
    exact die d

/-! ## The statement -/

theorem alerts_raise_the_duty (s : State) :
    (∃ t, Runs .pwrAlert s t ∧ SameMemory s t ∧ t.chip.power.pwrAlert = true ∧ t.chip.power.lastAlert = some s.chip.power.standby ∧
      ∀ d, (s.chip.die d).ringOn = true → (t.chip.die d).alert = true ∧ 4 ≤ (t.chip.die d).guider.duty ∧ (t.chip.head (.power d)).errStatus.getLsbD 0 = true) ∧
    ∃ t, Runs .pwrAlertClear s t ∧ SameMemory s t ∧ t.chip.power.pwrAlert = false ∧
      ∀ d, (s.chip.die d).ringOn = true → (t.chip.die d).alert = false ∧ (t.chip.die d).guider.ctrlDuty = (s.chip.die d).guider.ctrlDuty := by
  constructor
  · obtain ⟨⟨h, v, shape⟩, die, flag⟩ := s.chip.pwrAlertOn_effect
    refine ⟨_, onChip_next _ _, ?_, by rw [shape], by rw [shape], fun d ring => ?_⟩
    · rw [shape]; exact ⟨rfl, rfl, rfl, rfl⟩
    · dsimp only
      rw [die d, Die.alerted_on true ring]
      exact ⟨rfl, Guider.four_le_duty_of_alert _, flag d ring⟩
  · obtain ⟨⟨v, shape⟩, die⟩ := s.chip.pwrAlertOff_effect
    refine ⟨_, onChip_next _ _, ?_, by rw [shape], fun d ring => ?_⟩
    · rw [shape]; exact ⟨rfl, rfl, rfl, rfl⟩
    · dsimp only
      rw [die d, Die.alerted_on false ring]
      exact ⟨rfl, rfl⟩

theorem points_are_selected (s : State) (d : DieId) (p : BitVec 2) (up : RingUp s d) :
    (Reach.maySelect ⟨s.chip, s.fw, s.hostMem⟩ d p = true → ∃ t, Runs (.pointWrite d p) s t ∧ OnlyDie d s t ∧
      t.chip.die d = { s.chip.die d with point := p, slewing := decide ((if p = 3 then 1 else p) ≠ (s.chip.die d).pointActive) }) ∧
    (¬ Reach.maySelect ⟨s.chip, s.fw, s.hostMem⟩ d p = true → Runs (.pointWrite d p) s s) := by
  obtain ⟨live, ring⟩ := up
  refine ⟨fun may => ⟨_, onReach_next _ _, ?_⟩, fun mayNot => (onReach_next _ _).trans ?_⟩
  · rw [pointSelect_may live may]
    dsimp only
    rw [Chip.pointWrite_on p ring]
    exact ⟨onlyDie_updDie s d _, Chip.updDie_die_same _ _ _⟩
  · rw [pointSelect_mayNot mayNot]

theorem envelope_checks (s : State) (avg : Word32) (runs : s.chip.running 0 = true) :
    let limit := Nat.min 5200 s.chip.power.pLimit.toNat
    let peak (d : DieId) : Prop := (s.chip.die d).ringOn = true ∧ (s.chip.die d).point = 2
    let reference (d : DieId) : Prop := (s.chip.die d).ringOn = true ∧ ((s.chip.die d).point = 1 ∨ (s.chip.die d).point = 3)
    (limit < avg.toNat → (∃ d, peak d) →
      ∃ t, Runs (.envelopeCheck avg) s t ∧ SameMemory s t ∧ t.chip.power.calmChecks = 0 ∧
        ∀ d, (peak d → (t.chip.die d).point = 1) ∧ (¬ peak d → t.chip.die d = s.chip.die d)) ∧
    (limit < avg.toNat → (∀ d, ¬ peak d) → (∃ d, reference d) →
      ∃ t, Runs (.envelopeCheck avg) s t ∧ SameMemory s t ∧ t.chip.power.calmChecks = 0 ∧
        ∀ d, (reference d → (t.chip.die d).point = 0) ∧ (¬ reference d → t.chip.die d = s.chip.die d)) ∧
    (20 * avg.toNat ≤ 19 * limit → s.chip.power.calmChecks < 999 →
      ∃ t, Runs (.envelopeCheck avg) s t ∧ SameMemory s t ∧ t.chip.dies = s.chip.dies ∧ t.chip.power.calmChecks = s.chip.power.calmChecks + 1 ∧
        t.chip.power.inputAvg = avg) ∧
    (avg.toNat ≤ limit → 19 * limit < 20 * avg.toNat →
      ∃ t, Runs (.envelopeCheck avg) s t ∧ SameMemory s t ∧ t.chip.dies = s.chip.dies ∧ t.chip.power.calmChecks = 0) := by
  intro limit peak reference
  have peakOf := (s.chip.averaged avg 0).mem_atPeak
  have referenceOf := (s.chip.averaged avg 0).mem_atReference
  refine ⟨fun above ⟨d, hd⟩ => ?_, fun above calm ⟨d, hd⟩ => ?_, fun calm few => ?_, fun below near => ?_⟩
  · have some_ : (s.chip.averaged avg 0).atPeak ≠ [] := List.ne_nil_of_mem ((peakOf d).mpr hd)
    exact envelopeCheck_steps s ((Chip.envelopeCheck_above runs above).trans (Chip.throttle_peak some_)) (Chip.diesWith_nodup _ _) peakOf
  · have none_ : (s.chip.averaged avg 0).atPeak = [] := List.eq_nil_iff_forall_not_mem.mpr (fun e he => calm e ((peakOf e).mp he))
    have some_ : (s.chip.averaged avg 0).atReference ≠ [] := List.ne_nil_of_mem ((referenceOf d).mpr hd)
    exact envelopeCheck_steps s ((Chip.envelopeCheck_above runs above).trans (Chip.throttle_reference none_ some_)) (Chip.diesWith_nodup _ _) referenceOf
  · refine ⟨_, (onChip_next _ _).trans (congrArg (fun u => Outcome.next { s with chip := u }) (Chip.envelopeCheck_calm runs calm few)), ?_⟩
    exact ⟨⟨rfl, rfl, rfl, rfl⟩, rfl, rfl, rfl⟩
  · refine ⟨_, (onChip_next _ _).trans (congrArg (fun u => Outcome.next { s with chip := u }) (Chip.envelopeCheck_between runs below near)), ?_⟩
    exact ⟨⟨rfl, rfl, rfl, rfl⟩, rfl, rfl⟩

/-- Settles O27: the alert visits each die once, a step of points is the selection for the dies that stand at Peak or, with none there, at Reference, and each other check is one update of the power block. -/
theorem alertsPointsAndEnvelope : Obligations.AlertsPointsAndEnvelope := by
  unfold Obligations.AlertsPointsAndEnvelope
  refine ⟨fun s => ⟨(alerts_raise_the_duty s).1, (alerts_raise_the_duty s).2, points_are_selected s, fun d ring slews => ⟨_, onChip_next _ _, ?_⟩⟩,
    fun s avg => ⟨envelope_checks s avg, fun up => ⟨_, onChip_next _ _, ?_⟩⟩⟩
  · rw [Chip.slewDone_slewing ring slews]
    exact ⟨onlyDie_updDie s d _, Chip.updDie_die_same _ _ _⟩
  · obtain ⟨live, ring⟩ := up
    rw [Chip.live_unfrozen _ live, Chip.eventsRead, if_neg (by simp [ring])]

end Sys2Proof.Machine
end

section
/-! One tick of the module's clocks, with no command waiting (R43, R45, R196; log entry 3). -/

namespace Sys2Proof.Machine

open Host

/-! ## The clocks (R43, R45, R196) -/

/-- Every Meridian timer has its turn, and then every base die's counter. -/
def Chip.tickDies (s : Chip) (free : Nat) : Chip := allDies.foldl (fun u d => u.updDie d (Die.tick (Config.freeChoice (free + d.val)))) s
def Chip.tickStacks (s : Chip) (free : Nat) : Chip := allStacks.foldl (fun u k => u.updStack k (Stack.tick (Config.freeChoice (free + (8 + k.val))))) s

theorem Chip.tickDies_shape (s : Chip) (free : Nat) : ∃ v, s.tickDies free = { s with dies := v } := foldl_dies (fun _ _ => ⟨_, rfl⟩) _ s

theorem Chip.tickDies_die (s : Chip) (free : Nat) (d : DieId) : (s.tickDies free).die d = Die.tick (Config.freeChoice (free + d.val)) (s.die d) :=
  (foldl_units Chip.die (fun d => Die.tick (Config.freeChoice (free + d.val))) (fun u d e => u.updDie_die d e _) nodup_allDies s d).trans (if_pos (mem_allDies d))

theorem Chip.tickStacks_shape (s : Chip) (free : Nat) : ∃ v, s.tickStacks free = { s with stk := v } :=
  foldl_replaces (fun (v : Table StackId Stack) (u : Chip) => { u with stk := v }) (fun u => ⟨u.stk, rfl⟩) (fun _ _ _ => rfl) (fun _ _ => ⟨_, rfl⟩) _ s

theorem Chip.tickStacks_stack (s : Chip) (free : Nat) (k : StackId) :
    (s.tickStacks free).stack k = Stack.tick (Config.freeChoice (free + (8 + k.val))) (s.stack k) :=
  (foldl_units Chip.stack (fun k => Stack.tick (Config.freeChoice (free + (8 + k.val)))) (fun u k e => u.updStack_stack k e _) nodup_allStacks s k).trans
    (if_pos (mem_allStacks k))

/-- The standby controller's clock of 10 ns units (R45). -/
def Chip.tickStandby (s : Chip) : Chip := { s with power := { s.power with standby := s.power.standby + 10 } }

theorem Chip.tickClocks_eq (s : Chip) : s.tickClocks = (Chip.tickStacks { s.tickDies s.free with free := s.free + 40 } s.free).tickStandby := rfl

/-- The clocks that run are each counted once, on the oscillators that the free values give. -/
theorem Chip.tickClocks_effect (s : Chip) :
    (∃ v w, s.tickClocks = Chip.tickStandby { s with dies := v, stk := w, free := s.free + 40 }) ∧
    (∀ d, s.tickClocks.die d = Die.tick (Config.freeChoice (s.free + d.val)) (s.die d)) ∧
    ∀ k, s.tickClocks.stack k = Stack.tick (Config.freeChoice (s.free + (8 + k.val))) (s.stack k) := by
  have eachDie := s.tickDies_die s.free
  obtain ⟨v, dies⟩ := s.tickDies_shape s.free
  rw [Chip.tickClocks_eq]
  generalize s.tickDies s.free = u at *
  subst dies
  have eachStack := Chip.tickStacks_stack { s with dies := v, free := s.free + 40 } s.free
  obtain ⟨w, stacked⟩ := Chip.tickStacks_shape { s with dies := v, free := s.free + 40 } s.free
  generalize Chip.tickStacks _ s.free = u at *
  subst stacked
  exact ⟨⟨v, w, rfl⟩, eachDie, eachStack⟩

/-- A crystal is within 50 millionths of 25 MHz (R43). -/
theorem Die.tick_within (off : Nat) (x : Die) : ∃ n, 9999500 ≤ n ∧ n ≤ 10000500 ∧ x.tick off = if x.ringOn then
    { x with timer := x.timer + BitVec.ofNat 64 ((x.phase + n) / 1000000), phase := (x.phase + n) % 1000000 } else x :=
  ⟨9999500 + 10 * (off % 101), by omega, by omega, rfl⟩

/-- A base die's oscillator is within 3 % of 10 MHz (R43). -/
theorem Stack.tick_within (off : Nat) (x : Stack) : ∃ n, 970000 ≤ n ∧ n ≤ 1030000 ∧ x.tick off = if x.domainOn then
    { x with ticks := x.ticks + BitVec.ofNat 64 ((x.phase + n) / 1000000), phase := (x.phase + n) % 1000000 } else x :=
  ⟨970000 + off % 60001, by omega, by omega, rfl⟩

theorem Die.tick_rest (off : Nat) (x : Die) : (x.tick off).coel = x.coel ∧ (x.tick off).retest = x.retest := by
  unfold Die.tick
  split <;> exact ⟨rfl, rfl⟩

/-! ## The tick (log entry 3) -/

/-- Whether a freeze is in force is in the dies' Coelostats alone. -/
theorem Chip.frozen_congr {s u : Chip} (h : ∀ d, (u.die d).coel.freezing = (s.die d).coel.freezing) : u.frozen = s.frozen := by
  simp only [Chip.frozen, h]

theorem Chip.tickPorts_shape (old s : Chip) : ∃ p, old.tickPorts s = { s with ports := p } := ⟨_, rfl⟩

/-- The chip after a tick's clocks and windows. -/
def Chip.ticked (s : Chip) : Chip := s.tickPorts s.tickClocks

/-- What a tick's clocks and windows leave, and what each clock becomes. -/
theorem Chip.ticked_effect (s : Chip) :
    (∃ v w p, s.ticked = Chip.tickStandby { s with dies := v, stk := w, free := s.free + 40, ports := p }) ∧
    (∀ d, s.ticked.die d = Die.tick (Config.freeChoice (s.free + d.val)) (s.die d)) ∧
    ∀ k, s.ticked.stack k = Stack.tick (Config.freeChoice (s.free + (8 + k.val))) (s.stack k) := by
  obtain ⟨⟨v, w, shape⟩, die, stack⟩ := s.tickClocks_effect
  obtain ⟨p, windows⟩ := s.tickPorts_shape s.tickClocks
  rw [Chip.ticked, windows]
  generalize s.tickClocks = u at *
  subst shape
  exact ⟨⟨v, w, p, rfl⟩, die, stack⟩

theorem Chip.ticked_frozen (s : Chip) : s.ticked.frozen = s.frozen :=
  Chip.frozen_congr (fun d => by rw [s.ticked_effect.2.1 d, (Die.tick_rest _ _).1])

/-- No restarted core domain waits for its pattern test. -/
theorem Reach.tickTest_untested {r : Reach} {d : DieId} (h : (r.chip.die d).retest = false) : r.tickTest d = r := by
  simp [Reach.tickTest, h]

/-- Quiet queues give firmware nothing to do (R315). -/
theorem Reach.pollProducers_quiet {r : Reach}
    (quiet : ∀ n q, r.fw.queue n = some q → q.configured = false ∨ (q.coreProducer = false ∧ q.owed = [] ∧ q.subHead = q.subTail)) : r.pollProducers = r := by
  refine List.foldl_fixed' (fun e => ?_) _
  split
  next => rfl
  next q found =>
    rcases quiet _ q found with off | ⟨host, owed, none_⟩
    · exact if_pos (Or.inl off)
    · simp [host, owed, none_]

theorem tick_eq (r : Reach) : tick r =
    if r.chip.ticked.frozen then { r with chip := r.chip.ticked }
    else (allDies.foldl Reach.tickTest { r with chip := r.chip.ticked.logVector }).pollProducers := rfl

/-- A tick under a freeze, or with nothing for firmware to attend to, is the clocks', the windows' and, outside a freeze, the owed vector's. -/
theorem tick_idle (s : State) (h : s.chip.frozen = true ∨ (QueuesQuiet s ∧ ∀ d, (s.chip.die d).retest = false)) :
    ∃ l, tick s.reach = { s.reach with chip := { s.chip.ticked with link := l } } := by
  rw [tick_eq]
  have frozen := s.chip.ticked_frozen
  have die := s.chip.ticked_effect.2.1
  generalize hu : s.reach.chip.ticked = u
  rw [show s.chip.ticked = u from hu] at frozen die ⊢
  cases held : s.chip.frozen with
  | true => exact ⟨u.link, if_pos (frozen.trans held)⟩
  | false =>
    obtain ⟨quiet, untested⟩ := h.resolve_left (by simp [held])
    have still (d : DieId) : (u.logVector.die d).retest = false := by
      rw [Chip.die, Chip.logVector_dies, ← Chip.die, die, (Die.tick_rest _ _).2, untested]
    have tests : allDies.foldl Reach.tickTest { s.reach with chip := u.logVector } = { s.reach with chip := u.logVector } :=
      List.foldl_fixed' (fun d => Reach.tickTest_untested (still d)) _
    obtain ⟨l, sent⟩ := u.logVector_shape
    refine ⟨l, (if_neg (by simp [frozen, held])).trans ?_⟩
    rw [tests, ← sent]
    exact Reach.pollProducers_quiet quiet

/-- Settles O2: each unit's clock is counted at its own turn of the two folds, and neither the windows' ends nor the owed vector touches a die or a stack. -/
theorem idleStepAdvancesTheClocks : Obligations.IdleStepAdvancesTheClocks := by
  unfold Obligations.IdleStepAdvancesTheClocks
  intro s idle
  refine ⟨s.withReach (tick s.reach), by rw [step, idle], idle, rfl, rfl, fun attended => ?_⟩
  obtain ⟨l, ticked⟩ := tick_idle s attended
  obtain ⟨⟨v, w, p, shape⟩, die, stack⟩ := s.chip.ticked_effect
  rw [ticked]
  generalize s.chip.ticked = u at *
  subst shape
  refine ⟨fun d => ?_, fun k => ?_, rfl, rfl⟩
  · obtain ⟨n, lo, hi, counted⟩ := Die.tick_within (Config.freeChoice (s.chip.free + d.val)) (s.chip.die d)
    exact ⟨n, lo, hi, (die d).trans counted⟩
  · obtain ⟨n, lo, hi, counted⟩ := Stack.tick_within (Config.freeChoice (s.chip.free + (8 + k.val))) (s.chip.stack k)
    exact ⟨n, lo, hi, (stack k).trans counted⟩

end Sys2Proof.Machine
end

section
/-! Counted events of clusters and cores, and the records they emit (R463, R466, R470, R477). -/

namespace Sys2Proof.Machine

open Host

/-! ## Records -/

/-- What a record, and a freeze that it starts, may change. -/
def Chip.withRecords (v : Table DieId Die × Table HartId Hart × Table StackId Stack × Table PortId Port × HostLink × Table DomeId TraceUnit) (s : Chip) : Chip :=
  { s with dies := v.1, harts := v.2.1, stk := v.2.2.1, ports := v.2.2.2.1, link := v.2.2.2.2.1, traces := v.2.2.2.2.2 }

theorem Chip.withRecords_cluster (v : Table DieId Die × Table HartId Hart × Table StackId Stack × Table PortId Port × HostLink × Table DomeId TraceUnit) (s : Chip) :
    (s.withRecords v).cluster = s.cluster := rfl

theorem Chip.emit_records (s : Chip) (d : DieId) (dome : DomeId) (source : Nat) (r : TraceRec) : ∃ v, s.emit d dome source r = s.withRecords v := by
  obtain ⟨dies, harts, stk, ports, link, traces, h⟩ := s.emit_shape d dome source r
  exact ⟨(dies, harts, stk, ports, link, traces), h⟩

theorem Chip.samples_records (s : Chip) (c : ClusterId) (sel : Nat → Word32) (l : List Nat) : ∃ v, s.samples c sel l = s.withRecords v := by
  have stay (u : Chip) : ∃ v, u = u.withRecords v := ⟨(u.dies, u.harts, u.stk, u.ports, u.link, u.traces), rfl⟩
  rw [Chip.samples]
  split
  · exact stay s
  · exact foldl_replaces Chip.withRecords stay (fun _ _ _ => rfl) (fun u _ => u.emit_records ..) _ s

/-- A Coelostat that is not armed starts no freeze (R477). -/
theorem Chip.trigger_unarmed {s : Chip} {d : DieId} (h : (s.die d).coel.armed = false) (source kind : Nat) (code : BitVec 16) :
    s.trigger d source kind code = s := by
  simp [Chip.trigger, h]

/-- With the Coelostat not armed, a record changes its trace unit alone. -/
theorem Chip.emit_unarmed {s : Chip} {d : DieId} (h : (s.die d).coel.armed = false) (dome : DomeId) (source : Nat) (r : TraceRec) :
    ∃ v, s.emit d dome source r = { s with traces := v } := by
  rw [Chip.emit]
  dsimp only
  split
  · exact ⟨s.traces, rfl⟩
  · split
    · exact ⟨_, Chip.trigger_unarmed (s := s.updTrace dome _) h ..⟩
    · exact ⟨_, rfl⟩

theorem Chip.samples_unarmed {s : Chip} {c : ClusterId} (h : (s.die c.die).coel.armed = false) (sel : Nat → Word32) (l : List Nat) :
    ∃ v, s.samples c sel l = { s with traces := v } := by
  rw [Chip.samples]
  split
  · exact ⟨s.traces, rfl⟩
  · refine List.foldlRecOn (motive := fun u : Chip => ∃ v, u = { s with traces := v }) _ _ ⟨s.traces, rfl⟩ ?_
    rintro u ⟨v, rfl⟩ i -
    obtain ⟨w, e⟩ := Chip.emit_unarmed (s := { s with traces := v }) (d := c.die) h ..
    exact ⟨w, e⟩

/-! ## Events -/

/-- A cluster's event leaves memories, objects and cores, and of the cluster's registers all but overflow bits, whatever freeze its records start. -/
theorem Chip.clusterEvent_frame (s : Chip) (c : ClusterId) (event amount : Nat) :
    (s.clusterEvent c event amount).stores = s.stores ∧ (s.clusterEvent c event amount).objs = s.objs ∧ (s.clusterEvent c event amount).core = s.core ∧
      ∃ o, (s.clusterEvent c event amount).cluster c = { s.cluster c with ovf := o } := by
  rw [Chip.clusterEvent]
  obtain ⟨v, e⟩ := Chip.samples_records _ _ _ _
  rw [e, Chip.withRecords_cluster, Chip.updCluster_cluster_same]
  exact ⟨rfl, rfl, rfl, _, rfl⟩

/-- Counters without an event selected count nothing. -/
theorem countEvent_unselected (n : Nat) {sel : Nat → Word32} (none_ : ∀ i, sel i = 0) (event cls amount : Nat) (words : Table Nat Word32) :
    countEvent n sel event cls amount words = (words, []) := by
  refine List.foldl_fixed' (fun i => ?_) _
  simp [none_]

/-- An event that no counter of the cluster selects leaves every cluster's registers, and everything outside its counters' head. -/
theorem Chip.clusterEvent_unselected {s : Chip} {c : ClusterId} (none_ : ∀ i, Table.read 0 (s.cluster c).sels i = 0) (event amount : Nat) :
    ∃ h k, s.clusterEvent c event amount = { s with heads := h, clusters := k } ∧ (s.clusterEvent c event amount).cluster = s.cluster := by
  have counted := countEvent_unselected 16 (sel := fun i => Table.read 0 (s.cluster c).sels (clip 16 i)) (fun i => none_ _) event 0 amount
    (s.head (.perf (.cluster c))).counters
  have unsampled (u : Chip) (sel : Nat → Word32) : u.samples c sel [] = u := by
    rw [Chip.samples]
    split <;> rfl
  rw [Chip.clusterEvent]
  simp only [counted, unsampled]
  refine ⟨_, _, rfl, funext fun j => ?_⟩
  rw [Chip.updCluster_cluster]
  split
  next h => subst h; simp [ovfBits]
  next => rfl

/-! ## What events and engines at rest leave -/

/-- From s to u, a cluster's counters have counted: no die, memory or core has changed, and of the cluster's registers only overflow bits. -/
structure Chip.Counted (c : ClusterId) (s u : Chip) : Prop where
  dies : u.dies = s.dies
  stores : u.stores = s.stores
  cores : u.core = s.core
  cluster : ∃ o p, u.cluster c = { s.cluster c with ovf := o, coreOvf := p }

section
variable {c : ClusterId} {s u v : Chip}

theorem Chip.Counted.refl (c : ClusterId) (s : Chip) : Chip.Counted c s s := ⟨rfl, rfl, rfl, _, _, rfl⟩

theorem Chip.Counted.trans (h : Chip.Counted c s u) (g : Chip.Counted c u v) : Chip.Counted c s v := by
  obtain ⟨o, p, cluster⟩ := h.cluster
  obtain ⟨o', p', cluster'⟩ := g.cluster
  exact ⟨g.dies.trans h.dies, g.stores.trans h.stores, g.cores.trans h.cores, o', p', by rw [cluster', cluster]⟩

theorem Chip.Counted.die (h : Chip.Counted c s u) : u.die = s.die := funext fun d => by rw [Chip.die, h.dies, ← Chip.die]

theorem Chip.Counted.frozen (h : Chip.Counted c s u) : u.frozen = s.frozen := Chip.frozen_congr (fun d => by rw [h.die])

/-- Counted events one after another. -/
theorem Chip.Counted.foldl {α : Type} {f : Chip → α → Chip} (l : List α) (step : ∀ v, Chip.Counted c s v → ∀ a ∈ l, Chip.Counted c v (f v a)) :
    Chip.Counted c s (l.foldl f s) :=
  List.foldlRecOn (motive := fun v => Chip.Counted c s v) l f (Chip.Counted.refl c s) (fun v hv a ha => hv.trans (step v hv a ha))

/-- A core that is written as it was. -/
theorem Chip.updCore_counted {k : CoreId} {f : Core → Core} (h : f (s.core k) = s.core k) : Chip.Counted c s (s.updCore k f) := by
  refine ⟨rfl, rfl, funext fun j => ?_, _, _, rfl⟩
  rw [Chip.updCore_core]
  split
  next e => rw [e, h]
  next => rfl

theorem Chip.updHead_counted (b : Block) (f : Head → Head) : Chip.Counted c s (s.updHead b f) := ⟨rfl, rfl, rfl, _, _, rfl⟩

theorem Chip.updCluster_counted {f : Cluster → Cluster} (h : ∃ o p, f (s.cluster c) = { s.cluster c with ovf := o, coreOvf := p }) :
    Chip.Counted c s (s.updCluster c f) := by
  obtain ⟨o, p, e⟩ := h
  exact ⟨rfl, rfl, rfl, o, p, (Chip.updCluster_cluster_same _ _ _).trans e⟩

theorem Chip.samples_counted (h : (s.die c.die).coel.armed = false) (sel : Nat → Word32) (l : List Nat) : Chip.Counted c s (s.samples c sel l) := by
  obtain ⟨v, e⟩ := Chip.samples_unarmed h sel l
  rw [e]
  exact ⟨rfl, rfl, rfl, _, _, rfl⟩

theorem Chip.clusterEvent_counted (h : (s.die c.die).coel.armed = false) (event amount : Nat) : Chip.Counted c s (s.clusterEvent c event amount) := by
  rw [Chip.clusterEvent]
  refine .trans (.trans (Chip.updHead_counted _ _) (Chip.updCluster_counted ⟨_, _, rfl⟩)) (Chip.samples_counted ?_ _ _)
  exact h

theorem clusterOf_coreOf (c : ClusterId) (i : Fin 32) : clusterOf (coreOf c i) = c := by
  have idx : (c.idx.val * 32 + i.val) / 32 = c.idx.val := by omega
  simp only [clusterOf, coreOf, idx]

theorem Chip.coreEvent_counted (h : (s.die c.die).coel.armed = false) (i : Fin 32) (event amount : Nat) :
    Chip.Counted c s (s.coreEvent (coreOf c i) event amount) := by
  rw [Chip.coreEvent, clusterOf_coreOf]
  dsimp only
  split
  · exact Chip.updHead_counted _ _
  · refine .trans (.trans (.trans (Chip.updHead_counted _ _) (Chip.updHead_counted _ _)) (Chip.updCluster_counted ⟨_, _, rfl⟩)) (Chip.samples_counted ?_ _ _)
    exact h

end

end Sys2Proof.Machine
end

section
/-! Waits and signals of a cluster's sequencer (R34, R116, R117, R278, R279). -/

namespace Sys2Proof.Machine

open Host

/-! ## The instruction of the current beat -/

theorem current_of_ready {s : State} {c : ClusterId} {opc : Nat} {w : Word64} (h : SeqReady s c opc w) : s.chip.current c opc = some w := by
  obtain ⟨up, running, stop, phase, word, opcode, -⟩ := h
  simp [Chip.current, clusterLive_of_up up, Cluster.mayExecute, running, stop, phase, word, opcode]

/-- A state whose clusters alone one update has changed. -/
theorem onlyCluster_updCluster (s : State) (c : ClusterId) (f : Cluster → Cluster) : OnlyCluster c s { s with chip := s.chip.updCluster c f } :=
  ⟨rfl, fun _ h => Chip.updCluster_cluster_other _ _ _ _ h⟩

/-! ## Readings (R116) -/

theorem clip_val (n : Nat) [NeZero n] (i : Fin n) : clip n i.val = i := Fin.ofNat_val_eq_self i

/-- A granted reading, which meets its target or does not. -/
theorem Chip.waitReading_granted {s : Chip} {c : ClusterId} {n : Fin 4096} (goal : Word64)
    (granted : s.objRefusal (whoOf (.sequencer c)) (.die c.die n) false none = none) (clear : (s.sync (unitOf (.die c.die n))).clearBusy = false) :
    s.waitReading c n.val goal = (s, .ok (decide (goal.toNat ≤ (s.obj (.die c.die n)).count.toNat))) := by
  simp [Chip.waitReading, Chip.objReadOp, clip_val, granted, clear]

/-- A register and an immediate that add up to an object's number. -/
theorem sum_immZ_toNat {a : Word64} {w : Word64} {n : Nat} (sum : a.toNat + (w.extractLsb' 0 32).toNat = n) (h : n < 2 ^ 64) : (a + immZ w).toNat = n := by
  have imm : (immZ w).toNat = (w.extractLsb' 0 32).toNat := by
    rw [immZ, BitVec.toNat_setWidth, Nat.mod_eq_of_lt]
    exact (w.extractLsb' 0 32).isLt.trans (by norm_num)
  rw [BitVec.toNat_add, imm, sum, Nat.mod_eq_of_lt h]

section
variable {s : State} {c : ClusterId} {w : Word64} {n : Fin 4096}

/-- WAIT: its beat reads the object once (R116). -/
theorem waitInstr_reads (ready : SeqReady s c 0x50 w) (scope : fnOf w % 8 ≤ 4)
    (named : ((s.chip.cluster c).s (rs1Of w)).toNat + (w.extractLsb' 0 32).toNat = n.val)
    (granted : s.chip.objRefusal (whoOf (.sequencer c)) (.die c.die n) false none = none) (clear : (s.chip.sync (unitOf (.die c.die n))).clearBusy = false) :
    s.chip.waitInstr c = s.chip.updCluster c (fun y =>
      if ((s.chip.cluster c).s (rs2Of w)).toNat ≤ (s.chip.obj (.die c.die n)).count.toNat then y.retireAt y.pc none
      else { y with phase := .waiting y.pc n.val (y.s (rs2Of w)) true }) := by
  have number := sum_immZ_toNat named (n.isLt.trans (by norm_num))
  have unreserved : reservedSet w = false := ready.2.2.2.2.2.2
  have inside : ¬ 5 ≤ fnOf w % 8 := by omega
  have known : ¬ 4095 < n.val := by omega
  simp only [Chip.waitInstr, current_of_ready ready, unreserved, inside, number, known, Bool.false_eq_true, if_false, Chip.waitReading_granted _ granted clear]
  by_cases met : ((s.chip.cluster c).s (rs2Of w)).toNat ≤ (s.chip.obj (.die c.die n)).count.toNat
  · simp only [met, decide_true, if_true]
  · simp only [met, decide_false, if_false]

/-- WAIT_SATISFIED in a later beat: the wait ends when the reading meets the target (R116). -/
theorem waitAgain_reads {last : Nat} {goal : Word64} (up : ClusterUp s c) (waits : (s.chip.cluster c).phase = .waiting last n.val goal false)
    (granted : s.chip.objRefusal (whoOf (.sequencer c)) (.die c.die n) false none = none) (clear : (s.chip.sync (unitOf (.die c.die n))).clearBusy = false) :
    s.chip.waitAgain c = if goal.toNat ≤ (s.chip.obj (.die c.die n)).count.toNat then s.chip.updCluster c (fun y => { y with phase := .retire last none })
      else s.chip := by
  simp only [Chip.waitAgain, clusterLive_of_up up, waits, Chip.waitReading_granted _ granted clear, Bool.true_eq_false, if_false]
  by_cases met : goal.toNat ≤ (s.chip.obj (.die c.die n)).count.toNat
  · simp only [met, decide_true, if_true]
  · simp only [met, decide_false, if_false]

/-- In the wait's own beat nothing is read again (R116). -/
theorem waitAgain_first {last : Nat} {obj : Nat} {goal : Word64} (waits : (s.chip.cluster c).phase = .waiting last obj goal true) : s.chip.waitAgain c = s.chip := by
  simp [Chip.waitAgain, waits]

end

/-! ## Objects by global address (R51, R117, R275) -/

theorem place_objAddr (o : ObjId) : place (objAddr o) = .obj o 0 := by
  cases o with
  | die d n =>
    have number : (d.val * 2 ^ 16 + n.val * 16) / 16 % 4096 = n.val := by omega
    have die : (d.val * 2 ^ 16 + n.val * 16) / 2 ^ 16 % 8 = d.val := by omega
    have off : 0x300000000000 + d.val * 2 ^ 16 + n.val * 16 - 0x300000000000 = d.val * 2 ^ 16 + n.val * 16 := by omega
    rw [objAddr, place, if_neg (by omega), if_neg (by omega), if_neg (by omega), if_neg (by omega), if_pos (by omega), off]
    simp only [clip, Fin.ofNat, number, die, Place.obj.injEq, true_and]
    omega
  | stack t n =>
    have number : (t.val * 2 ^ 13 + n.val * 16) % 8192 / 16 % 256 = n.val := by omega
    have stack : (t.val * 2 ^ 13 + n.val * 16) / 8192 % 32 = t.val := by omega
    have off : 0x300000080000 + t.val * 2 ^ 13 + n.val * 16 - 0x300000080000 = t.val * 2 ^ 13 + n.val * 16 := by omega
    rw [objAddr, place, if_neg (by omega), if_neg (by omega), if_neg (by omega), if_neg (by omega), if_neg (by omega), if_pos (by omega), off]
    simp only [if_pos (show (t.val * 2 ^ 13 + n.val * 16) % 8192 < 4096 by omega), clip, Fin.ofNat, number, stack, Place.obj.injEq, true_and]
    omega

theorem objAddr_lt (o : ObjId) : objAddr o < 2 ^ 52 := by
  cases o <;> simp only [objAddr] <;> omega

theorem localOf_selfAddr {a : Nat} (h : a < 2 ^ 52) : localOf (selfAddr a) = a := by
  have e : (selfAddr a).extractLsb' 0 52 = BitVec.ofNat 52 a := by
    rw [selfAddr, BitVec.extractLsb'_append_eq_right]
  rw [localOf, e, BitVec.toNat_ofNat, Nat.mod_eq_of_lt h]

theorem Chip.isLocal_selfAddr (s : Chip) (a : Nat) : s.isLocal (selfAddr a) = true := by
  have e : moduleOf (selfAddr a) = 0xFFF#12 := by
    rw [moduleOf, selfAddr, BitVec.extractLsb'_append_eq_left]
  simp [Chip.isLocal, e]

/-- A module's own address of an object names the object. -/
theorem Chip.signalTarget_own (s : Chip) (o : ObjId) : s.signalTarget (selfAddr (objAddr o)) = .ok (some o) := by
  simp [Chip.signalTarget, localOf_selfAddr (objAddr_lt o), place_objAddr, s.isLocal_selfAddr]

/-! ## SIGNAL (R117, R276, R280) -/

/-- What an operation on an object may change: objects, the SYNC blocks, and stacks whose runs its doorbell makes pending. -/
def Chip.withObjects (v : Table ObjId SyncObj × Table SyncUnit SyncBlock × Table StackId Stack) (s : Chip) : Chip :=
  { s with objs := v.1, syncs := v.2.1, stk := v.2.2 }

/-- A notification leaves every object's count, and every other object. -/
theorem Chip.notify_effect (s : Chip) (o : ObjId) :
    (∃ v, s.notify o = s.withObjects v) ∧ ((s.notify o).obj o).count = (s.obj o).count ∧ ∀ p, p ≠ o → (s.notify o).obj p = s.obj p := by
  rw [Chip.notify]
  split
  · exact ⟨⟨(s.objs, _, s.stk), rfl⟩, rfl, fun _ _ => rfl⟩
  · exact ⟨⟨(_, s.syncs, s.stk), rfl⟩, by rw [Chip.updObj_obj_same], fun _ hp => Chip.updObj_obj_other _ _ _ _ hp⟩

theorem Chip.noteCheck_effect (s : Chip) (o : ObjId) :
    (∃ v, s.noteCheck o = s.withObjects v) ∧ ((s.noteCheck o).obj o).count = (s.obj o).count ∧ ∀ p, p ≠ o → (s.noteCheck o).obj p = s.obj p := by
  rw [Chip.noteCheck]
  split
  · obtain ⟨⟨v, shape⟩, count, others⟩ := (s.updObj o (fun x => { x with arm := false })).notify_effect o
    exact ⟨⟨v, shape⟩, by rw [count, Chip.updObj_obj_same], fun p hp => (others p hp).trans (Chip.updObj_obj_other _ _ _ _ hp)⟩
  · exact ⟨⟨(s.objs, s.syncs, s.stk), rfl⟩, rfl, fun _ _ => rfl⟩

/-- A doorbell touches its stack's queue of runs alone. -/
theorem Chip.doorbell_shape (s : Chip) (o : ObjId) : ∃ k, s.doorbell o = { s with stk := k } := by
  cases o with
  | die d n => exact ⟨s.stk, rfl⟩
  | stack t n => exact ⟨_, rfl⟩

/-- A SIGNAL adds to its object's count, modulo 2^64, and to no other object's. -/
theorem Chip.signal_effect (s : Chip) (o : ObjId) (v : Word64) (scope : Option (BitVec 3)) :
    (∃ x, s.applyObj o (.signal v scope) = s.withObjects x) ∧ ((s.applyObj o (.signal v scope)).obj o).count = (s.obj o).count + v ∧
      ∀ p, p ≠ o → (s.applyObj o (.signal v scope)).obj p = s.obj p := by
  obtain ⟨⟨x, noted⟩, count, others⟩ := (s.updObj o (fun y => { y with count := y.count + v })).noteCheck_effect o
  rw [Chip.updObj_obj_same] at count
  have signalled : s.applyObj o (.signal v scope) = ((s.updObj o (fun y => { y with count := y.count + v })).noteCheck o).doorbell o := rfl
  generalize (s.updObj o (fun y => { y with count := y.count + v })).noteCheck o = u at *
  obtain ⟨k, rung⟩ := u.doorbell_shape o
  rw [signalled, rung]
  exact ⟨⟨(x.1, x.2.1, k), by rw [noted]; rfl⟩, count, fun p hp => (others p hp).trans (Chip.updObj_obj_other _ _ _ _ hp)⟩

theorem Chip.objOp_granted {s : Chip} {a : Who} {o : ObjId} {v : Word64} {scope : BitVec 3} (granted : s.objRefusal a o true (some scope) = none)
    (clear : (s.sync (unitOf o)).clearBusy = false) :
    s.objOp a o (.signal v (some scope)) = (s.applyObj o (.signal v (some scope)), { count := (s.obj o).count, notify := (s.obj o).word8 }) := by
  unfold Chip.objOp
  dsimp only
  rw [granted, clear]
  rfl

/-- What decides on a sequencer's operation on an object: dies, stacks, objects and its cluster's dome. -/
theorem Chip.objRefusal_congr {s : Chip} {h : Table Block Head} {k : Table ClusterId Cluster} {c : ClusterId}
    (clusters : Chip.cluster { s with heads := h, clusters := k } = s.cluster) (o : ObjId) (signal : Bool) (scope : Option (BitVec 3)) :
    Chip.objRefusal { s with heads := h, clusters := k } (whoOf (.sequencer c)) o signal scope = s.objRefusal (whoOf (.sequencer c)) o signal scope := by
  have dome : Chip.domeOf { s with heads := h, clusters := k } (.sequencer c) = s.domeOf (.sequencer c) := by
    rw [Chip.domeOf, Chip.domeOf, clusters]
  have grants : Chip.objGrants { s with heads := h, clusters := k } (.sequencer c) o signal = s.objGrants (.sequencer c) o signal :=
    congrArg (fun m => (s.obj o).assigned && decide (m = some (clip 16 (s.obj o).dome.toNat))) dome
  unfold Chip.objRefusal
  rw [show (whoOf (.sequencer c)).agent = .sequencer c from rfl, grants]
  rfl

/-- SEQ_SIGNAL at a granted object: the event that no counter counts, the release, and the end of the instruction with its beat. -/
theorem signalInstr_granted {s : State} {c : ClusterId} {w : Word64} {o : ObjId} (ready : SeqReady s c 0x51 w) (scope : fnOf w % 8 ≤ 4)
    (named : (s.chip.cluster c).s (rs1Of w) = selfAddr (objAddr o)) (uncounted : ∀ i, Table.read 0 (s.chip.cluster c).sels i = 0)
    (unmarked : s.chip.markerPending c = none) (clear : (s.chip.sync (unitOf o)).clearBusy = false)
    (granted : s.chip.objRefusal (whoOf (.sequencer c)) o true (some (BitVec.ofNat 3 (fnOf w))) = none) :
    ∃ h k, Chip.cluster { s.chip with heads := h, clusters := k } = s.chip.cluster ∧
      s.chip.signalInstr c = (Chip.applyObj { s.chip with heads := h, clusters := k } o (.signal (immZ w) (some (BitVec.ofNat 3 (fnOf w))))).updCluster c
        (fun y => y.retireAt y.pc none) := by
  obtain ⟨h, k, event, clusters⟩ := Chip.clusterEvent_unselected uncounted 6 1
  rw [event] at clusters
  refine ⟨h, k, clusters, ?_⟩
  have unreserved : reservedSet w = false := ready.2.2.2.2.2.2
  have inside : ¬ 5 ≤ fnOf w % 8 := by omega
  have still : Chip.markerPending { s.chip with heads := h, clusters := k } c = none := by
    rw [Chip.markerPending, clusters]
    exact unmarked
  have may := (Chip.objRefusal_congr clusters o true (some (BitVec.ofNat 3 (fnOf w)))).trans granted
  have release : s.chip.clusterRelease c (.sequencer c) 0 (selfAddr (objAddr o)) (immZ w) (BitVec.ofNat 3 (fnOf w)) (.sequencer c) =
      (Chip.applyObj { s.chip with heads := h, clusters := k } o (.signal (immZ w) (some (BitVec.ofNat 3 (fnOf w)))), none) := by
    simp only [Chip.clusterRelease, event, still, Chip.release, Chip.signalTarget_own]
    exact congrArg (fun r : Chip × ObjAnswer => (r.1, r.2.fault)) (Chip.objOp_granted may clear)
  simp only [Chip.signalInstr, current_of_ready ready, unreserved, inside, named, Chip.signalTarget_own, release, Bool.false_eq_true, if_false]

/-! ## The statement -/

theorem waits_end_at_their_count (s : State) (c : ClusterId) (w : Word64) (n : Fin 4096) :
    let x := s.chip.cluster c
    let o : ObjId := .die c.die n
    let goal := x.s (rs2Of w)
    (SeqReady s c 0x50 w → fnOf w % 8 ≤ 4 → (x.s (rs1Of w)).toNat + (w.extractLsb' 0 32).toNat = n.val →
      s.chip.objRefusal (whoOf (.sequencer c)) o false none = none → (s.chip.sync (unitOf o)).clearBusy = false →
      ∃ t, Runs (.wait c) s t ∧ OnlyCluster c s t ∧
        (goal.toNat ≤ (s.chip.obj o).count.toNat → t.chip.cluster c = { x with phase := .retire x.pc none }) ∧
        ((s.chip.obj o).count.toNat < goal.toNat → t.chip.cluster c = { x with phase := .waiting x.pc n.val goal true })) ∧
    (∀ last g, x.phase = .waiting last n.val g true → Runs (.waitSatisfied c) s s) ∧
    (∀ last g, ClusterUp s c → x.phase = .waiting last n.val g false →
      s.chip.objRefusal (whoOf (.sequencer c)) o false none = none → (s.chip.sync (unitOf o)).clearBusy = false →
      ∃ t, Runs (.waitSatisfied c) s t ∧ OnlyCluster c s t ∧
        (g.toNat ≤ (s.chip.obj o).count.toNat → t.chip.cluster c = { x with phase := .retire last none }) ∧
        ((s.chip.obj o).count.toNat < g.toNat → t = s)) := by
  intro x o goal
  refine ⟨fun ready scope named granted clear => ?_, fun last g waits => ?_, fun last g up waits granted clear => ?_⟩
  · refine ⟨_, onChip_next _ _, ?_⟩
    rw [waitInstr_reads ready scope named granted clear]
    refine ⟨onlyCluster_updCluster s c _, fun met => ?_, fun unmet => ?_⟩
    · exact (Chip.updCluster_cluster_same _ _ _).trans (if_pos met)
    · exact (Chip.updCluster_cluster_same _ _ _).trans (if_neg (Nat.not_le.mpr unmet))
  · exact (onChip_next _ _).trans (by rw [waitAgain_first waits])
  · refine ⟨_, onChip_next _ _, ?_⟩
    rw [waitAgain_reads up waits granted clear]
    by_cases met : g.toNat ≤ (s.chip.obj o).count.toNat
    · rw [if_pos met]
      exact ⟨onlyCluster_updCluster s c _, fun _ => Chip.updCluster_cluster_same _ _ _, fun unmet => absurd met (Nat.not_le.mpr unmet)⟩
    · rw [if_neg met]
      exact ⟨⟨rfl, fun _ _ => rfl⟩, fun h => absurd h met, fun _ => rfl⟩

/-- Settles O7: WAIT and WAIT_SATISFIED are one granted reading each; SIGNAL is an event that nothing counts and one operation on its object. -/
theorem waitsAndSignals : Obligations.WaitsAndSignals := by
  unfold Obligations.WaitsAndSignals
  refine ⟨waits_end_at_their_count, fun s c w o => ?_⟩
  intro x sc ready scope named _ uncounted unmarked clear granted
  obtain ⟨h, k, clusters, signalled⟩ := signalInstr_granted ready scope named uncounted unmarked clear granted
  obtain ⟨⟨v, shape⟩, count, others⟩ := Chip.signal_effect { s.chip with heads := h, clusters := k } o (immZ w) (some sc)
  refine ⟨_, onChip_next _ _, ?_⟩
  rw [signalled]
  refine ⟨?_, ?_, ?_, others⟩
  · rw [shape]
    exact ⟨rfl, rfl, rfl, rfl⟩
  · have same : (Chip.withObjects v { s.chip with heads := h, clusters := k }).cluster c = x := congrFun clusters c
    refine (Chip.updCluster_cluster_same _ _ _).trans ?_
    rw [shape, same]
    rfl
  · refine count.trans (congrArg _ ?_)
    rw [immZ, ← BitVec.ofNat_toNat]

end Sys2Proof.Machine
end

section
/-! ISSUE of a packet that no check refuses (R102 to R104, R112). -/

namespace Sys2Proof.Machine

open Host

/-! ## The queues of the selected cores -/

theorem coreOf_injective (c : ClusterId) {i j : Fin 32} (h : coreOf c i = coreOf c j) : i = j := by
  simp only [coreOf, CoreId.mk.injEq, Fin.mk.injEq, true_and] at h
  exact Fin.ext (by omega)

theorem mem_selectedCores (x : Cluster) (all : Bool) (i : Fin 32) : i ∈ selectedCores x all ↔ all = true ∨ x.bmask.getLsbD i.val = true := by
  simp [selectedCores]

/-- A core whose queue of an engine has gained a command. -/
def Core.presented (k : Core) (e : EngineKind) (cmd : EngineCmd) : Core := k.setQueue e { k.queue e with waiting := (k.queue e).waiting ++ [cmd] }

theorem Core.queue_setQueue (k : Core) (e g : EngineKind) (q : EngineQueue) : (k.setQueue e q).queue g = if g = e then q else k.queue g := by
  cases e <;> cases g <;> rfl

theorem Core.presented_queue (k : Core) (e g : EngineKind) (cmd : EngineCmd) :
    ((k.presented e cmd).queue g).running = (k.queue g).running ∧
    ((k.presented e cmd).queue g).waiting = (k.queue g).waiting ++ if g = e then [cmd] else [] := by
  rw [Core.presented, Core.queue_setQueue]
  split
  next h => subst h; exact ⟨rfl, rfl⟩
  next => exact ⟨rfl, (List.append_nil _).symm⟩

/-- The command joins the queue of each selected core. -/
def Chip.presentTo (s : Chip) (c : ClusterId) (l : List (Fin 32)) (e : EngineKind) (cmd : EngineCmd) : Chip :=
  l.foldl (fun s i => s.updCore (coreOf c i) (fun k => k.presented e cmd)) s

theorem Chip.presentTo_shape (s : Chip) (c : ClusterId) (l : List (Fin 32)) (e : EngineKind) (cmd : EngineCmd) :
    ∃ v, s.presentTo c l e cmd = { s with cores := v } :=
  foldl_replaces (fun (v : Table CoreId Core) (s : Chip) => { s with cores := v }) (fun s => ⟨s.cores, rfl⟩) (fun _ _ _ => rfl) (fun _ _ => ⟨_, rfl⟩) l s

theorem Chip.presentTo_core (s : Chip) (c : ClusterId) {l : List (Fin 32)} (once : l.Nodup) (e : EngineKind) (cmd : EngineCmd) (i : Fin 32) :
    (s.presentTo c l e cmd).core (coreOf c i) = if i ∈ l then (s.core (coreOf c i)).presented e cmd else s.core (coreOf c i) := by
  refine foldl_units (fun (s : Chip) i => s.core (coreOf c i)) (fun _ k => k.presented e cmd) (fun u i j => ?_) once s i
  rw [Chip.updCore_core]
  by_cases h : j = i
  · rw [if_pos (by rw [h]), if_pos h]
  · rw [if_neg (fun same => h (coreOf_injective c same)), if_neg h]

/-! ## ISSUE -/

/-- The selectors of a packet advance address registers alone (R112). -/
theorem Cluster.advance_shape (x : Cluster) (p : BitVec 128) : ∃ a, x.advance p = { x with ads := a } := by
  refine foldl_replaces (fun (a : Table (Fin 3 × Fin 8) AddrReg) (x : Cluster) => { x with ads := a }) (fun x => ⟨x.ads, rfl⟩) (fun _ _ _ => rfl) (fun y r => ?_) _ x
  split
  · exact ⟨_, rfl⟩
  · exact ⟨y.ads, rfl⟩

theorem Chip.updCluster_congr (s : Chip) (c : ClusterId) {f g : Cluster → Cluster} (h : f (s.cluster c) = g (s.cluster c)) :
    s.updCluster c f = s.updCluster c g := by
  rw [Chip.updCluster, Chip.updCluster, h]

/-- A cluster after its ISSUE: the selectors of a packet that reaches a core have advanced, and the packet is the one presented. -/
def Cluster.issued (x : Cluster) (p : BitVec 128) (toSome : Bool) : Cluster :=
  let y := if toSome then x.advance p else x
  { y with phase := .retire (y.pc + 2) none, presented := some (y.pc, pkTag p) }

theorem Cluster.issued_shape (x : Cluster) (p : BitVec 128) (toSome : Bool) :
    ∃ a, x.issued p toSome = { x with ads := a, phase := .retire (x.pc + 2) none, presented := some (x.pc, pkTag p) } ∧ (toSome = false → a = x.ads) := by
  cases toSome with
  | false => exact ⟨x.ads, rfl, fun _ => rfl⟩
  | true =>
    obtain ⟨a, h⟩ := x.advance_shape p
    exact ⟨a, by simp [Cluster.issued, h], fun h => absurd h (by simp)⟩

/-- The command that an ISSUE of a packet presents. -/
def Cluster.command (x : Cluster) (p : BitVec 128) : EngineCmd := ⟨p, x.pc, x.slotAddr p 0, x.slotAddr p 1, x.slotAddr p 2, x.slotAddr p 3, true⟩

theorem issueInstr_unrefused {s : State} {c : ClusterId} {w : Word64} (ready : SeqReady s c 0x60 w) {p : BitVec 128}
    (packet : s.chip.word c ((s.chip.cluster c).pc + 2) ++ s.chip.word c ((s.chip.cluster c).pc + 1) = p) {cores : List (Fin 32)}
    (selected : selectedCores (s.chip.cluster c) (fnOf w % 2 = 1) = cores) (unrefused : s.chip.issueFault c w p cores = none) :
    s.chip.issueInstr c = ((s.chip.presentTo c cores (pkEngine p) ((s.chip.cluster c).command p)).clusterEvent c 4 1).updCluster c
      (fun y => y.issued p (decide (cores ≠ []))) := by
  subst packet selected
  simp only [Chip.issueInstr, current_of_ready ready, unrefused]
  refine Chip.updCluster_congr _ c ?_
  rw [Cluster.issued]
  by_cases h : selectedCores (s.chip.cluster c) (fnOf w % 2 = 1) = [] <;> simp [h]

theorem sameMemory_of_stores {s t : State} (stores : t.chip.stores = s.chip.stores) (host : t.hostMem = s.hostMem) : SameMemory s t := by
  simp only [Chip.stores, Prod.mk.injEq] at stores
  exact ⟨stores.1, stores.2.1, stores.2.2, host⟩

theorem issue_presents (s : State) (c : ClusterId) (w : Word64) :
    let x := s.chip.cluster c
    let p : BitVec 128 := s.chip.word c (x.pc + 2) ++ s.chip.word c (x.pc + 1)
    let cores := selectedCores x (fnOf w % 2 = 1)
    SeqReady s c 0x60 w → s.chip.issueFault c w p cores = none →
      ∃ t, Runs (.issue c) s t ∧ SameMemory s t ∧ t.chip.objs = s.chip.objs ∧
        (t.chip.cluster c).phase = .retire (x.pc + 2) none ∧ (t.chip.cluster c).presented = some (x.pc, pkTag p) ∧
        (t.chip.cluster c).regs = x.regs ∧ (t.chip.cluster c).lc = x.lc ∧ (t.chip.cluster c).levels = x.levels ∧ (t.chip.cluster c).bmask = x.bmask ∧
        (cores = [] → (t.chip.cluster c).ads = x.ads) ∧
        ∀ i : Fin 32, ∀ e : EngineKind,
          ((t.chip.core (coreOf c i)).queue e).running = ((s.chip.core (coreOf c i)).queue e).running ∧
          ((t.chip.core (coreOf c i)).queue e).waiting = ((s.chip.core (coreOf c i)).queue e).waiting ++
            (if e = pkEngine p ∧ (fnOf w % 2 = 1 ∨ x.bmask.getLsbD i.val = true) then
              [⟨p, x.pc, x.slotAddr p 0, x.slotAddr p 1, x.slotAddr p 2, x.slotAddr p 3, true⟩] else []) := by
  intro x p cores ready unrefused
  have once : cores.Nodup := (List.nodup_finRange 32).filter _
  have queues := s.chip.presentTo_core c once (pkEngine p) (x.command p)
  obtain ⟨v, joined⟩ := s.chip.presentTo_shape c cores (pkEngine p) (x.command p)
  have issued := issueInstr_unrefused ready (p := p) rfl (cores := cores) rfl unrefused
  change s.chip.issueInstr c = ((s.chip.presentTo c cores (pkEngine p) (x.command p)).clusterEvent c 4 1).updCluster c _ at issued
  generalize s.chip.presentTo c cores (pkEngine p) (x.command p) = u at *
  obtain ⟨stores, objs, core, o, cluster⟩ := u.clusterEvent_frame c 4 1
  generalize u.clusterEvent c 4 1 = z at *
  subst joined
  obtain ⟨a, after, kept⟩ := Cluster.issued_shape { x with ovf := o } p (decide (cores ≠ []))
  have reached : (z.updCluster c (fun y => y.issued p (decide (cores ≠ [])))).cluster c =
      { x with ovf := o, ads := a, phase := .retire (x.pc + 2) none, presented := some (x.pc, pkTag p) } := by
    rw [Chip.updCluster_cluster_same, cluster]
    exact after
  refine ⟨_, onChip_next _ _, ?_⟩
  rw [issued]
  dsimp only
  rw [reached]
  refine ⟨sameMemory_of_stores stores rfl, objs, rfl, rfl, rfl, rfl, rfl, rfl, fun none_ => kept (by simp [none_]), fun i e => ?_⟩
  have selected : i ∈ cores ↔ fnOf w % 2 = 1 ∨ x.bmask.getLsbD i.val = true := by
    rw [mem_selectedCores, decide_eq_true_eq]
  rw [Chip.updCluster_core, core, queues i]
  by_cases h : fnOf w % 2 = 1 ∨ x.bmask.getLsbD i.val = true
  · simp only [if_pos (selected.mpr h), h, and_true]
    exact (s.chip.core (coreOf c i)).presented_queue (pkEngine p) e (x.command p)
  · simp only [if_neg (mt selected.mp h), h, and_false, if_false, List.append_nil, and_self]

end Sys2Proof.Machine
end

section
/-! The beat of a cluster whose engines are at rest, and the empty slots (R30, R31, R35 to R37, R97, R104, R120, R451). -/

namespace Sys2Proof.Machine

open Host

/-! ## Cores at rest -/

/-- A core whose engines are idle with empty queues, and for whose scratchpad no outside access waits. -/
structure Core.AtRest (x : Core) : Prop where
  me : x.me = {}
  ve : x.ve = {}
  de : x.de = {}
  tq : x.tq = {}
  gate : x.gate = []

theorem EngineQueue.eq_empty_of_not_busy {q : EngineQueue} (h : q.busy = false) : q = {} := by
  obtain ⟨running, waiting⟩ := q
  simp only [EngineQueue.busy, Bool.or_eq_false_iff, Option.isSome_eq_false_iff, Option.isNone_iff_eq_none, decide_eq_false_iff_not, ne_eq, not_not] at h
  rw [h.1, h.2]

theorem Core.atRest_of_not_busy {x : Core} (h : x.busy = false) (gate : x.gate = []) : x.AtRest := by
  simp only [Core.busy, Bool.or_eq_false_iff] at h
  obtain ⟨⟨⟨me, ve⟩, de⟩, tq⟩ := h
  exact ⟨EngineQueue.eq_empty_of_not_busy me, EngineQueue.eq_empty_of_not_busy ve, EngineQueue.eq_empty_of_not_busy de, EngineQueue.eq_empty_of_not_busy tq, gate⟩

/-- Every core of a cluster is at rest. -/
def Chip.Resting (s : Chip) (c : ClusterId) : Prop := ∀ i, (s.core (coreOf c i)).AtRest

theorem Chip.resting_of_drained {s : Chip} {c : ClusterId} (drained : s.drained c = true) (gates : ∀ i, (s.core (coreOf c i)).gate = []) : s.Resting c := fun i => by
  have idle := List.all_eq_true.mp drained i (List.mem_finRange i)
  exact Core.atRest_of_not_busy (by simpa using idle) (gates i)

theorem Chip.Counted.resting {c : ClusterId} {s u : Chip} (h : Chip.Counted c s u) (rest : s.Resting c) : u.Resting c := fun i => by
  rw [h.cores]
  exact rest i

/-- An idle engine with an empty queue begins nothing (R104). -/
theorem Core.start_empty {x : Core} {e : EngineKind} (h : x.queue e = {}) : x.start e = x := by
  rw [Core.start, h]

theorem Core.AtRest.startAll {x : Core} (h : x.AtRest) : x.startAll = x := by
  rw [Core.startAll, Core.start_empty (e := .me) h.me, Core.start_empty (e := .ve) h.ve, Core.start_empty (e := .de) h.de, Core.start_empty (e := .tq) h.tq]

theorem Core.AtRest.settleFresh {x : Core} (h : x.AtRest) : x.settleFresh = x := by
  obtain ⟨me, ve, de, tq, -⟩ := h
  cases x
  simp only at me ve de tq
  simp only [Core.settleFresh, me, ve, de, tq, List.map_nil]

theorem Table.write_write {κ α : Type} [DecidableEq κ] (t : Table κ α) (k : κ) (a b : α) : Table.write (Table.write t k a) k b = Table.write t k b := by
  induction t with
  | nil => simp [Table.write]
  | cons e t ih =>
    obtain ⟨j, x⟩ := e
    by_cases h : j = k <;> simp [Table.write, h, ih]

theorem Chip.updCore_updCore (s : Chip) (k : CoreId) (f g : Core → Core) : (s.updCore k f).updCore k g = s.updCore k (fun x => g (f x)) := by
  have e := s.updCore_core_same k f
  rw [Chip.updCore, e]
  simp only [Chip.updCore, Table.write_write]

/-! An engine that runs nothing works on nothing in the beat. -/

theorem Chip.meStep_empty {s : Chip} {k : CoreId} (h : (s.core k).me = {}) (crowd : Bool) : s.meStep k crowd = (s, none, .going) := by rw [Chip.meStep, h]
theorem Chip.deStep_empty {s : Chip} {k : CoreId} (h : (s.core k).de = {}) (crowd : Bool) : s.deStep k crowd = (s, []) := by rw [Chip.deStep, h]
theorem Chip.veBeat_empty {s : Chip} {k : CoreId} (h : (s.core k).ve = {}) (crowd : Bool) : s.veBeat k crowd = (s, []) := by rw [Chip.veBeat, h]
theorem Chip.tqBeat_empty {s : Chip} {k : CoreId} (h : (s.core k).tq = {}) : s.tqBeat k = (s, []) := by rw [Chip.tqBeat, h]

theorem Core.AtRest.accesses {x : Core} (h : x.AtRest) : x.meAccesses = 0 ∧ x.veAccesses = 0 ∧ x.deAccesses = 0 := by
  rw [Core.meAccesses, Core.veAccesses, Core.deAccesses, h.me, h.ve, h.de]
  exact ⟨rfl, rfl, rfl⟩

theorem Chip.coreErrors_nil (s : Chip) (k : CoreId) : s.coreErrors k [] = s := rfl

/-- The beat of a core at rest writes its flags as they were, and finds no fault. -/
theorem Chip.coreBeat_atRest {s : Chip} {k : CoreId} (rest : (s.core k).AtRest) (porthole : Bool) :
    s.coreBeat k porthole = (s.updCore k (fun y => { y with flags := (s.core k).flags }), []) := by
  obtain ⟨meBank, veBank, deBank⟩ := rest.accesses
  obtain ⟨me, ve, de, tq, gate⟩ := rest
  simp [Chip.coreBeat, meBank, veBank, deBank, Chip.meStep_empty, Chip.deStep_empty, Chip.veBeat_empty, Chip.tqBeat_empty, Core.gateReads, Core.gateWrites,
    Chip.coreErrors_nil, Chip.updCore_updCore, me, ve, de, tq, gate]

section
variable {s : Chip} {c : ClusterId}

theorem Chip.startQueues_resting (rest : s.Resting c) : Chip.Counted c s (s.startQueues c) :=
  Chip.Counted.foldl _ (fun _ counted i _ => Chip.updCore_counted (counted.resting rest i).startAll)

theorem Chip.coreBeats_resting (rest : s.Resting c) (porthole : Bool) : ∃ u, s.coreBeats c porthole = (u, []) ∧ Chip.Counted c s u := by
  refine List.foldlRecOn (motive := fun acc : Chip × List (CoreId × EngineError) => ∃ u, acc = (u, []) ∧ Chip.Counted c s u) _ _ ⟨s, rfl, .refl c s⟩ ?_
  rintro _ ⟨u, rfl, counted⟩ i -
  simp only [Chip.coreBeat_atRest (counted.resting rest i), List.map_nil, List.append_nil]
  exact ⟨_, rfl, counted.trans (Chip.updCore_counted rfl)⟩

/-- What follows the sequencer's part of a beat without faults: the packets presented in it settle, and the beat is counted. -/
def Chip.afterBeat (s : Chip) (c : ClusterId) : Chip :=
  let s := (List.finRange 32).foldl (fun s i => s.updCore (coreOf c i) Core.settleFresh) s
  (List.finRange 32).foldl (fun s i => s.coreEvent (coreOf c i) 1 1) (s.clusterEvent c 1 1)

theorem Chip.afterBeat_resting (rest : s.Resting c) (unarmed : (s.die c.die).coel.armed = false) : Chip.Counted c s (s.afterBeat c) := by
  have settled : Chip.Counted c s ((List.finRange 32).foldl (fun s i => s.updCore (coreOf c i) Core.settleFresh) s) :=
    Chip.Counted.foldl _ (fun _ counted i _ => Chip.updCore_counted (counted.resting rest i).settleFresh)
  have counted := settled.trans (Chip.clusterEvent_counted (by rw [settled.die, unarmed]) 1 1)
  exact counted.trans (Chip.Counted.foldl _ (fun v hv i _ => Chip.coreEvent_counted (by rw [(counted.trans hv).die, unarmed]) i 1 1))

/-! ## A hold (R97, R99) -/

/-- A cluster after a beat of a hold: one beat less, or the next word. -/
def Cluster.held (x : Cluster) (last left : Nat) : Cluster :=
  if left ≤ 1 then { x with pc := last + 1, phase := .ready } else { x with phase := .hold last (left - 1) }

theorem Cluster.held_last {x : Cluster} {last left : Nat} (h : left ≤ 1) : x.held last left = { x with pc := last + 1, phase := .ready } := if_pos h

theorem Cluster.held_more {x : Cluster} {last left : Nat} (h : 2 ≤ left) : x.held last left = { x with phase := .hold last (left - 1) } :=
  if_neg (Nat.not_le.mpr h)

theorem Cluster.held_regs (x : Cluster) (last left : Nat) : (x.held last left).regs = x.regs := by
  rw [Cluster.held]
  split <;> rfl

theorem Cluster.endRule_outside {x : Cluster} (h : x.innermost = none) (last n : Nat) : x.endRule last n = { x with pc := last + 1 } := by
  cases n with
  | zero => rfl
  | succ n => rw [Cluster.endRule, h]

theorem Chip.seqEnd_hold {last left : Nat} (holds : (s.cluster c).phase = .hold last left) (inside : last < 32766) (outside : (s.cluster c).innermost = none) :
    s.seqEnd c = s.updCluster c (fun x => x.held last left) := by
  simp only [Chip.seqEnd, holds]
  by_cases ends : left ≤ 1
  · have next : ¬ 32768 ≤ last + 1 := by omega
    simp only [ends, if_true, Cluster.endRule_outside outside, next, if_false]
    exact Chip.updCluster_congr s c (Cluster.held_last ends).symm
  · simp only [ends, if_false]
    exact Chip.updCluster_congr s c (Cluster.held_more (Nat.not_le.mp ends)).symm

/-- During a hold the sequencer executes nothing and reads no object. -/
theorem Chip.runInstr_hold {last left : Nat} (holds : (s.cluster c).phase = .hold last left) : Chip.runInstr c (Chip.waitAtStart c s) = s := by
  simp [Chip.waitAtStart, Chip.runInstr, Cluster.mayExecute, holds]

/-- The beat of a hold with every core at rest: before and after the sequencer's part nothing but counters moves. -/
theorem Chip.beatBody_hold {last left : Nat} (steps : s.stepping c = true) (holds : (s.cluster c).phase = .hold last left) (inside : last < 32766)
    (outside : (s.cluster c).innermost = none) (unarmed : (s.die c.die).coel.armed = false) (rest : s.Resting c) :
    (s.beatBody c).dies = s.dies ∧ (s.beatBody c).stores = s.stores ∧
      ∃ o p, (s.beatBody c).cluster c =
        { (s.cluster c).held last left with beat := (s.cluster c).beat + 1, stepBeats := (s.cluster c).stepBeats + 1, ovf := o, coreOvf := p } := by
  have started := Chip.startQueues_resting rest
  obtain ⟨o₁, p₁, cluster₁⟩ := started.cluster
  have executed := Chip.runInstr_hold (s := s.startQueues c) (c := c) (by rw [cluster₁, holds])
  obtain ⟨u, worked, beaten⟩ := Chip.coreBeats_resting (started.resting rest) (decide (((s.startQueues c).cluster c).beat.toNat % 8 = ((s.startQueues c).cluster c).phPhase.toNat))
  have before := started.trans beaten
  obtain ⟨o₂, p₂, cluster₂⟩ := before.cluster
  have ended : u.seqEnd c = u.updCluster c (fun x => x.held last left) :=
    Chip.seqEnd_hold (by rw [cluster₂, holds]) inside (by rw [cluster₂]; exact outside)
  have after : Chip.Counted c (u.updCluster c (fun x => x.held last left)) ((u.updCluster c (fun x => x.held last left)).afterBeat c) :=
    Chip.afterBeat_resting (before.resting rest) (by rw [Chip.updCluster_die, before.die, unarmed])
  have body : s.beatBody c = ((u.updCluster c (fun x => x.held last left)).afterBeat c).updCluster c
      (fun y => { y with beat := y.beat + 1, stepBeats := y.stepBeats + 1 }) := by
    simp only [Chip.beatBody, steps, if_true, executed, worked, ended]
    rfl
  rw [body]
  obtain ⟨o, p, cluster⟩ := after.cluster
  rw [Chip.updCluster_cluster_same, cluster₂] at cluster
  refine ⟨after.dies.trans before.dies, after.stores.trans before.stores, o, p, ?_⟩
  rw [Chip.updCluster_cluster_same, cluster, Cluster.held, Cluster.held]
  split <;> rfl

end

/-! ## Slots (R36, R37, R451) -/

/-- Work that starts no freeze is not cut (R37). -/
theorem Chip.uncut_unfrozen {s : Chip} {f : Chip → Chip} (h : (f s).frozen = false) : s.uncut f = f s := by
  simp [Chip.uncut, h]

theorem Chip.insertEmpty_undue {s : Chip} {c : ClusterId} (undue : (s.cluster c).dueEmpty (s.die c.die).guider.duty = false) (n : Nat) : s.insertEmpty c n = s := by
  cases n with
  | zero => rfl
  | succ n => simp [Chip.insertEmpty, undue]

/-- At duty 0 no slot is empty. -/
theorem Cluster.dueEmpty_zero {x : Cluster} (first : x.slotNo = 0) : x.dueEmpty 0 = false := by
  simp [Cluster.dueEmpty, Cluster.dutyNow, first]

/-- A cluster's next slot. -/
def Cluster.slotted (x : Cluster) (duty : Nat) : Cluster := { x with slotNo := x.slotNo + 1, groupDuty := BitVec.ofNat 3 (x.dutyNow duty) }

theorem Cluster.held_slotted (x : Cluster) (duty last left : Nat) :
    (x.slotted duty).held last left = { x.held last left with slotNo := (x.slotted duty).slotNo, groupDuty := (x.slotted duty).groupDuty } := by
  rw [Cluster.held, Cluster.held]
  split <;> rfl

theorem Chip.slot_eq (s : Chip) (c : ClusterId) : s.slot c = s.updCluster c (fun x => x.slotted (s.die c.die).guider.duty) := rfl

section
variable {s : State} {c : ClusterId}

theorem stepping_of_running (running : (s.chip.cluster c).running = true) (stop : (s.chip.cluster c).stop = none) : s.chip.stepping c = true := by
  simp [Chip.stepping, running, stop]

theorem beating_of_running (running : (s.chip.cluster c).running = true) (stop : (s.chip.cluster c).stop = none) : s.chip.beating c = true := by
  simp [Chip.beating, stepping_of_running running stop]

/-- A beat with no empty slot due is one slot and the beat's work. -/
theorem Chip.beat_undue (up : ClusterUp s c) (running : (s.chip.cluster c).running = true) (stop : (s.chip.cluster c).stop = none)
    (undue : (s.chip.cluster c).dueEmpty (s.chip.die c.die).guider.duty = false) : s.chip.beat c = (s.chip.slot c).uncut (Chip.beatBody c) := by
  have may : s.chip.mayBeat c = true := by
    simp [Chip.mayBeat, beating_of_running running stop, clusterLive_of_up up]
  simp [Chip.beat, may, Chip.insertEmpty_undue undue, up.1]

/-- A beat of a hold, its engines at rest and no empty slot due. -/
theorem Chip.beat_hold {last left : Nat} (up : ClusterUp s c) (running : (s.chip.cluster c).running = true) (stop : (s.chip.cluster c).stop = none)
    (holds : (s.chip.cluster c).phase = .hold last left) (inside : last < 32766) (outside : (s.chip.cluster c).innermost = none)
    (undue : (s.chip.cluster c).dueEmpty (s.chip.die c.die).guider.duty = false) (unarmed : (s.chip.die c.die).coel.armed = false) (rest : s.chip.Resting c) :
    (s.chip.beat c).stores = s.chip.stores ∧
      ∃ o p n d, (s.chip.beat c).cluster c = { (s.chip.cluster c).held last left with
        beat := (s.chip.cluster c).beat + 1, stepBeats := (s.chip.cluster c).stepBeats + 1, ovf := o, coreOvf := p, slotNo := n, groupDuty := d } := by
  have x : (s.chip.slot c).cluster c = (s.chip.cluster c).slotted (s.chip.die c.die).guider.duty := Chip.updCluster_cluster_same _ _ _
  have steps : (s.chip.slot c).stepping c = true := stepping_of_running (s := { s with chip := s.chip.slot c }) (by rw [x]; exact running) (by rw [x]; exact stop)
  obtain ⟨dies, stores, o, p, cluster⟩ := Chip.beatBody_hold steps (by rw [x]; exact holds) inside (by rw [x]; exact outside) unarmed rest
  have live : ((s.chip.slot c).beatBody c).frozen = false := (Chip.frozen_congr (fun d => by rw [Chip.die, dies]; rfl)).trans up.1
  rw [Chip.beat_undue up running stop undue, Chip.uncut_unfrozen live]
  rw [x, Cluster.held_slotted] at cluster
  exact ⟨stores, o, p, _, _, cluster⟩

/-- A cluster that neither steps nor has an outside access does not beat (R35). -/
theorem Chip.beat_still (running : (s.chip.cluster c).running = false) (gates : ∀ i, (s.chip.core (coreOf c i)).gate = []) : s.chip.beat c = s.chip := by
  have still : s.chip.mayBeat c = false := by
    simp [Chip.mayBeat, Chip.beating, Chip.stepping, running, gates]
  rw [Chip.beat, if_pos still]

/-- An empty slot that is due passes, and is counted as no beat (R36). -/
theorem Chip.emptySlot_due (up : ClusterUp s c) (running : (s.chip.cluster c).running = true) (stop : (s.chip.cluster c).stop = none)
    (due : (s.chip.cluster c).dueEmpty (s.chip.die c.die).guider.duty = true) (unarmed : (s.chip.die c.die).coel.armed = false) :
    (s.chip.emptySlot c).stores = s.chip.stores ∧
      ∃ o p d, (s.chip.emptySlot c).cluster c = { s.chip.cluster c with slotNo := (s.chip.cluster c).slotNo + 1, groupDuty := d, ovf := o, coreOvf := p } := by
  have counted := Chip.clusterEvent_counted (c := c) unarmed 2 1
  have live : ((s.chip.clusterEvent c 2 1).slot c).frozen = false := counted.frozen.trans up.1
  have passed : s.chip.emptySlot c = (s.chip.clusterEvent c 2 1).slot c := by
    rw [Chip.emptySlot, if_neg (by simp [clusterLive_of_up up, beating_of_running running stop]), Chip.insertEmpty, if_pos ⟨up.1, due⟩]
    exact Chip.uncut_unfrozen (f := fun s => (s.clusterEvent c 2 1).slot c) live
  obtain ⟨o, p, cluster⟩ := counted.cluster
  rw [passed, Chip.slot_eq, Chip.updCluster_cluster_same, cluster]
  exact ⟨counted.stores, o, p, _, rfl⟩

end

/-! ## The statement -/

theorem beats_and_empty_slots (s : State) (c : ClusterId) :
    let x := s.chip.cluster c
    (∀ last left, ClusterUp s c → x.running = true → x.stop = none → x.phase = .hold last left → last < 32766 → x.innermost = none →
      (s.chip.die c.die).guider.duty = 0 → x.slotNo = 0 → s.chip.drained c = true → (s.chip.die c.die).coel.armed = false →
      (∀ i, (s.chip.core (coreOf c i)).gate = [] ∧ (s.chip.core (coreOf c i)).job = none) →
      ∃ t, Runs (.beat c) s t ∧ SameMemory s t ∧ (t.chip.cluster c).beat = x.beat + 1 ∧ (t.chip.cluster c).stepBeats = x.stepBeats + 1 ∧
        (t.chip.cluster c).regs = x.regs ∧
        (2 ≤ left → (t.chip.cluster c).phase = .hold last (left - 1) ∧ (t.chip.cluster c).pc = x.pc) ∧
        (left = 1 → (t.chip.cluster c).phase = .ready ∧ (t.chip.cluster c).pc = last + 1)) ∧
    (ClusterUp s c → x.running = false → (∀ i, (s.chip.core (coreOf c i)).gate = []) → Runs (.beat c) s s) ∧
    (ClusterUp s c → x.running = true → x.stop = none → x.dueEmpty (s.chip.die c.die).guider.duty = true →
      (s.chip.die c.die).coel.armed = false →
      ∃ t, Runs (.emptySlot c) s t ∧ SameMemory s t ∧ (t.chip.cluster c).slotNo = x.slotNo + 1 ∧ (t.chip.cluster c).beat = x.beat ∧
        (t.chip.cluster c).pc = x.pc ∧ (t.chip.cluster c).phase = x.phase ∧ (t.chip.cluster c).regs = x.regs) := by
  intro x
  refine ⟨fun last left up running stop holds inside outside duty first drained unarmed gates => ?_, fun _ running gates => ?_,
    fun up running stop due unarmed => ?_⟩
  · have undue : x.dueEmpty (s.chip.die c.die).guider.duty = false := by rw [duty, Cluster.dueEmpty_zero first]
    obtain ⟨stores, o, p, n, d, cluster⟩ :=
      Chip.beat_hold up running stop holds inside outside undue unarmed (Chip.resting_of_drained drained (fun i => (gates i).1))
    refine ⟨_, onChip_next _ _, sameMemory_of_stores stores rfl, ?_⟩
    dsimp only
    rw [cluster]
    exact ⟨rfl, rfl, x.held_regs last left, fun more => by rw [Cluster.held_more more]; exact ⟨rfl, rfl⟩,
      fun one => by rw [Cluster.held_last (Nat.le_of_eq one)]; exact ⟨rfl, rfl⟩⟩
  · exact (onChip_next _ _).trans (by rw [Chip.beat_still running gates])
  · obtain ⟨stores, o, p, d, cluster⟩ := Chip.emptySlot_due up running stop due unarmed
    refine ⟨_, onChip_next _ _, sameMemory_of_stores stores rfl, ?_⟩
    dsimp only
    rw [cluster]
    exact ⟨rfl, rfl, rfl, rfl, rfl⟩

/-- Settles O8: an unrefused ISSUE is one fold over the selected queues, one counted event and one update of its cluster; a beat at rest and an empty slot move counters, the slot and the sequencer's own part. -/
theorem issueAndBeats : Obligations.IssueAndBeats := by
  unfold Obligations.IssueAndBeats
  exact ⟨issue_presents, beats_and_empty_slots⟩

end Sys2Proof.Machine
end

section
/-! Every command completes outside the queue of waiting commands (R66, R71): the meanings as changes that the queue has no part in. -/

namespace Sys2Proof.Machine
open Host

/-! ## Changes that the queue has no part in -/

/-- The state with another queue of waiting commands. -/
def State.requeue (s : State) (q : List Instr) : State := { s with pending := q }

section
variable (s : State) (q : List Instr)
@[simp] theorem State.requeue_chip : (s.requeue q).chip = s.chip := rfl
@[simp] theorem State.requeue_fw : (s.requeue q).fw = s.fw := rfl
@[simp] theorem State.requeue_phot : (s.requeue q).phot = s.phot := rfl
@[simp] theorem State.requeue_fuses : (s.requeue q).fuses = s.fuses := rfl
@[simp] theorem State.requeue_hostMem : (s.requeue q).hostMem = s.hostMem := rfl
@[simp] theorem State.requeue_reach : (s.requeue q).reach = s.reach := rfl
@[simp] theorem State.requeue_withReach (r : Reach) : (s.requeue q).withReach r = (s.withReach r).requeue q := rfl
@[simp] theorem State.requeue_mapChip (f : Chip → Chip) : (s.requeue q).mapChip f = (s.mapChip f).requeue q := rfl
@[simp] theorem State.requeue_mapReach (f : Reach → Reach) : (s.requeue q).mapReach f = (s.mapReach f).requeue q := rfl
end

/-- A change of the state that neither reads nor changes the queue of waiting commands. -/
def QueueFree (f : State → State) : Prop := ∀ s q, f (s.requeue q) = (f s).requeue q

/-- A meaning that answers a next state and leaves the queue alone. -/
def Completes (m : State → Outcome State Fault Refusal) : Prop :=
  ∀ s q, ∃ t, m s = .next t ∧ t.pending = s.pending ∧ m (s.requeue q) = .next (t.requeue q)

namespace QueueFree
variable {f g : State → State}

theorem keeps_pending (free : QueueFree f) (s : State) : (f s).pending = s.pending := by
  have requeued := congrArg State.pending (free s s.pending)
  exact requeued

theorem comp (outer : QueueFree g) (inner : QueueFree f) : QueueFree (fun s => g (f s)) := fun s q => by
  dsimp only
  rw [inner, outer]

/-- A choice by what the queue has no part in. -/
theorem ite {p : State → Prop} [DecidablePred p] (blind : ∀ s q, p (s.requeue q) ↔ p s) (yes : QueueFree f) (no : QueueFree g) :
    QueueFree (fun s => if p s then f s else g s) := fun s q => by
  dsimp only
  rw [apply_ite (State.requeue · q), yes s q, no s q]
  exact if_congr (blind s q) rfl rfl

theorem guarded {p : State → Prop} [DecidablePred p] (blind : ∀ s q, p (s.requeue q) ↔ p s) (free : QueueFree f) :
    QueueFree (fun s => if p s then s else f s) := .ite blind (fun _ _ => rfl) free

theorem whenBit (v : Word32) (n : Nat) (free : QueueFree f) : QueueFree (whenBit v n f) := .ite (fun _ _ => .rfl) free (fun _ _ => rfl)

theorem withReach {r : State → Reach} (blind : ∀ s q, r (s.requeue q) = r s) : QueueFree (fun s => s.withReach (r s)) :=
  fun s q => by
  dsimp only
  rw [blind, State.requeue_withReach]

theorem completes (free : QueueFree f) : Completes (fun s => .next (f s)) :=
  fun s q => ⟨f s, rfl, free.keeps_pending s, congrArg Outcome.next (free s q)⟩

/-- A meaning's own next state. -/
theorem after {m : State → Outcome State Fault Refusal} (done : Completes m) : QueueFree (fun s => s.after (m s)) := fun s q => by
  obtain ⟨t, next, -, requeued⟩ := done s q
  simp only [State.after, next, requeued]

end QueueFree

/-! ## Resets, lockouts and power -/

theorem onFused_completes (f : Fuses → Reach → Reach) : Completes (onFused f) := fun s q => by
  by_cases h : s.chip.frozen = true
  · exact ⟨s, if_pos h, rfl, if_pos h⟩
  · exact ⟨_, if_neg h, rfl, if_neg h⟩

theorem execStepGo_completes (c : ClusterId) : Completes (execStepGo c) := fun _ _ => ⟨_, rfl, rfl, rfl⟩

theorem coldReset_queueFree (b : BringUp) : QueueFree (coldReset b) := .guarded (fun _ _ => .rfl) fun s q => by
  simp only [State.requeue, State.withReach]

theorem warmReset_queueFree (b : BringUp) : QueueFree (warmReset b) := .guarded (fun _ _ => .rfl) fun s q => by
  simp only [State.requeue, State.withReach]

theorem powerUp_queueFree (b : BringUp) : QueueFree (powerUp b) := .guarded (fun _ _ => .rfl) fun s q => by
  simp only [State.requeue, State.withReach, State.reach]

theorem powerDown_queueFree : QueueFree powerDown := .guarded (fun _ _ => .rfl) fun s q => by
  simp only [State.requeue]

theorem lockout_queueFree (over_ : Bool) : QueueFree (lockout over_) := fun s q => by
  simp only [lockout, State.requeue]

theorem svnDone_queueFree (d : DieId) : QueueFree (svnDone d) := .guarded (fun _ _ => .rfl) (.ite (fun _ _ => .rfl) (fun _ _ => rfl) (fun _ _ => rfl))

/-- INPUT_LOCKOUT in the night log of CD0. -/
def State.noteLockout (s : State) : State := { s with chip := s.chip.note 0 2 Code.inputLockout 0 }

theorem lockoutClear_queueFree : QueueFree lockoutClear :=
  .guarded (fun _ _ => .rfl) (.comp (g := State.noteLockout) (fun _ _ => rfl) (.comp (f := State.unlocked) (coldReset_queueFree allWell) (fun _ _ => rfl)))

/-- What MODULE_RESET does with the call that its caller has outstanding. -/
def serveReset (c : Caller) (k : Call) (s : State) : State :=
  if k.code ≠ 0x0054 then s
  else if s.chip.mayCall {} c = false then s.withReach (s.reach.finish k (refuse Code.callDenied))
  else if k.arg 2 2 / 2 ≠ 0 ∨ k.clean [(8, 1)] = false ∨ 1 < k.arg 8 1 then s.withReach (s.reach.finish k (refuse Code.callMalformed))
  else if k.arg 8 1 = 1 then coldReset allWell s
  else warmReset allWell s

theorem serveReset_queueFree (c : Caller) (k : Call) : QueueFree (serveReset c k) :=
  .guarded (fun _ _ => .rfl) (.ite (fun _ _ => .rfl) (.withReach fun _ _ => rfl)
    (.ite (fun _ _ => .rfl) (.withReach fun _ _ => rfl) (.ite (fun _ _ => .rfl) (coldReset_queueFree allWell) (warmReset_queueFree allWell))))

theorem moduleReset_serves {c : Caller} {s : State} {r : Reach} {k : Call} (waits : s.reach.outstanding c = (r, some k)) :
    moduleReset c s = serveReset c k (s.withReach r) := by
  rw [moduleReset, waits]
  rfl

theorem moduleReset_idle {c : Caller} {s : State} {r : Reach} (none_ : s.reach.outstanding c = (r, none)) : moduleReset c s = s.withReach r := by
  rw [moduleReset, none_]

theorem moduleReset_queueFree (c : Caller) : QueueFree (moduleReset c) := fun s q => by
  rcases waits : s.reach.outstanding c with ⟨r, none | k⟩
  · rw [moduleReset_idle waits, moduleReset_idle (s := s.requeue q) waits, State.requeue_withReach]
  · rw [moduleReset_serves waits, moduleReset_serves (s := s.requeue q) waits, State.requeue_withReach, serveReset_queueFree]

/-! ## Register writes -/

theorem State.mapChip_queueFree (f : Chip → Chip) : QueueFree (State.mapChip · f) := fun _ _ => rfl
theorem State.mapReach_queueFree (f : Reach → Reach) : QueueFree (State.mapReach · f) := fun _ _ => rfl

theorem State.writeCtrl_queueFree (b : Block) (v : Word32) : QueueFree (State.writeCtrl · b v) := by
  cases b with
  | clusterSeq c => exact .comp (.whenBit v 0 (.after (execStepGo_completes c))) (State.mapChip_queueFree _)
  | _ => exact fun _ _ => rfl

theorem State.writeRing_queueFree (b : Block) (off : Nat) (v : Word32) : QueueFree (State.writeRing · b off v) := by
  have still : QueueFree (fun s => s) := fun _ _ => rfl
  cases b with
  | security d => exact .ite (fun _ _ => .rfl) (.whenBit v 31 fun _ _ => rfl) still
  | power d => exact .guarded (fun _ _ => .rfl) (.ite (fun _ _ => .rfl) (State.mapChip_queueFree _) (.ite (fun _ _ => .rfl) (State.mapChip_queueFree _) still))
  | coelostat d =>
    exact .ite (fun _ _ => .rfl) (.ite (fun _ _ => .rfl) (State.mapChip_queueFree _) still)
      (.ite (fun _ _ => .rfl) (State.mapChip_queueFree _) (.ite (fun _ _ => .rfl) (State.mapChip_queueFree _)
        (.ite (fun _ _ => .rfl) (State.mapChip_queueFree _) still)))
  | photometerIf d =>
    exact .ite (fun _ _ => .rfl) (.comp (.whenBit v 31 (.after fun _ _ => ⟨_, rfl, rfl, rfl⟩)) (State.mapChip_queueFree _))
      (.ite (fun _ _ => .rfl) (State.mapChip_queueFree _) still)
  | d2d d => exact .ite (fun _ _ => .rfl) (State.mapChip_queueFree _) still
  | stackCache d => exact .ite (fun _ _ => .rfl) (State.mapChip_queueFree _) still
  | hostlink => exact .ite (fun _ _ => .rfl) (State.mapReach_queueFree _) (.ite (fun _ _ => .rfl) (State.mapChip_queueFree _) still)
  | _ => exact fun _ _ => rfl

theorem State.writeWord_queueFree (q : Requester) (p : Page) (off : Nat) (v : Word32) : QueueFree (State.writeWord · q p off v) := by
  have still : QueueFree (fun s => s) := fun _ _ => rfl
  cases p with
  | routes d n => exact .ite (fun _ _ => .rfl) (State.mapChip_queueFree _) still
  | head b =>
    refine .ite (fun _ _ => .rfl) (State.writeCtrl_queueFree b v) (.ite (fun _ _ => .rfl) ?_ ?_)
    · cases b with
      | kuzopaPort p => exact State.writeRing_queueFree _ off v
      | fabricRoute d => exact State.writeRing_queueFree _ off v
      | _ => exact State.mapChip_queueFree _
    · cases b with
      | sync | perf | clusterSeq | core | dataEngine | stackCtrl | ulizen | slit | reducer | scrub => exact State.mapChip_queueFree _
      | _ => exact State.writeRing_queueFree _ off v
  | _ => exact fun _ _ => rfl

theorem State.write32_queueFree (q : Requester) (p : Page) (a off : Nat) (v : Word32) : QueueFree (State.write32 · q p a off v) :=
  .ite (fun _ _ => .rfl) (State.writeWord_queueFree q p off v) (.ite (fun _ _ => .rfl) (State.mapChip_queueFree _) fun _ _ => rfl)

theorem State.write64_queueFree (q : Requester) (p : Page) (off : Nat) (v : Word64) : QueueFree (State.write64 · q p off v) := by
  refine .ite (fun _ _ => .rfl) (State.mapChip_queueFree _) ?_
  cases p with
  | slots => exact .comp (State.writeWord_queueFree q _ off _) (State.writeWord_queueFree q _ (off + 4) _)
  | _ => exact .comp (State.writeWord_queueFree q _ (off + 4) _) (State.writeWord_queueFree q _ off _)

theorem State.writeData_queueFree (q : Requester) (a : Nat) (v : RegData) : QueueFree (State.writeData · q a v) := fun s w => by
  unfold State.writeData
  rcases pageAt a with - | ⟨p, off⟩
  · rfl
  · cases v with
    | w32 x => exact State.write32_queueFree q p a off x s w
    | w64 x => exact State.write64_queueFree q p off x s w

/-- A write of a register page of a ring that is up: refused, or done and looked at by firmware. -/
def State.serveWrite (q : Requester) (a : Nat) (v : RegData) (s : State) : State :=
  match s.chip.accessFault q a true (dataAligned v a) with
  | some f => s.mapChip (fun c => c.refuseAccess q a f)
  | none => (s.writeData q a v).mapReach Reach.pollProducers

theorem State.serveWrite_queueFree (q : Requester) (a : Nat) (v : RegData) : QueueFree (State.serveWrite q a v) := fun s w => by
  rw [State.serveWrite, State.serveWrite, State.requeue_chip]
  cases s.chip.accessFault q a true (dataAligned v a) with
  | some f => rfl
  | none => exact congrArg (State.mapReach · Reach.pollProducers) (State.writeData_queueFree q a v s w)

theorem registerWrite_queueFree (q : Requester) (a : Nat) (v : RegData) : QueueFree (registerWrite q a v) :=
  .guarded (fun _ _ => .rfl) (.comp (g := State.serveWrite q a v) (State.serveWrite_queueFree q a v) (State.mapChip_queueFree fun c => { c with out := .none }))

/-! ## BAR0 -/

theorem State.ringWord_requeue (s : State) (w : List Instr) (b : Block) (off : Nat) : (s.requeue w).ringWord b off = s.ringWord b off := by
  simp only [State.ringWord, State.requeue]

theorem State.headView_requeue (s : State) (w : List Instr) (b : Block) : (s.requeue w).headView b = s.headView b := by
  cases b <;> rfl

theorem State.headWord_requeue (s : State) (w : List Instr) (q : Requester) (b : Block) (off : Nat) :
    (s.requeue w).headWord q b off = s.headWord q b off := by
  unfold State.headWord
  simp only [State.headView_requeue, State.ringWord_requeue, State.requeue_chip]

theorem State.peek_requeue (s : State) (w : List Instr) (q : Requester) (p : Page) (off : Nat) : (s.requeue w).peek q p off = s.peek q p off := by
  simp only [State.peek, State.headWord_requeue, State.requeue_chip]

theorem State.viewWord_requeue (s : State) (w : List Instr) (f : HostFn) (off : Nat) : (s.requeue w).viewWord f off = s.viewWord f off := by
  rfl

theorem State.barWord_requeue (s : State) (w : List Instr) (f : HostFn) (t : BarTarget) : (s.requeue w).barWord f t = s.barWord f t := by
  simp only [State.barWord, State.viewWord_requeue, State.requeue_chip]

theorem State.readout_requeue (s : State) (w : List Instr) (x : ReadoutTarget) : (s.requeue w).readout x = s.readout x := by
  cases x with
  | register a => simp only [State.readout, State.peek_requeue, State.requeue_chip]
  | _ => rfl

theorem State.read32_requeue (s : State) (w : List Instr) (q : Requester) (p : Page) (a off : Nat) :
    (s.requeue w).read32 q p a off = (((s.read32 q p a off).1).requeue w, (s.read32 q p a off).2) := by
  have effect (c : Chip) : { s.requeue w with chip := c } = ({ s with chip := c } : State).requeue w := rfl
  unfold State.read32
  simp only [State.peek_requeue, State.requeue_chip, effect]
  split
  · rfl
  · split
    · rfl
    · cases (s.chip.readEffect p off).latchedHigh.find? (fun e => e.1 = q) with
      | none => rfl
      | some e =>
        dsimp only
        split <;> rfl

theorem State.read64_requeue (s : State) (w : List Instr) (q : Requester) (p : Page) (off : Nat) :
    (s.requeue w).read64 q p off = (((s.read64 q p off).1).requeue w, (s.read64 q p off).2) := by
  have effect (c : Chip) : { s.requeue w with chip := c } = ({ s with chip := c } : State).requeue w := rfl
  unfold State.read64
  simp only [State.peek_requeue, State.requeue_chip, effect]

theorem State.regOp_queueFree (q : Requester) (a : Nat) (x : RegOp) : QueueFree (State.regOp · q a x) := fun s w => by
  dsimp only [State.regOp]
  rw [State.requeue_chip]
  cases s.chip.heldRead q a x with
  | some o => rfl
  | none =>
    rcases pageAt a with - | ⟨p, off⟩
    · rfl
    · cases x with
      | read32 =>
        dsimp only
        rw [State.read32_requeue, State.requeue_mapChip]
      | read64 =>
        dsimp only
        rw [State.read64_requeue, State.requeue_mapChip]
      | write v => exact State.writeData_queueFree q a v s w
      | odd b => rfl

theorem State.viewWrite_queueFree (f : HostFn) (off : Nat) (v : Word32) : QueueFree (State.viewWrite · f off v) := fun s w => by
  dsimp only [State.viewWrite]
  have viewed : (s.requeue w).viewed f = s.viewed f := rfl
  have owns u n : (s.requeue w).ownsView f u n = s.ownsView f u n := rfl
  rw [viewed]
  split
  · rfl
  · cases s.viewed f with
    | none => rfl
    | some u =>
      simp only [owns]
      split
      · rfl
      · split
        · rfl
        · split
          · rfl
          · split <;> rfl

theorem State.barPut_queueFree (f : HostFn) (t : BarTarget) (v : Word32) : QueueFree (State.barPut · f t v) := by
  have still : QueueFree (fun s => s) := fun _ _ => rfl
  cases t with
  | mailbox off =>
    exact .ite (fun _ _ => .rfl) (State.mapChip_queueFree _) (.ite (fun _ _ => .rfl) (State.mapChip_queueFree _)
      (.ite (fun _ _ => .rfl) (.whenBit v 0 (State.mapReach_queueFree _)) (.ite (fun _ _ => .rfl) (State.mapChip_queueFree _) still)))
  | view off => exact State.viewWrite_queueFree f off v
  | table off => exact .ite (fun _ _ => .rfl) (State.mapChip_queueFree _) still
  | _ => exact still

theorem State.ownOp_queueFree (f : HostFn) (t : BarTarget) (x : RegOp) : QueueFree (State.ownOp · f t x) := fun s w => by
  match x with
  | .read32 => simp only [State.ownOp, State.barWord_requeue, State.requeue_mapChip]
  | .read64 => simp only [State.ownOp, State.barWord_requeue, State.requeue_mapChip]
  | .write (.w32 v) => exact State.barPut_queueFree f t v s w
  | .write (.w64 v) => exact QueueFree.comp (State.barPut_queueFree f t.next _) (State.barPut_queueFree f t _) s w
  | .odd _ => rfl

/-- An open access of BAR0, by its target. -/
def State.serveBar (f : HostFn) (o : Nat) (x : RegOp) (t : BarTarget) (s : State) : State :=
  let fault (code : FaultCode) (a : Nat) : State := s.mapChip (fun c => c.bar0Fault (isRead x) code a)
  match t with
  | .absent a => fault Code.unmapped a
  | .reg a =>
    (match s.chip.accessFault .pf a (!isRead x) (opAligned x o) with
     | some code => s.mapChip (fun c => (c.refuseAccess .pf a code).answerFault (isRead x) code)
     | none => (s.regOp .pf a x).mapReach Reach.pollProducers)
  | t =>
    if opAligned x o = false then fault Code.misaligned 0 else
    match t, s.viewed f with
    | .view off, some u =>
      (match s.chip.pageRefusal .pf u.block, decide (off < 0x10) with
       | some code, false => fault code 0
       | _, _ => s.ownOp f t x)
    | _, _ => s.ownOp f t x

theorem State.serveBar_queueFree (f : HostFn) (o : Nat) (x : RegOp) (t : BarTarget) : QueueFree (State.serveBar f o x t) := by
  have own (t : BarTarget) : QueueFree (fun s => if opAligned x o = false then s.mapChip (fun c => c.bar0Fault (isRead x) Code.misaligned 0) else s.ownOp f t x) :=
    .ite (fun _ _ => .rfl) (State.mapChip_queueFree _) (State.ownOp_queueFree f t x)
  cases t with
  | reg a => 
    intro s w
    dsimp only [State.serveBar]
    rw [State.requeue_chip]
    cases s.chip.accessFault .pf a (!isRead x) (opAligned x o) with
    | some code => rfl
    | none => exact congrArg (State.mapReach · Reach.pollProducers) (State.regOp_queueFree .pf a x s w)
  | absent a => exact fun _ _ => rfl
  | view off => 
    refine .ite (fun _ _ => .rfl) (State.mapChip_queueFree _) fun s w => ?_
    have viewed : (s.requeue w).viewed f = s.viewed f := rfl
    dsimp only
    rw [viewed]
    cases s.viewed f with
    | none => exact State.ownOp_queueFree f _ x s w
    | some u => 
      dsimp only
      rw [State.requeue_chip]
      cases s.chip.pageRefusal .pf u.block with
      | none => exact State.ownOp_queueFree f _ x s w
      | some code =>
        cases decide (off < 0x10) with
        | false => rfl
        | true => exact State.ownOp_queueFree f _ x s w
  | mailbox off => exact own _
  | info off => exact own _
  | table off => exact own _
  | pba off => exact own _

theorem bar0Access_queueFree (f : HostFn) (o : Nat) (x : RegOp) : QueueFree (bar0Access f o x) := by
  exact .ite (fun _ _ => .rfl) (State.mapChip_queueFree _) (.comp (g := State.serveBar f o x (barTarget f o)) (State.serveBar_queueFree f o x _) (State.mapChip_queueFree fun c => { c with out := .none }))

theorem jtagReadout_queueFree (x : ReadoutTarget) : QueueFree (jtagReadout x) := fun s q => by
  simp only [jtagReadout, State.readout_requeue, State.requeue_chip, State.requeue_mapChip]

/-! ## Every command -/

theorem onChip_completes (f : Chip → Chip) : Completes (onChip f) := fun _ _ => ⟨_, rfl, rfl, rfl⟩
theorem onBus_completes (f : Chip → Memory → Chip × Memory) : Completes (onBus f) := fun _ _ => ⟨_, rfl, rfl, rfl⟩
theorem onReach_completes (f : Reach → Reach) : Completes (onReach f) := fun _ _ => ⟨_, rfl, rfl, rfl⟩
theorem onPhot_completes (f : Chip → Photometer → Chip × Photometer) : Completes (onPhot f) := fun _ _ => ⟨_, rfl, rfl, rfl⟩

theorem exec_completes (i : Instr) : Completes (exec i) := by
  cases i with
  | stepGo c => exact execStepGo_completes c
  | svnFuseDone d => exact (svnDone_queueFree d).completes
  | powerUp b => exact (powerUp_queueFree b).completes
  | coldModuleReset b => exact (coldReset_queueFree b).completes
  | warmModuleReset b => exact (warmReset_queueFree b).completes
  | moduleReset c => exact (moduleReset_queueFree c).completes
  | uvlo => exact (lockout_queueFree false).completes
  | ovlo => exact (lockout_queueFree true).completes
  | lockoutClear => exact lockoutClear_queueFree.completes
  | explicitPowerDown => exact powerDown_queueFree.completes
  | registerWrite q a v => exact (registerWrite_queueFree q a.toNat v).completes
  | bar0Access f off v => exact (bar0Access_queueFree f off.toNat v).completes
  | jtagReadout x => exact (jtagReadout_queueFree x).completes
  | maskRomBoot | svnGo | getMeasurements | pldmFirmwareUpdate | activateFirmware | dieImported | handoffAbort => exact onFused_completes _
  | tapBadFrame d => exact onPhot_completes (fun s p => if p.on then Photometer.bad s p d else (s, p))
  | hartFence | emitTokenWrite => exact onBus_completes _
  | demand | getCert | getEvents | getRecord | periodicRecord | photometerPowerDown | photometerPowerUp | photometerSample | reqDemand
    | reqGetCert | reqGetEvents | reqGetRecord | sealBroken | sealRestored | setPeriod | setTime | tapEmission |
    tapKvCommit | tapResync | testEnter | testExit | testRecord | testTimeout | testInject => exact onPhot_completes _
  | adapterDrop | atomicOp | cancel | configRequest | dieAbsent | dieAdmit | dieFence | dieReset | domeDefine | domeDrain |
    domeRelease | domeStepEnd | ephemerisSet | frameStart | hartAmo | hostLinkDown | hotReset | imageLoad | mailboxGo |
    notificationForward | perst | pfFlr | pointWrite | queueStop | rowReports | sbiFirmwareCall | scrubBurst | sharedSet | sourceSet |
    stepWatchdog | thermalSample | tracePoints | traceRecordWrite | vfDomeWrite | vfFlr | bar2Write | queueDoorbell | queueSet |
    adapterLoad | cacheRange | notifyRoute | traceSet | nightlogRead | counterRead => exact onReach_completes _
  | _ => exact onChip_completes _

/-- Settles O3: a command is one change of the chip, of what firmware reaches, of the Photometer or of the fuses, and the register accesses, resets and lockouts are made of such changes; none of them has the queue of waiting commands before it. -/
theorem commandsCompleteOutsideTheQueue : Obligations.CommandsCompleteOutsideTheQueue := by
  unfold Obligations.CommandsCompleteOutsideTheQueue
  refine ⟨fun i s => ?_, fun i s t run => ?_⟩
  · obtain ⟨t, next, -⟩ := exec_completes i s []
    exact ⟨t, next⟩
  · refine ⟨?_, fun q => ?_⟩
    · obtain ⟨u, next, kept, -⟩ := exec_completes i s []
      obtain rfl : t = u := Outcome.next.inj (run.symm.trans next)
      exact kept
    · obtain ⟨u, next, -, requeued⟩ := exec_completes i s q
      obtain rfl : t = u := Outcome.next.inj (run.symm.trans next)
      exact requeued

end Sys2Proof.Machine
end

section
/-! Writes of the exchange area and of a hart's RESET_PC (R67, R68, R70). -/

namespace Sys2Proof.Machine

open Host

/-! ## Pages and who reaches them -/

theorem Chip.mem_spread {s : Chip} {d : DieId} {from_ : List DieId} (h : d ∈ from_) : d ∈ s.spread from_ :=
  List.mem_filter.2 ⟨mem_allDies d, by simp [h]⟩

/-- A die whose ring is on reaches itself. -/
theorem Chip.route_self {s : Chip} {d : DieId} (on : (s.die d).ringOn = true) : s.route d d = true := by
  have there : d ∈ s.spread (s.spread (s.spread (s.spread (s.spread (s.spread (s.spread [d])))))) :=
    mem_spread (mem_spread (mem_spread (mem_spread (mem_spread (mem_spread (mem_spread (List.mem_singleton_self d)))))))
  simp [Chip.route, on, there]

/-- The page of a local address of a die's register space. -/
theorem pageAt_dieReg (d : DieId) {p off : Nat} (page : p < 4096) (inside : off < 4096) :
    pageAt (dieReg d p off) = (diePage d p).map (fun x => (x, off)) := by
  have die := d.isLt
  have place_eq : place (dieReg d p off) = .diePage d (p * 4096 + off) := by
    have isDie : clip 8 (dieReg d p off / 2 ^ 24) = d := Fin.ext (by simp only [clip, Fin.val_ofNat, dieReg]; omega)
    have offset : dieReg d p off % 2 ^ 24 = p * 4096 + off := by unfold dieReg; omega
    rw [place, if_neg (by unfold dieReg; omega), if_neg (by unfold dieReg; omega), if_pos (by unfold dieReg; omega), isDie, offset]
  rw [pageAt, place_eq]
  dsimp only
  rw [show (p * 4096 + off) / 4096 = p by omega, show (p * 4096 + off) % 4096 = off by omega]

theorem diePage_exchange (d : DieId) {p : Nat} (low : 1 ≤ p) (high : p < 16) : diePage d p = some (.exchange d p) := by
  have populated : diePagePopulated d p = true := by simp [diePagePopulated]; omega
  rw [diePage, if_neg (by simp [populated]), if_neg (by omega), if_pos high]

theorem diePage_hostcore (d : DieId) (h : Fin 16) : diePage d (0x600 + h.val) = some (.head (.hostcore ⟨d, h⟩)) := by
  have lt := h.isLt
  have populated : diePagePopulated d (0x600 + h.val) = true := by simp [diePagePopulated]; omega
  have hart : clip 16 (0x600 + h.val) = h := Fin.ext (by simp only [clip, Fin.val_ofNat]; omega)
  rw [diePage, if_neg (by rw [populated]; decide), hart]
  repeat rw [if_neg (by omega)]

/-- A Meridian core writes the pages of its own die's exchange area and harts. -/
theorem Chip.accessFault_own {s : Chip} {d : DieId} {a off : Nat} {p : Page} (page : pageAt a = some (p, off)) (on : (s.die d).ringOn = true)
    (block : p.block = .meridian d ∨ ∃ h, p.block = .hostcore ⟨d, h⟩) : s.accessFault (.meridian d) a true true = none := by
  have reached : s.pageRefusal (.meridian d) p.block = none := by
    obtain block | ⟨h, block⟩ := block <;> simp [Chip.pageRefusal, block, reqDie, Block.die, Block.baseDie, Block.inCoreDomain, route_self on]
  have may : mayWrite (.meridian d) p.block = true := by
    obtain block | ⟨h, block⟩ := block <;> simp [mayWrite, block]
  simp [Chip.accessFault, page, reached, may]

/-! ## The write -/

/-- The state before an access, its answer empty. -/
def State.unanswered (s : State) : State := s.mapChip (fun c => { c with out := .none })

/-- A write that nothing refuses and that changes the chip alone. -/
theorem registerWrite_lands {q : Requester} {a : Nat} {v : RegData} {s : State} {f : Chip → Chip} (up : RingUp s (reqDie q)) (quiet : QueuesQuiet s)
    (granted : s.unanswered.chip.accessFault q a true (dataAligned v a) = none) (write : s.unanswered.writeData q a v = s.unanswered.mapChip f) :
    registerWrite q a v s = s.unanswered.mapChip f := by
  rw [registerWrite, if_neg (by simp [up.1, up.2])]
  change State.serveWrite q a v s.unanswered = _
  rw [State.serveWrite, granted]
  dsimp only
  rw [write, State.mapReach, Reach.pollProducers_quiet (by exact quiet)]
  rfl


/-- A write that is refused. -/
theorem registerWrite_refused {q : Requester} {a : Nat} {v : RegData} {s : State} {f : FaultCode} (up : RingUp s (reqDie q))
    (refused : s.unanswered.chip.accessFault q a true (dataAligned v a) = some f) :
    registerWrite q a v s = s.unanswered.mapChip (fun c => c.refuseAccess q a f) := by
  rw [registerWrite, if_neg (by simp [up.1, up.2])]
  change State.serveWrite q a v s.unanswered = _
  rw [State.serveWrite, refused]

theorem State.writeData_w32 {s : State} {q : Requester} {a off : Nat} {p : Page} (page : pageAt a = some (p, off)) (x : Word32) :
    s.writeData q a (.w32 x) = s.write32 q p a off x := by
  simp only [State.writeData, page]

theorem State.writeData_w64 {s : State} {q : Requester} {a off : Nat} {p : Page} (page : pageAt a = some (p, off)) (x : Word64) :
    s.writeData q a (.w64 x) = s.write64 q p off x := by
  simp only [State.writeData, page]

theorem exchangeWordLands {s : State} {d : DieId} (up : RingUp s d) (quiet : QueuesQuiet s) (p : Fin 16) (i : Fin 1024) (v : Word32) (low : 1 ≤ p.val) :
    registerWrite (.meridian d) (dieReg d p.val (4 * i.val)) (.w32 v) s =
      s.unanswered.mapChip (fun c => c.updDie d (fun x => { x with exchange := Table.write x.exchange (p.val * 1024 + i.val) v })) := by
  have word := i.isLt
  have page : pageAt (dieReg d p.val (4 * i.val)) = some (.exchange d p.val, 4 * i.val) := by
    rw [pageAt_dieReg d (by omega) (by omega), diePage_exchange d low p.isLt]
    rfl
  have aligned : dataAligned (.w32 v) (dieReg d p.val (4 * i.val)) = true := decide_eq_true (by unfold dieReg; omega)
  refine registerWrite_lands up quiet ?_ ?_
  · rw [aligned]
    exact Chip.accessFault_own page up.2 (.inl rfl)
  · rw [State.writeData_w32 page]
    rw [State.write32, if_pos (show Page.isPair _ _ = false from rfl), State.writeWord, show 4 * i.val / 4 = i.val by omega]

/-- The page of a hart's registers. -/
theorem pageAt_hostcore (d : DieId) (h : Fin 16) {off : Nat} (inside : off < 4096) :
    pageAt (dieReg d (0x600 + h.val) off) = some (.head (.hostcore ⟨d, h⟩), off) := by
  rw [pageAt_dieReg d (by omega) inside, diePage_hostcore]
  rfl

/-- A write of a word or a pair of a hart's page by its own die's Meridian core. -/
theorem hostcoreWrite_lands {s : State} {d : DieId} {h : Fin 16} {off : Nat} {v : RegData} {f : Chip → Chip} (up : RingUp s d) (quiet : QueuesQuiet s)
    (inside : off < 4096) (aligned : dataAligned v (dieReg d (0x600 + h.val) off) = true)
    (write : s.unanswered.writeData (.meridian d) (dieReg d (0x600 + h.val) off) v = s.unanswered.mapChip f) :
    registerWrite (.meridian d) (dieReg d (0x600 + h.val) off) v s = s.unanswered.mapChip f := by
  refine registerWrite_lands up quiet ?_ write
  rw [aligned]
  exact Chip.accessFault_own (pageAt_hostcore d h inside) up.2 (.inr ⟨h, rfl⟩)

theorem resetPcLands {s : State} {d : DieId} (up : RingUp s d) (quiet : QueuesQuiet s) (h : Fin 16) (v : Word64) :
    registerWrite (.meridian d) (dieReg d (0x600 + h.val) 0x100) (.w64 v) s =
      s.unanswered.mapChip (fun c => c.updHart ⟨d, h⟩ (fun x => { x with resetPc := v })) :=
  hostcoreWrite_lands up quiet (by omega) (decide_eq_true (by unfold dieReg; omega)) (State.writeData_w64 (pageAt_hostcore d h (by omega)) v)

theorem resetPcLowStaged {s : State} {d : DieId} (up : RingUp s d) (quiet : QueuesQuiet s) (h : Fin 16) (lo : Word32) :
    registerWrite (.meridian d) (dieReg d (0x600 + h.val) 0x100) (.w32 lo) s =
      s.unanswered.mapChip (fun c => c.stageLow (.meridian d) (dieReg d (0x600 + h.val) 0x100) lo) := by
  refine hostcoreWrite_lands up quiet (by omega) (decide_eq_true (by unfold dieReg; omega)) ?_
  rw [State.writeData_w32 (pageAt_hostcore d h (by omega))]
  rw [State.write32]
  have key : dieReg d (0x600 + h.val) 0x100 / 8 * 8 = dieReg d (0x600 + h.val) 0x100 := by unfold dieReg; omega
  rw [key]
  rfl


/-- The high word lands with the low word that the requester's writes staged before it. -/
theorem Chip.landHigh_staged {c : Chip} {q : Requester} {pair : Nat} {lo : Word32} (staged : c.stagedFor q pair = some lo) (current : Word64) (hi : Word32) :
    c.landHigh q pair current hi = (c.unstage q, hi ++ lo) := by
  rw [Chip.landHigh, staged]

theorem Table.find?_write {κ α : Type} [DecidableEq κ] (t : Table κ α) (k : κ) (a : α) : (Table.write t k a).find? (fun e => e.1 = k) = some (k, a) := by
  induction t with
  | nil => simp [Table.write]
  | cons e t ih => by_cases h : e.1 = k <;> simp [Table.write, h, ih]

theorem Chip.stagedFor_stageLow (c : Chip) (q : Requester) (pair : Nat) (lo : Word32) : (c.stageLow q pair lo).stagedFor q pair = some lo := by
  simp [Chip.stagedFor, Chip.stageLow, Table.find?_write]

theorem resetPcHighLands {s : State} {d : DieId} (up : RingUp s d) (quiet : QueuesQuiet s) (h : Fin 16) {lo : Word32} (hi : Word32)
    (staged : s.chip.stagedFor (.meridian d) (dieReg d (0x600 + h.val) 0x100) = some lo) :
    registerWrite (.meridian d) (dieReg d (0x600 + h.val) 0x104) (.w32 hi) s =
      s.unanswered.mapChip (fun c => (c.unstage (.meridian d)).updHart ⟨d, h⟩ (fun x => { x with resetPc := hi ++ lo })) := by
  refine hostcoreWrite_lands up quiet (by omega) (decide_eq_true (by unfold dieReg; omega)) ?_
  rw [State.writeData_w32 (pageAt_hostcore d h (by omega))]
  have key : dieReg d (0x600 + h.val) 0x104 / 8 * 8 = dieReg d (0x600 + h.val) 0x100 := by unfold dieReg; omega
  have staged' : s.unanswered.chip.stagedFor (.meridian d) (dieReg d (0x600 + h.val) 0x100) = some lo := staged
  rw [State.write32, key, if_neg (by simp [Page.isPair]), if_neg (by decide)]
  simp only [State.mapChip, Chip.landHigh_staged staged']
  rfl

theorem Chip.refuseAccess_denied {c : Chip} {q : Requester} {a off : Nat} {p : Page} (outside : q ≠ .pf) (page : pageAt a = some (p, off)) :
    c.refuseAccess q a Code.regDenied = { c with out := .fault Code.regDenied } := by
  unfold Chip.refuseAccess
  simp [outside, page]

theorem Chip.accessFault_other {c : Chip} {addr off : Nat} {h : HartId} (a : Agent) (page : pageAt addr = some (.head (.hostcore h), off))
    (write aligned : Bool) : c.accessFault (.other a) addr write aligned = some Code.regDenied := by
  simp [Chip.accessFault, page, Page.block, Chip.pageRefusal, Code.regDenied, Code.syncOffline]

/-- Registers are closed to every agent that is neither Meridian core nor physical function (R68). -/
theorem registerWrite_denied {s : State} {d : DieId} {h : Fin 16} {a : Agent} (up : RingUp s d) (home : agentDie a = d) (w : Word64) :
    registerWrite (.other a) (dieReg d (0x600 + h.val) 0x100) (.w64 w) s = { s with chip := { s.chip with out := .fault Code.regDenied } } := by
  have page := pageAt_hostcore d h (off := 0x100) (by omega)
  have denied := Chip.accessFault_other (c := s.unanswered.chip) a page true (dataAligned (.w64 w) (dieReg d (0x600 + h.val) 0x100))
  rw [registerWrite_refused (by rwa [reqDie, home]) denied, State.mapChip, Chip.refuseAccess_denied (by simp) page]
  rfl

/-- Settles O45: a register write that nothing refuses is one change of the chip, by the page its address names. -/
theorem registerWritesLand : Obligations.RegisterWritesLand := by
  unfold Obligations.RegisterWritesLand
  intro s d up quiet at_
  have at_eq (p off : Nat) (page : p < 4096) (inside : off < 4096) : (at_ p off).toNat = dieReg d p off := by
    have die := d.isLt
    simp only [at_, BitVec.toNat_ofNat]
    unfold dieReg
    omega
  have runs (q : Requester) (p off : Nat) (v : RegData) (page : p < 4096) (inside : off < 4096) (s : State) :
      Runs (.registerWrite q (at_ p off) v) s (registerWrite q (dieReg d p off) v s) := by
    rw [← at_eq p off page inside]
    rfl
  refine ⟨fun p i v low => ?_, fun h => ⟨fun v => ?_, fun lo hi => ?_, fun w a home => ?_⟩⟩
  · refine ⟨_, runs _ _ _ _ (by omega) (by omega) s, ?_⟩
    rw [exchangeWordLands up quiet p i v low]
    refine ⟨rfl, fun e other => Chip.updDie_die_other _ _ _ _ other, ?_, fun k => ?_⟩
    · exact (Chip.updDie_die_same _ _ _).trans (by rw [State.mapChip, Chip.updDie_die_same]; rfl)
    · rw [State.mapChip, Chip.updDie_die_same]
      exact Table.read_write _ _ _ _ _
  · refine ⟨_, runs _ _ _ _ (by omega) (by omega) s, ?_⟩
    rw [resetPcLands up quiet h v]
    exact ⟨⟨rfl, rfl, rfl, rfl⟩, Chip.updHart_hart_same _ _ _, fun k other => Chip.updHart_hart_other _ _ _ _ other⟩
  · refine ⟨_, _, runs _ _ _ _ (by omega) (by omega) s, ?_, runs _ _ _ _ (by omega) (by omega) _, ?_⟩
    · rw [resetPcLowStaged up quiet h lo]
      rfl
    · have staged := resetPcHighLands (s := s.unanswered.mapChip (fun c => c.stageLow (.meridian d) (dieReg d (0x600 + h.val) 0x100) lo))
        up quiet h hi (Chip.stagedFor_stageLow s.unanswered.chip _ _ _)
      rw [resetPcLowStaged up quiet h lo, staged]
      exact ⟨Chip.updHart_hart_same _ _ _, fun k other => Chip.updHart_hart_other _ _ _ _ other⟩
  · refine ⟨_, runs _ _ _ _ (by omega) (by omega) s, ?_⟩
    rw [registerWrite_denied up home w]

end Sys2Proof.Machine
end

section
/-! What the accesses of stack memory leave alone, once for every view of the chip that their events, codewords and lines have no part in (R184 to R195, R204, R410 to R416, R477). -/

namespace Sys2Proof.Machine

open Host

/-! ## Errors and counted events -/

/-- A view of the chip that recorded errors, freezes and counted events leave: they change heads and freeze what they freeze, and of a stack neither its queued nor its held reductions. -/
structure Chip.EventBlind {β : Type} (g : Chip → β) : Prop where
  head : ∀ s b f, g (Chip.updHead s b f) = g s
  freeze : ∀ s d kind code, g (Chip.freeze s d kind code) = g s
  stack : ∀ s t f, (∀ x : Stack, (f x).redQueue = x.redQueue ∧ (f x).redWait = x.redWait) → g (Chip.updStack s t f) = g s

namespace Chip.EventBlind
variable {β : Type} {g : Chip → β} (blind : EventBlind g)
include blind

theorem err (s : Chip) (b : Block) (e : ErrorInfo) : g (s.err b e) = g s := by
  rw [Chip.err, Chip.faultTrigger]
  split
  · rw [Chip.trigger]
    split
    · rw [blind.freeze, blind.head]
    · exact blind.head ..
  · exact blind.head ..

theorem stackEvent (s : Chip) (t : StackId) (event cls amount : Nat) : g (s.stackEvent t event cls amount) = g s := by
  unfold Chip.stackEvent
  exact Eq.trans (blind.stack _ _ _ fun _ => ⟨rfl, rfl⟩) (blind.head ..)

omit blind in
theorem ite {s a b : Chip} {p : Prop} [Decidable p] (yes : g a = g s) (no : g b = g s) : g (if p then a else b) = g s := by
  split
  · exact yes
  · exact no

theorem codeEvent (s : Chip) (t : StackId) (a : Nat) (path : Path) (d : Decoded) : g (s.codeEvent t a path d) = g s := by
  unfold Chip.codeEvent
  cases d with
  | clean => rfl
  | corrected k v =>
    have counted (u : Chip) (h : g u = g s) : g (u.stackEvent t 8 16 1) = g s := (blind.stackEvent ..).trans h
    refine ite (Eq.trans (blind.stack _ _ _ fun _ => ⟨rfl, rfl⟩) (counted _ ?_)) ((blind.err ..).trans (counted _ ?_)) <;>
      exact (blind.head ..).trans (blind.err ..)
  | poisoned => exact (blind.head ..).trans (blind.err ..)
  | uncorrectable => exact (blind.head ..).trans (blind.err ..)

theorem d2dErr (s : Chip) (d : DieId) (c : FaultCode) (tag : BitVec 16) (addr : Word64) : g (s.d2dErr d c tag addr) = g s := by
  unfold Chip.d2dErr
  dsimp only
  split_ifs
  iterate 5 exact blind.err ..
  rfl

theorem charge (s : Chip) (t : StackId) (w : Who) (bytes : Nat) : g (s.charge t w bytes) = g s := by
  unfold Chip.charge
  exact blind.stack _ _ _ fun _ => ⟨rfl, rfl⟩

theorem pieceCost (s : Chip) (t : StackId) (w : Who) (slit hit : Bool) : g (s.pieceCost t w slit hit) = g s := by
  unfold Chip.pieceCost
  cases slit with
  | true => exact (blind.stackEvent ..).trans ((blind.head ..).trans (blind.charge ..))
  | false => cases hit with
    | true => exact blind.charge ..
    | false => exact (blind.stackEvent ..).trans (blind.charge ..)

theorem nextPair (s : Chip) (t : StackId) : g (s.nextPair t) = g s := by
  unfold Chip.nextPair
  refine blind.stack _ _ _ fun x => ?_
  split <;> exact ⟨rfl, rfl⟩

theorem readCodeword (s : Chip) (t : StackId) (a : Nat) (path : Path) : g (s.readCodeword t a path).1 = g s := by
  unfold Chip.readCodeword
  dsimp only
  split
  · rfl
  · exact blind.codeEvent ..

theorem readDram (s : Chip) (t : StackId) (path : Path) (ps : List (Nat × Nat)) : g (s.readDram t path ps).1 = g s := by
  induction ps generalizing s with
  | nil => rfl
  | cons p rest ih =>
    have read := blind.readCodeword s t p.1 path
    rw [Chip.readDram]
    split
    next h => rw [h] at read; exact read
    next u bs h =>
      rw [h] at read
      have later := ih u
      split
      next h' => rw [h'] at later; exact later.trans read
      next h' => rw [h'] at later; exact later.trans read

theorem readLine (s : Chip) (l : CacheLine) (path : Path) (ps : List (Nat × Nat)) : g (s.readLine l path ps).1 = g s := by
  induction ps generalizing s with
  | nil => rfl
  | cons p rest ih =>
    have later := ih (s.codeEvent l.stack p.1 path (decodePattern (Table.read [] l.errors (lineWord p.1))))
    rw [blind.codeEvent] at later
    rw [Chip.readLine]
    split
    · exact blind.codeEvent ..
    · split
      next h => rw [h] at later; exact later
      next h => rw [h] at later; exact later

end Chip.EventBlind

/-! ## Codewords, lines and reductions -/

/-- A view that moving bytes of DRAM and lines of the caches leaves too. -/
structure Chip.MoveBlind {β : Type} (g : Chip → β) : Prop extends Chip.EventBlind g where
  dram : ∀ (s : Chip) d e, g { s with dram := d, codeErrors := e } = g s
  lines : ∀ (s : Chip) c r f, g { s with cache := c, recency := r, free := f } = g s

namespace Chip.MoveBlind
variable {β : Type} {g : Chip → β} (blind : MoveBlind g)
include blind

theorem writeCodeword (s : Chip) (t : StackId) (a : Nat) (bs : List Byte) : g (s.writeCodeword t a bs) = g s := blind.dram ..
theorem poisonCodeword (s : Chip) (t : StackId) (a : Nat) : g (s.poisonCodeword t a) = g s := blind.dram ..

theorem moveCodeword (s : Chip) (t : StackId) (a : Nat) (raw : List Byte) (pat : ErrorPattern) : g (s.moveCodeword t a raw pat) = g s := by
  unfold Chip.moveCodeword
  dsimp only
  split
  · exact blind.writeCodeword ..
  · exact blind.dram s _ _

theorem writeDram (s : Chip) (t : StackId) (bs : List Byte) (ps : List (Nat × Nat)) : g (s.writeDram t bs ps).1 = g s := by
  induction ps generalizing s bs with
  | nil => rfl
  | cons p rest ih =>
    have read := blind.readCodeword s t p.1 .merge
    rw [Chip.writeDram]
    refine (ih _ _).trans ?_
    split
    · exact blind.writeCodeword ..
    · split
      next h => rw [h] at read; exact read
      next h => rw [h] at read; exact (blind.writeCodeword ..).trans read

theorem writeBack (s : Chip) (l : CacheLine) : g (s.writeBack l) = g s := by
  rw [Chip.writeBack]
  split
  · exact blind.writeDram ..
  · refine foldl_keeps g _ _ _ (fun u j => ?_)
    dsimp only
    split
    · exact blind.moveCodeword ..
    · exact blind.poisonCodeword ..

theorem dropLine (s : Chip) (t : StackId) (line : Nat) : g (s.dropLine t line) = g s := blind.lines s _ _ _

/-- A line written back when it is dirty, then dropped. -/
theorem evict (s : Chip) (l : CacheLine) (t : StackId) (line : Nat) : g ((if l.dirty then s.writeBack l else s).dropLine t line) = g s := by
  rw [blind.dropLine]
  split
  · exact blind.writeBack ..
  · rfl

theorem putLine (s : Chip) (l : CacheLine) (w : Fin 16) : g (s.putLine l w) = g s := blind.lines s _ _ _

theorem allocate (s : Chip) (l : CacheLine) : g (s.allocate l) = g s := by
  rw [Chip.allocate]
  dsimp only
  split
  · exact blind.lines s _ _ _
  · split
    · rfl
    · exact (blind.putLine ..).trans (blind.evict ..)

theorem afterHit (s : Chip) (l : CacheLine) (hint : BitVec 2) : g (s.afterHit l hint) = g s := by
  rw [Chip.afterHit]
  split
  · exact blind.evict ..
  · split_ifs <;> exact blind.lines s _ _ _

theorem readPiece (s : Chip) (t : StackId) (a n : Nat) (slit : Bool) (hint : BitVec 2) (path : Path) : g (s.readPiece t a n slit hint path).1 = g s := by
  rw [Chip.readPiece]
  dsimp only
  split
  · split
    · exact blind.afterHit ..
    · exact (blind.afterHit ..).trans (blind.readLine ..)
  · split
    · exact blind.readDram ..
    · have read := blind.readDram s t path (pieces 64 (a / 256 * 256) 256)
      split
      next h => rw [h] at read; exact (blind.allocate ..).trans read
      next h => rw [h] at read; exact (blind.readDram ..).trans read

theorem writePiece (s : Chip) (t : StackId) (a : Nat) (bs : List Byte) (slit : Bool) (hint : BitVec 2) (path : Path) :
    g (s.writePiece t a bs slit hint path).1 = g s := by
  rw [Chip.writePiece]
  dsimp only
  split
  · exact blind.afterHit ..
  · split
    · exact blind.writeDram ..
    · split
      · exact blind.allocate ..
      · have read := blind.readDram s t path (pieces 64 (a / 256 * 256) 256)
        split
        next h => rw [h] at read; exact (blind.allocate ..).trans read
        next h => rw [h] at read; exact (blind.writeDram ..).trans read

theorem reduce (s : Chip) (t : StackId) (r : RedReq) : g (s.reduce t r).1 = g s := by
  have read := blind.readCodeword (s.stackEvent t 3 (s.classOf r.agent) 1) t r.saddr .reducer
  rw [blind.stackEvent] at read
  rw [Chip.reduce]
  dsimp only
  split
  next h => rw [h] at read; exact read
  next h => rw [h] at read; exact (blind.writeCodeword ..).trans read

theorem expel (s : Chip) (t : StackId) (a : Nat) : g (s.expel t a) = g s := by
  rw [Chip.expel]
  split
  · rfl
  · exact blind.evict ..

theorem copyBlock (s : Chip) (t : StackId) (block repl : Nat) : g (s.copyBlock t block repl) = g s := by
  refine foldl_keeps g _ _ _ (fun u i => ?_)
  dsimp only
  split
  · exact (blind.writeCodeword ..).trans (blind.readCodeword ..)
  · exact (blind.poisonCodeword ..).trans (blind.readCodeword ..)

theorem settleRetire (s : Chip) (t : StackId) (a n : Nat) : g (s.settleRetire t a n) = g s := by
  rw [Chip.settleRetire]
  split
  · rw [Chip.retireCopy]
    dsimp only
    split
    · rfl
    · exact Eq.trans (blind.stack _ _ _ fun _ => ⟨rfl, rfl⟩) (blind.copyBlock ..)
  · rfl

theorem settleRefresh (s : Chip) (t : StackId) (x : Nat) : g (s.settleRefresh t x) = g s := by
  rw [Chip.settleRefresh]
  split
  · rfl
  · exact (blind.stackEvent ..).trans (blind.stack _ _ _ fun _ => ⟨rfl, rfl⟩)

/-! ## What lets requests into the queue, and performs them -/

section
variable {t : StackId} (any : ∀ s f, g (Chip.updStack s t f) = g s)
include any

theorem grant (s : Chip) (fuel : Nat) : g (s.grant t fuel) = g s := by
  induction fuel generalizing s with
  | zero => rfl
  | succ f ih =>
    rw [Chip.grant]
    dsimp only
    split
    · rfl
    · split
      · exact (ih _).trans (blind.nextPair s t)
      · split
        · exact (ih _).trans (blind.nextPair s t)
        · exact (ih _).trans ((any _ _).trans (blind.expel ..))

theorem popReduction (s : Chip) (rest : List RedReq) : g (s.popReduction t rest) = g s := by
  rw [Chip.popReduction]
  split
  · exact any ..
  · rw [Chip.grantAll]
    split
    · exact (blind.head ..).trans (any ..)
    · exact (blind.grant any ..).trans ((blind.head ..).trans (any ..))

theorem drain (s : Chip) (n : Nat) : g (s.drain t n).1 = g s := by
  induction n generalizing s with
  | zero => rfl
  | succ n ih =>
    rw [Chip.drain]
    split
    · rfl
    next r rest _ =>
      have one : g ((s.popReduction t rest).reduce t r).1 = g s := (blind.reduce ..).trans (blind.popReduction any ..)
      dsimp only
      split
      · exact one
      · exact (ih _).trans one

theorem settleFor (s : Chip) (w : Who) (slit : Bool) (x n : Nat) : g (s.settleFor t w slit x n) = g s := by
  rw [Chip.settleFor]
  split <;> exact blind.drain any ..

end

section
variable (any : ∀ s t f, g (Chip.updStack s t f) = g s)
include any

theorem readMem (s : Chip) (w : Who) (a n : Nat) (slit : Bool) : g (s.readMem w a n slit).1 = g s := by
  rw [Chip.readMem, Chip.readMemVia]
  split
  · exact blind.d2dErr ..
  next t x _ =>
    exact (blind.readPiece ..).trans ((blind.pieceCost ..).trans ((blind.settleRefresh ..).trans ((blind.settleRetire ..).trans
      (blind.settleFor (fun s f => any s t f) ..))))

theorem writeMem (s : Chip) (w : Who) (a : Nat) (bs : List Byte) (slit : Bool) : g (s.writeMem w a bs slit).1 = g s := by
  rw [Chip.writeMem]
  split
  · exact blind.d2dErr ..
  next t x _ =>
    exact (blind.writePiece ..).trans ((blind.pieceCost ..).trans ((blind.settleRefresh ..).trans ((blind.settleRetire ..).trans
      (blind.settleFor (fun s f => any s t f) ..))))

end

end Chip.MoveBlind

/-! ## Views -/

theorem Chip.stores_eventBlind : EventBlind Chip.stores :=
  ⟨fun _ _ _ => rfl, fun s d kind code => by simp [Chip.stores], fun _ _ _ _ => rfl⟩

theorem Chip.cache_eventBlind : EventBlind Chip.cache :=
  ⟨fun _ _ _ => rfl, fun s d kind code => by simp, fun _ _ _ _ => rfl⟩

theorem Chip.scratch_moveBlind : MoveBlind Chip.scratch :=
  ⟨⟨fun _ _ _ => rfl, fun s d kind code => by simp, fun _ _ _ _ => rfl⟩, fun _ _ _ => rfl, fun _ _ _ _ => rfl⟩

end Sys2Proof.Machine
end

section
/-! The way of one access within a codeword or a line: its address, the memory it meets, and what its charges and counts leave (R54, R183 to R187, R195, R204, R420). -/

namespace Sys2Proof.Machine

open Host

/-! ## Bytes -/

theorem Memory.bytes_eq_map (m : Memory) (a n : Nat) : m.bytes a n = (List.range n).map (fun i => Memory.byte m (a + i)) := by
  refine List.ext_getElem (by simp) fun i h _ => ?_
  have read := Memory.bytes_getD m a n i (by simpa using h)
  rw [List.getD_eq_getElem _ _ h] at read
  simp [read]

/-- Part of the bytes of a range. -/
theorem Memory.bytes_part (m : Memory) (a n o k : Nat) (inside : o + k ≤ n) : ((m.bytes a n).drop o).take k = m.bytes (a + o) k := by
  refine List.ext_getElem (by simp; omega) fun i h _ => ?_
  simp only [Memory.bytes_eq_map, List.getElem_take, List.getElem_drop, List.getElem_map, List.getElem_range]
  rw [Nat.add_assoc]

/-- A codeword with a part of it replaced. -/
theorem Memory.byte_putBytes_merged (m : Memory) (a n o : Nat) (bs : List Byte) (inside : o + bs.length ≤ n) (x : Nat) :
    Memory.byte (m.putBytes a ((m.bytes a n).take o ++ bs ++ (m.bytes a n).drop (o + bs.length))) x =
      if a + o ≤ x ∧ x < a + o + bs.length then bs.getD (x - (a + o)) 0 else m.byte x := by
  have before : ((m.bytes a n).take o).length = o := by rw [List.length_take, Memory.bytes_length]; omega
  have front : ((m.bytes a n).take o ++ bs).length = o + bs.length := by rw [List.length_append, before]
  have whole : ((m.bytes a n).take o ++ bs ++ (m.bytes a n).drop (o + bs.length)).length = n := by
    rw [List.length_append, front, List.length_drop, Memory.bytes_length]; omega
  rw [Memory.byte_putBytes, whole]
  by_cases part : a + o ≤ x ∧ x < a + o + bs.length
  · rw [if_pos (by omega), if_pos part, List.getD_append _ _ _ _ (by omega), List.getD_append_right _ _ _ _ (by omega), before, Nat.sub_sub]
  · rw [if_neg part]
    by_cases there : a ≤ x ∧ x < a + n
    · have old := Memory.bytes_getD m a n (x - a) (by omega)
      rw [show a + (x - a) = x by omega] at old
      rw [if_pos there]
      by_cases low : x - a < o
      · rw [List.getD_append _ _ _ _ (by omega), List.getD_append _ _ _ _ (by omega), List.getD_eq_getElem?_getD, List.getElem?_take_of_lt low,
          ← List.getD_eq_getElem?_getD, old]
      · rw [List.getD_append_right _ _ _ _ (by omega), front, List.getD_eq_getElem?_getD, List.getElem?_drop, ← List.getD_eq_getElem?_getD,
          show o + bs.length + (x - a - (o + bs.length)) = x - a by omega, old]
    · rw [if_neg there]

/-! ## Addresses -/

/-- A granule of 4,096 bytes keeps its order in its stack (R54). -/
theorem translate_offset (e : Word64) (a : Nat) : (translate e a).2 % 4096 = a % 4096 := by
  unfold translate regionFrame
  dsimp only
  split <;> dsimp only <;> omega

theorem Chip.resolve_offset {s : Chip} {w : Who} {a : Nat} {write : Bool} {n : StackId} {y : Nat} (resolved : s.resolve w a write = .ok (n, y)) :
    y % 4096 = a % 4096 := by
  unfold Chip.resolve at resolved
  dsimp only at resolved
  split_ifs at resolved
  have found : translate (Table.read 0 (s.die w.die).regions (clip 2048 (a / 2 ^ 30))) a = (n, y) := by simpa using resolved
  rw [← translate_offset (Table.read 0 (s.die w.die).regions (clip 2048 (a / 2 ^ 30))) a, found]

/-- Retirement moves blocks whole: a codeword keeps its order (R420). -/
theorem Stack.phys_add (x : Stack) (a i : Nat) (inside : a % 64 + i < 64) : x.phys (a + i) = x.phys (a / 64 * 64) + (a % 64 + i) := by
  have block : (a + i) / 65536 = a / 64 * 64 / 65536 := by omega
  rw [Stack.phys, Stack.phys, block]
  split
  · omega
  · omega

theorem dramKey_add (t : StackId) (a i : Nat) : dramKey t (a + i) = dramKey t a + i := by
  unfold dramKey; omega

/-- The bytes of an access within one codeword. -/
theorem dramBytes_within {s : State} {n : StackId} {y len : Nat} (inside : y % 64 + len ≤ 64) :
    dramBytes s n y len = s.chip.dram.bytes (dramKey n ((s.chip.stack n).phys (y / 64 * 64)) + y % 64) len := by
  rw [dramBytes, Memory.bytes_eq_map]
  refine List.map_congr_left fun i hi => ?_
  have small : i < len := List.mem_range.1 hi
  rw [dramAt, Stack.phys_add _ _ _ (by omega), dramKey_add, Nat.add_assoc]


/-! ## What an access meets on its way -/

/-- Nothing on its way holds or delays an access: no reduction is queued or waits at its stack, no retirement runs, and its pseudo-channel owes fewer than 4 refreshes. -/
structure Stack.Open (x : Stack) (y : Nat) : Prop where
  queue : x.redQueue = []
  wait : x.redWait = []
  retire : x.retireBusy = false
  owed : Table.read 0 x.owed (pseudoChannel y) < 4

theorem Stack.Open.not_held {x : Stack} {y : Nat} (free : x.Open y) (a n : Nat) : x.held a n = false := by
  simp [Stack.held, free.retire]

theorem Chip.settle_empty {s : Chip} {t : StackId} (empty : (s.stack t).redQueue = []) (a n : Nat) : s.settle t a n = s := by
  rw [Chip.settle, empty]
  rfl

theorem Chip.settleFor_empty {s : Chip} {t : StackId} (empty : (s.stack t).redQueue = []) (w : Who) (slit : Bool) (a n : Nat) :
    s.settleFor t w slit a n = s := by
  rw [Chip.settleFor, settle_empty empty, settle_empty empty, ite_self]

theorem Chip.settled_of_open {s : Chip} {t : StackId} {y : Nat} (free : (s.stack t).Open y) (w : Who) (slit : Bool) (n : Nat) :
    ((s.settleFor t w slit y n).settleRetire t y n).settleRefresh t y = s := by
  rw [settleFor_empty free.queue, Chip.settleRetire, if_neg (by simp [free.not_held]), Chip.settleRefresh]
  exact if_pos (.inl free.owed)

theorem Chip.heldOpen_of_open {s : Chip} {w : Who} {a n : Nat} {write : Bool} {t : StackId} {y : Nat} (resolved : s.resolve w a write = .ok (t, y))
    (free : (s.stack t).Open y) : s.heldOpen w a n write = false := by
  have few := free.owed
  simp [Chip.heldOpen, resolved, free.not_held, few]

/-! ## Charges and counts -/

/-- What charges and counts may change: the heads of blocks, and of the stacks neither queues nor retired blocks. -/
def Chip.Charged (s t : Chip) : Prop :=
  (∃ h k, t = { s with heads := h, stk := k }) ∧
  ∀ n, (t.stack n).redQueue = (s.stack n).redQueue ∧ (t.stack n).redWait = (s.stack n).redWait ∧ (t.stack n).retireTable = (s.stack n).retireTable

theorem Chip.Charged.refl (s : Chip) : s.Charged s := ⟨⟨_, _, rfl⟩, fun _ => ⟨rfl, rfl, rfl⟩⟩

theorem Chip.Charged.trans {s t u : Chip} (first : s.Charged t) (second : t.Charged u) : s.Charged u := by
  obtain ⟨⟨h, k, rfl⟩, kept⟩ := first
  obtain ⟨⟨h', k', rfl⟩, kept'⟩ := second
  exact ⟨⟨h', k', rfl⟩, fun n => by rw [(kept' n).1, (kept' n).2.1, (kept' n).2.2]; exact kept n⟩

theorem Chip.Charged.updHead (s : Chip) (b : Block) (f : Head → Head) : s.Charged (s.updHead b f) := ⟨⟨_, _, rfl⟩, fun _ => ⟨rfl, rfl, rfl⟩⟩

theorem Chip.Charged.updStack (s : Chip) (t : StackId) (f : Stack → Stack)
    (kept : ∀ x, (f x).redQueue = x.redQueue ∧ (f x).redWait = x.redWait ∧ (f x).retireTable = x.retireTable) : s.Charged (s.updStack t f) := by
  refine ⟨⟨_, _, rfl⟩, fun n => ?_⟩
  rw [Chip.updStack_stack]
  split
  next h => rw [h]; exact kept _
  next h => exact ⟨rfl, rfl, rfl⟩

theorem Chip.Charged.stackEvent (s : Chip) (t : StackId) (event cls amount : Nat) : s.Charged (s.stackEvent t event cls amount) := by
  unfold Chip.stackEvent
  exact .trans (.updHead _ _ _) (.updStack _ _ _ fun _ => ⟨rfl, rfl, rfl⟩)

theorem Chip.Charged.pieceCost (s : Chip) (t : StackId) (w : Who) (slit hit : Bool) : s.Charged (s.pieceCost t w slit hit) := by
  have paid (bytes : Nat) : s.Charged (s.charge t w bytes) := by
    unfold Chip.charge
    exact .updStack _ _ _ fun _ => ⟨rfl, rfl, rfl⟩
  rw [Chip.pieceCost]
  cases slit with
  | true => exact .trans (paid _) (.trans (.updHead _ _ _) (.stackEvent _ _ _ _ _))
  | false => cases hit with
    | true => exact paid _
    | false => exact .trans (paid _) (.stackEvent _ _ _ _ _)

section
variable {s t : Chip}

theorem Chip.Charged.phys (same : s.Charged t) (n : StackId) (a : Nat) : (t.stack n).phys a = (s.stack n).phys a := by
  rw [Stack.phys, Stack.phys, (same.2 n).2.2]

theorem Chip.Charged.dram (same : s.Charged t) : t.dram = s.dram := by obtain ⟨⟨h, k, rfl⟩, -⟩ := same; rfl
theorem Chip.Charged.codeErrors (same : s.Charged t) : t.codeErrors = s.codeErrors := by obtain ⟨⟨h, k, rfl⟩, -⟩ := same; rfl
theorem Chip.Charged.cache (same : s.Charged t) : t.cache = s.cache := by obtain ⟨⟨h, k, rfl⟩, -⟩ := same; rfl
theorem Chip.Charged.stores (same : s.Charged t) : t.stores = s.stores := by obtain ⟨⟨h, k, rfl⟩, -⟩ := same; rfl
theorem Chip.Charged.findLine (same : s.Charged t) (n : StackId) (line : Nat) : t.findLine n line = s.findLine n line := by
  rw [Chip.findLine, Chip.findLine, same.cache]

end


/-! ## Codewords without an error -/

/-- The codeword that holds a stack address carries no error. -/
def Chip.Sound (s : Chip) (t : StackId) (y : Nat) : Prop := s.patternOf t y = []

theorem Chip.readCodeword_sound {s : Chip} {t : StackId} {y : Nat} (sound : s.Sound t y) (path : Path) :
    s.readCodeword t y path = (s, .ok (s.dram.bytes (dramKey t ((s.stack t).phys (y / 64 * 64))) 64)) := by
  rw [Chip.readCodeword]
  exact if_pos sound

/-- A read within a sound codeword. -/
theorem Chip.readDram_sound {s : Chip} {t : StackId} {y n : Nat} (sound : s.Sound t y) (inside : y % 64 + n ≤ 64) (path : Path) :
    s.readDram t path [(y, n)] = (s, .ok (s.dram.bytes (dramKey t ((s.stack t).phys (y / 64 * 64)) + y % 64) n)) := by
  simp only [Chip.readDram, readCodeword_sound sound, List.append_nil, Memory.bytes_part _ _ _ _ _ inside]

/-- What a write within one codeword leaves: DRAM but for its bytes, and the error patterns of no other codeword. -/
structure Chip.Wrote (s : Chip) (t : StackId) (y : Nat) (bs : List Byte) (u : Chip) : Prop where
  shape : ∃ d e, u = { s with dram := d, codeErrors := e }
  byte : ∀ x, u.dram.byte x =
    let lo := dramKey t ((s.stack t).phys (y / 64 * 64)) + y % 64
    if lo ≤ x ∧ x < lo + bs.length then bs.getD (x - lo) 0 else s.dram.byte x

theorem Chip.writeDram_sound {s : Chip} {t : StackId} {y : Nat} {bs : List Byte} (sound : s.Sound t y) (inside : y % 64 + bs.length ≤ 64) :
    ∃ u, s.writeDram t bs [(y, bs.length)] = (u, none) ∧ s.Wrote t y bs u := by
  by_cases whole : bs.length = 64
  · have start : y % 64 = 0 := by omega
    refine ⟨s.writeCodeword t y bs, ?_, ⟨⟨_, _, rfl⟩, fun x => ?_⟩⟩
    · rw [Chip.writeDram, if_pos whole, List.take_length]
      rfl
    · dsimp only
      rw [start, Nat.add_zero]
      exact Memory.byte_putBytes _ _ _ _
  · let old := s.dram.bytes (dramKey t ((s.stack t).phys (y / 64 * 64))) 64
    refine ⟨s.writeCodeword t y (old.take (y % 64) ++ bs ++ old.drop (y % 64 + bs.length)), ?_, ⟨⟨_, _, rfl⟩, fun x => ?_⟩⟩
    · simp only [Chip.writeDram, if_neg whole, readCodeword_sound sound, List.take_length, Option.or_none, old]
    · exact Memory.byte_putBytes_merged _ _ _ _ _ inside _

/-! ## One access on the Slit path -/

/-- An access that resolves, and that nothing delays. -/
structure Chip.Met (s : Chip) (w : Who) (a : Nat) (write : Bool) (t : StackId) (y : Nat) : Prop where
  resolved : s.resolve w a write = .ok (t, y)
  free : (s.stack t).Open y
  sound : s.Sound t y

theorem Chip.readMem_slit {s : Chip} {w : Who} {a n : Nat} {t : StackId} {y : Nat} (met : s.Met w a false t y) (miss : s.findLine t (y / 256) = none)
    (some_ : 1 ≤ n) (inside : a % 64 + n ≤ 64) :
    ∃ u, s.Charged u ∧ s.readMem w a n true = (u, .ok (s.dram.bytes (dramKey t ((s.stack t).phys (y / 64 * 64)) + y % 64) n)) := by
  have offset := resolve_offset met.resolved
  have charged := Charged.pieceCost s t w true (s.findLine t (y / 256)).isSome
  refine ⟨_, charged, ?_⟩
  have sound : Chip.Sound (s.pieceCost t w true (s.findLine t (y / 256)).isSome) t y := by
    rw [Chip.Sound, Chip.patternOf, charged.phys, charged.codeErrors]
    exact met.sound
  have miss' := (charged.findLine t (y / 256)).trans miss
  rw [Chip.readMem, Chip.readMemVia, met.resolved]
  dsimp only
  rw [settled_of_open met.free, Chip.readPiece, miss']
  dsimp only
  rw [if_pos (.inl rfl), pieces_of_within 64 y n some_ (by omega), readDram_sound sound (by omega), charged.dram, charged.phys]

theorem Chip.writeMem_slit {s : Chip} {w : Who} {a : Nat} {bs : List Byte} {t : StackId} {y : Nat} (met : s.Met w a true t y)
    (miss : s.findLine t (y / 256) = none) (some_ : 1 ≤ bs.length) (inside : a % 64 + bs.length ≤ 64) :
    ∃ u v, s.Charged u ∧ u.Wrote t y bs v ∧ s.writeMem w a bs true = (v, none) := by
  have offset := resolve_offset met.resolved
  have charged := Charged.pieceCost s t w true (s.findLine t (y / 256)).isSome
  have sound : Chip.Sound (s.pieceCost t w true (s.findLine t (y / 256)).isSome) t y := by
    rw [Chip.Sound, Chip.patternOf, charged.phys, charged.codeErrors]
    exact met.sound
  obtain ⟨v, write, wrote⟩ := writeDram_sound (bs := bs) sound (by omega)
  refine ⟨_, v, charged, wrote, ?_⟩
  have miss' := (charged.findLine t (y / 256)).trans miss
  rw [Chip.writeMem, met.resolved]
  dsimp only
  rw [settled_of_open met.free, Chip.writePiece, miss']
  dsimp only
  rw [if_pos (.inl rfl), pieces_of_within 64 y bs.length some_ (by omega), write]


/-! ## What is read back -/

section
variable {s t : State} {n : StackId} {y : Nat} {bs : List Byte} {u v : Chip} (wrote : u.Wrote n y bs v)
include wrote

/-- The bytes of a write within one codeword are the only ones that change. -/
theorem Chip.Wrote.onlyDram (charged : s.chip.Charged u) (stores : t.chip.stores = v.stores) (host : t.hostMem = s.hostMem) : OnlyDram n y bs.length s t := by
  obtain ⟨⟨d, e, rfl⟩, byte⟩ := wrote
  obtain ⟨dram, scratch, engineStore⟩ : t.chip.dram = d ∧ t.chip.scratch = u.scratch ∧ t.chip.engineStore = u.engineStore := by
    simpa [Chip.stores] using stores
  obtain ⟨-, scratch', engineStore'⟩ : u.dram = s.chip.dram ∧ u.scratch = s.chip.scratch ∧ u.engineStore = s.chip.engineStore := by
    simpa [Chip.stores] using charged.stores
  have start : dramKey n ((s.chip.stack n).phys y) = dramKey n ((s.chip.stack n).phys (y / 64 * 64)) + y % 64 := by
    rw [← dramKey_add]
    exact congrArg (dramKey n) (Stack.phys_add _ y 0 (by omega))
  refine ⟨scratch.trans scratch', engineStore.trans engineStore', host, fun b outside => ?_⟩
  rw [start] at outside
  have kept := byte b
  rw [charged.phys, charged.dram] at kept
  rw [dram]
  exact kept.trans (if_neg (by omega))

/-- A later read of the same bytes finds what was written. -/
theorem Chip.Wrote.dramBytes_eq (inside : y % 64 + bs.length ≤ 64) (dram : t.chip.dram = v.dram) (stk : t.chip.stk = v.stk) : dramBytes t n y bs.length = bs := by
  obtain ⟨⟨d, e, rfl⟩, byte⟩ := wrote
  have stack : t.chip.stack n = u.stack n := by rw [Chip.stack, Chip.stack, stk]
  rw [dramBytes_within inside, stack, Memory.bytes_eq_map, dram]
  refine List.ext_getElem (by simp) fun i _ small => ?_
  rw [List.getElem_map, List.getElem_range]
  refine (byte _).trans ((if_pos (by omega)).trans ?_)
  rw [Nat.add_sub_cancel_left, List.getD_eq_getElem _ _ small]

end

/-! ## The command -/

theorem Reaches.met {s : State} {w : Who} {a : Nat} {write : Bool} {n : StackId} {y : Nat} (reaches : Reaches s w a write n y) : s.chip.Met w a write n y := by
  obtain ⟨-, -, resolved, queue, wait, retire, owed, sound⟩ := reaches
  exact ⟨resolved, ⟨queue, wait, retire, owed⟩, sound⟩

theorem Chip.readStack_single {s : Chip} {a : Nat} (memory : a < 2 ^ 41) (w : Who) (slit : Bool) (n : Nat) :
    s.readStack w slit [(a, n)] = s.readMem w a n slit := by
  rw [Chip.readStack, if_neg (by omega)]
  rcases s.readMem w a n slit with ⟨u, c | bs⟩
  · rfl
  · simp [Chip.readStack]

theorem Chip.writeStack_single {s : Chip} {a : Nat} (memory : a < 2 ^ 41) (w : Who) (slit : Bool) (bs : List Byte) :
    s.writeStack w slit bs [(a, bs.length)] = s.writeMem w a bs slit := by
  rw [Chip.writeStack, if_neg (by omega), List.take_length]
  simp [Chip.writeStack]

/-- The bytes of a piece on a path. -/
def pieceSize (slit : Bool) : Nat := if slit then 64 else 256

section
variable {s : Chip} {a : Agent} {x : StackReq} {slit : Bool} (memory : x.addr.toNat < 2 ^ 41)
include memory

/-- A read that is one piece and is not held. -/
theorem Chip.stackAccess_read (noData : x.data = none) (some_ : 1 ≤ x.len) (inside : x.addr.toNat % pieceSize slit + x.len ≤ pieceSize slit)
    (free : s.heldOpen { whoOf a with hint := hintOf a x.hint } x.addr.toNat x.len false = false) :
    s.stackAccess a x slit = Chip.answer (s.readMem { whoOf a with hint := hintOf a x.hint } x.addr.toNat x.len slit) := by
  unfold Chip.stackAccess
  rw [noData]
  dsimp only
  rw [← pieceSize, pieces_of_within _ _ _ some_ inside, List.any_cons, free, readStack_single memory]
  rfl

/-- A write that is one piece and is not held. -/
theorem Chip.stackAccess_write {bs : List Byte} (data : x.data = some bs) (some_ : 1 ≤ bs.length)
    (inside : x.addr.toNat % pieceSize slit + bs.length ≤ pieceSize slit)
    (free : s.heldOpen { whoOf a with hint := hintOf a x.hint } x.addr.toNat bs.length true = false) :
    s.stackAccess a x slit = Chip.acknowledge (s.writeMem { whoOf a with hint := hintOf a x.hint } x.addr.toNat bs slit) := by
  unfold Chip.stackAccess
  rw [data]
  dsimp only
  rw [← pieceSize, pieces_of_within _ _ _ some_ inside, List.any_cons, free, writeStack_single memory]
  rfl

end

/-! ## Hits of the stack cache -/

theorem CacheLine.is_self (l : CacheLine) : l.is l.stack l.line = true := by simp [CacheLine.is]

theorem Chip.findLine_is {s : Chip} {t : StackId} {line : Nat} {l : CacheLine} (found : s.findLine t line = some l) : l.stack = t ∧ l.line = line := by
  have is := List.find?_some found
  simpa [CacheLine.is] using is

theorem Chip.findLine_makeRecent (s : Chip) (l : CacheLine) (t : StackId) (line : Nat) : (s.makeRecent l).findLine t line = s.findLine t line := rfl

/-- A line replaced in place is found in place of the old one. -/
theorem Chip.findLine_setLine {s : Chip} {t : StackId} {line : Nat} {l : CacheLine} (found : s.findLine t line = some l) {new : CacheLine}
    (same : new.stack = t ∧ new.line = line) : (s.setLine new).findLine t line = some new := by
  obtain ⟨rfl, rfl⟩ := same
  have is (l : CacheLine) : (if l.is new.stack new.line then new else l).is new.stack new.line = l.is new.stack new.line := by
    split
    next h => rw [h, new.is_self]
    next => rfl
  simp only [Chip.findLine, Chip.setLine] at found ⊢
  have test : ((fun l : CacheLine => l.is new.stack new.line) ∘ fun l : CacheLine => if l.is new.stack new.line = true then new else l) =
    fun l : CacheLine => l.is new.stack new.line := funext is
  rw [List.find?_map, test, found, Option.map_some, List.find?_some found, if_pos rfl]

/-- A hit without a hint replaces its line and makes it recent. -/
theorem Chip.afterHit_unhinted (s : Chip) (l : CacheLine) : s.afterHit l 0 = (s.setLine l).makeRecent l := by
  simp [Chip.afterHit]

theorem CacheLine.word_clean {l : CacheLine} (clean : l.errors = []) (j : Fin 4) : l.word j = .ok (l.raw j) := by
  simp [CacheLine.word, clean, decodeWord]

section
variable {s : Chip} {w : Who} {a n : Nat} {t : StackId} {y : Nat} {l : CacheLine}

/-- A main-path read that hits: what it is charged, and the line it reads. -/
theorem Chip.readMem_hit (met : s.Met w a false t y) (hit : s.findLine t (y / 256) = some l) :
    ∃ u, s.Charged u ∧ s.readMem w a n false = u.readPiece t y n false w.hint .main ∧ u.findLine t (y / 256) = some l := by
  have charged := Charged.pieceCost s t w false (s.findLine t (y / 256)).isSome
  refine ⟨_, charged, ?_, (charged.findLine ..).trans hit⟩
  rw [Chip.readMem, Chip.readMemVia, met.resolved]
  dsimp only
  rw [settled_of_open met.free]
  rfl

theorem Chip.writeMem_hit {bs : List Byte} (met : s.Met w a true t y) (hit : s.findLine t (y / 256) = some l) :
    ∃ u, s.Charged u ∧ s.writeMem w a bs false = u.writePiece t y bs false w.hint .main ∧ u.findLine t (y / 256) = some l := by
  have charged := Charged.pieceCost s t w false (s.findLine t (y / 256)).isSome
  refine ⟨_, charged, ?_, (charged.findLine ..).trans hit⟩
  rw [Chip.writeMem, met.resolved]
  dsimp only
  rw [settled_of_open met.free]
  rfl

theorem Chip.readPiece_hit (hit : s.findLine t (y / 256) = some l) (clean : l.errors = []) (path : Path) :
    s.readPiece t y n false 0 path = ((s.setLine l).makeRecent l, .ok ((l.data.drop (y % 256)).take n)) := by
  rw [Chip.readPiece, hit]
  dsimp only
  rw [if_pos clean, afterHit_unhinted]

/-- A read that meets a bad codeword of its line. -/
theorem Chip.readPiece_hit_bad {f : FaultCode} (hit : s.findLine t (y / 256) = some l) (bad : l.word (lineWord y) = .error f) (some_ : 1 ≤ n)
    (inside : y % 64 + n ≤ 64) (path : Path) :
    s.readPiece t y n false 0 path =
      (((s.codeEvent l.stack y path (decodePattern (Table.read [] l.errors (lineWord y)))).setLine l).makeRecent l, .error f) := by
  have errors : l.errors ≠ [] := fun clean => by simp [CacheLine.word_clean clean] at bad
  rw [Chip.readPiece, hit]
  dsimp only
  rw [if_neg errors, pieces_of_within 64 y n some_ inside, Chip.readLine, bad, afterHit_unhinted]

theorem Chip.writePiece_hit {bs : List Byte} (hit : s.findLine t (y / 256) = some l) (clean : l.errors = []) (path : Path) :
    let new : CacheLine := { l with data := splice l.data (y % 256) bs, dirty := true }
    s.writePiece t y bs false 0 path = ((s.setLine new).makeRecent new, none) := by
  dsimp only
  rw [Chip.writePiece, hit]
  dsimp only
  rw [CacheLine.store, if_pos clean, afterHit_unhinted]

end

/-! ## The statement -/

section
variable (s : State) (a : Agent) (x : StackReq) (n : StackId) (y : Nat)

theorem slitRead_answersDram (miss : s.chip.findLine n (y / 256) = none) (noData : x.data = none) (some_ : 1 ≤ x.len) (inside : x.addr.toNat % 64 + x.len ≤ 64)
    (reaches : Reaches s { whoOf a with hint := hintOf a x.hint } x.addr.toNat false n y) :
    ∃ t, Runs (.slitAccess a x) s t ∧ SameMemory s t ∧ t.chip.cache = s.chip.cache ∧ t.chip.out = .bytes (dramBytes s n y x.len) := by
  have met := reaches.met
  have offset := Chip.resolve_offset met.resolved
  obtain ⟨u, charged, read⟩ := Chip.readMem_slit met miss some_ inside
  have done : (s.chip.live (Chip.stackAccess a x true)) = Chip.answer (u, .ok (dramBytes s n y x.len)) := by
    rw [Chip.live_unfrozen _ reaches.1, Chip.stackAccess_read (slit := true) reaches.2.1 noData some_ inside (Chip.heldOpen_of_open met.resolved met.free), read,
      dramBytes_within (by omega)]
  refine ⟨_, onChip_next _ _, ?_⟩
  rw [done]
  exact ⟨sameMemory_of_stores charged.stores rfl, charged.cache, rfl⟩

theorem slitWrite_putsBytes (bs : List Byte) (miss : s.chip.findLine n (y / 256) = none) (data : x.data = some bs) (some_ : 1 ≤ bs.length)
    (inside : x.addr.toNat % 64 + bs.length ≤ 64) (reaches : Reaches s { whoOf a with hint := hintOf a x.hint } x.addr.toNat true n y) :
    ∃ t, Runs (.slitAccess a x) s t ∧ OnlyDram n y bs.length s t ∧ t.chip.cache = s.chip.cache ∧ t.chip.out = .none ∧ dramBytes t n y bs.length = bs := by
  have met := reaches.met
  have offset := Chip.resolve_offset met.resolved
  obtain ⟨u, v, charged, wrote, write⟩ := Chip.writeMem_slit met miss some_ inside
  have done : (s.chip.live (Chip.stackAccess a x true)) = Chip.acknowledge (v, none) := by
    rw [Chip.live_unfrozen _ reaches.1, Chip.stackAccess_write (slit := true) reaches.2.1 data some_ inside (Chip.heldOpen_of_open met.resolved met.free), write]
  refine ⟨_, onChip_next _ _, ?_⟩
  rw [done]
  refine ⟨wrote.onlyDram charged rfl rfl, ?_, rfl, wrote.dramBytes_eq (by omega) rfl rfl⟩
  obtain ⟨⟨d, e, rfl⟩, -⟩ := wrote
  exact charged.cache

/-! ## The main path -/

/-- No agent's hint comes with a request that carries none. -/
theorem whoOf_unhinted (a : Agent) {hint : BitVec 2} (unhinted : hint = 0) : ({ whoOf a with hint := hintOf a hint } : Who) = whoOf a := by
  subst unhinted
  cases a <;> rfl

variable {l : CacheLine} (unhinted : x.hint = 0) (hit : s.chip.findLine n (y / 256) = some l)
include unhinted hit

/-- A read on the main path that hits. -/
theorem mainRead_hit (noData : x.data = none) (some_ : 1 ≤ x.len) (inside : x.addr.toNat % 256 + x.len ≤ 256)
    (reaches : Reaches s (whoOf a) x.addr.toNat false n y) :
    ∃ u, s.chip.Charged u ∧ u.findLine n (y / 256) = some l ∧
      Runs (.mainPathAccess a x) s { s with chip := Chip.answer (u.readPiece n y x.len false 0 .main) } := by
  have met := reaches.met
  obtain ⟨u, charged, read, hit'⟩ := Chip.readMem_hit met hit (n := x.len)
  have who := whoOf_unhinted a unhinted
  refine ⟨u, charged, hit', (onChip_next _ _).trans ?_⟩
  rw [Chip.live_unfrozen _ reaches.1, Chip.stackAccess_read (slit := false) reaches.2.1 noData some_ inside
    (by rw [who]; exact Chip.heldOpen_of_open met.resolved met.free), who, read]
  rfl

theorem mainWrite_hit {bs : List Byte} (data : x.data = some bs) (some_ : 1 ≤ bs.length) (inside : x.addr.toNat % 256 + bs.length ≤ 256)
    (reaches : Reaches s (whoOf a) x.addr.toNat true n y) :
    ∃ u, s.chip.Charged u ∧ u.findLine n (y / 256) = some l ∧
      Runs (.mainPathAccess a x) s { s with chip := Chip.acknowledge (u.writePiece n y bs false 0 .main) } := by
  have met := reaches.met
  obtain ⟨u, charged, write, hit'⟩ := Chip.writeMem_hit met hit (bs := bs)
  have who := whoOf_unhinted a unhinted
  refine ⟨u, charged, hit', (onChip_next _ _).trans ?_⟩
  rw [Chip.live_unfrozen _ reaches.1, Chip.stackAccess_write (slit := false) reaches.2.1 data some_ inside
    (by rw [who]; exact Chip.heldOpen_of_open met.resolved met.free), who, write]
  rfl

theorem mainRead_badWord {f : FaultCode} (noData : x.data = none) (some_ : 1 ≤ x.len) (inside : x.addr.toNat % 64 + x.len ≤ 64)
    (reaches : Reaches s (whoOf a) x.addr.toNat false n y) (bad : l.word (clip 4 (y % 256 / 64)) = .error f) :
    ∃ t, Runs (.mainPathAccess a x) s t ∧ SameMemory s t ∧ t.chip.out = .fault f := by
  have offset := Chip.resolve_offset reaches.met.resolved
  obtain ⟨u, charged, hit', runs⟩ := mainRead_hit s a x n y unhinted hit noData some_ (by omega) reaches
  rw [Chip.readPiece_hit_bad hit' bad some_ (by omega)] at runs
  exact ⟨_, runs, sameMemory_of_stores ((Chip.stores_eventBlind.codeEvent ..).trans charged.stores) rfl, rfl⟩

theorem mainRead_answersLine (clean : l.errors = []) (noData : x.data = none) (some_ : 1 ≤ x.len) (inside : x.addr.toNat % 256 + x.len ≤ 256)
    (reaches : Reaches s (whoOf a) x.addr.toNat false n y) :
    ∃ t, Runs (.mainPathAccess a x) s t ∧ SameMemory s t ∧ t.chip.findLine n (y / 256) = some l ∧ t.chip.out = .bytes ((l.data.drop (y % 256)).take x.len) := by
  obtain ⟨u, charged, hit', runs⟩ := mainRead_hit s a x n y unhinted hit noData some_ inside reaches
  rw [Chip.readPiece_hit hit' clean] at runs
  exact ⟨_, runs, sameMemory_of_stores charged.stores rfl, Chip.findLine_setLine hit' (Chip.findLine_is hit'), rfl⟩

theorem mainWrite_replacesBytes {bs : List Byte} (clean : l.errors = []) (data : x.data = some bs) (some_ : 1 ≤ bs.length)
    (inside : x.addr.toNat % 256 + bs.length ≤ 256) (reaches : Reaches s (whoOf a) x.addr.toNat true n y) :
    ∃ t, Runs (.mainPathAccess a x) s t ∧ SameMemory s t ∧ t.chip.out = .none ∧
      t.chip.findLine n (y / 256) = some { l with data := l.data.take (y % 256) ++ bs ++ l.data.drop (y % 256 + bs.length), dirty := true } := by
  obtain ⟨u, charged, hit', runs⟩ := mainWrite_hit s a x n y unhinted hit data some_ inside reaches
  rw [Chip.writePiece_hit hit' clean] at runs
  obtain ⟨stack, line⟩ := Chip.findLine_is hit'
  exact ⟨_, runs, sameMemory_of_stores charged.stores rfl, rfl, Chip.findLine_setLine hit' ⟨stack, line⟩⟩

end

/-- Settles O18: an access that nothing delays is charged, and then reads or writes its own codeword of DRAM, or its own line of the cache. -/
theorem stackAccessesByBothPaths : Obligations.StackAccessesByBothPaths := by
  unfold Obligations.StackAccessesByBothPaths
  constructor
  · intro s a x n y bs w at_ miss
    exact ⟨slitRead_answersDram s a x n y miss, slitWrite_putsBytes s a x n y bs miss⟩
  · intro s a x n y l bs w at_ unhinted hit _
    refine ⟨fun f noData some_ inside reaches bad => ?_, fun clean => ⟨?_, ?_⟩⟩
    · exact mainRead_badWord s a x n y unhinted hit noData some_ inside reaches bad
    · exact mainRead_answersLine s a x n y unhinted hit clean
    · exact mainWrite_replacesBytes s a x n y unhinted hit clean

end Sys2Proof.Machine
end

section
/-! Freezes and pops, as a stack's reductions see them: what lets requests into a queue, and what performing them leaves of it (R193 to R195, R478). -/

namespace Sys2Proof.Machine

open Host

/-- A freeze changes dies, ports, the harts' fetching, the host link, and the stacks' self-refresh. -/
theorem Chip.freeze_keeps {β : Type} {g : Chip → β} (dies : ∀ (s : Chip) v l, g { s with dies := v, link := l } = g s)
    (down : ∀ (s : Chip) p l, g { s with ports := p, harts := s.harts.map (fun h => (h.1, { h.2 with fetching := false })), link := l } = g s)
    (stack : ∀ (s : Chip) t, g (s.updStack t (fun x => { x with selfRefresh := true })) = g s) (s : Chip) (d : DieId) (kind : Nat) (code : BitVec 16) :
    g (s.freeze d kind code) = g s := by
  have onDies (c : Word32) (u : Chip) : g (allDies.foldl (fun (s : Chip) x =>
      if (s.die x).ringOn then
        (s.updDie x (fun y => Die.reportFrozen { y with coel := { y.coel with freezing := true, cause := c } })).log x 2 Code.coelostatFreeze 0xFF 0 (c.setWidth 64)
      else s) u) = g u := by
    refine foldl_keeps g _ _ _ (fun u x => ?_)
    split
    · obtain ⟨v, l, logged⟩ := Chip.log_shape
        (u.updDie x (fun y => Die.reportFrozen { y with coel := { y.coel with freezing := true, cause := c } })) x 2 Code.coelostatFreeze 0xFF 0 (c.setWidth 64)
      rw [logged]
      exact dies u v l
    · rfl
  have onStacks (u : Chip) : g (allStacks.foldl (fun (s : Chip) t => if (s.stack t).domainOn then s.updStack t (fun x => { x with selfRefresh := true }) else s) u) = g u := by
    refine foldl_keeps g _ _ _ (fun u t => ?_)
    split
    · exact stack u t
    · rfl
  rw [Chip.freeze]
  split
  · rfl
  · exact (onStacks _).trans ((down _ _ _).trans (onDies _ _))

/-! ## The queued and held reductions of a stack -/

/-- The queue of a stack's reduction engine, and what waits in front of it. -/
def Chip.reductions (t : StackId) (s : Chip) : List RedReq × List RedReq := ((s.stack t).redQueue, (s.stack t).redWait)

theorem Chip.reductions_updStack_other {t u : StackId} (other : t ≠ u) (s : Chip) (f : Stack → Stack) : (s.updStack u f).reductions t = s.reductions t := by
  rw [Chip.reductions, Chip.updStack_stack_other _ _ _ _ other, Chip.reductions]

theorem Chip.reductions_updStack_same (t : StackId) (s : Chip) (f : Stack → Stack) :
    (s.updStack t f).reductions t = ((f (s.stack t)).redQueue, (f (s.stack t)).redWait) := by
  rw [Chip.reductions, Chip.updStack_stack_same]

theorem Chip.reductions_updStack_keeps (t : StackId) (s : Chip) (u : StackId) (f : Stack → Stack)
    (kept : ∀ x : Stack, (f x).redQueue = x.redQueue ∧ (f x).redWait = x.redWait) : (s.updStack u f).reductions t = s.reductions t := by
  by_cases h : t = u
  · subst h
    rw [reductions_updStack_same, (kept _).1, (kept _).2, Chip.reductions]
  · exact reductions_updStack_other h s f

theorem Chip.reductions_moveBlind (t : StackId) : MoveBlind (Chip.reductions t) where
  head _ _ _ := rfl
  freeze := freeze_keeps (fun _ _ _ => rfl) (fun _ _ _ => rfl) (fun s u => reductions_updStack_keeps t s u _ fun _ => ⟨rfl, rfl⟩)
  stack s u f kept := reductions_updStack_keeps t s u f kept
  dram _ _ _ := rfl
  lines _ _ _ _ := rfl

/-- Some of the requests that wait, moved to the end of the queue. -/
def Admits (before after : List RedReq × List RedReq) : Prop :=
  ∃ moved, after.1 = before.1 ++ moved ∧ (moved ++ after.2).Perm before.2

theorem Admits.refl (q : List RedReq × List RedReq) : Admits q q := ⟨[], by simp, .refl _⟩

theorem Admits.trans {p q r : List RedReq × List RedReq} (first : Admits p q) (second : Admits q r) : Admits p r := by
  obtain ⟨m, queue, wait⟩ := first
  obtain ⟨m', queue', wait'⟩ := second
  exact ⟨m ++ m', by rw [queue', queue, List.append_assoc], by rw [List.append_assoc]; exact (wait'.append_left m).trans wait⟩

/-- The arbiter only moves requests from the wait to the end of the queue. -/
theorem Chip.grant_admits (t : StackId) (fuel : Nat) (s : Chip) : Admits (s.reductions t) ((s.grant t fuel).reductions t) := by
  have blind := reductions_moveBlind t
  induction fuel generalizing s with
  | zero => exact .refl _
  | succ f ih =>
    rw [Chip.grant]
    dsimp only
    split
    · exact .refl _
    · have onward : Admits (s.reductions t) (((s.nextPair t).grant t f).reductions t) := by
        rw [← blind.nextPair s t]
        exact ih _
      split
      · exact onward
      next r found =>
        split
        · exact onward
        · refine .trans ⟨[r], ?_⟩ (ih _)
          have mem : r ∈ (s.stack t).redWait := by
            split at found
            · exact List.mem_of_find?_eq_some found
            · cases found
          have same := blind.expel s t r.saddr
          simp only [Chip.reductions, Prod.mk.injEq] at same
          rw [reductions_updStack_same]
          dsimp only [Chip.reductions]
          rw [same.1, same.2]
          exact ⟨rfl, (List.perm_cons_erase mem).symm⟩

theorem Chip.popReduction_admits (t : StackId) (s : Chip) (rest : List RedReq) :
    Admits (rest, (s.stack t).redWait) ((s.popReduction t rest).reductions t) := by
  have popped : (s.updStack t (fun x => { x with redQueue := rest })).reductions t = (rest, (s.stack t).redWait) := reductions_updStack_same ..
  rw [Chip.popReduction, ← popped]
  split
  · exact .refl _
  · rw [Chip.grantAll, ← (reductions_moveBlind t).head _ (.reducer t) (fun h => h.bump 1 4)]
    split
    · exact .refl _
    · exact grant_admits ..

/-- One request performed: it leaves the queue, and requests that waited may follow into it. -/
theorem Chip.perform_admits (t : StackId) (s : Chip) (r : RedReq) (rest : List RedReq) :
    Admits (rest, (s.stack t).redWait) (((s.popReduction t rest).reduce t r).1.reductions t) := by
  rw [(reductions_moveBlind t).reduce]
  exact popReduction_admits ..

/-- A drain performs the oldest request, then drains the rest. -/
theorem Chip.drain_cons {t : StackId} {s : Chip} {r : RedReq} {rest : List RedReq} (queue : (s.stack t).redQueue = r :: rest) (n : Nat) :
    (s.drain t (n + 1)).1 = (((s.popReduction t rest).reduce t r).1.drain t n).1 := by
  rw [Chip.drain, queue]
  cases n <;> rfl

theorem Chip.drain_nil {t : StackId} {s : Chip} (queue : (s.stack t).redQueue = []) (n : Nat) : (s.drain t n).1 = s := by
  cases n with
  | zero => rfl
  | succ n => rw [Chip.drain, queue]

/-- After as many requests as are queued and held, the queue is empty. -/
theorem Chip.drain_empties (t : StackId) (n : Nat) (s : Chip) (enough : (s.stack t).redQueue.length + (s.stack t).redWait.length ≤ n) :
    ((s.drain t n).1.stack t).redQueue = [] := by
  induction n generalizing s with
  | zero => exact List.eq_nil_of_length_eq_zero (Nat.le_zero.1 (Nat.le_of_add_right_le enough))
  | succ n ih =>
    rcases queue : (s.stack t).redQueue with - | ⟨r, rest⟩
    · rw [drain_nil queue, queue]
    · rw [drain_cons queue]
      obtain ⟨moved, queue', wait'⟩ := perform_admits t s r rest
      have count := wait'.length_eq
      dsimp only [Chip.reductions] at queue' count
      rw [List.length_append] at count
      rw [queue, List.length_cons] at enough
      exact ih _ (by rw [queue', List.length_append]; omega)

/-- A drain performs the first n requests: what passes a test once they have gone, and while no request that waits fails it, is all that the queue holds. -/
theorem Chip.drain_leaves {p : RedReq → Prop} (t : StackId) (n : Nat) (s : Chip) (queued : ∀ r ∈ (s.stack t).redQueue.drop n, p r)
    (waiting : ∀ r ∈ (s.stack t).redWait, p r) : ∀ r ∈ ((s.drain t n).1.stack t).redQueue, p r := by
  induction n generalizing s with
  | zero => exact queued
  | succ n ih =>
    rcases queue : (s.stack t).redQueue with - | ⟨r, rest⟩
    · rw [drain_nil queue, queue]
      simp
    · rw [drain_cons queue]
      obtain ⟨moved, queue', wait'⟩ := perform_admits t s r rest
      dsimp only [Chip.reductions] at queue' wait'
      rw [queue, List.drop_succ_cons] at queued
      refine ih _ (fun q hq => ?_) (fun q hq => waiting q (wait'.mem_iff.1 (List.mem_append_right _ hq)))
      rw [queue', List.drop_append] at hq
      rcases List.mem_append.1 hq with old | new
      · exact queued q old
      · exact waiting q (wait'.mem_iff.1 (List.mem_append_left _ (List.mem_of_mem_drop new)))

/-! ## Fenced requests (R57) -/

theorem fencedBefore_concat (d : DieId) (q : List RedReq) (r : RedReq) :
    fencedBefore d (q ++ [r]) = if r.die = d ∧ r.fenced then q.length + 1 else fencedBefore d q := by
  have counted (q : List RedReq) (acc : Nat × Nat) :
      (q.foldl (fun (acc : Nat × Nat) r => (acc.1 + 1, if r.die = d ∧ r.fenced then acc.1 + 1 else acc.2)) acc).1 = acc.1 + q.length := by
    induction q generalizing acc with
    | nil => rfl
    | cons r q ih => rw [List.foldl_cons, ih, List.length_cons]; omega
  rw [fencedBefore, List.foldl_append, List.foldl_cons, List.foldl_nil, counted, Nat.zero_add, fencedBefore]

/-- Behind the requests that a fence must wait for, none is fenced. -/
theorem not_fenced_behind (d : DieId) (q : List RedReq) : ∀ r ∈ q.drop (fencedBefore d q), ¬ (r.die = d ∧ r.fenced = true) := by
  induction q using List.reverseRecOn with
  | nil => simp
  | append_singleton q r ih =>
    rw [fencedBefore_concat]
    split
    · simp
    next unfenced =>
      intro x hx
      rw [List.drop_append] at hx
      rcases List.mem_append.1 hx with old | last
      · exact ih x old
      · rw [List.mem_singleton.1 (List.mem_of_mem_drop last)]
        exact unfenced

end Sys2Proof.Machine
end

section
/-! Region entries, the translate fence, and accesses that a region entry refuses (R53 to R58, R67, R68, R71). -/

namespace Sys2Proof.Machine

open Host

/-! ## REGION_ENTRY_WRITE -/

theorem Chip.read_setRegion (c : Chip) (d : DieId) (r i : Fin 2048) (v : Word64) :
    Table.read 0 ((c.setRegion d r v).die d).regions i = if i = r then v &&& 0x3FFFFFFFFFFFF else Table.read 0 (c.die d).regions i := by
  rw [Chip.setRegion, Chip.updDie_die_same]
  exact Table.read_write _ _ _ _ _

theorem Chip.stagedFor_unstage (c : Chip) (q : Requester) (pair : Nat) : (c.unstage q).stagedFor q pair = none := by
  have none_ : (c.stagedLow.filter (fun e => e.1 ≠ q)).find? (fun e => e.1 = q) = none := by
    rw [List.find?_eq_none]
    intro e he
    simpa using (List.mem_filter.1 he).2
  rw [Chip.stagedFor, Chip.unstage]
  dsimp only
  rw [none_]

section
variable {c : Chip} {q : Requester} {d : DieId} (r : Fin 2048) (granted : c.pageRefusal q (.d2d d) = none)
include granted

theorem Chip.regionWrite_w64 (v : Word64) : c.regionWrite q d r (.w64 v) = c.setRegion d r v := by
  rw [Chip.regionWrite, granted]
  rfl

theorem Chip.regionWrite_first (x : Word32) (unstaged : c.stagedFor q (regionReg d r) = none) :
    c.regionWrite q d r (.w32 x) = c.stageLow q (regionReg d r) x := by
  rw [Chip.regionWrite, granted]
  simp only [Chip.pairWrite, unstaged]

theorem Chip.regionWrite_second (x : Word32) {lo : Word32} (staged : c.stagedFor q (regionReg d r) = some lo) :
    c.regionWrite q d r (.w32 x) = (c.unstage q).setRegion d r (x ++ lo) := by
  rw [Chip.regionWrite, granted]
  simp only [Chip.pairWrite, staged]

end

theorem Chip.regionWrite_denied (c : Chip) (a : Agent) (d : DieId) (r : Fin 2048) (v : RegData) :
    c.regionWrite (.other a) d r v = { c with out := .fault Code.regDenied } := by
  have denied : c.pageRefusal (.other a) (.d2d d) = some Code.regDenied := by simp [Chip.pageRefusal]
  rw [Chip.regionWrite, denied]
  rfl

theorem regionEntry_writes (s : State) (q : Requester) (d : DieId) (r : Fin 2048) (v : Word64) (x : Word32) (live : s.chip.frozen = false) :
    (s.chip.pageRefusal q (.d2d d) = none →
      (∃ t, Runs (.regionEntryWrite q d r (.w64 v)) s t ∧ OnlyDie d s t ∧
        t.chip.die d = { s.chip.die d with regions := (t.chip.die d).regions } ∧
        ∀ i, Table.read 0 (t.chip.die d).regions i = if i = r then v &&& 0x3FFFFFFFFFFFF else Table.read 0 (s.chip.die d).regions i) ∧
      (s.chip.stagedFor q (regionReg d r) = none →
        ∃ t, Runs (.regionEntryWrite q d r (.w32 x)) s t ∧ t.chip.dies = s.chip.dies ∧ SameMemory s t ∧
          t.chip.stagedFor q (regionReg d r) = some x) ∧
      (∀ lo, s.chip.stagedFor q (regionReg d r) = some lo →
        ∃ t, Runs (.regionEntryWrite q d r (.w32 x)) s t ∧ SameMemory s t ∧ t.chip.stagedFor q (regionReg d r) = none ∧
          ∀ i, Table.read 0 (t.chip.die d).regions i = if i = r then (show Word64 from x ++ lo) &&& 0x3FFFFFFFFFFFF else Table.read 0 (s.chip.die d).regions i)) ∧
    (∀ a, q = .other a → ∃ t, Runs (.regionEntryWrite q d r (.w64 v)) s t ∧ t = { s with chip := { s.chip with out := .fault Code.regDenied } }) := by
  have runs (y : RegData) : Runs (.regionEntryWrite q d r y) s { s with chip := s.chip.regionWrite q d r y } :=
    (onChip_next _ _).trans (by rw [Chip.live_unfrozen _ live])
  refine ⟨fun granted => ⟨⟨_, runs _, ?_⟩, fun unstaged => ⟨_, runs _, ?_⟩, fun lo staged => ⟨_, runs _, ?_⟩⟩, fun a other => ⟨_, runs _, ?_⟩⟩
  · rw [Chip.regionWrite_w64 r granted]
    refine ⟨onlyDie_updDie s d _, ?_, fun i => Chip.read_setRegion ..⟩
    dsimp only
    rw [Chip.setRegion, Chip.updDie_die_same]
  · rw [Chip.regionWrite_first r granted x unstaged]
    exact ⟨rfl, ⟨rfl, rfl, rfl, rfl⟩, Chip.stagedFor_stageLow ..⟩
  · rw [Chip.regionWrite_second r granted x staged]
    exact ⟨⟨rfl, rfl, rfl, rfl⟩, Chip.stagedFor_unstage .., fun i => Chip.read_setRegion ..⟩
  · rw [other, Chip.regionWrite_denied]

/-! ## The translate fence -/

/-- A fence of a die marks a request that the die has translated. -/
def RedReq.fence (d : DieId) (r : RedReq) : RedReq := if r.die = d then { r with fenced := true } else r

/-- A fence of a die marks what a stack has queued and holds. -/
def Stack.fence (d : DieId) (x : Stack) : Stack := { x with redQueue := x.redQueue.map (RedReq.fence d), redWait := x.redWait.map (RedReq.fence d) }

theorem Stack.fence_empty (d : DieId) {x : Stack} (queue : x.redQueue = []) (wait : x.redWait = []) : x.fence d = x := by
  cases x
  subst queue wait
  rfl

/-- One stack's turn of a fence. -/
def Chip.fenceStack (d : DieId) (s : Chip) (t : StackId) : Chip :=
  if (s.stack t).redQueue = [] ∧ (s.stack t).redWait = [] then s else s.updStack t (Stack.fence d)

theorem Chip.fenceStack_stack (d : DieId) (s : Chip) (t n : StackId) :
    (s.fenceStack d t).stack n = if n = t then (s.stack t).fence d else s.stack n := by
  rw [Chip.fenceStack]
  split
  next empty =>
    split
    next h => rw [Stack.fence_empty d empty.1 empty.2, h]
    next => rfl
  · exact s.updStack_stack ..

/-- Every stack's turn of a fence. -/
def Chip.fenceAll (d : DieId) (s : Chip) : Chip := allStacks.foldl (Chip.fenceStack d) s

theorem Chip.fenceAll_stack (d : DieId) (s : Chip) (n : StackId) : (s.fenceAll d).stack n = (s.stack n).fence d := by
  have turns := foldl_units Chip.stack (fun _ => Stack.fence d) (Chip.fenceStack_stack d) nodup_allStacks s n
  rwa [if_pos (mem_allStacks n)] at turns

theorem Chip.fenceAll_shape (d : DieId) (s : Chip) : ∃ v, s.fenceAll d = { s with stk := v } :=
  foldl_replaces (fun v s => { s with stk := v }) (fun s => ⟨s.stk, rfl⟩) (fun _ _ _ => rfl)
    (fun s t => by rw [Chip.fenceStack]; split; exacts [⟨s.stk, rfl⟩, ⟨_, rfl⟩]) _ s

/-- Whether a request that a die has translated is fenced. -/
def Chip.fences (d : DieId) (s : Chip) : Bool :=
  allStacks.any (fun t => ((s.stack t).redQueue ++ (s.stack t).redWait).any (fun r => decide (r.die = d) && r.fenced))

theorem Chip.tfenceGo_on {d : DieId} {s : Chip} (on : (s.die d).ringOn = true) :
    s.tfenceGo d = (s.fenceAll d).updDie d (fun x => { x with tfenceBusy := (s.fenceAll d).fences d }) := by
  rw [Chip.tfenceGo, if_neg (by simp [on])]
  rfl

theorem RedReq.fence_marks (d : DieId) (r : RedReq) : ((r.fence d).die = d ∧ (r.fence d).fenced = true) ↔ r.die = d := by
  rw [RedReq.fence]
  split
  next h => simp [h]
  next h => simp [h]

/-- A fence finds something exactly when its die has translated a request that is queued or held. -/
theorem Chip.fences_iff (d : DieId) (s : Chip) :
    (s.fenceAll d).fences d = true ↔ ∃ n r, (r ∈ (s.stack n).redQueue ∨ r ∈ (s.stack n).redWait) ∧ r.die = d := by
  simp only [Chip.fences, List.any_eq_true, fenceAll_stack, Stack.fence, ← List.map_append, List.mem_map, Bool.and_eq_true, decide_eq_true_eq]
  constructor
  · rintro ⟨n, -, -, ⟨r, mem, rfl⟩, marked⟩
    exact ⟨n, r, List.mem_append.1 mem, (r.fence_marks d).1 marked⟩
  · rintro ⟨n, r, mem, die⟩
    exact ⟨n, mem_allStacks n, _, ⟨r, List.mem_append.2 mem, rfl⟩, (r.fence_marks d).2 die⟩

theorem tfenceGo_marks (s : State) (d : DieId) (up : RingUp s d) :
    ∃ t, Runs (.tfenceGo d) s t ∧ SameMemory s t ∧
      ((t.chip.die d).tfenceBusy = true ↔ ∃ n r, (r ∈ (s.chip.stack n).redQueue ∨ r ∈ (s.chip.stack n).redWait) ∧ r.die = d) ∧
      (∀ n, (t.chip.stack n).redQueue = (s.chip.stack n).redQueue.map (fun r => if r.die = d then { r with fenced := true } else r)) ∧
      (∀ n, (t.chip.stack n).redWait = (s.chip.stack n).redWait.map (fun r => if r.die = d then { r with fenced := true } else r)) ∧
      (t.chip.die d).regions = (s.chip.die d).regions ∧ ∀ e, e ≠ d → t.chip.die e = s.chip.die e := by
  refine ⟨_, onChip_next _ _, ?_⟩
  rw [Chip.live_unfrozen _ up.1, Chip.tfenceGo_on up.2]
  obtain ⟨v, shape⟩ := s.chip.fenceAll_shape d
  have stack n := s.chip.fenceAll_stack d n
  have found := s.chip.fences_iff d
  generalize s.chip.fenceAll d = u at shape stack found
  subst shape
  refine ⟨⟨rfl, rfl, rfl, rfl⟩, ?_, fun n => congrArg Stack.redQueue (stack n), fun n => congrArg Stack.redWait (stack n), ?_,
    fun e other => Chip.updDie_die_other _ _ _ _ other⟩
  · dsimp only
    rw [Chip.updDie_die_same]
    exact found
  · dsimp only
    rw [Chip.updDie_die_same]
    rfl

/-- One stack's turn when a fence completes. -/
def Chip.fenceDrain (d : DieId) (s : Chip) (t : StackId) : Chip :=
  if (s.stack t).redWait.any (fun r => decide (r.die = d) && r.fenced) then s.drainAll t else (s.drain t (fencedBefore d (s.stack t).redQueue)).1

/-- A stack's turn is a drain of its queue. -/
theorem Chip.fenceDrain_keeps {β : Type} {g : Chip → β} (blind : MoveBlind g) {t : StackId} (any : ∀ s f, g (Chip.updStack s t f) = g s) (d : DieId) (s : Chip) :
    g (s.fenceDrain d t) = g s := by
  rw [Chip.fenceDrain]
  split <;> exact blind.drain any ..

/-- After its turn, a stack's queue holds no fenced request of the die. -/
theorem Chip.fenceDrain_performs (d : DieId) (s : Chip) (t : StackId) : ∀ r ∈ ((s.fenceDrain d t).stack t).redQueue, ¬ (r.die = d ∧ r.fenced = true) := by
  rw [Chip.fenceDrain]
  split
  · intro r mem
    rw [Chip.drainAll, drain_empties t _ s (Nat.le_refl _)] at mem
    cases mem
  next none_ =>
    refine drain_leaves t _ s (not_fenced_behind d _) (fun r mem fenced => none_ ?_)
    exact List.any_eq_true.2 ⟨r, mem, by simp [fenced]⟩

theorem Chip.tfenceDone_busy {d : DieId} {s : Chip} (on : (s.die d).ringOn = true) (busy : (s.die d).tfenceBusy = true) :
    s.tfenceDone d = (allStacks.foldl (Chip.fenceDrain d) s).updDie d (fun x => { x with tfenceBusy := false }) := by
  rw [Chip.tfenceDone, if_neg (by simp [on, busy])]
  rfl

theorem tfenceDone_performs (s : State) (d : DieId) (up : RingUp s d) (busy : (s.chip.die d).tfenceBusy = true) :
    ∃ t, Runs (.tfenceDone d) s t ∧ (t.chip.die d).tfenceBusy = false ∧ t.chip.scratch = s.chip.scratch ∧ t.hostMem = s.hostMem ∧
      ∀ n r, r ∈ (t.chip.stack n).redQueue → ¬ (r.die = d ∧ r.fenced = true) := by
  refine ⟨_, onChip_next _ _, ?_⟩
  rw [Chip.live_unfrozen _ up.1, Chip.tfenceDone_busy up.2 busy]
  have scratch : (allStacks.foldl (Chip.fenceDrain d) s.chip).scratch = s.chip.scratch :=
    foldl_keeps Chip.scratch _ _ _ (fun u t => u.fenceDrain_keeps Chip.scratch_moveBlind (fun _ _ => rfl) d)
  have performed (n : StackId) : ∀ r, r ∈ ((allStacks.foldl (Chip.fenceDrain d) s.chip).stack n).redQueue → ¬ (r.die = d ∧ r.fenced = true) := by
    refine foldl_turn (P := fun _ => True) (Q := fun u : Chip => ∀ r, r ∈ (u.stack n).redQueue → ¬ (r.die = d ∧ r.fenced = true)) nodup_allStacks (mem_allStacks n)
      (fun _ _ _ _ => trivial) (fun u _ => u.fenceDrain_performs d n) (fun u t other done => ?_) trivial
    have same := u.fenceDrain_keeps (Chip.reductions_moveBlind n) (fun s f => Chip.reductions_updStack_other other.symm s f) d
    rwa [show ((u.fenceDrain d t).stack n).redQueue = (u.stack n).redQueue from congrArg Prod.fst same]
  generalize allStacks.foldl (Chip.fenceDrain d) s.chip = u at scratch performed
  refine ⟨?_, scratch, rfl, performed⟩
  dsimp only
  rw [Chip.updDie_die_same]

/-! ## Accesses that a region entry refuses -/

/-- The bytes that a stack access names. -/
def accessSize (x : StackReq) : Nat := match x.data with
  | some bs => bs.length
  | none => x.len

/-- Bytes within one codeword are one piece on either path. -/
theorem within_pieceSize {a n : Nat} (inside : a % 64 + n ≤ 64) (slit : Bool) : a % pieceSize slit + n ≤ pieceSize slit := by
  cases slit <;> simp only [pieceSize, if_true, if_false, Bool.false_eq_true] <;> omega

theorem Chip.heldOpen_unresolved {s : Chip} {w : Who} {a : Nat} {write : Bool} {c : FaultCode} (refused : s.resolve w a write = .error c) (n : Nat) :
    s.heldOpen w a n write = false := by
  rw [Chip.heldOpen, refused]

/-- An access that does not resolve is recorded on the page of the die that translated it, and answered. -/
theorem Chip.stackAccess_unresolved {s : Chip} {a : Agent} {x : StackReq} {c : FaultCode} (memory : x.addr.toNat < 2 ^ 41) (some_ : 1 ≤ accessSize x)
    (inside : x.addr.toNat % 64 + accessSize x ≤ 64)
    (refused : s.resolve { whoOf a with hint := hintOf a x.hint } x.addr.toNat x.data.isSome = .error c) (slit : Bool) :
    s.stackAccess a x slit = { s.d2dErr (agentDie a) c 0 (selfAddr x.addr.toNat) with out := .fault c } := by
  rcases data : x.data with - | bs
  · rw [accessSize, data] at some_ inside
    rw [data] at refused
    rw [stackAccess_read memory data some_ (within_pieceSize inside slit) (heldOpen_unresolved refused _), Chip.readMem, Chip.readMemVia]
    have refused' : s.resolve { whoOf a with hint := hintOf a x.hint } x.addr.toNat false = .error c := refused
    rw [refused']
    rfl
  · rw [accessSize, data] at some_ inside
    rw [data] at refused
    have refused' : s.resolve { whoOf a with hint := hintOf a x.hint } x.addr.toNat true = .error c := refused
    rw [stackAccess_write memory data some_ (within_pieceSize inside slit) (heldOpen_unresolved refused' _), Chip.writeMem, refused']
    rfl

/-- What a refused access leaves: every memory and the caches as they are, and its error on its die's page. -/
theorem stackAccess_refused {s : State} {a : Agent} {x : StackReq} {c : FaultCode} {bit : Nat} (live : s.chip.frozen = false)
    (memory : x.addr.toNat < 2 ^ 41) (some_ : 1 ≤ accessSize x) (inside : x.addr.toNat % 64 + accessSize x ≤ 64)
    (refused : s.chip.resolve { whoOf a with hint := hintOf a x.hint } x.addr.toNat x.data.isSome = .error c)
    (recorded : ∀ u : Chip, u.d2dErr (agentDie a) c 0 (selfAddr x.addr.toNat) =
      u.err (.d2d (agentDie a)) { bit := bit, code := c, tag := 0, addr := selfAddr x.addr.toNat }) (small : bit < 32) (slit : Bool) :
    ∃ t, Runs (if slit then .slitAccess a x else .mainPathAccess a x) s t ∧ SameMemory s t ∧ t.chip.cache = s.chip.cache ∧ t.chip.out = .fault c ∧
      (t.chip.head (.d2d (agentDie a))).errStatus.getLsbD bit = true := by
  have done : s.chip.live (Chip.stackAccess a x slit) = { s.chip.d2dErr (agentDie a) c 0 (selfAddr x.addr.toNat) with out := .fault c } := by
    rw [Chip.live_unfrozen _ live, Chip.stackAccess_unresolved memory some_ inside refused]
  refine ⟨{ s with chip := s.chip.live (Chip.stackAccess a x slit) }, by cases slit <;> rfl, ?_⟩
  rw [done]
  refine ⟨sameMemory_of_stores (Chip.stores_eventBlind.d2dErr s.chip ..) rfl, Chip.cache_eventBlind.d2dErr s.chip .., rfl, ?_⟩
  have set := s.chip.err_sets_bit (.d2d (agentDie a)) { bit := bit, code := c, tag := 0, addr := selfAddr x.addr.toNat } small
  rw [← recorded] at set
  exact set

section
variable {s : Chip} {w : Who} {a : Nat} {write : Bool}

theorem Chip.resolve_invalid (bad : regionUsable (Table.read 0 (s.die w.die).regions (clip 2048 (a / 2 ^ 30))) = false) :
    s.resolve w a write = .error Code.regionInvalid := if_pos bad

theorem Chip.resolve_denied (usable : regionUsable (Table.read 0 (s.die w.die).regions (clip 2048 (a / 2 ^ 30))) = true)
    (denied : s.regionGrants (Table.read 0 (s.die w.die).regions (clip 2048 (a / 2 ^ 30))) w.agent write = false) :
    s.resolve w a write = .error Code.regionDenied := by
  unfold Chip.resolve
  dsimp only
  rw [if_neg (by rw [usable]; decide), if_pos denied]

end

/-- Settles O17: an entry is one update of its die's table; a fence is one fold over the stacks, marking or draining; an access that does not resolve is recorded and answered. -/
theorem regionsAreWrittenFencedAndGuard : Obligations.RegionsAreWrittenFencedAndGuard := by
  unfold Obligations.RegionsAreWrittenFencedAndGuard
  refine ⟨regionEntry_writes, fun s d up => ⟨tfenceGo_marks s d up, tfenceDone_performs s d up⟩, ?_⟩
  intro s a x w e n live memory some_ inside slit
  exact ⟨fun bad => stackAccess_refused (bit := 0) live memory some_ inside (Chip.resolve_invalid bad) (fun _ => rfl) (by omega) slit,
    fun usable denied => stackAccess_refused (bit := 1) live memory some_ inside (Chip.resolve_denied usable denied) (fun _ => rfl) (by omega) slit⟩

end Sys2Proof.Machine
end

section
/-! Loads and stores at local addresses: one piece of stack memory on the Slit path, and what a store leaves alone wherever its address leads (R51, R61 to R63, R183). -/

namespace Sys2Proof.Machine

open Host

/-! ## A piece within one block of 64 bytes -/

theorem place_memory {a : Nat} (memory : a < 2 ^ 41) : place a = .mem a := if_pos memory

theorem slitPiece_within {a n : Nat} (some_ : 1 ≤ n) (inside : a % 64 + n ≤ 64) : slitPiece a n = true :=
  decide_eq_true (by omega)

section
variable {s : Chip} {w : Who} {a : Nat} {t : StackId} {y : Nat}

theorem Chip.load_slit {n : Nat} (memory : a < 2 ^ 41) (met : s.Met w a false t y) (miss : s.findLine t (y / 256) = none) (some_ : 1 ≤ n)
    (inside : a % 64 + n ≤ 64) :
    ∃ u, s.Charged u ∧ s.load w a n = (u, .ok (s.dram.bytes (dramKey t ((s.stack t).phys (y / 64 * 64)) + y % 64) n)) := by
  obtain ⟨u, charged, read⟩ := readMem_slit met miss some_ inside
  refine ⟨u, charged, ?_⟩
  simp only [Chip.load, pieces_of_within 256 a n some_ (by omega), Chip.loadPieces, slitPiece_within some_ inside, Chip.loadPiece, place_memory memory, read,
    List.append_nil]

theorem Chip.store_slit {bs : List Byte} (memory : a < 2 ^ 41) (met : s.Met w a true t y) (miss : s.findLine t (y / 256) = none) (some_ : 1 ≤ bs.length)
    (inside : a % 64 + bs.length ≤ 64) : ∃ u v, s.Charged u ∧ u.Wrote t y bs v ∧ s.store w a bs = (v, none) := by
  obtain ⟨u, v, charged, wrote, write⟩ := writeMem_slit met miss some_ inside
  refine ⟨u, v, charged, wrote, ?_⟩
  simp only [Chip.store, pieces_of_within 256 a bs.length some_ (by omega), Chip.storePieces, slitPiece_within some_ inside, Chip.storePiece,
    place_memory memory, List.take_length, write, Option.or_none]

end

/-! ## What a store leaves alone -/

/-- A view that stores leave, whatever their address names: it sees no stack, no scratchpad, no core's engines and no trace queue either. -/
structure Chip.StoreBlind {β : Type} (g : Chip → β) : Prop extends Chip.MoveBlind g where
  anyStack : ∀ s t f, g (Chip.updStack s t f) = g s
  scratchpads : ∀ (s : Chip) m e n o, g { s with scratch := m, scratchErrors := e, free := n, out := o } = g s
  core : ∀ s k f, g (Chip.updCore s k f) = g s
  cluster : ∀ s c f, g (Chip.updCluster s c f) = g s
  traced : ∀ s m f, g (Chip.updTrace s m f) = g s

namespace Chip.StoreBlind
variable {β : Type} {g : Chip → β} (blind : StoreBlind g)
include blind

theorem emit (s : Chip) (d : DieId) (dome : DomeId) (source : Nat) (r : TraceRec) : g (s.emit d dome source r) = g s := by
  rw [Chip.emit]
  split
  · rfl
  · dsimp only
    rw [Chip.trigger]
    split_ifs
    · exact (blind.freeze ..).trans (blind.traced ..)
    · exact blind.traced ..
    · exact blind.traced ..

theorem samples (s : Chip) (c : ClusterId) (sel : Nat → Word32) (l : List Nat) : g (s.samples c sel l) = g s := by
  rw [Chip.samples]
  split
  · rfl
  · exact foldl_keeps g _ _ _ (fun u i => blind.emit u ..)

theorem coreEvent (s : Chip) (k : CoreId) (event amount : Nat) : g (s.coreEvent k event amount) = g s := by
  rw [Chip.coreEvent]
  dsimp only
  split
  · exact blind.head ..
  · exact (blind.samples ..).trans ((blind.cluster ..).trans ((blind.head ..).trans (blind.head ..)))

theorem scratchWrite (s : Chip) (k : CoreId) (off : Nat) (bs : List Byte) : g (s.scratchWrite k off bs) = g s := by
  have mended (lo n : Nat) : g (s.mendScratch lo n) = g s := by
    refine foldl_keeps g _ _ _ (fun u e => ?_)
    dsimp only
    split
    · exact blind.scratchpads u _ _ _ _
    · split
      · exact blind.scratchpads u _ _ _ _
      · rfl
  rw [Chip.scratchWrite]
  refine (blind.scratchpads _ _ _ _ _).trans ?_
  split
  · rfl
  · exact mended ..

theorem outsideRead (s : Chip) (k : CoreId) (off n : Nat) : g (s.outsideRead k off n).1 = g s := by
  rw [Chip.outsideRead, Chip.readFree]
  split
  · rfl
  · exact blind.scratchpads s _ _ _ _

theorem writeFree (s : Chip) (k : CoreId) (l : List (Nat × Nat)) (off : Nat) (bs : List Byte) : g (s.writeFree k l off bs) = g s := by
  rw [Chip.writeFree]
  split
  · exact blind.scratchWrite ..
  · exact (blind.scratchWrite ..).trans (blind.scratchpads s _ _ _ _)

theorem outsideWrite (s : Chip) (k : CoreId) (off : Nat) (bs : List Byte) : g (s.outsideWrite k off bs) = g s := by
  rw [Chip.outsideWrite]
  dsimp only
  split
  · exact blind.writeFree ..
  · exact (blind.core ..).trans (blind.writeFree ..)

theorem serveGate (s : Chip) (k : CoreId) : g (s.serveGate k) = g s := by
  rw [Chip.serveGate]
  split
  · rfl
  next one rest _ =>
    have due : g ((s.updCore k (fun x => { x with gate := rest })).coreEvent k 6 1) = g s := (blind.coreEvent ..).trans (blind.core ..)
    dsimp only
    split
    · exact (blind.outsideWrite ..).trans due
    · split
      · exact Eq.trans (blind.scratchpads _ _ _ _ _) due
      · exact Eq.trans (blind.scratchpads _ _ _ _ _) ((blind.outsideRead ..).trans due)

theorem flushGate (s : Chip) (k : CoreId) (n : Nat) : g (s.flushGate k n) = g s := by
  induction n with
  | zero => rfl
  | succ n ih => exact (blind.serveGate ..).trans ih

theorem placeRefusal (s : Chip) (w : Who) (p : Place) : g (s.placeRefusal w p).1 = g s := by
  have recorded (o : ObjId) (c : FaultCode) (scope : Option (BitVec 3)) : g (s.objErr w o c scope) = g s := by
    unfold Chip.objErr
    exact EventBlind.ite (blind.d2dErr ..) (EventBlind.ite (blind.d2dErr ..) (blind.err ..))
  cases p with
  | obj o off =>
    rw [Chip.placeRefusal]
    exact EventBlind.ite rfl (recorded ..)
  | mem | scratch | diePage | stackPage | none => rfl

theorem storePiece (s : Chip) (w : Who) (slit : Bool) (a : Nat) (bs : List Byte) : g (s.storePiece w slit a bs).1 = g s := by
  rw [Chip.storePiece]
  split
  · exact blind.writeMem blind.anyStack ..
  · split
    · exact EventBlind.ite (blind.d2dErr ..) rfl
    · exact (blind.outsideWrite ..).trans ((blind.coreEvent ..).trans (blind.flushGate ..))
  · exact blind.placeRefusal ..

theorem storePieces (s : Chip) (w : Who) (bs : List Byte) (ps : List (Nat × Nat)) : g (s.storePieces w bs ps).1 = g s := by
  induction ps generalizing s bs with
  | nil => rfl
  | cons p rest ih => exact (ih _ _).trans (blind.storePiece ..)

theorem store (s : Chip) (w : Who) (a : Nat) (bs : List Byte) : g (s.store w a bs).1 = g s := blind.storePieces ..

end Chip.StoreBlind

end Sys2Proof.Machine
end

section
/-! Host-class cores: RUN and RESET, fences, the emission port and its tokens (R70, R267, R375, R396, R397). -/

namespace Sys2Proof.Machine

open Host

/-! ## One hart's registers -/

theorem OnlyHart.refl (h : HartId) (s : State) : OnlyHart h s s := ⟨rfl, fun _ _ => rfl⟩

theorem OnlyHart.updHart {h : HartId} {s t : State} (only : OnlyHart h s t) (f : Hart → Hart) : OnlyHart h s { t with chip := t.chip.updHart h f } := by
  obtain ⟨shape, others⟩ := only
  refine ⟨?_, fun k other => (Chip.updHart_hart_other _ _ _ _ other).trans (others k other)⟩
  rw [shape]
  rfl

theorem hartRuns_of_up {s : State} {h : HartId} (up : HartUp s h) : s.chip.hartRuns h = true := by
  obtain ⟨⟨live, on⟩, fetching⟩ := up
  simp [Chip.hartRuns, live, on, fetching]

/-- A meaning that sets registers of one hart. -/
theorem hartRegisters_land {s : State} {h : HartId} {i : Instr} {f : Hart → Hart} {x : Hart} (does : exec i s = .next { s with chip := s.chip.updHart h f })
    (lands : f (s.chip.hart h) = x) : ∃ t, Runs i s t ∧ OnlyHart h s t ∧ t.chip.hart h = x :=
  ⟨_, does, (OnlyHart.refl h s).updHart f, (Chip.updHart_hart_same _ _ _).trans lands⟩

/-- A meaning that sets registers of one hart, and retires. -/
theorem hartRegisters_retire {s : State} {h : HartId} {i : Instr} {f : Hart → Hart} {x : Hart}
    (does : exec i s = .next { s with chip := (s.chip.updHart h f).hartDone h }) (lands : { f (s.chip.hart h) with exception := none } = x) :
    ∃ t, Runs i s t ∧ OnlyHart h s t ∧ t.chip.hart h = x := by
  refine ⟨_, does, ((OnlyHart.refl h s).updHart f).updHart _, (Chip.updHart_hart_same _ _ _).trans ?_⟩
  rw [Chip.updHart_hart_same]
  exact lands

theorem toNat_extract {n : Nat} (v : BitVec n) (lo len : Nat) : (v.extractLsb' lo len).toNat = v.toNat / 2 ^ lo % 2 ^ len := by
  rw [BitVec.extractLsb'_toNat, Nat.shiftRight_eq_div_pow]

theorem Chip.present_die_same (s : Chip) (d : DieId) (kind : BitVec 2) (dome : BitVec 4) (n : Nat) :
    (s.present d kind dome n).1.die d = { s.die d with tap := ((s.die d).tap.put kind dome n).1 } := Chip.updDie_die_same ..

theorem Chip.present_die_other (s : Chip) {d e : DieId} (kind : BitVec 2) (dome : BitVec 4) (n : Nat) (other : e ≠ d) :
    (s.present d kind dome n).1.die e = s.die e := Chip.updDie_die_other _ _ _ _ other

section
variable {s : State} {h : HartId}

/-! ## RUN and RESET (R70) -/

theorem exec_hostcoreRun (up : RingUp s h.die) (v : Bool) :
    exec (.hostcoreRun h v) s = .next { s with chip := s.chip.updHart h (fun x => { x with run := v, fetching := v && !x.inReset }) } := by
  refine (onChip_next _ _).trans ?_
  rw [Chip.live_unfrozen _ up.1, Chip.hartRun, if_neg (by simp [up.2])]

theorem exec_hostcoreReset (up : RingUp s h.die) (v : Bool) :
    exec (.hostcoreReset h v) s = .next { s with chip := s.chip.updHart h (fun x =>
      if v then x.stopped
      else if x.inReset then { x with inReset := false, pc := x.resetPc, priv := machineMode, fetching := x.run }
      else x) } := by
  refine (onChip_next _ _).trans ?_
  rw [Chip.live_unfrozen _ up.1, Chip.hartReset, if_neg (by simp [up.2])]

/-! ## The emission port's CSRs and EMIT (R396) -/

section
variable (up : HartUp s h)
include up

theorem Chip.emitWrite_traps {v : Word64} (illegal : (s.chip.hart h).assigned = false ∨ 2 ^ 32 ≤ v.toNat) : s.chip.emitWrite h v = s.chip.hartTrap h 2 := by
  rw [Chip.emitWrite, if_neg (by simp [hartRuns_of_up up])]
  refine if_pos (illegal.imp_right fun high => .inl fun zero => ?_)
  have none_ := congrArg BitVec.toNat zero
  rw [toNat_extract] at none_
  exact absurd none_ (by simp; omega)

theorem Chip.emitWrite_accepts {v : Word64} (assigned : (s.chip.hart h).assigned = true) (pf : (s.chip.hart h).emitFn = 0) (low : v.toNat < 2 ^ 32)
    (room : (s.chip.present h.die 2 (s.chip.hart h).dome 1).2 = 1) :
    s.chip.emitWrite h v =
      ((s.chip.present h.die 2 (s.chip.hart h).dome 1).1.updHart h (fun y => { y with tokens := y.tokens ++ [BitVec.ofNat 32 v.toNat] })).hartDone h := by
  have high : v.extractLsb' 32 32 = 0 := BitVec.eq_of_toNat_eq (by rw [toNat_extract]; simp; omega)
  have token : v.extractLsb' 0 32 = BitVec.ofNat 32 v.toNat := BitVec.eq_of_toNat_eq (by rw [toNat_extract, BitVec.toNat_ofNat, pow_zero, Nat.div_one])
  have names : s.chip.emitFunction (s.chip.hart h) = some .pf := by simp [Chip.emitFunction, pf, fnOfNumber]
  rw [Chip.emitWrite, if_neg (by simp [hartRuns_of_up up])]
  dsimp only
  rw [if_neg (by simp [assigned, high, names]), if_neg (by rw [room]; decide), token]

theorem emit_traps {v : Word64} (illegal : (s.chip.hart h).assigned = false ∨ 2 ^ 32 ≤ v.toNat) :
    ∃ t, Runs (.emit h v) s t ∧ OnlyHart h s t ∧ t.chip.hart h = { s.chip.hart h with exception := some 2 } :=
  hartRegisters_land ((onChip_next _ _).trans (by rw [Chip.emitWrite_traps up illegal]; rfl)) rfl

theorem emit_accepts {v : Word64} (assigned : (s.chip.hart h).assigned = true) (pf : (s.chip.hart h).emitFn = 0) (low : v.toNat < 2 ^ 32)
    (room : ((s.chip.die h.die).tap.put 2 (s.chip.hart h).dome 1).2 = 1) :
    ∃ t, Runs (.emit h v) s t ∧ SameMemory s t ∧
      t.chip.hart h = { s.chip.hart h with tokens := (s.chip.hart h).tokens ++ [BitVec.ofNat 32 v.toNat], exception := none } ∧
      t.chip.die h.die = { s.chip.die h.die with tap := ((s.chip.die h.die).tap.put 2 (s.chip.hart h).dome 1).1 } ∧
      (∀ e, e ≠ h.die → t.chip.die e = s.chip.die e) ∧ ∀ k, k ≠ h → t.chip.hart k = s.chip.hart k := by
  have run := onChip_next (Chip.emitWrite h v) s
  rw [Chip.emitWrite_accepts up assigned pf low room] at run
  refine ⟨_, run, ⟨rfl, rfl, rfl, rfl⟩, ?_,
    Chip.present_die_same s.chip h.die _ _ _, fun e other => Chip.present_die_other s.chip _ _ _ other, fun k other => ?_⟩
  · simp only [Chip.hartDone, Chip.updHart_hart_same]
    rfl
  · exact (Chip.updHart_hart_other _ _ _ _ other).trans (Chip.updHart_hart_other _ _ _ _ other)

theorem emitdstWrite_lands {v : Word64} (assigned : (s.chip.hart h).assigned = true) (aligned : v.toNat % 4 = 0) :
    ∃ t, Runs (.emitdstWrite h v) s t ∧ OnlyHart h s t ∧ t.chip.hart h = { s.chip.hart h with emitDst := v, exception := none } := by
  have low : v.extractLsb' 0 2 = 0 := BitVec.eq_of_toNat_eq (by rw [toNat_extract]; simp; omega)
  refine hartRegisters_retire (f := fun y => { y with emitDst := v }) ((onChip_next _ _).trans ?_) rfl
  rw [Chip.emitDstWrite, if_neg (by simp [hartRuns_of_up up]), if_neg (by simp [assigned])]
  dsimp only
  rw [if_pos low]

theorem emitdstWrite_traps (v : Word64) (unassigned : (s.chip.hart h).assigned = false) :
    ∃ t, Runs (.emitdstWrite h v) s t ∧ OnlyHart h s t ∧ t.chip.hart h = { s.chip.hart h with exception := some 2 } := by
  refine hartRegisters_land (f := fun y => { y with exception := some 2 }) ((onChip_next _ _).trans ?_) rfl
  rw [Chip.emitDstWrite, if_neg (by simp [hartRuns_of_up up]), if_pos unassigned]
  rfl

theorem emitcfgWrite_lands (v : Word64) (assigned : (s.chip.hart h).assigned = true) :
    ∃ t, Runs (.emitcfgWrite h v) s t ∧ OnlyHart h s t ∧ t.chip.hart h =
      { s.chip.hart h with emitHost := v.getLsbD 0, emitFn := v.extractLsb' 8 7, dfault := (s.chip.hart h).dfault && v.getLsbD 63, exception := none } := by
  refine hartRegisters_retire (f := fun y => { y with emitHost := v.getLsbD 0, emitFn := v.extractLsb' 8 7, dfault := y.dfault && v.getLsbD 63 })
    ((onChip_next _ _).trans ?_) rfl
  rw [Chip.emitCfgWrite, if_neg (by simp [hartRuns_of_up up]), if_neg (by simp [assigned])]

/-! ## Fences (R267, R397) -/

theorem hartFence_retires {p q : BitVec 4} (nothing : ¬ (p = 15 ∧ q = 15) ∨ (s.chip.hart h).tokens = []) :
    ∃ t, Runs (.hartFence h p q) s t ∧ OnlyHart h s t ∧ t.chip.hart h = { s.chip.hart h with exception := none } := by
  have idle : (if p = 15 ∧ q = 15 then writeTokens h (s.chip.hart h).tokens.length s.chip s.hostMem else (s.chip, s.hostMem)) = (s.chip, s.hostMem) := by
    rcases nothing with other | none_
    · exact if_neg other
    · rw [none_]
      exact ite_self _
  refine hartRegisters_land (f := fun y => { y with exception := none }) ((onBus_next _ _).trans ?_) rfl
  rw [hartFence, if_neg (by simp [hartRuns_of_up up]), idle]
  rfl

end

end

/-- The tokens that a hart's emission port has accepted and not written yet, as a view that stores leave. -/
def Chip.tokens (h : HartId) (s : Chip) : List (BitVec 32) := (s.hart h).tokens

theorem Chip.tokens_storeBlind (h : HartId) : StoreBlind (Chip.tokens h) where
  head _ _ _ := rfl
  freeze := freeze_keeps (fun _ _ _ => rfl) (fun s _ _ => Table.read_map_keeps Hart.tokens (fun x => { x with fetching := false }) (fun _ => rfl) {} s.harts h) (fun _ _ => rfl)
  stack _ _ _ _ := rfl
  dram _ _ _ := rfl
  lines _ _ _ _ := rfl
  anyStack _ _ _ := rfl
  scratchpads _ _ _ _ _ := rfl
  core _ _ _ := rfl
  cluster _ _ _ := rfl
  traced _ _ _ := rfl

theorem Chip.tokens_updHart (h : HartId) (s : Chip) (f : Hart → Hart) : (s.updHart h f).tokens h = (f (s.hart h)).tokens :=
  congrArg Hart.tokens (Chip.updHart_hart_same s h f)

/-- One token leaves the port, however its write ends. -/
theorem writeToken_tokens (h : HartId) (s : Chip) (host : Memory) : (writeToken h s host).1.tokens h = (s.tokens h).tail := by
  cases accepted : (s.hart h).tokens with
  | nil => simp only [writeToken, accepted, Chip.tokens, List.tail_nil]
  | cons tok rest =>
    have popped : (s.updHart h (fun y => { y with tokens := rest, emitDst := y.emitDst + 4 })).tokens h = (s.tokens h).tail := by
      rw [Chip.tokens_updHart, Chip.tokens, accepted, List.tail_cons]
    have faulted {u : Chip} (same : u.tokens h = (s.tokens h).tail) : (u.updHart h (fun y => { y with dfault := true })).tokens h = (s.tokens h).tail :=
      (Chip.tokens_updHart ..).trans same
    have ended {r : Chip × Option FaultCode} (same : r.1.tokens h = (s.tokens h).tail) :
        (if r.2.isSome then r.1.updHart h (fun y => { y with dfault := true }) else r.1).tokens h = (s.tokens h).tail := by
      split
      · exact faulted same
      · exact same
    simp only [writeToken, accepted]
    split
    · split
      · split
        · exact faulted popped
        · rw [copyWrite]
          split <;> exact popped
      · exact faulted popped
    · split
      · exact ended (((Chip.tokens_storeBlind h).store ..).trans popped)
      · exact ended (r := (_, some Code.unmapped)) popped

theorem writeTokens_tokens (h : HartId) (n : Nat) (s : Chip) (host : Memory) : (writeTokens h n s host).1.tokens h = (s.tokens h).drop n := by
  induction n generalizing s host with
  | zero => rfl
  | succ n ih => rw [writeTokens, ih, writeToken_tokens, List.drop_tail]

theorem hartFence_writesTokens {s : State} {h : HartId} (up : HartUp s h) :
    ∃ t, Runs (.hartFence h 15 15) s t ∧ (t.chip.hart h).tokens = [] ∧ (t.chip.hart h).exception = none := by
  refine ⟨_, onBus_next _ _, ?_, ?_⟩ <;>
    simp only [hartFence, hartRuns_of_up up, Chip.hartDone, Chip.updHart_hart_same, Bool.true_eq_false, if_false, and_self, if_true]
  exact (writeTokens_tokens h _ _ _).trans List.drop_length

/-! ## EMIT_TOKEN_WRITE (R375, R397) -/

section
variable {s : State} {h : HartId} {tok : BitVec 32} {rest : List (BitVec 32)}

/-- The hart whose oldest token is being written. -/
def Chip.popToken (h : HartId) (rest : List (BitVec 32)) (s : Chip) : Chip := s.updHart h (fun y => { y with tokens := rest, emitDst := y.emitDst + 4 })

theorem Chip.popToken_hart (h : HartId) (rest : List (BitVec 32)) (s : Chip) :
    (s.popToken h rest).hart h = { s.hart h with tokens := rest, emitDst := (s.hart h).emitDst + 4 } := Chip.updHart_hart_same ..

theorem Chip.popToken_resolve (h : HartId) (rest : List (BitVec 32)) (s : Chip) (a : Nat) (write : Bool) :
    (s.popToken h rest).resolve (whoOf (.hart h)) a write = s.resolve (whoOf (.hart h)) a write := by
  have dome : (s.popToken h rest).domeOf (.hart h) = s.domeOf (.hart h) := by simp only [Chip.domeOf, popToken_hart]
  simp only [Chip.resolve, Chip.regionGrants, whoOf, dome]
  rfl

theorem Chip.Met.popToken {s : Chip} {a : Nat} {write : Bool} {m : StackId} {y : Nat} (met : s.Met (whoOf (.hart h)) a write m y) :
    (s.popToken h rest).Met (whoOf (.hart h)) a write m y := by
  obtain ⟨resolved, free, sound⟩ := met
  exact ⟨(popToken_resolve h rest s a write).trans resolved, free, sound⟩

section
variable (up : RingUp s h.die) (oldest : (s.chip.hart h).tokens = tok :: rest)
include up

theorem emitTokenWrite_runs : Runs (.emitTokenWrite h) s { s with chip := (writeToken h s.chip s.hostMem).1, hostMem := (writeToken h s.chip s.hostMem).2 } := by
  refine (onBus_next _ _).trans ?_
  rw [emitToken, if_neg (by simp [up.1, up.2])]

include oldest

theorem emitTokenWrite_local {m : StackId} {y : Nat} (localTarget : (s.chip.hart h).emitHost = false) (aligned : (s.chip.hart h).emitDst.toNat % 4 = 0)
    (miss : s.chip.findLine m (y / 256) = none) (reaches : Reaches s (whoOf (.hart h)) (s.chip.hart h).emitDst.toNat true m y) :
    ∃ t, Runs (.emitTokenWrite h) s t ∧ OnlyDram m y 4 s t ∧ dramBytes t m y 4 = leBytes 4 tok.toNat ∧
      t.chip.hart h = { s.chip.hart h with tokens := rest, emitDst := (s.chip.hart h).emitDst + 4 } := by
  have memory : (s.chip.hart h).emitDst.toNat < 2 ^ 41 := reaches.2.1
  have offset := Chip.resolve_offset reaches.met.resolved
  have size : (leBytes 4 tok.toNat).length = 4 := leBytes_length ..
  obtain ⟨u, v, charged, wrote, stored⟩ := Chip.store_slit (bs := leBytes 4 tok.toNat) memory (reaches.met.popToken (rest := rest)) miss (by omega) (by omega)
  have written : writeToken h s.chip s.hostMem = (v, s.hostMem) := by
    simp only [writeToken, oldest, localTarget, Bool.false_eq_true, if_false, if_pos (show (s.chip.hart h).emitDst.toNat < 2 ^ 52 by omega)]
    rw [← Chip.popToken, stored]
    rfl
  have run := emitTokenWrite_runs up
  rw [written] at run
  refine ⟨_, run, ?_, ?_, ?_⟩
  · have only := wrote.onlyDram (s := { s with chip := s.chip.popToken h rest }) (t := { s with chip := v }) charged rfl rfl
    rw [size] at only
    exact only
  · have bytes := wrote.dramBytes_eq (t := { s with chip := v }) (by omega) rfl (by obtain ⟨⟨d, e, rfl⟩, -⟩ := wrote; rfl)
    rw [size] at bytes
    exact bytes
  · obtain ⟨⟨d, e, rfl⟩, -⟩ := wrote
    obtain ⟨⟨hd, k, rfl⟩, -⟩ := charged
    exact Chip.popToken_hart h rest s.chip

theorem emitTokenWrite_host (hostTarget : (s.chip.hart h).emitHost = true) (pf : (s.chip.hart h).emitFn = 0) (route : s.chip.route h.die 0 = true)
    (on : (s.chip.die 0).ringOn = true) (link : s.chip.link.link0Up = true) :
    ∃ t, Runs (.emitTokenWrite h) s t ∧ t.chip.hart h = { s.chip.hart h with tokens := rest, emitDst := (s.chip.hart h).emitDst + 4 } ∧
      t.chip.dram = s.chip.dram ∧ t.chip.scratch = s.chip.scratch ∧ t.chip.link.copyPending = s.chip.link.copyPending ++ [(.pf, .token h)] ∧
      t.hostMem.bytes (s.chip.hart h).emitDst.toNat 4 = leBytes 4 tok.toNat ∧
      ∀ b, (b < (s.chip.hart h).emitDst.toNat ∨ (s.chip.hart h).emitDst.toNat + 4 ≤ b) → t.hostMem.byte b = s.hostMem.byte b := by
  have names : (s.chip.popToken h rest).emitFunction (s.chip.hart h) = some .pf := by simp [Chip.emitFunction, pf, fnOfNumber]
  have routed : (s.chip.popToken h rest).route h.die 0 = true := route
  have sends : (s.chip.popToken h rest).fnUp .pf = true := by
    simp [Chip.fnUp, Chip.fnExists, Chip.fnLink, Chip.popToken, on, link]
  have written : writeToken h s.chip s.hostMem =
      ({ s.chip.popToken h rest with link := { s.chip.link with copyPending := s.chip.link.copyPending ++ [(.pf, .token h)] } },
        s.hostMem.putBytes (s.chip.hart h).emitDst.toNat (leBytes 4 tok.toNat)) := by
    simp only [writeToken, oldest, hostTarget, if_true]
    rw [← Chip.popToken, names]
    dsimp only
    rw [if_neg (by simp [routed]), copyWrite, if_neg (by simp [sends])]
    rfl
  have run := emitTokenWrite_runs up
  rw [written] at run
  have size : (leBytes 4 tok.toNat).length = 4 := leBytes_length ..
  refine ⟨_, run, Chip.popToken_hart h rest s.chip, rfl, rfl, rfl, ?_, fun b outside => Memory.byte_putBytes_outside _ _ _ _ (by omega)⟩
  have read := Memory.bytes_putBytes s.hostMem (s.chip.hart h).emitDst.toNat (leBytes 4 tok.toNat)
  rwa [size] at read

end

end

/-- Settles O37: each meaning sets the registers of one hart, a token leaves by one store of stack memory or one copy, and a full fence writes as many tokens as wait. -/
theorem hartsRunFenceAndEmit : Obligations.HartsRunFenceAndEmit := by
  unfold Obligations.HartsRunFenceAndEmit
  intro s h x tap
  refine ⟨fun up => ⟨fun v => ?_, ?_, fun held => ?_, fun tok rest oldest => ⟨fun m y loc aligned miss reaches => ?_, fun host pf route on link => ?_⟩⟩,
    fun up => ⟨fun p q nothing => hartFence_retires up nothing, hartFence_writesTokens up, fun v assigned pf low room => ?_, fun v illegal => emit_traps up illegal,
      fun v assigned => ⟨fun aligned => emitdstWrite_lands up assigned aligned, emitcfgWrite_lands up v assigned⟩,
      fun v unassigned => emitdstWrite_traps up v unassigned⟩⟩
  · exact hartRegisters_land (exec_hostcoreRun up v) rfl
  · obtain ⟨t, run, only, stopped⟩ := hartRegisters_land (x := x.stopped) (exec_hostcoreReset up true) rfl
    rw [Hart.stopped] at stopped
    exact ⟨t, run, only, by rw [stopped], by rw [stopped], by rw [stopped], by rw [stopped]⟩
  · exact hartRegisters_land (exec_hostcoreReset up false) (if_pos held)
  · exact emitTokenWrite_local up oldest loc aligned miss reaches
  · exact emitTokenWrite_host up oldest host pf route on link
  · exact emit_accepts up assigned pf low room

end Sys2Proof.Machine
end

section
/-! The module's packets on the fabric: the port a routed packet takes, the response to a request, and a request that arrives for this module (R350 to R353, R357 to R360). -/

namespace Sys2Proof.Machine

open Host

/-! ## Routing (R352, R353) -/

/-- An entry of the route table with a usable port gives the module's own packet a port. -/
theorem Chip.choose_routed {s : State} {dst : BitVec 12} (routed : Routed s dst) (src : BitVec 12) (addr : Word64) :
    ∃ p down, s.chip.choose true src dst addr false = .ok (p, down) := by
  obtain ⟨enabled, q, named, usable⟩ := routed
  have usableOnes : (entryPorts (Table.read 0 s.chip.fabric.routes (clip 4096 dst.toNat))).filter (s.chip.usable true) ≠ [] :=
    List.ne_nil_of_mem (List.mem_filter.2 ⟨named, usable⟩)
  rw [Chip.choose]
  dsimp only
  rw [if_neg (by simp only [enabled, Bool.true_eq_false, not_false_eq_true]), if_neg usableOnes, if_neg Bool.false_ne_true]
  have index := Nat.mod_lt (hash8 src addr) (List.length_pos_iff.2 usableOnes)
  rw [List.getElem?_eq_getElem index]
  exact ⟨_, _, rfl⟩

/-- A chip whose routes, usable ports and egress queues are another's. -/
structure Chip.SameEgress (s u : Chip) : Prop where
  fabric : u.fabric = s.fabric
  queue : ∀ q, (u.port q).queue = (s.port q).queue
  usable : ∀ q, u.usable true q = s.usable true q

/-- Only the fabric registers and the ports count. -/
theorem Chip.SameEgress.congr {s u v : Chip} (same : s.SameEgress u) (fabric : v.fabric = u.fabric) (ports : v.ports = u.ports) : s.SameEgress v := by
  have port : v.port = u.port := funext fun q => by rw [Chip.port, Chip.port, ports]
  exact ⟨fabric.trans same.fabric, fun q => by rw [port]; exact same.queue q, fun q => by
    rw [Chip.usable, port, fabric]
    exact same.usable q⟩

theorem Chip.SameEgress.routed {s : State} {u : Chip} (same : s.chip.SameEgress u) {dst : BitVec 12} (routed : Routed s dst) : Routed { s with chip := u } dst := by
  obtain ⟨enabled, q, named, usable⟩ := routed
  refine ⟨?_, q, ?_, (same.usable q).trans usable⟩
  · rw [same.fabric]
    exact enabled
  · rw [same.fabric]
    exact named

/-! ## Responses (R357, R358) -/

/-- The OP of the response to a request. -/
def responseOp (op : BitVec 6) : BitVec 6 := if op = 1 then 0x21 else if op = 4 then 0x24 else 0x22

/-- The response to a request as the module sends it. -/
def Chip.responseTo (s : Chip) (m : FabricReq) (fault : FaultCode) (data : List Byte) : FabricRsp :=
  { op := responseOp m.op, down := false, hops := s.fabric.hopInit, dst := m.src, src := m.dst, txn := m.txn, die := m.die, tag := m.tag, fault := fault, data := data }

/-- A packet joins the queue of a port. -/
def Port.join (vc : Fin 4) (m : FabricMsg) (x : Port) : Port := { x with queue := x.queue ++ [(vc, 16, m)] }

theorem Chip.routeRsp_own {s : Chip} {m : FabricRsp} {p : PortId} {down : Bool} (chosen : (s.freeBits 64).2.choose true m.src m.dst (s.freeBits 64).1 m.down = .ok (p, down)) :
    s.routeRsp 16 m = (s.freeBits 64).2.enqueue p 16 down (.rsp m) := by
  simp only [Chip.routeRsp, decide_true, chosen]
  exact if_pos rfl

/-- A response of the module that has a way enters one port's queue. -/
theorem Chip.respond_routed {s : State} {m : FabricReq} (routed : Routed s m.src) (fault : FaultCode) (data : List Byte) :
    ∃ q vc, s.chip.respond m fault data = Chip.updPort { s.chip with free := s.chip.free + 1 } q (Port.join vc (.rsp (s.chip.responseTo m fault data))) := by
  have taken : Routed { s with chip := (s.chip.freeBits 64).2 } m.src := routed
  obtain ⟨p, down, chosen⟩ := Chip.choose_routed taken m.dst (s.chip.freeBits 64).1
  exact ⟨p, if down then 3 else 2, (Chip.routeRsp_own (m := s.chip.responseTo m fault data) chosen).trans rfl⟩

/-- What answers a request with the ports as they stood: nothing but the ports and the free values moves. -/
theorem Chip.SameEgress.respond {s : State} {u : Chip} (same : s.chip.SameEgress u) {m : FabricReq} (routed : Routed s m.src) (fault : FaultCode) (data : List Byte) :
    ∃ v n, u.respond m fault data = { u with ports := v, free := n } ∧ ∀ t : State, t.chip.ports = v → Responds s t m (responseOp m.op) fault data := by
  obtain ⟨q, vc, answered⟩ := Chip.respond_routed (same.routed routed) fault data
  refine ⟨_, _, answered, fun t ports => ⟨q, vc, ?_, fun r other => ?_⟩⟩
  · have entered := Chip.updPort_port_same { u with free := u.free + 1 } q (Port.join vc (.rsp (u.responseTo m fault data)))
    rw [Chip.port, ports, ← same.queue q, ← same.fabric]
    exact congrArg Port.queue entered
  · have kept := Chip.updPort_port_other { u with free := u.free + 1 } q r (Port.join vc (.rsp (u.responseTo m fault data))) other
    rw [Chip.port, ports, ← same.queue r]
    exact congrArg Port.queue kept

/-! ## Arrival (R350, R351, R359) -/

/-- A port after a packet of some ACTIVE count has come in. -/
def Chip.received (p : PortId) (m : FabricReq) (s : Chip) : Chip :=
  (s.updPort p (fun x => { x with activeIn := Nat.max 1 m.active.toNat })).freeBuffer p.val (.req m)

theorem Chip.freeBuffer_port (s : Chip) (p : PortId) (m : FabricMsg) (q : PortId) :
    ∃ c, (s.freeBuffer p.val m).port q = { s.port q with creditOwed := c } := by
  rw [Chip.freeBuffer, if_pos p.isLt, clip_val]
  by_cases same : q = p
  · subst same
    exact ⟨_, Chip.updPort_port_same _ _ _⟩
  · exact ⟨_, Chip.updPort_port_other _ _ _ _ same⟩

theorem Chip.freeBuffer_sameEgress (s : Chip) (p : PortId) (m : FabricMsg) : s.SameEgress (s.freeBuffer p.val m) := by
  have fabric : (s.freeBuffer p.val m).fabric = s.fabric := by rw [Chip.freeBuffer_frame]
  refine ⟨fabric, fun q => ?_, fun q => ?_⟩ <;> obtain ⟨c, port⟩ := s.freeBuffer_port p m q
  · rw [port]
  · rw [Chip.usable, Chip.usable, port, fabric]
    rfl

theorem Chip.received_frame (p : PortId) (m : FabricReq) (s : Chip) : ∃ v, s.received p m = { s with ports := v } :=
  ⟨_, Chip.freeBuffer_frame _ _ _⟩

theorem Chip.received_sameEgress (p : PortId) (m : FabricReq) (s : Chip) : s.SameEgress (s.received p m) := by
  have active (q : PortId) : ∃ n, (s.updPort p (fun x => { x with activeIn := Nat.max 1 m.active.toNat })).port q = { s.port q with activeIn := n } := by
    by_cases same : q = p
    · subst same
      exact ⟨_, Chip.updPort_port_same _ _ _⟩
    · exact ⟨_, Chip.updPort_port_other _ _ _ _ same⟩
  obtain ⟨fabric, queue, usable⟩ := (s.updPort p (fun x => { x with activeIn := Nat.max 1 m.active.toNat })).freeBuffer_sameEgress p (.req m)
  refine ⟨fabric, fun q => (queue q).trans ?_, fun q => (usable q).trans ?_⟩ <;> obtain ⟨n, port⟩ := active q
  · rw [port]
  · rw [Chip.usable, Chip.usable, port]
    rfl

section
variable {s : State} {p : PortId} {m : FabricReq} (up : LinkUp s p)
include up

theorem LinkUp.unfrozen : s.chip.frozen = false := by
  have live := up.1
  simp only [Chip.portLive, Bool.and_eq_true, Bool.not_eq_true'] at live
  exact live.2

theorem LinkUp.ringOn : (s.chip.die (portDie p)).ringOn = true := by
  have live := up.1
  simp only [Chip.portLive, Bool.and_eq_true] at live
  exact live.1

variable (id : s.chip.fabric.idValid = true) (dst : m.dst = s.chip.fabric.moduleId) (src : m.src ≠ s.chip.fabric.moduleId)
include id dst src

/-- A request of another module for this one is served where it came in. -/
theorem Chip.arriveReq_served : s.chip.arriveReq p m = (s.chip.received p m).serveRemote p m := by
  have fabric : (s.chip.updPort p (fun x => { x with activeIn := Nat.max 1 m.active.toNat })).fabric = s.chip.fabric := rfl
  rw [Chip.arriveReq, if_neg (by simp [up.1, up.2])]
  dsimp only
  rw [fabric, if_neg (fun own => src own.2), if_pos ⟨id, dst⟩, Chip.received]

end

end Sys2Proof.Machine
end

section
/-! One element reduced: a request that enters an empty queue of a reduction engine, its performance on a sound codeword, and the integer operations (R191 to R194). -/

namespace Sys2Proof.Machine

open Host

/-! ## A request enters the queue -/

/-- A stack's port that has counted and charged a reduction. -/
def Chip.billed (s : Chip) (t : StackId) (w : Who) : Chip := (s.charge t w 64).updHead (.reducer t) (fun h => h.bump 0 1)

/-- A stack that has taken a reduction. -/
def Chip.took (s : Chip) (t : StackId) (w : Who) (r : RedReq) : Chip := (s.billed t w).updStack t (fun y => { y with redQueue := y.redQueue ++ [r] })

section
variable {s : Chip} {w : Who} {a : Nat} {t : StackId} {y : Nat}

theorem Chip.Charged.billed (s : Chip) (t : StackId) (w : Who) : s.Charged (s.billed t w) := by
  refine .trans ?_ (.updHead _ _ _)
  unfold Chip.charge
  exact .updStack _ _ _ fun _ => ⟨rfl, rfl, rfl⟩

theorem Chip.took_reductions (free : (s.stack t).Open y) (r : RedReq) : (s.took t w r).reductions t = ([r], []) := by
  obtain ⟨queue, wait, -⟩ := (Charged.billed s t w).2 t
  rw [Chip.took, Chip.reductions_updStack_same]
  dsimp only
  rw [queue, wait, free.queue, free.wait, List.nil_append]

theorem Chip.queueReduction_taken {op fmt : BitVec 4} {data : List Byte} {new : Word64} {fetching : Bool} (met : s.Met w a true t y)
    (miss : s.findLine t (y / 256) = none) (allowed : reduceRefusal op.toNat fmt.toNat y data.length fetching = none) :
    s.queueReduction w a op fmt data new fetching = (s.took t w ⟨w.agent, y, op, fmt, data, new, fetching, w.die, false⟩, .taken t) := by
  obtain ⟨resolved, ⟨queue, wait, -, -⟩, -⟩ := met
  have room : queueRoom t [] (portInput t w) = true := by simp [queueRoom]
  rw [Chip.queueReduction, resolved]
  dsimp only
  rw [allowed]
  dsimp only
  rw [queue, wait, room, Chip.expel, miss]
  rfl

/-! ## The request is performed -/

/-- The only request of a queue leaves no trace there. -/
theorem Chip.popReduction_took (free : (s.stack t).Open y) (r : RedReq) : s.Charged ((s.took t w r).popReduction t []) := by
  have emptied : (s.took t w r).popReduction t [] = (s.took t w r).updStack t (fun x => { x with redQueue := [] }) := by
    rw [Chip.popReduction]
    refine if_pos ?_
    rw [Chip.updStack_stack_same]
    exact congrArg Prod.snd (took_reductions free r)
  rw [emptied]
  have kept := (Charged.billed s t w).2
  refine ⟨⟨_, _, rfl⟩, fun n => ?_⟩
  by_cases same : n = t
  · subst same
    rw [Chip.updStack_stack_same, Chip.took, Chip.updStack_stack_same]
    exact ⟨free.queue.symm, (kept n).2.1, (kept n).2.2⟩
  · rw [Chip.updStack_stack_other _ _ _ _ same, Chip.took, Chip.updStack_stack_other _ _ _ _ same]
    exact kept n

/-- A request of one element on a sound codeword replaces the element and answers its old bytes. -/
theorem Chip.reduce_element {r : RedReq} {size : Nat} (sound : s.Sound t r.saddr) (width : elemBits r.fmt.toNat / 8 = size) (one : r.data.length = size)
    (some_ : 0 < size) (inside : r.saddr % 64 + size ≤ 64) :
    let old := s.dram.bytes (dramKey t ((s.stack t).phys (r.saddr / 64 * 64)) + r.saddr % 64) size
    ∃ u v, s.Charged u ∧ u.Wrote t r.saddr (leBytes size (reduceElem r.op.toNat r.fmt.toNat (leNat old) (leNat r.data) r.newValue.toNat)) v ∧
      s.reduce t r = (v, .ok old) := by
  intro old
  have counted := Charged.stackEvent s t 3 (s.classOf r.agent) 1
  have sound' : Chip.Sound (s.stackEvent t 3 (s.classOf r.agent) 1) t r.saddr := by
    rw [Chip.Sound, Chip.patternOf, counted.phys, counted.codeErrors]
    exact sound
  have element : ((s.dram.bytes (dramKey t ((s.stack t).phys (r.saddr / 64 * 64))) 64).drop (r.saddr % 64)).take size = old := Memory.bytes_part _ _ _ _ _ inside
  have length : old.length = size := by rw [← element]; simp; omega
  have reduced : reduceBytes r.op.toNat r.fmt.toNat size r.newValue.toNat (size / size) old r.data =
      leBytes size (reduceElem r.op.toNat r.fmt.toNat (leNat old) (leNat r.data) r.newValue.toNat) := by
    rw [Nat.div_self some_, reduceBytes, reduceBytes, List.drop_of_length_le length.le, List.append_nil, List.take_of_length_le length.le, List.take_of_length_le one.le]
  generalize hnew : leBytes size (reduceElem r.op.toNat r.fmt.toNat (leNat old) (leNat r.data) r.newValue.toNat) = new at *
  have newLength : new.length = size := by rw [← hnew, leBytes_length]
  refine ⟨_, (s.stackEvent t 3 (s.classOf r.agent) 1).writeCodeword t r.saddr (splice (s.dram.bytes (dramKey t ((s.stack t).phys (r.saddr / 64 * 64))) 64) (r.saddr % 64) new),
    counted, ⟨⟨_, _, rfl⟩, fun x => ?_⟩, ?_⟩
  · rw [counted.dram, counted.phys]
    refine (congrArg (fun p => Memory.byte (s.dram.putBytes (dramKey t p) _) x) (counted.phys t _)).trans ?_
    exact Memory.byte_putBytes_merged _ _ _ _ _ (by rw [newLength]; omega) _
  · rw [Chip.reduce, readCodeword_sound sound']
    simp only [width, one, counted.dram, counted.phys, element, reduced]

/-- A fetching atomic of one element on a sound codeword of a quiet stack. -/
theorem Chip.fetchAtomic_performs {op fmt : BitVec 4} {data : List Byte} {new : Word64} {size : Nat} (met : s.Met w a true t y)
    (miss : s.findLine t (y / 256) = none) (allowed : reduceRefusal op.toNat fmt.toNat y data.length true = none)
    (width : elemBits fmt.toNat / 8 = size) (one : data.length = size) (some_ : 0 < size) (inside : y % 64 + size ≤ 64) :
    let old := s.dram.bytes (dramKey t ((s.stack t).phys (y / 64 * 64)) + y % 64) size
    ∃ u v, s.Charged u ∧ u.Wrote t y (leBytes size (reduceElem op.toNat fmt.toNat (leNat old) (leNat data) new.toNat)) v ∧
      s.fetchAtomic w a op fmt data new = (v, .ok old) := by
  intro old
  have popped := popReduction_took (w := w) met.free ⟨w.agent, y, op, fmt, data, new, true, w.die, false⟩
  have queue : ((s.took t w ⟨w.agent, y, op, fmt, data, new, true, w.die, false⟩).stack t).redQueue = [⟨w.agent, y, op, fmt, data, new, true, w.die, false⟩] :=
    congrArg Prod.fst (took_reductions met.free _)
  have sound : Chip.Sound ((s.took t w ⟨w.agent, y, op, fmt, data, new, true, w.die, false⟩).popReduction t []) t y := by
    rw [Chip.Sound, Chip.patternOf, popped.phys, popped.codeErrors]
    exact met.sound
  obtain ⟨u, v, charged, wrote, reduced⟩ := reduce_element (r := ⟨w.agent, y, op, fmt, data, new, true, w.die, false⟩) sound width one some_ inside
  rw [popped.dram, popped.phys] at wrote reduced
  refine ⟨u, v, popped.trans charged, wrote, ?_⟩
  simp only [Chip.fetchAtomic, queueReduction_taken met miss allowed, queue, List.length_singleton, Chip.drain, if_true]
  exact reduced

end

/-! ## The integer operations (R192, R358) -/

/-- One integer element reduced is the spec's operation on its bits. -/
theorem reduceElem_atomicOps : ∀ e ∈ atomicOps, ∀ f ∈ [11, 12], ∀ old v new : Nat,
    reduceElem e.1 f old v new = (e.2 (8 * (elemBits f / 8)) (BitVec.ofNat _ old) (BitVec.ofNat _ v) (BitVec.ofNat _ new)).toNat := by
  have bits : ∀ f ∈ [11, 12], floatFmt f = none ∧ 8 * (elemBits f / 8) = elemBits f := by decide
  intro e op f int old v new
  obtain ⟨notFloat, width⟩ := bits f int
  rw [width, reduceElem, notFloat]
  simp only [atomicOps, List.mem_cons, List.not_mem_nil, or_false] at op
  rcases op with rfl | rfl | rfl | rfl | rfl | rfl | rfl | rfl | rfl | rfl <;> simp only [BitVec.slt_eq_decide, decide_eq_true_eq]

/-- The spec's integer operations on an aligned element are accepted: posted up to XOR, fetching all but a compare-and-swap of 32 bits (R191). -/
theorem reduceRefusal_atomicOps : ∀ e ∈ atomicOps, ∀ f ∈ [11, 12], ∀ y : Nat, y % (elemBits f / 8) = 0 →
    (e.1 ≤ 6 → reduceRefusal e.1 f y (elemBits f / 8) false = none) ∧ ((e.1 = 10 → f = 12) → reduceRefusal e.1 f y (elemBits f / 8) true = none) := by
  have allowed : ∀ op ∈ [1, 2, 3, 4, 5, 6, 7, 8, 9, 10], ∀ f ∈ [11, 12], (op ≤ 6 → reduceAllowed op f false = true) ∧ ((op = 10 → f = 12) → reduceAllowed op f true = true) := by
    decide
  have ops : ∀ e ∈ atomicOps, e.1 ∈ [1, 2, 3, 4, 5, 6, 7, 8, 9, 10] := by simp [atomicOps]
  have formats : ∀ f ∈ [11, 12], (elemBits f / 8 = 4 ∨ elemBits f / 8 = 8) ∧ fmtValid f = true := by decide
  intro e op f int y aligned
  obtain ⟨posted, fetching⟩ := allowed e.1 (ops e op) f int
  obtain ⟨size, valid⟩ := formats f int
  obtain ⟨n, bytes⟩ : ∃ n, elemBits f / 8 = n := ⟨_, rfl⟩
  rw [bytes] at size aligned ⊢
  have width : Nat.max 1 n = n := by rcases size with rfl | rfl <;> rfl
  have within : n ≠ 0 ∧ n % n = 0 ∧ ¬ 64 < y % 64 + n := by rcases size with rfl | rfl <;> omega
  refine ⟨fun small => ?_, fun swap => ?_⟩ <;> simp only [reduceRefusal, bytes, width, aligned, within, valid]
  · simp [posted small]
  · simp [fetching swap]

end Sys2Proof.Machine
end

section
/-! Requests, responses and doorbells between modules (R49, R357 to R365). -/

namespace Sys2Proof.Machine

open Host

/-- What a port has received is nothing to an access of stack memory. -/
theorem Chip.Met.withPorts {s : Chip} {w : Who} {a : Nat} {write : Bool} {t : StackId} {y : Nat} (met : s.Met w a write t y) (q : Table PortId Port) :
    Chip.Met { s with ports := q } w a write t y := by
  obtain ⟨resolved, free, sound⟩ := met
  exact ⟨resolved, free, sound⟩

/-- Nor is it to an operation on an object. -/
theorem Chip.objRefusal_withPorts (s : Chip) (q : Table PortId Port) (w : Who) (o : ObjId) (signal : Bool) :
    Chip.objRefusal { s with ports := q } w o signal none = s.objRefusal w o signal none := by
  have offline : Chip.objOffline { s with ports := q } o = s.objOffline o := by cases o <;> rfl
  have lost : Chip.objLost { s with ports := q } w o = s.objLost w o := by cases o <;> rfl
  have grants : Chip.objGrants { s with ports := q } w.agent o signal = s.objGrants w.agent o signal := by cases w.agent <;> rfl
  rw [Chip.objRefusal, Chip.objRefusal, offline, lost, grants]

/-- A granted SIGNAL without a scope. -/
theorem Chip.objOp_unscoped {s : Chip} {w : Who} {o : ObjId} {v : Word64} (granted : s.objRefusal w o true none = none)
    (clear : (s.sync (unitOf o)).clearBusy = false) :
    s.objOp w o (.signal v none) = (s.applyObj o (.signal v none), { count := (s.obj o).count, notify := (s.obj o).word8 }) := by
  unfold Chip.objOp
  dsimp only
  rw [granted, clear]
  rfl

/-! ## What serving a request of each operation comes to -/

section
variable {u v : Chip} {p : PortId} {m : FabricReq}

theorem Chip.faultTrigger_unarmed {s : Chip} {b : Block} (unarmed : (s.die (Block.die b)).coel.armed = false) (c : FaultCode) : s.faultTrigger b c = s := by
  rw [Chip.faultTrigger]
  exact ite_eq_right_iff.2 fun _ => Chip.trigger_unarmed unarmed _ _ _

/-- A fault of the fabric on a die whose Coelostat is not armed is recorded, and takes one free choice. -/
theorem Chip.fabricErr_unarmed {s : Chip} {d : DieId} (unarmed : (s.die d).coel.armed = false) (c : FaultCode) (tag : BitVec 16) (addr : Word64) :
    ∃ h n, s.fabricErr d c tag addr = { s with heads := h, free := n } := by
  have recorded : s.fabricErr d c tag addr =
      (s.freeChoice 32).2.updHead (.fabricRoute d) (fun h => h.record { bit := (s.freeChoice 32).1, code := c, tag := tag, addr := addr }) := by
    rw [Chip.fabricErr, Chip.err]
    exact Chip.faultTrigger_unarmed (by exact unarmed) _
  exact ⟨_, _, recorded⟩

/-- A doorbell at the end of a die's list. -/
def Die.joinDoorbell (e : BitVec 12 × Word32) (x : Die) : Die := { x with dbRx := x.dbRx ++ [e] }

/-- A doorbell that finds room joins its die's list. -/
theorem Chip.doorbellIn_joins {s : Chip} {d : DieId} (room : (s.die d).dbRx.length < 16) (src : BitVec 12) (v : Word32) (tag : BitVec 16) (addr : Word64) :
    s.doorbellIn d src v tag addr = (s.updDie d (Die.joinDoorbell (src, v)), none) := if_pos room

theorem serveRemote_closed (closed : u.fabric.ingressEn = false) :
    u.serveRemote p m = (u.fabricErr (portDie p) Code.ingressClosed m.tag m.addr).respond m Code.ingressClosed [] := by
  rw [Chip.serveRemote]
  exact if_pos closed

section
variable (admits : u.fabric.ingressEn = true)
include admits

theorem serveRemote_load {bs : List Byte} (op : m.op = 1) (loaded : u.load (remoteWho p m) (localOf m.addr) (m.lenM1.toNat + 1) = (v, .ok bs)) :
    u.serveRemote p m = v.respond m 0 bs := by
  rw [remoteWho] at loaded
  rw [Chip.serveRemote]
  simp only [admits, op, loaded, Bool.true_eq_false, BitVec.reduceEq, if_false, if_true]

theorem serveRemote_store (op : m.op = 2) (stored : u.store (remoteWho p m) (localOf m.addr) m.data = (v, none)) : u.serveRemote p m = v.respond m 0 [] := by
  rw [remoteWho] at stored
  rw [Chip.serveRemote]
  simp only [admits, op, stored, Bool.true_eq_false, BitVec.reduceEq, if_false, if_true]
  rfl

theorem serveRemote_reduce (op : m.op = 3) (reduced : u.remoteReduce (remoteWho p m) m = (v, none)) : u.serveRemote p m = v.respond m 0 [] := by
  rw [remoteWho] at reduced
  rw [Chip.serveRemote]
  simp only [admits, op, reduced, Bool.true_eq_false, BitVec.reduceEq, if_false, if_true]
  rfl

theorem serveRemote_atomic {bs : List Byte} (op : m.op = 4)
    (fetched : u.fetchAt (remoteWho p m) (localOf m.addr) m.aop m.fmt (leBytes (elemBits m.fmt.toNat / 8) m.operand.toNat) m.operand2 = (v, .ok bs)) :
    u.serveRemote p m = v.respond m 0 bs := by
  rw [remoteWho] at fetched
  rw [Chip.serveRemote]
  simp only [admits, op, fetched, Bool.true_eq_false, BitVec.reduceEq, if_false, if_true]

theorem serveRemote_signal {o : ObjId} {answer : ObjAnswer} (op : m.op = 5) (object : place (localOf m.addr) = .obj o 0)
    (signalled : u.objOp (remoteWho p m) o (.signal m.operand none) = (v, answer)) (accepted : answer.fault = none) : u.serveRemote p m = v.respond m 0 [] := by
  rw [remoteWho] at signalled
  rw [Chip.serveRemote]
  simp only [admits, op, object, signalled, accepted, Bool.true_eq_false, BitVec.reduceEq, if_false, if_true]
  rfl

theorem serveRemote_doorbell (op : m.op = 6) (rung : u.doorbellIn (portDie p) m.src (m.operand.extractLsb' 0 32) m.tag m.addr = (v, none)) :
    u.serveRemote p m = v.respond m 0 [] := by
  rw [Chip.serveRemote]
  simp only [admits, op, rung, Bool.true_eq_false, BitVec.reduceEq, if_false, if_true]
  rfl

end

end

/-! ## Requests of another module (R357 to R359) -/

section
variable {s : State} {p : PortId} {m : FabricReq}

/-- A request of another module for this one is served on a chip that differs in what its port has received. -/
theorem remote_arrives {i : Instr} (up : LinkUp s p) (id : s.chip.fabric.idValid = true) (dst : m.dst = s.chip.fabric.moduleId)
    (src : m.src ≠ s.chip.fabric.moduleId) (does : exec i s = fabricCmd (Chip.arriveReq p m) s) :
    ∃ q, s.chip.SameEgress { s.chip with ports := q } ∧ Runs i s { s with chip := Chip.serveRemote { s.chip with ports := q } p m } := by
  obtain ⟨q, frame⟩ := s.chip.received_frame p m
  refine ⟨q, frame ▸ s.chip.received_sameEgress p m, ?_⟩
  rw [Runs, does]
  refine (onChip_next _ _).trans ?_
  rw [Chip.live_unfrozen _ up.unfrozen, Chip.arriveReq_served up id dst src, frame]

/-- A request that is served, and answered over the ports as they stood. -/
theorem remote_answered {i : Instr} {u v : Chip} {fault : FaultCode} {data : List Byte} (runs : Runs i s { s with chip := u.serveRemote p m })
    (served : u.serveRemote p m = v.respond m fault data) (routed : Routed s m.src) (same : s.chip.SameEgress v) :
    ∃ ports n, Runs i s { s with chip := { v with ports := ports, free := n } } ∧
      Responds s { s with chip := { v with ports := ports, free := n } } m (responseOp m.op) fault data := by
  obtain ⟨ports, n, answer, responds⟩ := same.respond routed fault data
  rw [served, answer] at runs
  exact ⟨ports, n, runs, responds _ rfl⟩

theorem remote_closed (up : LinkUp s p) (id : s.chip.fabric.idValid = true) (dst : m.dst = s.chip.fabric.moduleId) (src : m.src ≠ s.chip.fabric.moduleId)
    (closed : s.chip.fabric.ingressEn = false) (routed : Routed s m.src) (unarmed : (s.chip.die (portDie p)).coel.armed = false) :
    ∃ t, Runs (.remoteStore p m) s t ∧ SameMemory s t ∧ t.chip.objs = s.chip.objs ∧ Responds s t m 0x22 Code.ingressClosed [] := by
  obtain ⟨q, same, runs⟩ := remote_arrives (i := .remoteStore p m) (m := { m with op := 2 }) up id dst src rfl
  have served := serveRemote_closed (u := { s.chip with ports := q }) (p := p) (m := { m with op := 2 }) closed
  obtain ⟨h, n, recorded⟩ := Chip.fabricErr_unarmed (s := { s.chip with ports := q }) (d := portDie p) unarmed Code.ingressClosed m.tag m.addr
  rw [recorded] at served
  obtain ⟨ports, k, run, responds⟩ := remote_answered runs served routed (same.congr rfl rfl)
  exact ⟨_, run, ⟨rfl, rfl, rfl, rfl⟩, rfl, responds⟩

section
variable (admitted : Admitted s p m)
include admitted

theorem Admitted.routed : Routed s m.src := by
  obtain ⟨-, -, -, -, -, routed⟩ := admitted
  exact routed

theorem Admitted.arrives {i : Instr} (op : BitVec 6) (does : exec i s = fabricCmd (Chip.arriveReq p { m with op := op }) s) :
    ∃ q, s.chip.SameEgress { s.chip with ports := q } ∧ Runs i s { s with chip := Chip.serveRemote { s.chip with ports := q } p { m with op := op } } ∧
      (Chip.fabric { s.chip with ports := q }).ingressEn = true := by
  obtain ⟨up, id, dst, src, admits, -⟩ := admitted
  obtain ⟨q, same, runs⟩ := remote_arrives (m := { m with op := op }) up id dst src does
  exact ⟨q, same, runs, admits⟩

theorem remoteLoad_answers {st : StackId} {y : Nat} (inside : localOf m.addr % 64 + (m.lenM1.toNat + 1) ≤ 64) (miss : s.chip.findLine st (y / 256) = none)
    (reaches : Reaches s (remoteWho p m) (localOf m.addr) false st y) :
    ∃ t, Runs (.remoteLoad p m) s t ∧ SameMemory s t ∧ Responds s t m 0x21 0 (dramBytes s st y (m.lenM1.toNat + 1)) := by
  obtain ⟨q, same, runs, admits⟩ := admitted.arrives (i := .remoteLoad p m) 1 rfl
  have offset := Chip.resolve_offset reaches.met.resolved
  have met : Chip.Met { s.chip with ports := q } (remoteWho p m) (localOf m.addr) false st y := reaches.met.withPorts q
  obtain ⟨v, ⟨⟨h, k, rfl⟩, -⟩, loaded⟩ := Chip.load_slit reaches.2.1 met miss (by omega) inside
  have served := serveRemote_load (p := p) (m := { m with op := 1 }) admits rfl loaded
  obtain ⟨ports, n, run, responds⟩ := remote_answered runs served admitted.routed (same.congr rfl rfl)
  refine ⟨_, run, ⟨rfl, rfl, rfl, rfl⟩, ?_⟩
  rw [dramBytes_within (by omega)]
  exact responds

theorem remoteStore_lands {st : StackId} {y : Nat} (some_ : 1 ≤ m.data.length) (inside : localOf m.addr % 64 + m.data.length ≤ 64)
    (miss : s.chip.findLine st (y / 256) = none) (reaches : Reaches s (remoteWho p m) (localOf m.addr) true st y) :
    ∃ t, Runs (.remoteStore p m) s t ∧ OnlyDram st y m.data.length s t ∧ dramBytes t st y m.data.length = m.data ∧ Responds s t m 0x22 0 [] := by
  obtain ⟨q, same, runs, admits⟩ := admitted.arrives (i := .remoteStore p m) 2 rfl
  have offset := Chip.resolve_offset reaches.met.resolved
  have met : Chip.Met { s.chip with ports := q } (remoteWho p m) (localOf m.addr) true st y := reaches.met.withPorts q
  obtain ⟨u, v, charged, wrote, stored⟩ := Chip.store_slit reaches.2.1 met miss some_ inside
  have served := serveRemote_store (p := p) (m := { m with op := 2 }) admits rfl stored
  obtain ⟨shape, fabric⟩ : v.ports = q ∧ v.fabric = s.chip.fabric := by
    obtain ⟨⟨d, e, rfl⟩, -⟩ := wrote
    obtain ⟨⟨h, k, rfl⟩, -⟩ := charged
    exact ⟨rfl, rfl⟩
  obtain ⟨ports, n, run, responds⟩ := remote_answered runs served admitted.routed (same.congr fabric shape)
  exact ⟨_, run, wrote.onlyDram (s := { s with chip := { s.chip with ports := q } }) charged rfl rfl,
    wrote.dramBytes_eq (by omega) rfl (by obtain ⟨⟨d, e, rfl⟩, -⟩ := wrote; rfl), responds⟩

theorem remoteReduce_queues {st : StackId} {y : Nat} {e : Nat × ((w : Nat) → BitVec w → BitVec w → BitVec w → BitVec w)} {f : Nat} (op : e ∈ atomicOps) (int : f ∈ [11, 12])
    (aop : m.aop.toNat = e.1) (fmt : m.fmt.toNat = f) (aligned : y % (elemBits f / 8) = 0) (miss : s.chip.findLine st (y / 256) = none)
    (reaches : Reaches s (remoteWho p m) (localOf m.addr) true st y) (posted : e.1 ≤ 6) (one : m.data.length = elemBits f / 8) :
    ∃ t, Runs (.remoteReduce p m) s t ∧ SameMemory s t ∧ Responds s t m 0x22 0 [] ∧
      (t.chip.stack st).redQueue = [⟨.remote m.src, y, m.aop, m.fmt, m.data, 0, false, portDie p, false⟩] := by
  obtain ⟨q, same, runs, admits⟩ := admitted.arrives (i := .remoteReduce p m) 3 rfl
  have met : Chip.Met { s.chip with ports := q } (remoteWho p m) (localOf m.addr) true st y := reaches.met.withPorts q
  have allowed : reduceRefusal m.aop.toNat m.fmt.toNat y m.data.length false = none := by
    rw [aop, fmt, one]
    exact (reduceRefusal_atomicOps e op f int y aligned).1 posted
  have taken := Chip.queueReduction_taken (new := 0) met miss allowed
  have reduced : Chip.remoteReduce { s.chip with ports := q } (remoteWho p m) { m with op := 3 } =
      (Chip.took { s.chip with ports := q } st (remoteWho p m) ⟨.remote m.src, y, m.aop, m.fmt, m.data, 0, false, portDie p, false⟩, none) := by
    simp only [Chip.remoteReduce, Chip.reduceAt, place_memory reaches.2.1, taken]
    rfl
  have served := serveRemote_reduce (p := p) (m := { m with op := 3 }) admits rfl reduced
  have queued := congrArg Prod.fst (Chip.took_reductions (w := remoteWho p m) met.free ⟨.remote m.src, y, m.aop, m.fmt, m.data, 0, false, portDie p, false⟩)
  obtain ⟨ports, n, run, responds⟩ := remote_answered runs served admitted.routed (same.congr rfl rfl)
  exact ⟨_, run, ⟨rfl, rfl, rfl, rfl⟩, responds, queued⟩

theorem remoteAtomic_performs {st : StackId} {y : Nat} {e : Nat × ((w : Nat) → BitVec w → BitVec w → BitVec w → BitVec w)} {f size : Nat} (op : e ∈ atomicOps)
    (int : f ∈ [11, 12]) (width : elemBits f / 8 = size) (aop : m.aop.toNat = e.1) (fmt : m.fmt.toNat = f) (aligned : y % size = 0)
    (miss : s.chip.findLine st (y / 256) = none) (reaches : Reaches s (remoteWho p m) (localOf m.addr) true st y) (swap : e.1 = 10 → f = 12) :
    ∃ t, Runs (.remoteAtomic p m) s t ∧ OnlyDram st y size s t ∧ Responds s t m 0x24 0 (dramBytes s st y size) ∧
      leNat (dramBytes t st y size) = (e.2 (8 * size) (BitVec.ofNat (8 * size) (leNat (dramBytes s st y size))) (BitVec.ofNat (8 * size) m.operand.toNat)
        (BitVec.ofNat (8 * size) m.operand2.toNat)).toNat := by
  obtain ⟨q, same, runs, admits⟩ := admitted.arrives (i := .remoteAtomic p m) 4 rfl
  have met : Chip.Met { s.chip with ports := q } (remoteWho p m) (localOf m.addr) true st y := reaches.met.withPorts q
  have formats : ∀ f ∈ [11, 12], elemBits f / 8 = 4 ∨ elemBits f / 8 = 8 := by decide
  have sizes : size = 4 ∨ size = 8 := width ▸ formats f int
  have inside : y % 64 + size ≤ 64 := by rcases sizes with rfl | rfl <;> omega
  have length : (leBytes size m.operand.toNat).length = size := leBytes_length ..
  have allowed : reduceRefusal m.aop.toNat m.fmt.toNat y (leBytes size m.operand.toNat).length true = none := by
    rw [aop, fmt, length, ← width]
    exact (reduceRefusal_atomicOps e op f int y (width ▸ aligned)).2 swap
  have performed : let old := s.chip.dram.bytes (dramKey st ((s.chip.stack st).phys (y / 64 * 64)) + y % 64) size
      ∃ u v, Chip.Charged { s.chip with ports := q } u ∧
        u.Wrote st y (leBytes size (reduceElem m.aop.toNat m.fmt.toNat (leNat old) (leNat (leBytes size m.operand.toNat)) m.operand2.toNat)) v ∧
        Chip.fetchAtomic { s.chip with ports := q } (remoteWho p m) (localOf m.addr) m.aop m.fmt (leBytes size m.operand.toNat) m.operand2 = (v, .ok old) :=
    Chip.fetchAtomic_performs met miss allowed (fmt ▸ width) length (by omega) inside
  rw [← dramBytes_within inside] at performed
  obtain ⟨u, v, charged, wrote, fetched⟩ := performed
  have bits : 256 ^ size = 2 ^ (8 * size) := (pow_mul 2 8 size).symm
  have operand : BitVec.ofNat (8 * size) (leNat (leBytes size m.operand.toNat)) = BitVec.ofNat (8 * size) m.operand.toNat := by
    rw [leNat_leBytes, bits]
    exact BitVec.eq_of_toNat_eq (by simp)
  rw [aop, fmt, reduceElem_atomicOps e op f int, width, operand] at wrote
  have fetched' : Chip.fetchAt { s.chip with ports := q } (remoteWho p m) (localOf m.addr) m.aop m.fmt (leBytes (elemBits m.fmt.toNat / 8) m.operand.toNat) m.operand2 =
      (v, .ok (dramBytes s st y size)) := by
    rw [Chip.fetchAt, place_memory reaches.2.1, fmt, width]
    exact fetched
  have served := serveRemote_atomic (p := p) (m := { m with op := 4 }) admits rfl fetched'
  obtain ⟨shape, fabric⟩ : v.ports = q ∧ v.fabric = s.chip.fabric := by
    obtain ⟨⟨d, c, rfl⟩, -⟩ := wrote
    obtain ⟨⟨h, k, rfl⟩, -⟩ := charged
    exact ⟨rfl, rfl⟩
  obtain ⟨ports, n, run, responds⟩ := remote_answered runs served admitted.routed (same.congr fabric shape)
  have only := wrote.onlyDram (s := { s with chip := { s.chip with ports := q } }) (t := { s with chip := { v with ports := ports, free := n } }) charged rfl rfl
  have bytes := wrote.dramBytes_eq (t := { s with chip := { v with ports := ports, free := n } }) (by rw [leBytes_length]; exact inside) rfl
    (by obtain ⟨⟨d, c, rfl⟩, -⟩ := wrote; rfl)
  rw [leBytes_length] at only bytes
  refine ⟨_, run, only, responds, ?_⟩
  rw [bytes, leNat_leBytes, bits, Nat.mod_eq_of_lt (BitVec.isLt _)]

theorem remoteSignal_counts {o : ObjId} (object : place (localOf m.addr) = .obj o 0) (granted : s.chip.objRefusal (remoteWho p m) o true none = none)
    (clear : (s.chip.sync (unitOf o)).clearBusy = false) :
    ∃ t, Runs (.remoteSignal p m) s t ∧ SameMemory s t ∧ (t.chip.obj o).count = (s.chip.obj o).count + m.operand ∧
      (∀ q, q ≠ o → t.chip.obj q = s.chip.obj q) ∧ Responds s t m 0x22 0 [] := by
  obtain ⟨q, same, runs, admits⟩ := admitted.arrives (i := .remoteSignal p m) 5 rfl
  have signalled : Chip.objOp { s.chip with ports := q } (remoteWho p m) o (.signal m.operand none) =
      (Chip.applyObj { s.chip with ports := q } o (.signal m.operand none), { count := (s.chip.obj o).count, notify := (s.chip.obj o).word8 }) := by
    have granted' : Chip.objRefusal { s.chip with ports := q } (remoteWho p m) o true none = none := (Chip.objRefusal_withPorts ..).trans granted
    have clear' : (Chip.sync { s.chip with ports := q } (unitOf o)).clearBusy = false := clear
    exact Chip.objOp_unscoped granted' clear'
  have served := serveRemote_signal (p := p) (m := { m with op := 5 }) admits rfl object signalled rfl
  obtain ⟨⟨x, effect⟩, count, others⟩ := Chip.signal_effect { s.chip with ports := q } o m.operand none
  rw [effect] at served count others
  obtain ⟨ports, n, run, responds⟩ := remote_answered runs served admitted.routed (same.congr rfl rfl)
  exact ⟨_, run, ⟨rfl, rfl, rfl, rfl⟩, count, others, responds⟩

theorem remoteDoorbell_joins (room : (s.chip.die (portDie p)).dbRx.length < 16) :
    ∃ t, Runs (.remoteDoorbell p m) s t ∧ SameMemory s t ∧
      (t.chip.die (portDie p)).dbRx = (s.chip.die (portDie p)).dbRx ++ [(m.src, m.operand.extractLsb' 0 32)] ∧ Responds s t m 0x22 0 [] := by
  obtain ⟨q, same, runs, admits⟩ := admitted.arrives (i := .remoteDoorbell p m) 6 rfl
  have rung := Chip.doorbellIn_joins (s := { s.chip with ports := q }) room m.src (m.operand.extractLsb' 0 32) m.tag m.addr
  have served := serveRemote_doorbell (p := p) (m := { m with op := 6 }) admits rfl rung
  obtain ⟨ports, n, run, responds⟩ := remote_answered runs served admitted.routed (same.congr rfl rfl)
  exact ⟨_, run, ⟨rfl, rfl, rfl, rfl⟩, congrArg Die.dbRx (Chip.updDie_die_same { s.chip with ports := q } (portDie p) (Die.joinDoorbell _)), responds⟩

end

end

/-! ## Responses and time-outs (R359, R361) -/

/-- A transaction leaves a die's list. -/
def Die.dropTxn (n : BitVec 16) (x : Die) : Die := { x with txns := x.txns.filter (fun t => t.num ≠ n) }

/-- The doorbell's sender reads the answer. -/
theorem Chip.answerTxn_doorbell {c : Chip} {x : Txn} {d : DieId} (waiter : x.waiter = .doorbell d) {fault : FaultCode}
    (quiet : fault = 0 ∨ (c.die d).coel.armed = false) (data : List Byte) :
    ∃ h n, c.answerTxn x fault data = { c with heads := h, free := n, out := if fault = 0 then .bytes data else .fault fault } := by
  simp only [Chip.answerTxn, waiter]
  by_cases good : fault = 0
  · simp only [if_pos good]
    exact ⟨_, _, rfl⟩
  · obtain ⟨h, n, recorded⟩ := fabricErr_unarmed (quiet.resolve_left good) fault x.tag x.addr
    simp only [if_neg good, recorded]
    exact ⟨_, _, rfl⟩

theorem response_answers {s : State} {p : PortId} {r : FabricRsp} {x : Txn} {i : Instr} (up : LinkUp s p) (id : s.chip.fabric.idValid = true)
    (dst : r.dst = s.chip.fabric.moduleId) (src : r.src ≠ s.chip.fabric.moduleId) (route : s.chip.route (portDie p) (clip 8 r.die.toNat) = true)
    (waits : (s.chip.die (clip 8 r.die.toNat)).txns.find? (fun t => t.num = r.txn) = some x) (waiter : x.waiter = .doorbell (clip 8 r.die.toNat))
    (quiet : r.fault = 0 ∨ (s.chip.die (clip 8 r.die.toNat)).coel.armed = false) (does : exec i s = fabricCmd (Chip.arriveRsp p r) s) :
    ∃ t, Runs i s t ∧ SameMemory s t ∧ t.chip.out = (if r.fault = 0 then .bytes r.data else .fault r.fault) ∧
      t.chip.die (clip 8 r.die.toNat) = (s.chip.die (clip 8 r.die.toNat)).dropTxn r.txn ∧ ∀ e, e ≠ clip 8 r.die.toNat → t.chip.die e = s.chip.die e := by
  generalize die : clip 8 r.die.toNat = d at *
  obtain ⟨q, frame⟩ : ∃ q, s.chip.freeBuffer p.val (.rsp r) = { s.chip with ports := q } := ⟨_, Chip.freeBuffer_frame _ _ _⟩
  let c := Chip.updDie { s.chip with ports := q } d (Die.dropTxn r.txn)
  have same : c.die d = (s.chip.die d).dropTxn r.txn := Chip.updDie_die_same { s.chip with ports := q } d _
  obtain ⟨h, n, answered⟩ := Chip.answerTxn_doorbell (c := c) waiter (fault := r.fault) (quiet.imp_right fun unarmed => by rw [same]; exact unarmed) r.data
  have run : Runs i s { s with chip := c.answerTxn x r.fault r.data } := by
    rw [Runs, does]
    refine (onChip_next _ _).trans ?_
    have waits' : (Chip.die { s.chip with ports := q } d).txns.find? (fun t => t.num = r.txn) = some x := waits
    rw [Chip.live_unfrozen _ up.unfrozen, Chip.arriveRsp, if_neg (by simp [up.1, up.2])]
    dsimp only
    rw [if_neg (fun own => src own.2), if_pos ⟨id, dst⟩, die, if_neg (by simp [route]), frame, Chip.takeTxn, waits']
    rfl
  rw [answered] at run
  exact ⟨_, run, ⟨rfl, rfl, rfl, rfl⟩, rfl, same, fun e other => Chip.updDie_die_other { s.chip with ports := q } d e _ other⟩

theorem respTimeout_answers {s : State} {d : DieId} {k : BitVec 16} {x : Txn} (up : RingUp s d) (waits : (s.chip.die d).txns.find? (fun t => t.num = k) = some x)
    (waiter : x.waiter = .doorbell d) (unarmed : (s.chip.die d).coel.armed = false) :
    ∃ t, Runs (.respTimeout d k) s t ∧ SameMemory s t ∧ t.chip.out = .fault Code.respTimeout ∧
      t.chip.die d = { s.chip.die d with txns := (s.chip.die d).txns.filter (fun t => t.num ≠ k), retired := (s.chip.die d).retired ++ [k] } := by
  let c := (s.chip.updDie d (Die.dropTxn k)).updDie d (fun y => { y with retired := y.retired ++ [k] })
  have die : c.die d = { s.chip.die d with txns := (s.chip.die d).txns.filter (fun t => t.num ≠ k), retired := (s.chip.die d).retired ++ [k] } := by
    rw [Chip.updDie_die_same, Chip.updDie_die_same]
    rfl
  obtain ⟨h, n, answered⟩ := Chip.answerTxn_doorbell (c := c) waiter (fault := Code.respTimeout) (.inr (by rw [die]; exact unarmed)) []
  have run : Runs (.respTimeout d k) s { s with chip := c.answerTxn x Code.respTimeout [] } := by
    refine (onChip_next _ _).trans ?_
    rw [Chip.live_unfrozen _ up.1, Chip.respTimeout, if_neg (by simp [up.1, up.2]), Chip.takeTxn, waits]
    rfl
  rw [answered] at run
  exact ⟨_, run, ⟨rfl, rfl, rfl, rfl⟩, rfl, die⟩

/-! ## Doorbells (R49, R365) -/

/-- DB_RX_SRC holds a valid bit over the source. -/
theorem valid_source (src : BitVec 12) : (bitMask 31 ||| src.setWidth 32).toNat = 2 ^ 31 + src.toNat := by
  have small : src.toNat < 2 ^ 31 := by omega
  rw [BitVec.toNat_or, BitVec.toNat_setWidth, Nat.mod_eq_of_lt (by omega)]
  exact (Nat.two_pow_add_eq_or_of_lt small 1).symm

/-- A die whose oldest doorbell has been read. -/
def Die.takeDoorbell (e : BitVec 12 × Word32) (rest : List (BitVec 12 × Word32)) (x : Die) : Die := { x with dbRx := rest, dbRxData := e.2 }

theorem dbRxSrcRead_takes {s : State} {d : DieId} {e : BitVec 12 × Word32} {rest : List (BitVec 12 × Word32)} (live : s.chip.frozen = false)
    (oldest : (s.chip.die d).dbRx = e :: rest) :
    ∃ t, Runs (.dbRxSrcRead d) s t ∧ SameMemory s t ∧ t.chip.out = .word (2 ^ 31 + e.1.toNat) ∧
      t.chip.die d = { s.chip.die d with dbRx := rest, dbRxData := e.2 } := by
  have run : Runs (.dbRxSrcRead d) s { s with chip := { s.chip.updDie d (Die.takeDoorbell e rest) with out := .word (bitMask 31 ||| e.1.setWidth 32).toNat } } := by
    refine (onChip_next _ _).trans ?_
    rw [Chip.live_unfrozen _ live]
    simp only [Chip.dbReceive, oldest]
    rfl
  exact ⟨_, run, ⟨rfl, rfl, rfl, rfl⟩, congrArg Reply.word (valid_source e.1), Chip.updDie_die_same s.chip d (Die.takeDoorbell e rest)⟩

theorem dbRxSrcRead_empty {s : State} {d : DieId} (live : s.chip.frozen = false) (none_ : (s.chip.die d).dbRx = []) :
    ∃ t, Runs (.dbRxSrcRead d) s t ∧ t = { s with chip := { s.chip with out := .word 0 } } := by
  refine ⟨_, (onChip_next _ _).trans ?_, rfl⟩
  rw [Chip.live_unfrozen _ live]
  simp only [Chip.dbReceive, none_]
  rfl

/-- The address that a doorbell to a module is sent to. -/
theorem moduleOf_append (m : BitVec 12) : moduleOf (m ++ 0#52) = m := by
  rw [moduleOf, BitVec.extractLsb'_append_eq_left]

/-- While all edge rings are on, every die is reached from a port die (R16). -/
theorem Chip.route_from_portDies {s : Chip} (on : ∀ d, (s.die d).ringOn = true) : ∀ a ∈ portDies, ∀ b, s.route a b = true := by
  have reach : ∀ a ∈ portDies, ∀ b : DieId, (let spread := fun from_ : List DieId => allDies.filter (fun d => from_.contains d || (true && from_.any (fun x => adjacent x d)))
      spread (spread (spread (spread (spread (spread (spread [a]))))))).contains b = true := by decide
  intro a port b
  simp only [Chip.route, Chip.spread, on]
  exact reach a port b

/-- A search that ends on a number in use has found every number on its way in use. -/
theorem freshTxn_used (used : List (BitVec 16)) (f : Nat) (n : BitVec 16) (taken : freshTxn used f n ∈ used) : ∀ i ≤ f, n + BitVec.ofNat 16 i ∈ used := by
  induction f generalizing n with
  | zero =>
    intro i le
    obtain rfl : i = 0 := by omega
    simpa [freshTxn] using taken
  | succ f ih =>
    rw [freshTxn] at taken
    split at taken
    next inUse =>
      intro i le
      cases i with
      | zero => simpa using inUse
      | succ i =>
        have next_ := ih (n + 1) taken i (by omega)
        rwa [BitVec.add_assoc, show (1 : BitVec 16) + BitVec.ofNat 16 i = BitVec.ofNat 16 (i + 1) by rw [Nat.add_comm, BitVec.ofNat_add]; rfl] at next_
    next free => exact absurd taken (by simpa using free)

/-- The numbers in use are fewer than the numbers there are. -/
theorem freshTxn_free {used : List (BitVec 16)} (some_ : used.length < 65536) (n : BitVec 16) : freshTxn used used.length n ∉ used := by
  intro taken
  have inUse := freshTxn_used used used.length n taken
  have apart : Set.InjOn (fun i : Nat => n + BitVec.ofNat 16 i) (Finset.range (used.length + 1)) := by
    intro i hi j hj same
    simp only [Finset.coe_range, Set.mem_Iio] at hi hj
    have equal := congrArg BitVec.toNat (add_left_cancel same)
    simp only [BitVec.toNat_ofNat] at equal
    omega
  have fits := Finset.card_le_card_of_injOn (t := used.toFinset) (fun i : Nat => n + BitVec.ofNat 16 i)
    (fun i hi => List.mem_toFinset.2 (inUse i (by simpa [Nat.lt_succ_iff] using hi))) apart
  rw [Finset.card_range] at fits
  have := used.toFinset_card_le
  omega

theorem routingDie_portDies : ∀ d ∈ portDies, routingDie d = d := by decide

/-- The doorbell as it leaves the module. -/
def Chip.doorbellOut (s : Chip) (d : DieId) (v : Word32) (n : BitVec 16) : FabricReq :=
  { requestOf 6 ((s.die d).dbTxDst ++ 0#52) 0 [] 1 0 with
    operand := v.setWidth 64, down := false, hops := s.fabric.hopInit, dst := (s.die d).dbTxDst, src := s.fabric.moduleId, txn := n, active := 1, die := BitVec.ofNat 4 d.val }

/-- A die with one more outstanding doorbell. -/
def Die.awaitDoorbell (d : DieId) (n : BitVec 16) (addr : Word64) (x : Die) : Die := { x with txns := x.txns ++ [⟨n, .doorbell d, addr, 0⟩], nextTxn := n + 1 }

section
variable {s : State} {d : DieId} (v : Word32) (live : s.chip.frozen = false) (port : d ∈ portDies) (on : ∀ e, (s.chip.die e).ringOn = true)
include live port on

/-- A doorbell that stays within the module. -/
theorem dbTxDataWrite_local {u : Chip} (near : s.chip.isLocal ((s.chip.die d).dbTxDst ++ 0#52) = true)
    (rung : s.chip.doorbellIn d (if s.chip.fabric.idValid then s.chip.fabric.moduleId else 0xFFF) v 0 ((s.chip.die d).dbTxDst ++ 0#52) = (u, none)) :
    Runs (.dbTxDataWrite d v) s { s with chip := { u with out := .none } } := by
  refine (onChip_next _ _).trans ?_
  rw [Chip.live_unfrozen _ live]
  simp only [Chip.dbSend, port, on d, near, rung, not_true_eq_false, Bool.true_eq_false, or_self, if_false, if_true]

theorem dbTxDataWrite_own (own : (s.chip.die d).dbTxDst.toNat = 0xFFF) (room : (s.chip.die d).dbRx.length < 16) :
    ∃ t, Runs (.dbTxDataWrite d v) s t ∧ SameMemory s t ∧ t.chip.ports = s.chip.ports ∧
      t.chip.die d = { s.chip.die d with dbRx := (s.chip.die d).dbRx ++ [(if s.chip.fabric.idValid then s.chip.fabric.moduleId else 0xFFF, v)] } := by
  have near : s.chip.isLocal ((s.chip.die d).dbTxDst ++ 0#52) = true := by
    rw [Chip.isLocal, moduleOf_append, show (s.chip.die d).dbTxDst = 0xFFF#12 from BitVec.eq_of_toNat_eq own]
    rfl
  exact ⟨_, dbTxDataWrite_local v live port on near (Chip.doorbellIn_joins room ..), ⟨rfl, rfl, rfl, rfl⟩, rfl,
    Chip.updDie_die_same s.chip d (Die.joinDoorbell _)⟩

section
variable (away : (s.chip.die d).dbTxDst.toNat ≠ 0xFFF) (other : s.chip.fabric.idValid = true → (s.chip.die d).dbTxDst ≠ s.chip.fabric.moduleId)
include away other

omit live port on in
theorem isLocal_away : s.chip.isLocal ((s.chip.die d).dbTxDst ++ 0#52) = false := by
  have elsewhere : (s.chip.die d).dbTxDst ≠ 0xFFF#12 := fun self => away (by rw [self]; rfl)
  rw [Chip.isLocal, moduleOf_append]
  cases id : s.chip.fabric.idValid with
  | false => simp [elsewhere]
  | true => simp [elsewhere, other id]

theorem dbTxDataWrite_unassigned (unassigned : s.chip.fabric.idValid = false) (unarmed : (s.chip.die d).coel.armed = false) :
    ∃ t, Runs (.dbTxDataWrite d v) s t ∧ t.chip.ports = s.chip.ports ∧ t.chip.out = .fault Code.idUnassigned := by
  have sent (m : FabricReq) (w : Waiter) : s.chip.send d m w = (s.chip, some Code.idUnassigned) := if_pos unassigned
  obtain ⟨h, n, recorded⟩ := Chip.fabricErr_unarmed unarmed Code.idUnassigned 0 ((s.chip.die d).dbTxDst ++ 0#52)
  refine ⟨{ s with chip := { s.chip with heads := h, free := n, out := .fault Code.idUnassigned } }, (onChip_next _ _).trans ?_, rfl, rfl⟩
  rw [Chip.live_unfrozen _ live]
  simp only [Chip.dbSend, port, on d, isLocal_away away other, sent, recorded, not_true_eq_false, Bool.true_eq_false, Bool.false_eq_true, or_self, if_false]

theorem dbTxDataWrite_sends (id : s.chip.fabric.idValid = true) (few : (s.chip.die d).txns.length + (s.chip.die d).retired.length < 65536)
    (routed : Routed s (s.chip.die d).dbTxDst) :
    ∃ t q vc r, Runs (.dbTxDataWrite d v) s t ∧ SameMemory s t ∧ (t.chip.port q).queue = (s.chip.port q).queue ++ [(vc, 16, .req r)] ∧
      r.op = 6 ∧ r.dst = (s.chip.die d).dbTxDst ∧ r.src = s.chip.fabric.moduleId ∧ r.operand.toNat = v.toNat ∧ r.txn ∉ (s.chip.die d).retired ∧
      (t.chip.die d).txns = (s.chip.die d).txns ++ [⟨r.txn, .doorbell d, r.addr, 0⟩] := by
  obtain ⟨q, down, chosen⟩ := Chip.choose_routed routed s.chip.fabric.moduleId ((s.chip.die d).dbTxDst ++ 0#52)
  let used := (s.chip.die d).txns.map (fun t => t.num) ++ (s.chip.die d).retired
  have length : used.length = (s.chip.die d).txns.length + (s.chip.die d).retired.length := by simp [used]
  have fresh := freshTxn_free (length ▸ few) (s.chip.die d).nextTxn
  rw [length] at fresh
  generalize number : freshTxn used ((s.chip.die d).txns.length + (s.chip.die d).retired.length) (s.chip.die d).nextTxn = n at fresh
  have sent : s.chip.send d { requestOf 6 ((s.chip.die d).dbTxDst ++ 0#52) 0 [] 1 0 with operand := v.setWidth 64 } (.doorbell d) =
      ((s.chip.updDie d (Die.awaitDoorbell d n ((s.chip.die d).dbTxDst ++ 0#52))).enqueue q 16 down (.req (s.chip.doorbellOut d v n)), none) := by
    simp only [Chip.send, id, routingDie_portDies d port, Chip.route_from_portDies on d port, requestOf, moduleOf_append, chosen, Bool.true_eq_false, if_false]
    rw [number, Chip.doorbellOut, requestOf]
    rfl
  have run : Runs (.dbTxDataWrite d v) s { s with chip :=
      { (s.chip.updDie d (Die.awaitDoorbell d n ((s.chip.die d).dbTxDst ++ 0#52))).enqueue q 16 down (.req (s.chip.doorbellOut d v n)) with out := .none } } := by
    refine (onChip_next _ _).trans ?_
    rw [Chip.live_unfrozen _ live]
    simp only [Chip.dbSend, port, on d, isLocal_away away other, sent, not_true_eq_false, Bool.true_eq_false, Bool.false_eq_true, or_self, if_false]
  refine ⟨_, q, if down then 1 else 0, s.chip.doorbellOut d v n, run, ⟨rfl, rfl, rfl, rfl⟩, ?_, rfl, rfl, rfl, ?_, fun retired => fresh (List.mem_append_right _ retired), ?_⟩
  · exact congrArg Port.queue (Chip.updPort_port_same (s.chip.updDie d (Die.awaitDoorbell d n ((s.chip.die d).dbTxDst ++ 0#52))) q
      (Port.join (if down then 1 else 0) (.req (s.chip.doorbellOut d v n))))
  · exact (BitVec.toNat_setWidth _ _).trans (Nat.mod_eq_of_lt (by omega))
  · exact congrArg Die.txns (Chip.updDie_die_same s.chip d (Die.awaitDoorbell d n ((s.chip.die d).dbTxDst ++ 0#52)))

end

end

/-- Settles O40: a request that arrives is one access on the chip with its port's buffer noted, and its answer joins one port's queue; a number that is sent is none in use. -/
theorem remoteRequestsAreServedAndAnswered : Obligations.RemoteRequestsAreServedAndAnswered := by
  unfold Obligations.RemoteRequestsAreServedAndAnswered
  intro s p m w a n
  refine ⟨fun admitted => ⟨fun st y inside miss reaches => remoteLoad_answers admitted inside miss reaches,
      fun st y some_ inside miss reaches => remoteStore_lands admitted some_ inside miss reaches, ?_,
      fun o object granted clear => remoteSignal_counts admitted object granted clear, fun room => remoteDoorbell_joins admitted room⟩,
    fun up id dst src closed routed unarmed => remote_closed up id dst src closed routed unarmed, ?_,
    fun d k x up waits waiter unarmed => respTimeout_answers up waits waiter unarmed,
    fun d v live port on own room => dbTxDataWrite_own v live port on own room,
    fun d v live port on away other => ⟨fun id few routed => dbTxDataWrite_sends v live port on away other id few routed,
      fun unassigned unarmed => dbTxDataWrite_unassigned v live port on away other unassigned unarmed⟩,
    fun d live => ⟨fun e rest oldest => dbRxSrcRead_takes live oldest, fun none_ => dbRxSrcRead_empty live none_⟩⟩
  · intro st y e op f int size aop fmt aligned miss reaches
    exact ⟨fun posted one => remoteReduce_queues admitted op int aop fmt aligned miss reaches posted one,
      fun swap => remoteAtomic_performs admitted op int rfl aop fmt aligned miss reaches swap⟩
  · intro r x d up id dst src route waits waiter quiet i response
    simp only [List.mem_cons, List.not_mem_nil, or_false] at response
    rcases response with rfl | rfl | rfl
    · exact response_answers (r := { r with op := 0x21 }) up id dst src route waits waiter quiet rfl
    · exact response_answers (r := { r with op := 0x22 }) up id dst src route waits waiter quiet rfl
    · exact response_answers (r := { r with op := 0x24 }) up id dst src route waits waiter quiet rfl

end Sys2Proof.Machine
end

section
/-! Lists of lanes: splices, slices and the fixed pairwise trees (R149, R219, R222). -/

namespace Sys2Proof.Machine

open Host

/-! ## Lists -/

@[simp] theorem length_tabulate {α : Type} (n : Nat) (f : Nat → α) : (tabulate n f).length = n := by simp [tabulate]

theorem getD_tabulate {α : Type} {n i : Nat} (f : Nat → α) (d : α) (inside : i < n) : (tabulate n f).getD i d = f i := by
  simp [tabulate, inside]

/-- A run of elements replaced within a list. -/
theorem getD_splice {α : Type} {old new : List α} {base : Nat} (fits : base + new.length ≤ old.length) (i : Nat) (d : α) :
    (old.take base ++ new ++ old.drop (base + new.length)).getD i d = if base ≤ i ∧ i < base + new.length then new.getD (i - base) d else old.getD i d := by
  simp only [List.getD_eq_getElem?_getD, List.getElem?_append, List.length_append, List.length_take, List.getElem?_take, List.getElem?_drop,
    Nat.min_eq_left (show base ≤ old.length by omega)]
  by_cases below : i < base
  · simp [below, show i < base + new.length by omega, show ¬ base ≤ i by omega]
  · by_cases within : i < base + new.length
    · simp [below, within, show base ≤ i by omega]
    · simp [within, show base + new.length + (i - (base + new.length)) = i by omega]

theorem getD_slice {α : Type} (l : List α) (a : Nat) {n i : Nat} (d : α) (inside : i < n) : ((l.drop a).take n).getD i d = l.getD (a + i) d := by
  simp [List.getD_eq_getElem?_getD, inside]

/-- Element j of piece i of a concatenation of pieces of one length. -/
theorem getD_flatMap {α β : Type} (f : α → List β) {w : Nat} (length : ∀ a, (f a).length = w) (l : List α) {i j : Nat} (a : α) (b : β)
    (hi : i < l.length) (hj : j < w) : (l.flatMap f).getD (i * w + j) b = (f (l.getD i a)).getD j b := by
  induction l generalizing i with
  | nil => simp at hi
  | cons x t ih =>
    rw [List.flatMap_cons, List.getD_eq_getElem?_getD, List.getElem?_append, length]
    cases i with
    | zero => simp [hj]
    | succ i =>
      rw [if_neg (by rw [Nat.succ_mul]; omega), show (i + 1) * w + j - w = i * w + j by rw [Nat.succ_mul]; omega, ← List.getD_eq_getElem?_getD,
        ih (by simpa using hi), List.getD_cons_succ]

/-- Element i of a concatenation of tables of m elements. -/
theorem getD_flatMap_tabulate {α : Type} (H m : Nat) (f : Nat → Nat → α) (d : α) {i : Nat} (inside : i < H * m) :
    ((List.range H).flatMap (fun h => tabulate m (f h))).getD i d = f (i / m) (i % m) := by
  have some_ : 0 < m := Nat.pos_of_mul_pos_left (by omega : 0 < H * m)
  have piece : i / m < H := Nat.div_lt_of_lt_mul (by rwa [Nat.mul_comm])
  have place := getD_flatMap (fun h => tabulate m (f h)) (fun h => length_tabulate m (f h)) (List.range H) 0 d (by simpa using piece) (Nat.mod_lt i some_)
  rw [Nat.div_add_mod' i m] at place
  rw [place, getD_tabulate _ _ (Nat.mod_lt i some_)]
  simp [List.getD_eq_getElem?_getD, piece]

theorem ext_getD {α : Type} {l m : List α} (d : α) (length : l.length = m.length) (same : ∀ i, i < l.length → l.getD i d = m.getD i d) : l = m := by
  refine List.ext_getElem length fun i hl hm => ?_
  have equal := same i hl
  rwa [List.getD_eq_getElem _ _ hl, List.getD_eq_getElem _ _ hm] at equal

/-! ## Bytes -/

/-- Bytes within bytes read. -/
theorem Memory.bytes_slice (m : Memory) (a : Nat) {n i k : Nat} (inside : i + k ≤ n) : ((m.bytes a n).drop i).take k = m.bytes (a + i) k := by
  refine ext_getD 0 (by simp; omega) fun j hj => ?_
  have small : j < k := by simp at hj; omega
  rw [getD_slice _ _ _ small, Memory.bytes_getD _ _ _ _ (by omega), Memory.bytes_getD _ _ _ _ small, Nat.add_assoc]

/-- Bytes at an offset that a write covers. -/
theorem Memory.bytes_eq {m : Memory} {a : Nat} {l : List Byte} (held : ∀ i, i < l.length → m.byte (a + i) = l.getD i 0) : m.bytes a l.length = l := by
  refine ext_getD 0 (by simp) fun j hj => ?_
  have small : j < l.length := by simpa using hj
  rw [Memory.bytes_getD _ _ _ _ small, held j small]

theorem leNat_lt (l : List Byte) : leNat l < 256 ^ l.length := by
  induction l with
  | nil => simp [leNat]
  | cons b t ih =>
    have := b.isLt
    rw [leNat, List.length_cons, Nat.pow_succ]
    omega

/-! ## Bits of a narrowed value (R72, R83) -/

theorem FloatFmt.narrow_lt {f : FloatFmt} (finite : f.maxFinite < 2 ^ (f.eb + f.mb)) (inf : f.inf.getD 0 < 2 ^ (f.eb + f.mb))
    (nan : f.nan.getD 0 < 2 ^ (f.eb + f.mb)) (mode : Rounding) (x y : Num) : (f.narrow mode x y).1 < 2 ^ (f.eb + f.mb + 1) := by
  have signed (b : Nat) (n : Bool) (small : b < 2 ^ (f.eb + f.mb)) : b + f.signBit n < 2 ^ (f.eb + f.mb + 1) := by
    rw [FloatFmt.signBit, Nat.pow_succ]
    split <;> omega
  have quiet : f.nan.getD 0 < 2 ^ (f.eb + f.mb + 1) := by
    rw [Nat.pow_succ]
    omega
  cases x with
  | nan => exact quiet
  | inf n =>
    rw [FloatFmt.narrow]
    split
    next b known => exact signed _ _ (by simpa [known] using inf)
    next => exact signed _ _ finite
  | fin n m e =>
    cases y with
    | fin _ d g =>
      rw [FloatFmt.narrow]
      dsimp only
      split
      · exact signed _ _ finite
      · exact signed _ _ (lt_of_le_of_lt (Nat.min_le_left _ _) finite)
    | nan => exact quiet
    | inf _ => exact quiet

theorem narrowInt_lt (w : Nat) (mode : Rounding) (x y : Num) (some_ : 0 < w) : (narrowInt w mode x y).1 < 2 ^ w := by
  have half : 2 ^ (w - 1) < 2 ^ w := Nat.pow_lt_pow_right (by omega) (by omega)
  have below : 2 ^ (w - 1) - 1 < 2 ^ w := lt_of_le_of_lt (Nat.sub_le _ _) half
  have clamped (n : Bool) : (if n then 2 ^ (w - 1) else 2 ^ (w - 1) - 1) < 2 ^ w := by cases n <;> assumption
  have chosen {p : Prop} [Decidable p] {a b : Nat × CvtFlags} (ha : a.1 < 2 ^ w) (hb : b.1 < 2 ^ w) : (if p then a else b).1 < 2 ^ w := by split <;> assumption
  unfold narrowInt
  dsimp only
  split
  · exact Nat.two_pow_pos w
  · exact clamped _
  · exact chosen (clamped _) (BitVec.isLt _)
  · exact Nat.two_pow_pos w

/-- A value narrowed to a format takes the format's bits. -/
theorem narrowTo_lt : ∀ c ∈ byteFormats, ∀ (mode : Rounding) (x y : Num), (narrowTo c mode x y).1 < 2 ^ elemBits c := by
  simp only [byteFormats, List.forall_mem_cons, List.not_mem_nil, false_implies, implies_true, and_true]
  refine ⟨?_, ?_, ?_, ?_, ?_, ?_, ?_⟩ <;> intro mode x y
  iterate 5 exact FloatFmt.narrow_lt (by decide) (by decide) (by decide) mode x y
  · exact narrowInt_lt 8 mode x y (by decide)
  · exact narrowInt_lt 32 mode x y (by decide)

/-! ## Pairwise trees -/

/-- A tree of depth g + 1 is a tree of depth g over its lowest nodes. -/
theorem laneTree_succ (f : Num → Num → Num) (g : Nat) (x : Nat → Num) (i : Nat) :
    laneTree f (g + 1) x i = laneTree f g (fun j => f (x (2 * j)) (x (2 * j + 1))) i := by
  induction g generalizing i with
  | zero => rfl
  | succ g ih => rw [laneTree, ih, ih, laneTree]

/-- A tree reads its own 2^g values alone. -/
theorem laneTree_congr (f : Num → Num → Num) (g : Nat) {x y : Nat → Num} {i j : Nat} (same : ∀ m, m < 2 ^ g → x (2 ^ g * i + m) = y (2 ^ g * j + m)) :
    laneTree f g x i = laneTree f g y j := by
  induction g generalizing i j with
  | zero => simpa [laneTree] using same 0 (by norm_num)
  | succ g ih =>
    rw [laneTree, laneTree]
    congr 1
    · exact ih fun m small => by simpa [Nat.pow_succ, Nat.mul_assoc] using same m (by rw [Nat.pow_succ]; omega)
    · refine ih fun m small => ?_
      have shift (n : Nat) : 2 ^ (g + 1) * n + (2 ^ g + m) = 2 ^ g * (2 * n + 1) + m := by ring
      rw [← shift, ← shift]
      exact same _ (by rw [Nat.pow_succ]; omega)

theorem length_pairUp (f : Num → Num → Num) : ∀ (n : Nat) {l : List Num}, l.length = 2 * n → (pairUp f l).length = n
  | 0, l, none_ => by rw [List.eq_nil_of_length_eq_zero none_]; rfl
  | n + 1, a :: b :: t, h => by simp [pairUp, length_pairUp f n (l := t) (by simp at h; omega)]

theorem getD_pairUp (f : Num → Num → Num) : ∀ (i : Nat) {l : List Num}, 2 * i + 1 < l.length →
    (pairUp f l).getD i .zero = f (l.getD (2 * i) .zero) (l.getD (2 * i + 1) .zero)
  | 0, a :: b :: t, _ => rfl
  | i + 1, a :: b :: t, h => by
    rw [pairUp, List.getD_cons_succ, getD_pairUp f i (by simp at h; omega)]
    simp [Nat.mul_succ]

/-- The engines' tree over a list is the tree over its lanes (R222). -/
theorem treeOf_eq_laneTree (f : Num → Num → Num) (g : Nat) {l : List Num} (length : l.length = 2 ^ g) : treeOf f g l = laneTree f g (fun i => l.getD i .zero) 0 := by
  induction g generalizing l with
  | zero => simp [treeOf, laneTree, List.headD_eq_head?_getD, List.getD_eq_getElem?_getD, List.head?_eq_getElem?]
  | succ g ih =>
    rw [Nat.pow_succ, Nat.mul_comm] at length
    rw [treeOf, ih (length_pairUp f _ length), laneTree_succ]
    exact laneTree_congr f g fun m small => getD_pairUp f _ (by omega)

/-- The tree over one segment of a list. -/
theorem treeOf_slice (f : Num → Num → Num) (g : Nat) {l : List Num} {x : Nat → Num} {k : Nat} (inside : k * 2 ^ g + 2 ^ g ≤ l.length)
    (lanes : ∀ i, i < l.length → l.getD i .zero = x i) : treeOf f g ((l.drop (k * 2 ^ g)).take (2 ^ g)) = laneTree f g x k := by
  rw [treeOf_eq_laneTree f g (by simp; omega)]
  refine laneTree_congr f g fun m small => ?_
  rw [Nat.mul_zero, Nat.zero_add, getD_slice _ _ _ small, lanes _ (by omega), Nat.mul_comm]

end Sys2Proof.Machine
end

section
/-! One micro-instruction of a Ulizen engine that completes: its registers, and the registers of an engine read after a write (R205, R218 to R221). -/

namespace Sys2Proof.Machine

open Host

/-! ## Registers -/

theorem clip_eq_clip {n a b : Nat} [NeZero n] (ha : a < n) (hb : b < n) : clip n a = clip n b ↔ a = b := by
  simp [clip, Fin.ext_iff, Nat.mod_eq_of_lt ha, Nat.mod_eq_of_lt hb]

theorem Engine.setReg_reg (g : Engine) {q r : Nat} (v : Word64) (hq : q < 32) (hr : r < 32) :
    (g.setReg r v).reg q = if q = r ∧ r ≠ 0 then v else g.reg q := by
  rw [Engine.setReg]
  split
  next zero => simp [zero]
  next other => simp [Engine.reg, Table.read_write, clip_eq_clip hq hr, other]

theorem Engine.setReg_shape (g : Engine) (r : Nat) (v : Word64) : g.setReg r v = { g with u := (g.setReg r v).u } := by
  rw [Engine.setReg]
  split <;> rfl

theorem Engine.inc_shape (g : Engine) (w : BitVec 128) : g.inc w = { g with u := (g.inc w).u } := by
  rw [Engine.inc]
  split
  · exact g.setReg_shape ..
  · rfl

@[simp] theorem Engine.setReg_lane (g : Engine) (r : Nat) (v : Word64) : (g.setReg r v).lane = g.lane := by rw [g.setReg_shape]; rfl
@[simp] theorem Engine.inc_lane (g : Engine) (w : BitVec 128) : (g.inc w).lane = g.lane := by rw [g.inc_shape]; rfl

theorem uD_lt (w : BitVec 128) : uD w < 32 := (field w 119 115).isLt
theorem uB_lt (w : BitVec 128) : uB w < 32 := (field w 109 105).isLt
theorem uC_lt (w : BitVec 128) : uC w < 32 := (field w 104 100).isLt

/-- INC moves u[C] and no other register (R221). -/
theorem Engine.inc_reg (g : Engine) (w : BitVec 128) {q : Nat} (hq : q < 32) :
    (g.inc w).reg q = if uInc w = true ∧ q = uC w ∧ q ≠ 0 then g.reg q + BitVec.ofNat 64 (uN w) else g.reg q := by
  rw [Engine.inc]
  split
  next moves =>
    rw [g.setReg_reg _ hq (uC_lt w)]
    simp only [moves, true_and]
    by_cases at_ : q = uC w
    · simp [at_]
    · simp [at_]
  next => simp_all

theorem Engine.setVec_vec (g : Engine) {q r : Nat} (l : List Word32) (hq : q < 32) (hr : r < 32) : (g.setVec r l).vec q = if q = r then l else g.vec q := by
  simp [Engine.vec, Engine.setVec, Table.read_write, clip_eq_clip hq hr]

@[simp] theorem Engine.setVec_reg (g : Engine) (r : Nat) (l : List Word32) : (g.setVec r l).reg = g.reg := rfl

/-- A group of registers, each made of its own old lanes. -/
def Engine.mapGroup (g : Engine) (d n : Nat) (f : Nat → List Word32 → List Word32) : Engine :=
  (List.range n).foldl (fun a h => a.setVec (d + h) (f h (a.vec (d + h)))) g

theorem Engine.mapGroup_shape (g : Engine) (d n : Nat) (f : Nat → List Word32 → List Word32) : g.mapGroup d n f = { g with v := (g.mapGroup d n f).v } := by
  have shape : ∃ v, g.mapGroup d n f = { g with v := v } :=
    foldl_replaces (fun v (g : Engine) => { g with v := v }) (fun g => ⟨g.v, rfl⟩) (fun _ _ _ => rfl) (fun _ _ => ⟨_, rfl⟩) _ g
  obtain ⟨v, e⟩ := shape
  rw [e]

theorem Engine.mapGroup_reg (g : Engine) (d n : Nat) (f : Nat → List Word32 → List Word32) : (g.mapGroup d n f).reg = g.reg := by
  rw [g.mapGroup_shape]
  rfl

theorem Engine.mapGroup_vec (g : Engine) {d n r : Nat} (f : Nat → List Word32 → List Word32) (fits : d + n ≤ 32) (hr : r < 32) :
    (g.mapGroup d n f).vec r = if d ≤ r ∧ r < d + n then f (r - d) (g.vec r) else g.vec r := by
  induction n with
  | zero => rw [if_neg (by omega)]; rfl
  | succ n ih =>
    have last : g.mapGroup d (n + 1) f = (g.mapGroup d n f).setVec (d + n) (f n ((g.mapGroup d n f).vec (d + n))) := by
      simp [Engine.mapGroup, List.range_succ]
    rw [last, Engine.setVec_vec _ _ hr (by omega)]
    split
    next at_ =>
      subst at_
      rw [ih (by omega), if_neg (by omega), if_pos (by omega), Nat.add_sub_cancel_left]
    next other =>
      rw [ih (by omega)]
      simp only [show d ≤ r ∧ r < d + n ↔ d ≤ r ∧ r < d + (n + 1) by omega]

/-- A group is written whole from the registers as they were. -/
theorem Engine.setGroup_eq (g : Engine) (w : BitVec 128) (f : Nat → List Word32) : g.setGroup w f = g.mapGroup (uD w) (uH w) (fun h _ => f h) := rfl

/-! ## The word that follows (R221) -/

/-- What an operation may change of its engine. -/
def Engine.Works (g g' : Engine) : Prop := g' = { g with u := g'.u, v := g'.v }

theorem Engine.next_shape (g : Engine) : g.next = { g with upc := g.next.upc, rep := g.next.rep } := by
  rw [Engine.next]
  split
  · split
    · split <;> rfl
    · rfl
  · rfl

theorem Engine.Works.follows {g g' : Engine} (works : g.Works g') : Follows g g'.next := by
  have upc : g'.upc = g.upc := by rw [works]
  have rep : g'.rep = g.rep := by rw [works]
  rw [Follows, Engine.next, upc, rep]
  cases level : g.rep with
  | none => exact ⟨rfl, rfl⟩
  | some r =>
    by_cases last : g.upc = r.last
    · by_cases turns : 1 < r.count.toNat <;> simp [last, turns]
    · simp [last]

theorem Engine.Works.next {g g' : Engine} (works : g.Works g') : g'.next = { g with u := g'.u, v := g'.v, upc := g'.next.upc, rep := g'.next.rep } := by
  rw [works]
  exact Engine.next_shape _

/-! ## A completed micro-instruction -/

/-- What the operation of an engine's word works on. -/
abbrev uopCtx (s : State) (e : EngineId) (n : Fin 1024) (w : BitVec 128) : UopCtx :=
  { stack := e.stack, eng := e.idx, slot := n, x := s.chip.slotOf e.stack n, g := s.chip.engineOf e.stack e.idx, w := w }

/-- The beats of an operation are counted on its stack (R463). -/
def Chip.uopBeats (s : Chip) (t : StackId) (x : Slot) (k : Nat) : Chip := if k = 0 then s else s.stackEvent t 6 x.dome.toNat k

theorem Chip.uopBeats_shape (s : Chip) (t : StackId) (x : Slot) (k : Nat) :
    (∃ h v, s.uopBeats t x k = { s with heads := h, stk := v }) ∧ ∃ o : Stack → Word32, (s.uopBeats t x k).stack = (s.updStack t (fun y => { y with ovf := o y })).stack := by
  rw [Chip.uopBeats]
  split
  · refine ⟨⟨s.heads, s.stk, rfl⟩, fun y => y.ovf, funext fun j => ?_⟩
    rw [Chip.updStack_stack]
    split
    next h => rw [h]
    next => rfl
  · exact ⟨⟨_, _, rfl⟩, s.stackEvent_stack ..⟩

variable {s : State} {e : EngineId} {op : Nat} {n : Fin 1024} {w : BitVec 128} {f : Chip → UopCtx → UopEnd}

theorem onUop_done {u : Chip} {g' : Engine} {k : Nat} (ready : UopReady s e op n w) (done : f s.chip (uopCtx s e n w) = .done u g' k) (inside : g'.next.upc ≤ 4095) :
    onUop op f e s = .next { s with chip := (u.uopBeats e.stack (s.chip.slotOf e.stack n) k).updEngine e.stack e.idx (fun _ => g'.next) } := by
  obtain ⟨live, on, unreset, slot, executes, word, opcode, legal⟩ := ready
  refine (onChip_next _ _).trans ?_
  rw [Chip.live_unfrozen _ live]
  simp only [Chip.engineOf, Chip.slotOf] at slot executes word done
  simp only [Chip.uop, slot, on, unreset, executes, word, opcode, legal, Bool.true_eq_false, Bool.false_eq_true, or_self, false_and, ne_eq, not_true_eq_false,
    if_false]
  simp only [uopCtx, Chip.engineOf, Chip.slotOf] at done
  rw [done]
  simp only [inside, if_true]
  rfl

/-- A micro-instruction that completes, having written nothing but its registers and n bytes of its store, leaves the rest and goes on to the word that follows. -/
theorem uop_completes {m : Memory} {g' : Engine} {k off len : Nat} (ready : UopReady s e op n w) (follow : FollowOk (s.chip.engineOf e.stack e.idx))
    (done : f s.chip (uopCtx s e n w) = .done { s.chip with engineStore := m } g' k) (works : (s.chip.engineOf e.stack e.idx).Works g')
    (outside : ∀ a, (a < storeKey e.stack e.idx off ∨ storeKey e.stack e.idx off + len ≤ a) → m.byte a = s.chip.engineStore.byte a) :
    ∃ t, onUop op f e s = .next t ∧ OnlyEngine e off len s t ∧ t.chip.engineStore = m ∧ t.chip.engineOf e.stack e.idx = g'.next := by
  refine ⟨_, onUop_done ready done (follow _ works.follows), ?_⟩
  obtain ⟨⟨h, v, shape⟩, o, counted⟩ := Chip.uopBeats_shape { s.chip with engineStore := m } e.stack (s.chip.slotOf e.stack n) k
  have before : Chip.stack { s.chip with engineStore := m } = s.chip.stack := rfl
  generalize Chip.uopBeats { s.chip with engineStore := m } e.stack (s.chip.slotOf e.stack n) k = u at shape counted
  have own : u.stack e.stack = { s.chip.stack e.stack with ovf := o (s.chip.stack e.stack) } := by rw [counted, Chip.updStack_stack_same, before]
  have stored : (u.updEngine e.stack e.idx (fun _ => g'.next)).engineStore = m := by rw [shape]; rfl
  refine ⟨⟨by rw [shape]; rfl, fun j other => ?_, ?_, fun j other => ?_, fun a out => ?_⟩, stored, ?_⟩
  · exact (Chip.updStack_stack_other _ _ _ _ other).trans (by rw [counted, Chip.updStack_stack_other _ _ _ _ other, before])
  · simp only [Chip.updEngine, Chip.updStack_stack_same, own]
  · simp only [Chip.engineOf, Chip.updEngine, Chip.updStack_stack_same, Stack.engine, Table.read_write_other _ _ _ _ _ other, own]
  · exact (congrArg (fun m : Memory => m.byte a) stored).trans (outside a out)
  · simp only [Chip.engineOf, Chip.updEngine, Chip.updStack_stack_same, Stack.engine, Table.read_write_same]

/-- The same for one that writes registers alone. -/
theorem uop_works {g' : Engine} {k : Nat} (ready : UopReady s e op n w) (follow : FollowOk (s.chip.engineOf e.stack e.idx))
    (done : f s.chip (uopCtx s e n w) = .done s.chip g' k) (works : (s.chip.engineOf e.stack e.idx).Works g') :
    ∃ t, onUop op f e s = .next t ∧
      (OnlyEngine e 0 0 s t ∧ Follows (s.chip.engineOf e.stack e.idx) (t.chip.engineOf e.stack e.idx) ∧
        t.chip.engineOf e.stack e.idx = { s.chip.engineOf e.stack e.idx with
          u := (t.chip.engineOf e.stack e.idx).u, v := (t.chip.engineOf e.stack e.idx).v, upc := (t.chip.engineOf e.stack e.idx).upc, rep := (t.chip.engineOf e.stack e.idx).rep }) ∧
      (t.chip.engineOf e.stack e.idx).reg = g'.reg ∧ (t.chip.engineOf e.stack e.idx).lane = g'.lane := by
  obtain ⟨t, run, only, -, engine⟩ := uop_completes (m := s.chip.engineStore) (off := 0) (len := 0) ready follow done works (fun _ _ => rfl)
  refine ⟨t, run, ⟨only, engine ▸ works.follows, ?_⟩, ?_, ?_⟩
  · rw [engine, works.next]
  · rw [engine, g'.next_shape]; rfl
  · rw [engine, g'.next_shape]; rfl

end Sys2Proof.Machine
end

section
/-! The vector micro-instructions of a Ulizen engine (R218 to R222, R234). -/

namespace Sys2Proof.Machine

open Host

/-! ## What a word that is legal says of its fields (R218) -/

theorem uop_fields {w : BitVec 128} {u : UopUse} (legal : uopIllegal w = false) (known : uopUse (uopOf w) = some u) :
    (u.seg = true → uSeg w ≤ 8) ∧ (u.groupD = true → uD w + uH w ≤ 32) ∧ (u.inc = false → uInc w = false) := by
  have some_ : 0 < uH w := Nat.succ_pos _
  simp only [uopIllegal, known, Bool.or_eq_false_iff, Bool.and_eq_false_iff, decide_eq_false_iff_not] at legal
  obtain ⟨⟨⟨⟨⟨⟨⟨-, inc⟩, seg⟩, groupD⟩, -⟩, -⟩, -⟩, -⟩ := legal
  refine ⟨fun used => ?_, fun used => ?_, fun unused => ?_⟩
  · have := seg.resolve_left (by simp [used])
    omega
  · have := groupD.resolve_left (by simp [used])
    omega
  · exact inc.resolve_left (by simp [unused])

section
variable {s : State} {e : EngineId} {op : Nat} {n : Fin 1024} {w : BitVec 128} {f : Chip → UopCtx → UopEnd}

/-! ## Results of a group -/

/-- Of the chip an operation has changed no more than its engine's registers, and the engine stands at the word that follows. -/
def WorksOn (e : EngineId) (s t : State) : Prop :=
  OnlyEngine e 0 0 s t ∧ Follows (s.chip.engineOf e.stack e.idx) (t.chip.engineOf e.stack e.idx) ∧
    t.chip.engineOf e.stack e.idx = { s.chip.engineOf e.stack e.idx with
      u := (t.chip.engineOf e.stack e.idx).u, v := (t.chip.engineOf e.stack e.idx).v, upc := (t.chip.engineOf e.stack e.idx).upc, rep := (t.chip.engineOf e.stack e.idx).rep }

/-- Every lane of the group D is what f makes of its old value, and every other lane as it was. -/
def GroupTakes (g g' : Engine) (w : BitVec 128) (f : Nat → Nat → Word32 → Word32) : Prop :=
  ∀ r l, r < 32 → l < 256 → g'.lane r l = if uD w ≤ r ∧ r < uD w + uH w then f (r - uD w) l (g.lane r l) else g.lane r l

/-- An operation whose result is a group of registers. -/
theorem group_completes {g g' : Engine} {k : Nat} {out : Nat → List Word32 → List Word32} {value : Nat → Nat → Word32 → Word32}
    (engine : s.chip.engineOf e.stack e.idx = g) (ready : UopReady s e op n w) (follow : FollowOk g) (fits : uD w + uH w ≤ 32)
    (done : f s.chip (uopCtx s e n w) = .done s.chip g' k) (works : g.Works g') (written : g'.lane = (g.mapGroup (uD w) (uH w) out).lane)
    (lanes : ∀ h l, h < uH w → l < 256 → (out h (g.vec (uD w + h))).getD l 0 = value h l (g.lane (uD w + h) l)) :
    ∃ t, onUop op f e s = .next t ∧ WorksOn e s t ∧ (t.chip.engineOf e.stack e.idx).reg = g'.reg ∧ GroupTakes g (t.chip.engineOf e.stack e.idx) w value := by
  subst engine
  obtain ⟨t, run, plain, reg, lane⟩ := uop_works ready follow done works
  refine ⟨t, run, plain, reg, fun r l hr hl => ?_⟩
  rw [lane, written, Engine.lane, Engine.mapGroup_vec _ _ fits hr]
  split
  next member =>
    have place : uD w + (r - uD w) = r := by omega
    have taken := lanes (r - uD w) l (by omega) hl
    rwa [place] at taken
  next => rfl

theorem works_mapGroup (g : Engine) (d k : Nat) (out : Nat → List Word32 → List Word32) : g.Works (g.mapGroup d k out) := by
  rw [Engine.Works, g.mapGroup_shape]

theorem works_inc_mapGroup (g : Engine) (w : BitVec 128) (d k : Nat) (out : Nat → List Word32 → List Word32) : g.Works ((g.mapGroup d k out).inc w) := by
  rw [Engine.Works, Engine.inc_shape, g.mapGroup_shape]

/-- u[C] moves under INC. -/
theorem inc_mapGroup_reg (g : Engine) (w : BitVec 128) (d k : Nat) (out : Nat → List Word32 → List Word32) {q : Nat} (hq : q < 32) :
    ((g.mapGroup d k out).inc w).reg q = if uInc w = true ∧ q = uC w ∧ q ≠ 0 then g.reg q + BitVec.ofNat 64 (uN w) else g.reg q := by
  rw [Engine.inc_reg _ _ hq, Engine.mapGroup_reg]

/-! ## The B operand (R219) -/

theorem bOperand_eq_lane (g : Engine) (w : BitVec 128) (base h l : Nat) : g.bOperand w base h l = g.lane (bPlace w base h l).1 (bPlace w base h l).2 := by
  simp only [Engine.bOperand, bPlace, bLane, Engine.lane]
  split_ifs <;> rfl

/-- When every lane of B that a group reads exists, so does the highest. -/
theorem bTop_le {base : Nat} (small : uSeg w ≤ 8) (inside : ∀ h l, h < uH w → l < 256 → (bPlace w base h l).2 ≤ 255) : bTop w base ≤ 255 := by
  have some_ : 0 < uH w := Nat.succ_pos _
  have first := inside 0 255 some_ (by omega)
  rw [bTop]
  split
  next fixed =>
    have last := inside (uH w - 1) 255 (by omega) (by omega)
    simpa only [bPlace, bLane, fixed, if_true] using last
  next unfixed =>
    split
    next tile =>
      have size : 2 ^ uSeg w ≤ 2 ^ 8 := Nat.pow_le_pow_right (by omega) small
      have positive : 0 < 2 ^ uSeg w := Nat.two_pow_pos _
      have last := inside 0 (2 ^ uSeg w - 1) some_ (by omega)
      simp only [bPlace, unfixed, tile, if_false, if_true, Nat.mod_eq_of_lt (show 2 ^ uSeg w - 1 < 2 ^ uSeg w by omega), Bool.false_eq_true] at last
      omega
    next untiled => simpa only [bPlace, bLane, unfixed, untiled, if_false, Bool.false_eq_true] using first

/-! ## Operations lane by lane -/

/-- u[C] has moved under INC, and no other register (R221). -/
def MovesOn (g g' : Engine) (w : BitVec 128) : Prop :=
  ∀ q, q < 32 → g'.reg q = if uInc w = true ∧ q = uC w ∧ q ≠ 0 then g.reg q + BitVec.ofNat 64 (uN w) else g.reg q

/-- An operation whose result is a group of registers, and which may move u[C] on. -/
theorem group_moves {g : Engine} {k : Nat} {out : Nat → List Word32} {value : Nat → Nat → Word32 → Word32}
    (engine : s.chip.engineOf e.stack e.idx = g) (ready : UopReady s e op n w) (follow : FollowOk g) (fits : uD w + uH w ≤ 32)
    (done : f s.chip (uopCtx s e n w) = .done s.chip ((g.setGroup w out).inc w) k)
    (lanes : ∀ h l, h < uH w → l < 256 → (out h).getD l 0 = value h l (g.lane (uD w + h) l)) :
    ∃ t, onUop op f e s = .next t ∧ WorksOn e s t ∧ MovesOn g (t.chip.engineOf e.stack e.idx) w ∧ GroupTakes g (t.chip.engineOf e.stack e.idx) w value := by
  rw [Engine.setGroup_eq] at done
  obtain ⟨t, run, plain, reg, group⟩ := group_completes engine ready follow fits done (works_inc_mapGroup ..) (Engine.inc_lane ..) lanes
  exact ⟨t, run, plain, fun q hq => (congrFun reg q).trans (inc_mapGroup_reg _ _ _ _ _ hq), group⟩

/-- An operation whose result is a group of registers, and which has no INC. -/
theorem group_stays {g : Engine} {k : Nat} {out : Nat → List Word32 → List Word32} {value : Nat → Nat → Word32 → Word32}
    (engine : s.chip.engineOf e.stack e.idx = g) (ready : UopReady s e op n w) (follow : FollowOk g) (fits : uD w + uH w ≤ 32)
    (done : f s.chip (uopCtx s e n w) = .done s.chip (g.mapGroup (uD w) (uH w) out) k)
    (lanes : ∀ h l, h < uH w → l < 256 → (out h (g.vec (uD w + h))).getD l 0 = value h l (g.lane (uD w + h) l)) :
    ∃ t, onUop op f e s = .next t ∧ WorksOn e s t ∧ (∀ q, q < 32 → (t.chip.engineOf e.stack e.idx).reg q = g.reg q) ∧
      GroupTakes g (t.chip.engineOf e.stack e.idx) w value := by
  obtain ⟨t, run, plain, reg, group⟩ := group_completes engine ready follow fits done (works_mapGroup ..) rfl lanes
  exact ⟨t, run, plain, fun q _ => by rw [reg, Engine.mapGroup_reg], group⟩

/-- VOP and EXP2: each lane takes a function of A's lane and its B operand. -/
theorem laneWise_completes {g : Engine} {value : Word32 → Word32 → Word32} {beats : Nat} (engine : s.chip.engineOf e.stack e.idx = g)
    (does : f s.chip (uopCtx s e n w) = laneWise value beats s.chip (uopCtx s e n w)) (ready : UopReady s e op n w) (follow : FollowOk g) (small : uSeg w ≤ 8) (fits : uD w + uH w ≤ 32)
    (inside : ∀ h l, h < uH w → l < 256 → (bPlace w (g.base w) h l).2 ≤ 255) :
    ∃ t, onUop op f e s = .next t ∧ WorksOn e s t ∧ MovesOn g (t.chip.engineOf e.stack e.idx) w ∧
      GroupTakes g (t.chip.engineOf e.stack e.idx) w (fun h l _ =>
        value (g.lane (uA w + h) l) (g.lane (bPlace w (g.base w) h l).1 (bPlace w (g.base w) h l).2)) := by
  have top := bTop_le small inside
  refine group_moves (out := fun h => tabulate 256 (fun l => value (g.lane (uA w + h) l) (g.bOperand w (g.base w) h l))) (k := beats * uH w)
    engine ready follow fits ?_ (fun h l _ hl => by rw [getD_tabulate _ _ hl, bOperand_eq_lane])
  rw [does]
  simp only [laneWise, engine, show ¬ 255 < bTop w (g.base w) by omega, if_false]
  rfl

theorem vopLane_of_mem : ∀ m ∈ vopTable, ∀ a y, vopLane m.1 a y = toF32 (m.2 (f32 a) (f32 y)) := by
  simp [vopTable, vopLane, lane]

end

end Sys2Proof.Machine
end

section
/-! Each vector operation of an engine: what it writes (R219 to R222), and O32. -/

namespace Sys2Proof.Machine

open Host

section
variable {s : State} {e : EngineId} {op : Nat} {n : Fin 1024} {w : BitVec 128} {g : Engine} (engine : s.chip.engineOf e.stack e.idx = g)

theorem UopReady.fields (ready : UopReady s e op n w) {u : UopUse} (known : uopUse op = some u) :
    (u.seg = true → uSeg w ≤ 8) ∧ (u.groupD = true → uD w + uH w ≤ 32) ∧ (u.inc = false → uInc w = false) := by
  obtain ⟨-, -, -, -, -, -, opcode, legal⟩ := ready
  exact uop_fields legal (opcode ▸ known)

/-! ## Products and sums -/

theorem addR_eq_add32 : addR = add32 := rfl

theorem two_pow_mul_segs {seg : Nat} (small : seg ≤ 8) : 256 / 2 ^ seg * 2 ^ seg = 256 :=
  Nat.div_mul_cancel (show 2 ^ seg ∣ 2 ^ 8 from Nat.pow_dvd_pow 2 small)

/-- Segment k of 256 lanes ends within them. -/
theorem segment_inside {seg k : Nat} (small : seg ≤ 8) (inside : k < 256 / 2 ^ seg) : k * 2 ^ seg + 2 ^ seg ≤ 256 := by
  have all := two_pow_mul_segs small
  have some_ : (k + 1) * 2 ^ seg ≤ 256 / 2 ^ seg * 2 ^ seg := Nat.mul_le_mul_right _ inside
  rw [Nat.succ_mul] at some_
  omega

theorem segs_pos {seg : Nat} (small : seg ≤ 8) : 0 < 256 / 2 ^ seg :=
  Nat.div_pos (show 2 ^ seg ≤ 2 ^ 8 from Nat.pow_le_pow_right (by omega) small) (Nat.two_pow_pos _)

/-- A register whose lanes are mapped. -/
theorem getD_map_lane {β : Type} (full : FullLanes g) (f : Word32 → β) (r : Nat) {i : Nat} (d : β) (hi : i < 256) :
    ((g.vec r).map f).getD i d = f (g.lane r i) := by
  have inside : i < (g.vec r).length := by rw [full]; exact hi
  simp [Engine.lane, inside]

include engine

theorem dot_completes (ready : UopReady s e 0x0C n w) (full : FullLanes g) (follow : FollowOk g) (unstreamed : uStr w = false)
    (inside : g.base w + 256 / 2 ^ uSeg w ≤ 256) :
    ∃ t, Runs (.dot e) s t ∧ WorksOn e s t ∧ MovesOn g (t.chip.engineOf e.stack e.idx) w ∧ GroupTakes g (t.chip.engineOf e.stack e.idx) w (fun h l old =>
      if g.base w ≤ l ∧ l < g.base w + 256 / 2 ^ uSeg w then
        toF32 (laneTree add32 (uSeg w) (fun i => Num.mul (asBf16 (g.lane (uA w) i)) (asBf16 (g.lane (uB w + h) i))) (l - g.base w)) else old) := by
  obtain ⟨small, fits, -⟩ := ready.fields rfl
  have small := small rfl
  let products (h : Nat) : List Num := tabulate 256 (fun i => Num.mul (((g.vec (uA w)).map mulIn).getD i .zero) (mulIn ((g.vec (uB w + h)).getD i 0)))
  let sums (h : Nat) : List Word32 := tabulate (256 / 2 ^ uSeg w) (fun k => lane (treeOf addR (uSeg w) (((products h).drop (k * 2 ^ uSeg w)).take (2 ^ uSeg w))))
  refine group_moves (out := fun h => (g.vec (uD w + h)).take (g.base w) ++ sums h ++ (g.vec (uD w + h)).drop (g.base w + 256 / 2 ^ uSeg w)) (k := uH w)
    engine ready follow (fits rfl) ?_ (fun h l _ _ => ?_)
  · simp only [uopDot, Chip.macInput, uopCtx, engine, unstreamed, show ¬ 255 < g.base w + 256 / 2 ^ uSeg w - 1 by omega, if_true, if_false]
    rfl
  · have length : (sums h).length = 256 / 2 ^ uSeg w := length_tabulate ..
    have placed := getD_splice (old := g.vec (uD w + h)) (new := sums h) (base := g.base w) (by rw [full, length]; exact inside) l 0
    rw [length] at placed
    rw [placed]
    split
    next within =>
      rw [getD_tabulate _ _ (by omega), addR_eq_add32]
      refine congrArg toF32 (treeOf_slice _ _ (by rw [length_tabulate]; exact segment_inside small (by omega)) fun i hi => ?_)
      rw [length_tabulate] at hi
      rw [getD_tabulate _ _ hi, getD_map_lane full _ _ _ hi]
      rfl
    next => rfl

theorem acc_completes (ready : UopReady s e 0x0D n w) (full : FullLanes g) (follow : FollowOk g) (unstreamed : uStr w = false)
    (inside : ∀ h l, h < uH w → l < 256 → (bPlace w (g.base w) h l).2 ≤ 255) :
    ∃ t, Runs (.acc e) s t ∧ WorksOn e s t ∧ MovesOn g (t.chip.engineOf e.stack e.idx) w ∧ GroupTakes g (t.chip.engineOf e.stack e.idx) w (fun h l old =>
      toF32 (Num.add (f32 old) (Num.mul (asBf16 (g.lane (uA w) l)) (asBf16 (g.lane (bPlace w (g.base w) h l).1 (bPlace w (g.base w) h l).2))))) := by
  obtain ⟨small, fits, -⟩ := ready.fields rfl
  have top := bTop_le (small rfl) inside
  refine group_moves (out := fun h => tabulate 256 (fun i => lane (Num.add (f32 ((g.vec (uD w + h)).getD i 0))
      (Num.mul (((g.vec (uA w)).map mulIn).getD i .zero) (mulIn (g.bOperand w (g.base w) h i)))))) (k := uH w) engine ready follow (fits rfl) ?_ (fun h l _ hl => ?_)
  · simp only [uopAcc, Chip.macInput, uopCtx, engine, unstreamed, show ¬ 255 < bTop w (g.base w) by omega, if_true, if_false]
  · rw [getD_tabulate _ _ hl, getD_map_lane full _ _ _ hl, bOperand_eq_lane]
    rfl

theorem fold_completes (ready : UopReady s e 0x10 n w) (follow : FollowOk g) :
    ∃ t, Runs (.fold e) s t ∧ WorksOn e s t ∧ (∀ q, q < 32 → (t.chip.engineOf e.stack e.idx).reg q = g.reg q) ∧
      GroupTakes g (t.chip.engineOf e.stack e.idx) w (fun h l _ =>
        if l < 128 then toF32 (Num.add (f32 (g.lane (uA w + h) l)) (f32 (g.lane (uA w + h) (l + 128)))) else 0) := by
  obtain ⟨-, fits, -⟩ := ready.fields rfl
  refine group_stays (out := fun h _ => tabulate 256 (fun l =>
      if l < 128 then lane (Num.add (f32 ((g.vec (uA w + h)).getD l 0)) (f32 ((g.vec (uA w + h)).getD (l + 128) 0))) else 0)) (k := uH w)
    engine ready follow (fits rfl) ?_ (fun h l _ hl => getD_tabulate _ _ hl)
  subst engine
  rfl

theorem fill_completes (ready : UopReady s e 0x11 n w) (full : FullLanes g) (follow : FollowOk g) (inside : g.base w ≤ 256) :
    ∃ t, Runs (.fill e) s t ∧ WorksOn e s t ∧ (∀ q, q < 32 → (t.chip.engineOf e.stack e.idx).reg q = g.reg q) ∧
      GroupTakes g (t.chip.engineOf e.stack e.idx) w (fun _ l old => if g.base w ≤ l then (if uMode w = 0 then 0xFF800000 else 0) else old) := by
  obtain ⟨-, fits, -⟩ := ready.fields rfl
  refine group_stays (out := fun h _ => (g.vec (uD w + h)).take (g.base w) ++ List.replicate (256 - g.base w) (if uMode w = 0 then 0xFF800000 else 0))
    (k := uH w) engine ready follow (fits rfl) ?_ (fun h l _ hl => ?_)
  · simp only [uopFill, engine, show ¬ 256 < g.base w by omega, if_false]
    rfl
  · have length := full (uD w + h)
    simp only [List.getD_eq_getElem?_getD, List.getElem?_append, List.length_take, length, Nat.min_eq_left inside, List.getElem?_take, List.getElem?_replicate]
    by_cases before : l < g.base w
    · simp [before, Engine.lane, List.getD_eq_getElem?_getD]
    · simp [before, show g.base w ≤ l by omega, show l - g.base w < 256 - g.base w by omega]

end

/-! ## Bytes of the store (R220) -/

/-- A range that lies in the store in the given steps, in a format that vectors take, is refused for nothing. -/
theorem lowestCode_vecFmt {bad ok : Bool} {fmt : Nat} (sound : bad = false) (vector : fmt < 5) (taken : ok = true) :
    lowestCode ((bad, Code.ulzStore) :: fmtCodes fmt ok) = none := by
  have valid : fmtValid fmt = true := decide_eq_true (by omega)
  simp [lowestCode, fmtCodes, sound, valid, taken]

theorem storesSound {H : Nat} {at_ : Nat → Nat} {size width : Nat} (inside : ∀ h, h < H → at_ h + size ≤ 65536 ∧ at_ h % width = 0) :
    (List.range H).any (fun h => storeBad (at_ h) size width) = false := by
  simp only [List.any_eq_false, List.mem_range, storeBad, Bool.or_eq_true, decide_eq_true_eq]
  intro h hh
  have := inside h hh
  omega

theorem vecFmt_mem {fmt : Nat} (vector : fmt < 5) : fmt ∈ byteFormats := by
  interval_cases fmt <;> decide

/-- Bytes within the bytes of a store that were read. -/
theorem Chip.storeRead_slice (s : Chip) (t : StackId) (e : Fin 32) (a : Nat) {n i k : Nat} (inside : i + k ≤ n) :
    ((s.storeRead t e a n).drop i).take k = s.storeRead t e (a + i) k :=
  (Memory.bytes_slice _ _ inside).trans (by rw [Chip.storeRead, storeKey, storeKey, Nat.add_assoc _ a i])

/-- Runs of bytes written at one distance, none over another. -/
def Memory.putRuns (m : Memory) (a d : Nat) (B : Nat → List Byte) (H : Nat) : Memory := (List.range H).foldl (fun m h => m.putBytes (a + h * d) (B h)) m

theorem Memory.byte_putRuns (m : Memory) (a d : Nat) (B : Nat → List Byte) {L : Nat} (length : ∀ h, (B h).length = L) (H : Nat) (apart : H ≤ 1 ∨ L ≤ d) :
    (∀ h i, h < H → i < L → (m.putRuns a d B H).byte (a + h * d + i) = (B h).getD i 0) ∧
      ∀ x, (x < a ∨ a + (H - 1) * d + L ≤ x) → (m.putRuns a d B H).byte x = m.byte x := by
  induction H with
  | zero => exact ⟨fun h i hh => absurd hh (Nat.not_lt_zero h), fun x _ => rfl⟩
  | succ H ih =>
    obtain ⟨held, rest⟩ := ih (by omega)
    have last : m.putRuns a d B (H + 1) = (m.putRuns a d B H).putBytes (a + H * d) (B H) := by simp [Memory.putRuns, List.range_succ]
    refine ⟨fun h i hh hi => ?_, fun x hx => ?_⟩
    · rw [last, Memory.byte_putBytes, length]
      by_cases own : h = H
      · rw [if_pos (by subst own; omega), own, Nat.add_sub_cancel_left]
      · have before : (h + 1) * d ≤ H * d := Nat.mul_le_mul_right _ (by omega)
        rw [Nat.succ_mul] at before
        rw [if_neg (by omega), held h i (by omega) hi]
    · have reach : (H - 1) * d ≤ H * d := Nat.mul_le_mul_right _ (Nat.sub_le _ _)
      rw [Nat.add_sub_cancel] at hx
      rw [last, Memory.byte_putBytes_outside _ _ _ _ (by rw [length]; omega), rest x (by omega)]

theorem Chip.foldl_storeWrite (s : Chip) (t : StackId) (e : Fin 32) (a d : Nat) (B : Nat → List Byte) (H : Nat) :
    (List.range H).foldl (fun s h => Chip.storeWrite s t e (a + h * d) (B h)) s = { s with engineStore := s.engineStore.putRuns (storeKey t e a) d B H } := by
  induction H with
  | zero => rfl
  | succ H ih =>
    rw [List.range_succ, List.foldl_append, ih]
    simp only [Memory.putRuns, List.range_succ, List.foldl_append, Chip.storeWrite, storeKey, Nat.add_assoc, List.foldl_cons, List.foldl_nil]

section
variable {s : State} {e : EngineId} {op : Nat} {n : Fin 1024} {w : BitVec 128} {g : Engine} (engine : s.chip.engineOf e.stack e.idx = g)
include engine

/-! ## Reductions across lanes (R220, R222) -/

/-- An operation whose result is one register. -/
theorem register_completes {f : Chip → UopCtx → UopEnd} {l : List Word32} {k : Nat} (ready : UopReady s e op n w) (follow : FollowOk g)
    (done : f s.chip (uopCtx s e n w) = .done s.chip (g.setVec (uD w) l) k) :
    ∃ t, onUop op f e s = .next t ∧ WorksOn e s t ∧ (∀ q, q < 32 → (t.chip.engineOf e.stack e.idx).reg q = g.reg q) ∧
      ∀ r l', r < 32 → l' < 256 → (t.chip.engineOf e.stack e.idx).lane r l' = if r = uD w then l.getD l' 0 else g.lane r l' := by
  subst engine
  obtain ⟨t, run, plain, reg, lanes⟩ := uop_works ready follow done rfl
  refine ⟨t, run, plain, fun q _ => congrFun reg q, fun r l' hr _ => ?_⟩
  rw [lanes, Engine.lane, Engine.setVec_vec _ _ hr (uD_lt w)]
  split <;> rfl

theorem reduce_completes (f : Num → Num → Num) (ready : UopReady s e op n w) (known : ∃ u, uopUse op = some u ∧ u.seg = true) (full : FullLanes g) (follow : FollowOk g)
    (inside : g.base w + uH w * (256 / 2 ^ uSeg w) ≤ 256) :
    ∃ t, onUop op (uopReduce f) e s = .next t ∧ WorksOn e s t ∧ (∀ q, q < 32 → (t.chip.engineOf e.stack e.idx).reg q = g.reg q) ∧
      ∀ r l, r < 32 → l < 256 → (t.chip.engineOf e.stack e.idx).lane r l = if r = uD w ∧ g.base w ≤ l ∧ l < g.base w + uH w * (256 / 2 ^ uSeg w) then
          toF32 (laneTree f (uSeg w) (fun i => f32 (g.lane (uA w + (l - g.base w) / (256 / 2 ^ uSeg w)) i)) ((l - g.base w) % (256 / 2 ^ uSeg w)))
        else g.lane r l := by
  obtain ⟨u, use, uses⟩ := known
  have small := (ready.fields use).1 uses
  let out : List Word32 := (List.range (uH w)).flatMap (fun h => tabulate (256 / 2 ^ uSeg w) (fun k =>
    lane (treeOf f (uSeg w) ((((g.vec (uA w + h)).drop (k * 2 ^ uSeg w)).take (2 ^ uSeg w)).map f32))))
  have length : out.length = uH w * (256 / 2 ^ uSeg w) := by simp [out, List.length_flatMap]
  have positive := segs_pos small
  have some_ : 0 < uH w * (256 / 2 ^ uSeg w) := Nat.mul_pos (Nat.succ_pos _) positive
  obtain ⟨t, run, plain, reg, lanes⟩ := register_completes (f := uopReduce f) (k := 2 * uH w) engine ready follow
    (l := (g.vec (uD w)).take (g.base w) ++ out ++ (g.vec (uD w)).drop (g.base w + uH w * (256 / 2 ^ uSeg w))) (by
      simp only [uopReduce, engine, show ¬ 255 < g.base w + uH w * (256 / 2 ^ uSeg w) - 1 by omega, if_false]
      rfl)
  refine ⟨t, run, plain, reg, fun r l hr hl => ?_⟩
  rw [lanes r l hr hl]
  by_cases at_ : r = uD w
  · have placed := getD_splice (old := g.vec (uD w)) (new := out) (base := g.base w) (by rw [full, length]; exact inside) l 0
    rw [length] at placed
    rw [if_pos at_, placed]
    by_cases within : g.base w ≤ l ∧ l < g.base w + uH w * (256 / 2 ^ uSeg w)
    · rw [if_pos within, if_pos ⟨at_, within⟩, getD_flatMap_tabulate _ _ _ _ (by omega)]
      refine congrArg toF32 ?_
      rw [List.map_take, List.map_drop]
      refine treeOf_slice f _ ?_ fun i hi => ?_
      · rw [List.length_map, full]
        exact segment_inside small (Nat.mod_lt _ positive)
      · rw [List.length_map, full] at hi
        exact getD_map_lane full f32 _ _ hi
    · rw [if_neg within, if_neg (fun h => within h.2), at_]; rfl
  · rw [if_neg at_, if_neg (fun h => at_ h.1)]

/-! ## LDV and STV (R220) -/

theorem ldv_completes (ready : UopReady s e 0x08 n w) (full : FullLanes g) (follow : FollowOk g) (vector : uFmt w < 5)
    (inside : ∀ h, h < uH w → g.base w + h * uN w + 2 ^ uSeg w * (elemBits (uFmt w) / 8) ≤ 65536 ∧ (g.base w + h * uN w) % (elemBits (uFmt w) / 8) = 0) :
    ∃ t, Runs (.ldv e) s t ∧ WorksOn e s t ∧ (∀ q, q < 32 → (t.chip.engineOf e.stack e.idx).reg q = g.reg q) ∧
      GroupTakes g (t.chip.engineOf e.stack e.idx) w (fun h l old => if l < 2 ^ uSeg w then
        toF32 (elemValue (uFmt w) (leNat (s.chip.storeRead e.stack e.idx (g.base w + h * uN w + l * (elemBits (uFmt w) / 8)) (elemBits (uFmt w) / 8)))) else old) := by
  obtain ⟨small, fits, -⟩ := ready.fields rfl
  have taken : vecFmt (uFmt w) = true := decide_eq_true vector
  have size : 2 ^ uSeg w ≤ 2 ^ 8 := Nat.pow_le_pow_right (by omega) (small rfl)
  let read (h : Nat) : List Word32 := widen (uFmt w) (s.chip.storeRead e.stack e.idx (g.base w + h * uN w) (2 ^ uSeg w * (elemBits (uFmt w) / 8))) (2 ^ uSeg w)
  have length (h : Nat) : (read h).length = 2 ^ uSeg w := length_tabulate ..
  refine group_stays (out := fun h old => read h ++ old.drop (2 ^ uSeg w)) (k := uH w) engine ready follow (fits rfl) ?_ (fun h l _ hl => ?_)
  · simp only [uopLdv, engine, members, taken, if_true]
    rw [lowestCode_vecFmt (storesSound inside) vector rfl]
    rfl
  · have placed := getD_splice (old := g.vec (uD w + h)) (new := read h) (base := 0) (by rw [full, length]; omega) l 0
    simp only [List.take_zero, List.nil_append, Nat.zero_add, Nat.zero_le, true_and, Nat.sub_zero, length] at placed
    rw [placed]
    split
    next within =>
      refine (getD_tabulate _ _ within).trans ?_
      rw [Chip.storeRead_slice]
      · rfl
      · rw [← Nat.succ_mul]
        exact Nat.mul_le_mul_right _ within
    next => rfl

theorem stv_completes (ready : UopReady s e 0x09 n w) (full : FullLanes g) (follow : FollowOk g) (vector : uFmt w < 5)
    (apart : uH w = 1 ∨ 2 ^ uSeg w * (elemBits (uFmt w) / 8) ≤ uN w)
    (inside : ∀ h, h < uH w → g.base w + h * uN w + 2 ^ uSeg w * (elemBits (uFmt w) / 8) ≤ 65536 ∧ (g.base w + h * uN w) % (elemBits (uFmt w) / 8) = 0) :
    ∃ t, Runs (.stv e) s t ∧ OnlyEngine e (g.base w) ((uH w - 1) * uN w + 2 ^ uSeg w * (elemBits (uFmt w) / 8)) s t ∧ Follows g (t.chip.engineOf e.stack e.idx) ∧
      t.chip.engineOf e.stack e.idx = { g with upc := (t.chip.engineOf e.stack e.idx).upc, rep := (t.chip.engineOf e.stack e.idx).rep } ∧
      ∀ h l, h < uH w → l < 2 ^ uSeg w →
        leNat (t.chip.storeRead e.stack e.idx (g.base w + h * uN w + l * (elemBits (uFmt w) / 8)) (elemBits (uFmt w) / 8)) =
          (narrowTo (uFmt w) .nearest (f32 (g.lane (uA w + h) l)) .one).1 := by
  obtain ⟨small, -, -⟩ := ready.fields rfl
  have taken : vecFmt (uFmt w) = true := decide_eq_true vector
  have size : 2 ^ uSeg w ≤ 2 ^ 8 := Nat.pow_le_pow_right (by omega) (small rfl)
  have lanes (h : Nat) : ((g.vec (uA w + h)).take (2 ^ uSeg w)).length = 2 ^ uSeg w := by
    rw [List.length_take, full, Nat.min_eq_left (show 2 ^ uSeg w ≤ 256 from size)]
  let image (h : Nat) : List Byte := narrowLanes (uFmt w) ((g.vec (uA w + h)).take (2 ^ uSeg w))
  have length (h : Nat) : (image h).length = 2 ^ uSeg w * (elemBits (uFmt w) / 8) := by
    simp only [image, narrowLanes, List.length_flatMap, leBytes_length, List.map_const', List.sum_replicate, lanes, smul_eq_mul]
  obtain ⟨held, rest⟩ := Memory.byte_putRuns s.chip.engineStore (storeKey e.stack e.idx (g.base w)) (uN w) image length (uH w) (by omega)
  obtain ⟨t, run, only, stored, next⟩ := uop_completes (f := uopStv) (g' := g) (k := uH w) (off := g.base w)
    (len := (uH w - 1) * uN w + 2 ^ uSeg w * (elemBits (uFmt w) / 8)) ready (engine ▸ follow) (by
      simp only [uopStv, engine, members, taken, if_true]
      rw [lowestCode_vecFmt (storesSound inside) vector rfl]
      exact congrArg (fun c => UopEnd.done c g (uH w)) (s.chip.foldl_storeWrite ..)) (engine ▸ rfl) (fun x hx => rest x (by omega))
  have works : g.Works g := rfl
  refine ⟨t, run, only, next ▸ works.follows, by rw [next]; exact works.next, fun h l hh hl => ?_⟩
  have bytes : t.chip.storeRead e.stack e.idx (g.base w + h * uN w + l * (elemBits (uFmt w) / 8)) (elemBits (uFmt w) / 8) =
      leBytes (elemBits (uFmt w) / 8) (narrowTo (uFmt w) .nearest (f32 (g.lane (uA w + h) l)) .one).1 := by
    have place : storeKey e.stack e.idx (g.base w + h * uN w + l * (elemBits (uFmt w) / 8)) =
        storeKey e.stack e.idx (g.base w) + h * uN w + l * (elemBits (uFmt w) / 8) := by simp only [storeKey, Nat.add_assoc]
    have covered := Memory.bytes_eq (m := t.chip.engineStore) (a := storeKey e.stack e.idx (g.base w) + h * uN w + l * (elemBits (uFmt w) / 8))
      (l := leBytes (elemBits (uFmt w) / 8) (narrowTo (uFmt w) .nearest (f32 (g.lane (uA w + h) l)) .one).1) (fun i hi => by
        rw [leBytes_length] at hi
        have within : l * (elemBits (uFmt w) / 8) + i < 2 ^ uSeg w * (elemBits (uFmt w) / 8) := by
          have : (l + 1) * (elemBits (uFmt w) / 8) ≤ 2 ^ uSeg w * (elemBits (uFmt w) / 8) := Nat.mul_le_mul_right _ hl
          rw [Nat.succ_mul] at this
          omega
        rw [stored, Nat.add_assoc _ _ i, held h _ hh within]
        refine (getD_flatMap _ (fun _ => leBytes_length ..) _ 0 0 (by rw [lanes]; exact hl) hi).trans ?_
        rw [show ((g.vec (uA w + h)).take (2 ^ uSeg w)).getD l 0 = g.lane (uA w + h) l by simp [Engine.lane, List.getD_eq_getElem?_getD, hl]])
    rw [leBytes_length] at covered
    rw [Chip.storeRead, place]
    exact covered
  rw [bytes, leNat_leBytes, Nat.mod_eq_of_lt]
  refine lt_of_lt_of_eq (narrowTo_lt _ (vecFmt_mem vector) ..) ?_
  clear * - vector
  interval_cases uFmt w <;> decide

end

/-! ## DELTA (R220) -/

theorem ushiftRight_one_eq (v : Word64) : v >>> 1 = BitVec.ofNat 64 (v.toNat / 2) := by
  refine BitVec.eq_of_toNat_eq ?_
  have small := v.isLt
  rw [BitVec.toNat_ushiftRight, Nat.shiftRight_eq_div_pow, BitVec.toNat_ofNat, Nat.mod_eq_of_lt (by omega), Nat.pow_one]

/-- u[B] takes half its value, as DELTA leaves it. -/
def Engine.popBit (g : Engine) (w : BitVec 128) : Engine := g.setReg (uB w) (g.reg (uB w) >>> 1)

theorem Engine.popBit_reg (g : Engine) (w : BitVec 128) {q : Nat} (hq : q < 32) :
    (g.popBit w).reg q = if q = uB w ∧ q ≠ 0 then BitVec.ofNat 64 ((g.reg q).toNat / 2) else g.reg q := by
  rw [Engine.popBit, g.setReg_reg _ hq (uB_lt w), ushiftRight_one_eq]
  by_cases at_ : q = uB w <;> simp [at_]

theorem Engine.popBit_works {g h : Engine} {w : BitVec 128} (works : g.Works h) : g.Works (h.popBit w) := by
  rw [Engine.Works, Engine.popBit, h.setReg_shape, works]

section
variable {s : State} {e : EngineId} {n : Fin 1024} {w : BitVec 128} {g : Engine} (engine : s.chip.engineOf e.stack e.idx = g)
include engine

/-- The bit of u[B] is 0: u[B] alone moves. -/
theorem delta_skips (ready : UopReady s e 0x31 n w) (follow : FollowOk g) (byteWide : uFmt w = 3 ∨ uFmt w = 4) (bit : (g.reg (uB w)).getLsbD 0 = false) :
    ∃ t, Runs (.delta e) s t ∧ WorksOn e s t ∧ (t.chip.engineOf e.stack e.idx).reg = (g.popBit w).reg ∧ (t.chip.engineOf e.stack e.idx).lane = g.lane := by
  subst engine
  obtain ⟨t, run, plain, reg, lanes⟩ := uop_works (f := uopDelta) (k := 1) (g' := (s.chip.engineOf e.stack e.idx).popBit w) ready follow (by
    simp only [uopDelta, bit, Bool.false_and, if_false, Bool.false_eq_true]
    rw [lowestCode_vecFmt rfl (by omega) (Bool.or_eq_true_iff.mpr (byteWide.imp decide_eq_true decide_eq_true))]
    rfl) (Engine.popBit_works rfl)
  exact ⟨t, run, plain, reg, lanes.trans (Engine.setReg_lane ..)⟩

/-- The bit of u[B] is 1: the lanes of the delta are added to D, and u[C] moves over them. -/
theorem delta_adds (ready : UopReady s e 0x31 n w) (follow : FollowOk g) (byteWide : uFmt w = 3 ∨ uFmt w = 4) (bit : (g.reg (uB w)).getLsbD 0 = true)
    (inside : (g.reg (uC w)).toNat + 256 ≤ 65536) :
    ∃ t, Runs (.delta e) s t ∧ WorksOn e s t ∧ (t.chip.engineOf e.stack e.idx).reg = ((g.setReg (uC w) (g.reg (uC w) + 256)).popBit w).reg ∧
      ∀ r l, r < 32 → l < 256 → (t.chip.engineOf e.stack e.idx).lane r l = if r = uD w then
          toF32 (Num.add (f32 (g.lane r l)) (f32 (toF32 (elemValue (uFmt w) (leNat (s.chip.storeRead e.stack e.idx ((g.reg (uC w)).toNat + l) 1))))))
        else g.lane r l := by
  subst engine
  obtain ⟨t, run, plain, reg, lanes⟩ := uop_works (f := uopDelta) (k := 1)
    (g' := (((s.chip.engineOf e.stack e.idx).setVec (uD w) (tabulate 256 (fun l => lane (Num.add (f32 ((s.chip.engineOf e.stack e.idx).lane (uD w) l))
      (f32 ((widen (uFmt w) (s.chip.storeRead e.stack e.idx ((s.chip.engineOf e.stack e.idx).reg (uC w)).toNat 256) 256).getD l 0)))))).setReg (uC w)
        ((s.chip.engineOf e.stack e.idx).reg (uC w) + 256)).popBit w) ready follow (by
      simp only [uopDelta, bit, Bool.true_and, if_true]
      rw [lowestCode_vecFmt (by simpa [storeBad, Nat.mod_one] using inside) (by omega) (Bool.or_eq_true_iff.mpr (byteWide.imp decide_eq_true decide_eq_true))]
      rfl) (Engine.popBit_works (by rw [Engine.Works, Engine.setReg_shape]; rfl))
  refine ⟨t, run, plain, ?_, fun r l hr hl => ?_⟩
  · rw [reg]
    funext q
    simp only [Engine.popBit, Engine.setReg]
    split_ifs <;> rfl
  · rw [lanes, Engine.popBit, Engine.setReg_lane, Engine.setReg_lane, Engine.lane, Engine.setVec_vec _ _ hr (uD_lt w)]
    split
    next at_ =>
      have one : elemBits (uFmt w) / 8 = 1 := by rcases byteWide with h | h <;> rw [h] <;> rfl
      rw [getD_tabulate _ _ hl, widen, getD_tabulate _ _ hl, one, Nat.mul_one, Chip.storeRead_slice _ _ _ _ (by omega), at_]
      rfl
    next => rfl

end

/-- Settles O32: each operation that completes is one write of its engine's registers, and each lane written is read off the list that was written. -/
theorem engineVectorOperations : Obligations.EngineVectorOperations := by
  unfold Obligations.EngineVectorOperations
  intro s e n w g base seg size segs fmt width engine y yOk store plain same moved group product full follow
  have placed (inside : ∀ h, h < uH w → store h 0 + size * width ≤ 65536 ∧ store h 0 % width = 0) (h : Nat) (member : h < uH w) :
      g.base w + h * uN w + size * width ≤ 65536 ∧ (g.base w + h * uN w) % width = 0 := by
    have at_ := inside h member
    simp only [store, Nat.zero_mul, Nat.add_zero] at at_
    exact at_
  refine ⟨fun ready vector inside => ldv_completes rfl ready full follow vector (placed inside), fun ready vector apart inside => stv_completes rfl ready full follow vector apart (placed inside),
    fun ready lanes m member mode => ?_, fun ready lanes => ?_, fun ready unstreamed inside => dot_completes rfl ready full follow unstreamed inside,
    fun ready unstreamed lanes => acc_completes rfl ready full follow unstreamed lanes, fun isMax ready inside => ?_, fun ready => fold_completes rfl ready follow,
    fun ready inside => fill_completes rfl ready full follow inside, ?_⟩
  · obtain ⟨small, fits, -⟩ := ready.fields rfl
    obtain ⟨t, run, on, moves, takes⟩ := laneWise_completes (f := uopVop) (value := vopLane (uMode w)) (beats := 1) rfl rfl ready follow (small rfl) (fits rfl) lanes
    simp only [mode, vopLane_of_mem m member] at takes
    exact ⟨t, run, on, moves, takes⟩
  · obtain ⟨small, fits, -⟩ := ready.fields rfl
    exact laneWise_completes rfl rfl ready follow (small rfl) (fits rfl) lanes
  · cases isMax
    · exact reduce_completes rfl _ ready ⟨_, rfl, rfl⟩ full follow inside
    · exact reduce_completes rfl _ ready ⟨_, rfl, rfl⟩ full follow inside
  · intro ready byteWide bit cur inside
    cases set : bit
    · obtain ⟨t, run, on, reg, lanes⟩ := delta_skips rfl ready follow byteWide set
      refine ⟨t, run, on, fun q hq => ?_, fun r l _ _ => ?_⟩
      · simpa using (congrFun reg q).trans (Engine.popBit_reg _ _ hq)
      · simpa using congrFun (congrFun lanes r) l
    · obtain ⟨t, run, on, reg, lanes⟩ := delta_adds rfl ready follow byteWide set (inside set)
      refine ⟨t, run, on, fun q hq => ?_, fun r l hr hl => ?_⟩
      · have written : (engine t).reg q = _ := (congrFun reg q).trans (Engine.popBit_reg _ _ hq)
        rw [written, Engine.setReg_reg _ _ hq (uC_lt w)]
        by_cases at_ : q = uC w
        · simp [at_, g]
        · simp [at_, g]
      · simpa using lanes r l hr hl

end Sys2Proof.Machine
end

section
/-! What the engines of a core share: packed elements (R72), the command that a queue takes up (R104), and accesses of a clean scratchpad (R107, R415). -/

namespace Sys2Proof.Machine

open Host

/-! ## Packed elements of whole bytes (R72) -/

theorem leNat_append (l m : List Byte) : leNat (l ++ m) = leNat l + 256 ^ l.length * leNat m := by
  induction l with
  | nil => simp [leNat]
  | cons b t ih =>
    rw [List.cons_append, leNat, ih, leNat, List.length_cons, Nat.pow_succ]
    ring

theorem leNat_take_mod (l : List Byte) {w m : Nat} (inside : w ≤ m) (held : w ≤ l.length) : leNat (l.take m) % 256 ^ w = leNat (l.take w) := by
  obtain ⟨d, rfl⟩ := Nat.exists_eq_add_of_le inside
  have length : (l.take w).length = w := by rw [List.length_take, Nat.min_eq_left held]
  have small := leNat_lt (l.take w)
  rw [List.take_add, leNat_append, length, Nat.add_mul_mod_self_left, Nat.mod_eq_of_lt (by rwa [length] at small)]

/-- Element i of packed elements of w bytes is the bytes there. -/
theorem packedElem_bytes (bs : List Byte) {w i : Nat} (inside : i * w + w ≤ bs.length) : packedElem (8 * w) bs i = leNat ((bs.drop (i * w)).take w) := by
  have place : 8 * w * i / 8 = i * w := by rw [Nat.mul_assoc, Nat.mul_div_cancel_left _ (by omega), Nat.mul_comm]
  have whole : 8 * w * i % 8 = 0 := by rw [Nat.mul_assoc, Nat.mul_mod_right]
  have size : (8 * w + 7) / 8 = w := by omega
  have bits : 2 ^ (8 * w) = 256 ^ w := by rw [Nat.pow_mul]
  simp only [packedElem, place, whole, size, bits, Nat.pow_zero, Nat.div_one]
  exact leNat_take_mod _ (Nat.le_succ w) (by rw [List.length_drop]; omega)

theorem leBytes_add (w n x y : Nat) (small : x < 256 ^ w) : leBytes (w + n) (x + 256 ^ w * y) = leBytes w x ++ leBytes n y := by
  induction w generalizing x with
  | zero =>
    obtain rfl : x = 0 := by simpa using small
    simp [leBytes]
  | succ w ih =>
    have low : BitVec.ofNat 8 (x + 256 ^ (w + 1) * y) = BitVec.ofNat 8 x := BitVec.eq_of_toNat_eq (by
      rw [BitVec.toNat_ofNat, BitVec.toNat_ofNat, Nat.pow_succ, Nat.mul_comm _ 256, Nat.mul_assoc]
      exact Nat.add_mul_mod_self_left ..)
    have high : (x + 256 ^ (w + 1) * y) / 256 = x / 256 + 256 ^ w * y := by
      rw [Nat.pow_succ, Nat.mul_comm _ 256, Nat.mul_assoc, Nat.add_mul_div_left _ _ (by omega)]
    rw [Nat.add_right_comm, leBytes, low, high, ih _ (Nat.div_lt_of_lt_mul (by rwa [Nat.pow_succ, Nat.mul_comm] at small)), leBytes, List.cons_append]

/-- Elements of w bytes are packed one after another. -/
theorem packElems_bytes (w : Nat) (xs : List Nat) (small : ∀ x ∈ xs, x < 256 ^ w) : packElems (8 * w) xs = xs.flatMap (leBytes w) := by
  have bits : 2 ^ (8 * w) = 256 ^ w := by rw [Nat.pow_mul]
  have size (n : Nat) : (n * (8 * w) + 7) / 8 = n * w := by
    rw [show n * (8 * w) = 8 * (n * w) by ring]
    omega
  rw [packElems, size, bits]
  induction xs with
  | nil => simp [leBytes]
  | cons x t ih =>
    rw [List.length_cons, Nat.succ_mul, Nat.add_comm _ w, List.foldr_cons, leBytes_add _ _ _ _ (small x List.mem_cons_self), ih fun y hy => small y (List.mem_cons_of_mem x hy),
      List.flatMap_cons]

theorem length_flatMap_leBytes {α : Type} (w : Nat) (f : α → Nat) (xs : List α) : (xs.flatMap (fun x => leBytes w (f x))).length = xs.length * w := by
  simp [List.length_flatMap]

/-- Element i of written elements reads back. -/
theorem leNat_flatMap_leBytes {α : Type} {w i : Nat} (f : α → Nat) (xs : List α) (small : ∀ x ∈ xs, f x < 256 ^ w) (inside : i < xs.length) :
    leNat (((xs.flatMap (fun x => leBytes w (f x))).drop (i * w)).take w) = f (xs[i]) := by
  have element : ((xs.flatMap (fun x => leBytes w (f x))).drop (i * w)).take w = leBytes w (f xs[i]) := by
    have inside' : i * w + w ≤ xs.length * w := by
      rw [← Nat.succ_mul]
      exact Nat.mul_le_mul_right _ inside
    refine ext_getD 0 (by rw [List.length_take, List.length_drop, length_flatMap_leBytes, leBytes_length]; omega) fun j hj => ?_
    have small' : j < w := lt_of_lt_of_le hj (List.length_take_le ..)
    rw [getD_slice _ _ _ small', getD_flatMap _ (fun _ => leBytes_length ..) xs xs[i] 0 inside small', List.getD_eq_getElem _ _ inside]
  rw [element, leNat_leBytes, Nat.mod_eq_of_lt (small _ (List.getElem_mem inside))]

/-- The formats of whole bytes carry no block scale. -/
theorem byteFormat_bits : ∀ c ∈ byteFormats, isScaled c = false ∧ elemBits c = 8 * (elemBits c / 8) ∧ elemBits c ≠ 4 := by decide

/-! ## A chip with one core and the scratchpads' bytes replaced -/

def Chip.withCore (s : Chip) (k : CoreId) (y : Core) (m : Memory) : Chip := { s with cores := Table.write s.cores k y, scratch := m }

section
variable (s : Chip) (k : CoreId) (y z : Core) (m m' : Memory)

@[simp] theorem Chip.withCore_core : (s.withCore k y m).core k = y := Table.read_write_same ..
@[simp] theorem Chip.withCore_scratch : (s.withCore k y m).scratch = m := rfl
@[simp] theorem Chip.withCore_scratchErrors : (s.withCore k y m).scratchErrors = s.scratchErrors := rfl
theorem Chip.withCore_core_other {j : CoreId} (h : j ≠ k) : (s.withCore k y m).core j = s.core j := Table.read_write_other _ _ _ _ _ h
theorem Chip.updCore_eq_withCore (f : Core → Core) : s.updCore k f = s.withCore k (f (s.core k)) s.scratch := rfl
@[simp] theorem Chip.withCore_withCore : (s.withCore k y m).withCore k z m' = s.withCore k z m' := by simp only [Chip.withCore, Table.write_write]
@[simp] theorem Chip.withCore_updCore (f : Core → Core) : (s.withCore k y m).updCore k f = s.withCore k (f y) m := by
  rw [Chip.updCore_eq_withCore, Chip.withCore_withCore, Chip.withCore_core, Chip.withCore_scratch]

end

theorem OnlyCore.of_withCore (s : State) (k : CoreId) (y : Core) : OnlyCore k s { s with chip := s.chip.withCore k y s.chip.scratch } :=
  ⟨rfl, fun _ h => s.chip.withCore_core_other k y _ h⟩

theorem OnlyCoreBytes.of_withCore {s : State} {k : CoreId} {off n : Nat} {m : Memory} (y : Core)
    (outside : ∀ a, (a < scratchKey k off ∨ scratchKey k off + n ≤ a) → m.byte a = s.chip.scratch.byte a) :
    OnlyCoreBytes k off n s { s with chip := s.chip.withCore k y m } :=
  ⟨rfl, fun _ h => s.chip.withCore_core_other k y _ h, outside⟩

/-! ## Accesses of a clean scratchpad -/

section
variable {s : Chip} {k : CoreId} (clean : s.scratchErrors = [])
include clean

theorem Chip.engineRead_clean (off n : Nat) : s.engineRead k false [] off n = (s, s.scratchRead k off n) := by
  rw [Chip.engineRead, if_neg (by decide), s.scratchBad_clean k off n clean]
  rfl

theorem Chip.engineWrite_clean (y : Core) (m : Memory) (off : Nat) (bs : List Byte) :
    (s.withCore k y m).engineWrite k false [] off bs = s.withCore k y (m.putBytes (scratchKey k off) bs) := by
  simp only [Chip.engineWrite, Chip.writeFree, Bool.false_eq_true, if_false, if_true]
  exact Chip.scratchWrite_clean (s.withCore k y m) k off bs clean

end

/-! ## A command taken up (R104) -/

/-- The running record of a command that begins while no data-engine command runs. -/
def Core.runOf (x : Core) (e : EngineKind) (cmd : EngineCmd) : Running := { cmd := cmd, len := cmdLength cmd.packet, dst := if e = .ve then x.veDst cmd else [] }

theorem Chip.takeUp_waits {s : State} {k : CoreId} {e : EngineKind} {op : Nat} {cmd : EngineCmd} {rest : List EngineCmd} (waits : EngineWaits s k e op cmd rest) :
    s.chip.takeUp k e op = some (s.chip.updCore k (fun x => x.setQueue e ⟨some (x.runOf e cmd), rest⟩)) := by
  obtain ⟨up, me, ve, tq, de, job, -, front, unfresh, -, opcode, -⟩ := waits
  have idle : ((s.chip.core k).queue e).running = none := by cases e <;> assumption
  have begun : (s.chip.core k).start e = (s.chip.core k).setQueue e ⟨some ((s.chip.core k).runOf e cmd), rest⟩ := by
    generalize s.chip.core k = x at *
    cases x
    cases e <;> simp_all [Core.start, Core.setQueue, Core.queue, Core.runOf, Core.deTouches]
  have running : ((s.chip.core k).setQueue e ⟨some ((s.chip.core k).runOf e cmd), rest⟩).queue e = ⟨some ((s.chip.core k).runOf e cmd), rest⟩ := by
    rw [Core.queue_setQueue, if_pos rfl]
  simp only [Chip.takeUp, Chip.coreLive, clusterLive_of_up up, Bool.true_eq_false, if_false, Chip.updCore_core_same, begun, running]
  exact (if_pos opcode).trans (by simp only [Chip.updCore, begun])

theorem Chip.report_nil (s : Chip) (k : CoreId) : s.report k [] = s := rfl

theorem Chip.complete_unsigned {cmd : EngineCmd} (unsigned : pkSigEn cmd.packet = false) (s : Chip) (k : CoreId) (a : Agent) : s.complete k a cmd = s := by
  rw [Chip.complete, if_pos unsigned]

end Sys2Proof.Machine
end

section
/-! The beats of a plain command of the vector engine (R142 to R153): it ends with one result, its other beats do nothing. -/

namespace Sys2Proof.Machine

open Host

/-! ## One beat -/

/-- A VE packet without a gather, a tile, a signal at its end, or a block scale in a conversion. -/
structure PlainRun (p : BitVec 128) : Prop where
  direct : pkAgm p = false
  untiled : veSrcTq p = false
  unsigned : pkSigEn p = false
  unscaled : veKind (pkOpcode p) = some .cvt → isScaled (pkFmtA p) = false ∧ isScaled (pkFmtD p) = false

theorem Core.writtenBefore_zero (x : Core) (cmd : EngineCmd) : x.writtenBefore cmd 0 = [] := by
  rw [Core.writtenBefore]
  split <;> rfl

section
variable {u u' : Chip} {k : CoreId} {r r' : Running}

theorem Chip.readB_clean (clean : u.scratchErrors = []) (r : Running) : u.readB k false [] r = (u, (u.readB k false [] r).2) := by
  rw [Chip.readB]
  split
  · rfl
  · rw [Chip.engineRead_clean clean]

theorem PlainRun.begins {x : Core} (plain : PlainRun r.cmd.packet) : x.veBegin r = none := by
  obtain ⟨direct, untiled, -, unscaled⟩ := plain
  rw [Core.veBegin]
  cases kind : veKind (pkOpcode r.cmd.packet) with
  | none => simp [direct, untiled, whenC, lowest]
  | some kind' =>
    by_cases cvt : kind' = .cvt
    · obtain ⟨a, d⟩ := unscaled (cvt ▸ kind)
      simp [direct, untiled, a, d, whenC, lowest]
    · simp [direct, untiled, cvt, whenC, lowest]

theorem PlainRun.latch {p : BitVec 128} (plain : PlainRun p) : (fun x : Core => x.latch p) = id := funext fun _ => if_pos plain.untiled

/-- The record of a beat: the first one reads B. -/
def Chip.beatRecord (u : Chip) (k : CoreId) (r : Running) : Running := { r with b := if r.taken = 0 then (u.readB k false [] r).2 else r.b }

/-- A core that works in a beat: its scratchpad is clean, no data-engine command runs, and its registers have an entry of their own. -/
structure Chip.Works (u : Chip) (k : CoreId) : Prop where
  clean : u.scratchErrors = []
  jobless : (u.core k).job = none
  own : u.updCore k id = u

theorem Chip.Works.veRun (works : u.Works k) (plain : PlainRun r.cmd.packet) (uncrowded : r.crowded = false)
    (work : u.veWork k false (u.beatRecord k r) = (u', r', .going)) :
    u.veRun k false r = if r'.taken + 1 < r'.len then (u'.updCore k (fun x => { x with ve := { x.ve with running := some { r' with taken := r'.taken + 1 } } }), .going)
      else (u'.veFlush k false r', .finished) := by
  obtain ⟨clean, jobless, own⟩ := works
  have busy : (u.core k).deWrites = [] := by rw [Core.deWrites, jobless]
  have record : (if r.taken = 0 then u.readB k false [] r else (u, r.b)) = (u, (u.beatRecord k r).b) := by
    rw [Chip.beatRecord]
    split
    · exact Chip.readB_clean clean r
    · rfl
  have begins : (u.core k).veBegin (u.beatRecord k r) = none := PlainRun.begins plain
  have same : { r with idx := r.idx, b := (u.beatRecord k r).b, crowded := false } = u.beatRecord k r := by rw [← uncrowded]; rfl
  simp only [Chip.veRun, busy, plain.direct, plain.latch, own, Bool.false_eq_true, false_and, and_false, if_false, record, begins, ite_self, uncrowded, Bool.or_self,
    Bool.false_and, same, work]

/-! ## Beats to the end -/

theorem Chip.Works.veBeat_goes (works : u.Works k) (running : (u.core k).ve.running = some r) (plain : PlainRun r.cmd.packet) (uncrowded : r.crowded = false)
    (work : u.veWork k false (u.beatRecord k r) = (u', r', .going)) (more : r'.taken + 1 < r'.len) :
    u.veBeat k false = (u'.updCore k (fun x => { x with ve := { x.ve with running := some { r' with taken := r'.taken + 1 } } }), []) := by
  simp only [Chip.veBeat, Chip.veStep, running, Chip.guarded_clean _ _ _ _ works.clean, works.veRun plain uncrowded work, more, if_true]

theorem Chip.Works.veBeat_ends (works : u.Works k) (running : (u.core k).ve.running = some r) (plain : PlainRun r.cmd.packet) (uncrowded : r.crowded = false)
    (work : u.veWork k false (u.beatRecord k r) = (u', r', .going)) (last : ¬ r'.taken + 1 < r'.len) (unlatched : ((u'.veFlush k false r').core k).latched = none) :
    u.veBeat k false = ((u'.veFlush k false r').updCore k (fun x => x.idle .ve), []) := by
  simp only [Chip.veBeat, Chip.veStep, running, Chip.guarded_clean _ _ _ _ works.clean, works.veRun plain uncrowded work, last, if_false, Chip.conclude,
    Chip.complete_unsigned plain.unsigned, Chip.updCore_updCore]
  simp only [Chip.updCore, Core.popLatched, unlatched]

theorem Chip.veSteps_goes {v : Chip} (running : (u.core k).ve.running = some r) (beat : u.veBeat k false = (v, [])) (n : Nat) :
    u.veSteps k (n + 1) = v.veSteps k n := by
  simp only [Chip.veSteps, running, beat, Option.isNone_some, Bool.false_eq_true, if_false]

theorem Chip.veSteps_idle (idle : (u.core k).ve.running = none) (n : Nat) : u.veSteps k n = (u, []) := by
  cases n with
  | zero => rfl
  | succ n => simp only [Chip.veSteps, idle, Option.isNone_none, if_true]

end

section
variable {s : Chip} {k : CoreId} {x y : Core} {r r' : Running} {rest : List EngineCmd} {m m' : Memory}

/-- A core whose vector engine runs a command, and one whose vector engine is idle. -/
def Core.runs (x : Core) (r : Running) (rest : List EngineCmd) : Core := { x with ve := ⟨some r, rest⟩ }
def Core.rests (x : Core) (rest : List EngineCmd) : Core := { x with ve := ⟨none, rest⟩ }

/-- What the lemmas on the beats of a command ask of its core and its packet. -/
structure VeRuns (s : Chip) (x : Core) (r : Running) : Prop where
  clean : s.scratchErrors = []
  jobless : x.job = none
  unlatched : x.latched = none
  plain : PlainRun r.cmd.packet
  uncrowded : r.crowded = false

theorem VeRuns.works (runs : VeRuns s x r) : (s.withCore k (x.runs r rest) m).Works k :=
  ⟨runs.clean, by rw [Chip.withCore_core]; exact runs.jobless, s.withCore_updCore k _ m id⟩

theorem Chip.beatRecord_unread {u : Chip} (unread : 0 < r.taken ∨ (veReadsB r.cmd.packet = false ∧ r.b = [])) : u.beatRecord k r = r := by
  rw [Chip.beatRecord]
  rcases unread with later | ⟨unread, none_⟩
  · rw [if_neg (by omega)]
  · rw [Chip.readB, if_pos (Or.inl unread), none_, ite_self]
    rw [← none_]

/-- A beat with no chunk due does nothing. -/
theorem Chip.veWork_skips {u : Chip} (due : chunkDue r.cmd.packet r.taken = none) (unread : 0 < r.taken ∨ (veReadsB r.cmd.packet = false ∧ r.b = [])) :
    u.veWork k false (u.beatRecord k r) = (u, r, .going) := by
  rw [Chip.beatRecord_unread unread, Chip.veWork, due]
  cases veKind (pkOpcode r.cmd.packet) with
  | none => rfl
  | some kind => cases kind <;> rfl

theorem VeRuns.skips (runs : VeRuns s x r) (unread : 0 < r.taken ∨ (veReadsB r.cmd.packet = false ∧ r.b = [])) (i n : Nat)
    (due : ∀ j, r.taken ≤ j → j < r.taken + i → chunkDue r.cmd.packet j = none) (more : r.taken + i < r.len) :
    (s.withCore k (x.runs r rest) m).veSteps k (n + i) = (s.withCore k (x.runs { r with taken := r.taken + i } rest) m).veSteps k n := by
  induction i generalizing n with
  | zero => rfl
  | succ i ih =>
    have there : VeRuns s x { r with taken := r.taken + i } := { runs with plain := runs.plain, uncrowded := runs.uncrowded }
    rw [show n + (i + 1) = n + 1 + i by omega, ih _ (fun j hj hi => due j hj (by omega)) (by omega)]
    have beat := (there.works (k := k) (rest := rest) (m := m)).veBeat_goes (by rw [Chip.withCore_core]; rfl) there.plain there.uncrowded
      (Chip.veWork_skips (due _ (Nat.le_add_right ..) (by simp only; omega)) (unread.imp_left fun h => by simp only; omega)) (by simp only; omega)
    rw [Chip.veSteps_goes (by rw [Chip.withCore_core]; rfl) beat, Chip.withCore_updCore]
    rfl

/-- The last beat of a command. -/
theorem VeRuns.ends (runs : VeRuns s x r) {v : Chip}
    (work : (s.withCore k (x.runs r rest) m).veWork k false ((s.withCore k (x.runs r rest) m).beatRecord k r) = (v, r', .going)) (last : ¬ r'.taken + 1 < r'.len)
    (flush : v.veFlush k false r' = s.withCore k (y.runs r rest) m') (unlatched : y.latched = none) (n : Nat) :
    (s.withCore k (x.runs r rest) m).veSteps k (n + 1) = (s.withCore k (y.rests rest) m', []) := by
  have beat := (runs.works (k := k) (rest := rest) (m := m)).veBeat_ends (by rw [Chip.withCore_core]; rfl) runs.plain runs.uncrowded work last
    (by rw [flush, Chip.withCore_core]; exact unlatched)
  rw [Chip.veSteps_goes (by rw [Chip.withCore_core]; rfl) beat, flush, Chip.withCore_updCore]
  exact Chip.veSteps_idle (by rw [Chip.withCore_core]; rfl) n

end

theorem Chip.veWhole_waits {s : State} {k : CoreId} {op : Nat} {cmd : EngineCmd} {rest : List EngineCmd} {v : Chip} (waits : EngineWaits s k .ve op cmd rest)
    (steps : (s.chip.withCore k ((s.chip.core k).runs ((s.chip.core k).runOf .ve cmd) rest) s.chip.scratch).veSteps k (cmdLength cmd.packet) = (v, [])) :
    s.chip.veWhole k op = v := by
  have running : (s.chip.updCore k (fun x => x.setQueue .ve ⟨some (x.runOf .ve cmd), rest⟩)) =
      s.chip.withCore k ((s.chip.core k).runs ((s.chip.core k).runOf .ve cmd) rest) s.chip.scratch := rfl
  rw [Chip.veWhole, Chip.takeUp_waits waits, running]
  simp only [Chip.withCore_core]
  exact congrArg (fun r => r.1.report k r.2) steps

end Sys2Proof.Machine
end

section
/-! The operands and results of one group of up to 64 elements (R144 to R148). -/

namespace Sys2Proof.Machine

open Host

/-- The bits of element i of a run of elements in a core's scratchpad: laneBits, of a chip. -/
def Chip.laneAt (u : Chip) (k : CoreId) (off c i : Nat) : Nat := leNat (u.scratchRead k (off + i * (elemBits c / 8)) (elemBits c / 8))

/-- Its value. -/
def Chip.elementAt (u : Chip) (k : CoreId) (off c i : Nat) : Num := elemValue c (u.laneAt k off c i)

theorem laneBits_eq (s : State) (k : CoreId) (off c i : Nat) : laneBits s k off c i = s.chip.laneAt k off c i := rfl

section
variable {u : Chip} {k : CoreId}

theorem Chip.laneAt_clean (clean : u.scratchErrors = []) (off c i : Nat) :
    u.laneAt k off c i = leNat (u.scratch.bytes (scratchKey k off + i * (elemBits c / 8)) (elemBits c / 8)) := by
  rw [Chip.laneAt, Chip.scratchRead_clean _ _ _ _ clean, scratchKey, scratchKey, Nat.add_assoc]

theorem Chip.withCore_laneAt (clean : u.scratchErrors = []) (y : Core) (m : Memory) (off c i : Nat) :
    (u.withCore k y m).laneAt k off c i = leNat (m.bytes (scratchKey k off + i * (elemBits c / 8)) (elemBits c / 8)) :=
  Chip.laneAt_clean (u := u.withCore k y m) clean off c i

theorem Chip.scratchRead_slice (clean : u.scratchErrors = []) (off : Nat) {n i w : Nat} (inside : i + w ≤ n) :
    ((u.scratchRead k off n).drop i).take w = u.scratchRead k (off + i) w := by
  rw [Chip.scratchRead_clean _ _ _ _ clean, Chip.scratchRead_clean _ _ _ _ clean, Memory.bytes_slice _ _ inside, scratchKey, scratchKey, Nat.add_assoc]

theorem Chip.withCore_scratchRead_putBytes (clean : u.scratchErrors = []) (y : Core) (m : Memory) (off : Nat) (bs : List Byte) :
    (u.withCore k y (m.putBytes (scratchKey k off) bs)).scratchRead k off bs.length = bs :=
  (Chip.scratchRead_clean (u.withCore k y _) k off _ clean).trans (m.bytes_putBytes _ bs)

theorem Chip.length_scratchRead (clean : u.scratchErrors = []) (off n : Nat) : (u.scratchRead k off n).length = n := by
  rw [Chip.scratchRead_clean _ _ _ _ clean, Memory.bytes_length]

theorem extent_byteFormat {c : Nat} (format : c ∈ byteFormats) (n : Nat) : extent c n = n * (elemBits c / 8) := by
  obtain ⟨unscaled, bits, -⟩ := byteFormat_bits c format
  have size : n * elemBits c = 8 * (n * (elemBits c / 8)) := by
    rw [Nat.mul_left_comm]
    exact congrArg _ bits
  rw [extent, unscaled, if_neg (by decide), size]
  omega

theorem packedElem_byteFormat {c : Nat} (format : c ∈ byteFormats) (bs : List Byte) {i : Nat} (inside : i * (elemBits c / 8) + elemBits c / 8 ≤ bs.length) :
    packedElem (elemBits c) bs i = leNat ((bs.drop (i * (elemBits c / 8))).take (elemBits c / 8)) := by
  obtain ⟨-, bits, -⟩ := byteFormat_bits c format
  have element := packedElem_bytes bs inside
  rwa [← bits] at element

theorem element_inside {i n w : Nat} (inside : i < n) : i * w + w ≤ n * w := by
  rw [← Nat.succ_mul]
  exact Nat.mul_le_mul_right _ inside

theorem elemAt_scratchRead {c : Nat} (clean : u.scratchErrors = []) (format : c ∈ byteFormats) (off : Nat) {n i : Nat} (inside : i < n) :
    elemAt c (u.scratchRead k off (n * (elemBits c / 8))) i = some (u.elementAt k off c i) := by
  obtain ⟨unscaled, -, -⟩ := byteFormat_bits c format
  have whole := element_inside (w := elemBits c / 8) inside
  rw [elemAt, unscaled, if_neg (by decide), packedElem_byteFormat format _ (by rw [Chip.length_scratchRead clean]; exact whole), Chip.scratchRead_slice clean _ whole]
  rfl

theorem chunkLen_first {n : Nat} (small : n ≤ 64) : chunkLen n 0 = n := Nat.min_eq_right (by simpa using small)

/-- Operand A of a group in the scratchpad. -/
theorem Chip.veA_plain {r : Running} {n : Nat} (clean : u.scratchErrors = []) (plain : PlainVector r.cmd.packet n) :
    u.veA k false [] r 0 = (u, (List.range n).map (fun i => some (u.elementAt k r.cmd.a.toNat (pkFmtA r.cmd.packet) i))) := by
  obtain ⟨direct, untiled, -, -, format, length, -, small⟩ := plain
  obtain ⟨unscaled, -, -⟩ := byteFormat_bits _ format
  simp only [Chip.veA, untiled, direct, unscaled, length, chunkLen_first small, Bool.false_eq_true, false_and, if_false, Chip.engineRead_clean clean, extent_byteFormat format,
    Nat.mul_zero, Nat.zero_mul, Nat.zero_div, Nat.add_zero]
  exact congrArg (Prod.mk u) (List.map_congr_left fun i hi => elemAt_scratchRead clean format _ (List.mem_range.mp hi))

/-- Operand B of a group, under its mode: what the first beat reads of it. -/
theorem Chip.veB_plain {r : Running} {n : Nat} (clean : u.scratchErrors = []) (first : r.taken = 0) (reads : veReadsB r.cmd.packet = true)
    (kind : veKind (pkOpcode r.cmd.packet) ≠ some .cvt) (length : veN r.cmd.packet = n) (small : n ≤ 64)
    (mode : veBMode r.cmd.packet ≠ 3) :
    ∃ bs, u.veB k false [] (u.beatRecord k r) 0 = (u, bs) ∧ ∀ i, i < n →
      bElem r.cmd.packet bs i = u.elementAt k r.cmd.b.toNat (pkFmtB r.cmd.packet) (if veBMode r.cmd.packet = 2 then 0 else i) := by
  have read (N : Nat) {j : Nat} (inside : j * (elemBits (pkFmtB r.cmd.packet) / 8) + elemBits (pkFmtB r.cmd.packet) / 8 ≤ N) :
      elemValue (pkFmtB r.cmd.packet) (leNat (((u.scratchRead k r.cmd.b.toNat N).drop (j * (elemBits (pkFmtB r.cmd.packet) / 8))).take (elemBits (pkFmtB r.cmd.packet) / 8))) =
        u.elementAt k r.cmd.b.toNat (pkFmtB r.cmd.packet) j := by
    rw [Chip.scratchRead_slice clean _ inside]
    rfl
  by_cases own : veBMode r.cmd.packet = 0
  · refine ⟨u.scratchRead k r.cmd.b.toNat (n * (elemBits (pkFmtB r.cmd.packet) / 8)), ?_, fun i hi => ?_⟩
    · simp only [Chip.veB, Chip.beatRecord, reads, own, length, chunkLen_first small, decide_true, Bool.and_self, if_true, Nat.mul_zero, Nat.zero_mul, Nat.add_zero,
        Chip.engineRead_clean clean]
    · simp only [bElem, own, show ¬ 0 = 2 by omega, if_false]
      exact read _ (element_inside hi)
  · have bytes : u.veB k false [] (u.beatRecord k r) 0 = (u, u.scratchRead k r.cmd.b.toNat
        (if veBMode r.cmd.packet = 1 then 64 * (elemBits (pkFmtB r.cmd.packet) / 8) else elemBits (pkFmtB r.cmd.packet) / 8)) := by
      simp only [Chip.veB, Chip.beatRecord, Chip.readB, first, reads, own, kind, decide_false, Bool.and_false, Bool.false_eq_true, Bool.true_eq_false, if_true, if_false,
        or_self, Chip.engineRead_clean clean]
    refine ⟨_, bytes, fun i hi => read _ ?_⟩
    by_cases one : veBMode r.cmd.packet = 2
    · simp [one]
    · have mode1 : veBMode r.cmd.packet = 1 := by
        have : veBMode r.cmd.packet < 4 := (field r.cmd.packet 37 36).isLt
        omega
      simp only [mode1, show ¬ 1 = 2 by omega, if_false, if_true]
      exact element_inside (by omega)

end

/-! ## Elements written -/

theorem packedElem_lt (w : Nat) (bs : List Byte) (i : Nat) : packedElem w bs i < 2 ^ w := Nat.mod_lt _ (Nat.two_pow_pos w)

/-- The memory after elements were written: each element takes its result, those without one keep theirs. -/
def Memory.Takes (m m' : Memory) (a w : Nat) (xs : List (Option Nat)) : Prop :=
  (∀ x, (x < a ∨ a + xs.length * w ≤ x) → m'.byte x = m.byte x) ∧
    ∀ i (inside : i < xs.length), leNat (m'.bytes (a + i * w) w) = xs[i].getD (leNat (m.bytes (a + i * w) w))

theorem Chip.writeElems_clean {s : Chip} {c : Nat} (clean : s.scratchErrors = []) (format : c ∈ byteFormats) (k : CoreId) (y : Core) (m : Memory) (off : Nat) (xs : List (Option Nat))
    (small : ∀ x ∈ xs, ∀ v ∈ x, v < 2 ^ elemBits c) :
    ∃ m', (s.withCore k y m).writeElems k false [] c off xs = s.withCore k y m' ∧ m.Takes m' (scratchKey k off) (elemBits c / 8) xs := by
  obtain ⟨-, bits, wide⟩ := byteFormat_bits c format
  have cleanu : (s.withCore k y m).scratchErrors = [] := clean
  have size : (xs.length * elemBits c + 7) / 8 = xs.length * (elemBits c / 8) := by
    have := extent_byteFormat format xs.length
    rwa [extent, (byteFormat_bits c format).1, if_neg (by decide)] at this
  by_cases none_ : xs.all Option.isNone = true
  · refine ⟨m, ?_, fun _ _ => rfl, fun i inside => ?_⟩
    · simp only [Chip.writeElems, none_, if_true]
    · have held : xs[i].isNone = true := List.all_eq_true.mp none_ _ (List.getElem_mem inside)
      rw [Option.isNone_iff_eq_none.mp held]
      rfl
  · let old := (s.withCore k y m).scratchRead k off (xs.length * (elemBits c / 8))
    let vs := xs.mapIdx (fun i x => x.getD (packedElem (elemBits c) old i))
    have below : ∀ v ∈ vs, v < 256 ^ (elemBits c / 8) := by
      intro v hv
      obtain ⟨i, hi, rfl⟩ := List.mem_mapIdx.mp hv
      rw [show 256 ^ (elemBits c / 8) = 2 ^ elemBits c by rw [show 256 = 2 ^ 8 by rfl, ← Nat.pow_mul, ← bits]]
      cases held : xs[i] with
      | none => exact packedElem_lt ..
      | some v => exact small _ (List.getElem_mem hi) v held
    have packed : packElems (elemBits c) vs = vs.flatMap (leBytes (elemBits c / 8)) := by
      have := packElems_bytes _ vs below
      rwa [← bits] at this
    have length : (vs.flatMap (leBytes (elemBits c / 8))).length = xs.length * (elemBits c / 8) := by
      rw [length_flatMap_leBytes (elemBits c / 8) (fun v => v) vs, List.length_mapIdx]
    refine ⟨m.putBytes (scratchKey k off) (vs.flatMap (leBytes (elemBits c / 8))), ?_, fun x hx => Memory.byte_putBytes_outside _ _ _ _ (by rwa [length]), fun i inside => ?_⟩
    · simp only [Chip.writeElems, none_, wide, false_and, Bool.false_eq_true, if_false, List.append_nil, size, Chip.engineWrite_clean clean, ← packed]
      rfl
    · have whole := element_inside (w := elemBits c / 8) inside
      rw [← Memory.bytes_slice _ _ (show i * (elemBits c / 8) + elemBits c / 8 ≤ (vs.flatMap (leBytes (elemBits c / 8))).length by rw [length]; exact whole),
        Memory.bytes_putBytes, leNat_flatMap_leBytes (fun v => v) vs below (by rw [List.length_mapIdx]; exact inside), List.getElem_mapIdx]
      rw [packedElem_byteFormat format _ (by rw [Chip.length_scratchRead cleanu]; exact whole), Chip.scratchRead_slice cleanu _ whole, Chip.scratchRead_clean _ _ _ _ cleanu, scratchKey,
        scratchKey, Nat.add_assoc]
      rfl

end Sys2Proof.Machine
end

section
/-! Element by element: arithmetic and function commands of one group (R90, R144, R145, R148), and O14. -/

namespace Sys2Proof.Machine

open Host

section
variable {s : State} {k : CoreId} {op : Nat} {cmd : EngineCmd} {rest : List EngineCmd} {n : Nat}

/-! ## The front command runs -/

/-- The running record of the front command after c beats. -/
def Core.runAt (x : Core) (cmd : EngineCmd) (c : Nat) : Running := { x.runOf .ve cmd with taken := c }

theorem EngineReady.veRuns (ready : EngineReady s k .ve op cmd rest) (direct : pkAgm cmd.packet = false) (untiled : veSrcTq cmd.packet = false)
    (unscaled : veKind op = some .cvt → isScaled (pkFmtA cmd.packet) = false ∧ isScaled (pkFmtD cmd.packet) = false) (c : Nat) :
    VeRuns s.chip (s.chip.core k) ((s.chip.core k).runAt cmd c) := by
  obtain ⟨⟨-, -, -, -, -, job, latched, -, -, -, opcode, unsigned⟩, clean⟩ := ready
  exact ⟨clean, job, latched, ⟨direct, untiled, unsigned, opcode ▸ unscaled⟩, rfl⟩

@[simp] theorem Core.runAt_cmd (x : Core) (cmd : EngineCmd) (c : Nat) : (x.runAt cmd c).cmd = cmd := rfl
@[simp] theorem Core.runAt_taken (x : Core) (cmd : EngineCmd) (c : Nat) : (x.runAt cmd c).taken = c := rfl
@[simp] theorem Core.runAt_len (x : Core) (cmd : EngineCmd) (c : Nat) : (x.runAt cmd c).len = cmdLength cmd.packet := rfl
@[simp] theorem Core.runAt_hazard (x : Core) (cmd : EngineCmd) (c : Nat) : (x.runAt cmd c).hazard = [] := rfl
@[simp] theorem Chip.beatRecord_cmd (u : Chip) (k : CoreId) (r : Running) : (u.beatRecord k r).cmd = r.cmd := rfl
@[simp] theorem Chip.beatRecord_taken (u : Chip) (k : CoreId) (r : Running) : (u.beatRecord k r).taken = r.taken := rfl
@[simp] theorem Chip.beatRecord_len (u : Chip) (k : CoreId) (r : Running) : (u.beatRecord k r).len = r.len := rfl
@[simp] theorem Chip.beatRecord_hazard (u : Chip) (k : CoreId) (r : Running) : (u.beatRecord k r).hazard = r.hazard := rfl

/-- The chip with its front command taken up and c beats taken. -/
def Chip.begun (s : Chip) (k : CoreId) (cmd : EngineCmd) (rest : List EngineCmd) (c : Nat) : Chip :=
  s.withCore k ((s.core k).runs ((s.core k).runAt cmd c) rest) s.scratch

@[simp] theorem Chip.begun_core (s : Chip) (k : CoreId) (cmd : EngineCmd) (rest : List EngineCmd) (c : Nat) :
    (s.begun k cmd rest c).core k = (s.core k).runs ((s.core k).runAt cmd c) rest := s.withCore_core ..

/-- A command whose work is all in its last beat. -/
theorem veWhole_of_last {y : Core} {m : Memory} {r' : Running} {v : Chip} {c : Nat} (ready : EngineReady s k .ve op cmd rest)
    (runs : ∀ c, VeRuns s.chip (s.chip.core k) ((s.chip.core k).runAt cmd c))
    (length : cmdLength cmd.packet = c + 1) (skipped : ∀ j, j < c → chunkDue cmd.packet j = none) (unread : c = 0 ∨ veReadsB cmd.packet = false)
    (work : (s.chip.begun k cmd rest c).veWork k false ((s.chip.begun k cmd rest c).beatRecord k ((s.chip.core k).runAt cmd c)) = (v, r', .going))
    (last : ¬ r'.taken + 1 < r'.len)
    (flush : v.veFlush k false r' = s.chip.withCore k (y.runs ((s.chip.core k).runAt cmd c) rest) m) (unlatched : y.latched = none) :
    s.chip.veWhole k op = s.chip.withCore k (y.rests rest) m := by
  refine Chip.veWhole_waits ready.1 ?_
  rw [length]
  have reach : (s.chip.begun k cmd rest 0).veSteps k (1 + c) = (s.chip.begun k cmd rest c).veSteps k 1 := by
    rcases unread with rfl | unread
    · rfl
    · have skips := (runs 0).skips (k := k) (rest := rest) (m := s.chip.scratch) (Or.inr ⟨unread, rfl⟩) c 1 (fun j _ hj => skipped j (by simpa using hj))
        (by rw [Core.runAt_len, Core.runAt_taken, length]; omega)
      simpa [Chip.begun, Core.runAt] using skips
  rw [Nat.add_comm c 1]
  exact reach.trans ((runs c).ends work last flush unlatched 0)

/-! ## Lane results -/

/-- The element that a lane writes: none where masked, its value rounded to FMT_D elsewhere (R83, R148). -/
def Core.laneResults (x : Core) (p : BitVec 128) (value : Nat → Num) (n : Nat) : List (Option Nat) :=
  (List.range n).map (fun i => if x.masked p i then none else some (narrowTo (pkFmtD p) .nearest (value i) .one).1)

theorem Core.runs_laneResults (x : Core) (r : Running) (rest : List EngineCmd) : (x.runs r rest).laneResults = x.laneResults := rfl

/-- A command whose last beat writes its lanes' results and touches nothing else but the flags. -/
theorem lanes_done {value : Nat → Num} {f : BitVec 8} {c : Nat} {fd : Nat} (ready : EngineReady s k .ve op cmd rest)
    (runs : ∀ c, VeRuns s.chip (s.chip.core k) ((s.chip.core k).runAt cmd c)) (format : pkFmtD cmd.packet = fd) (bytes : fd ∈ byteFormats)
    (length : cmdLength cmd.packet = c + 1) (skipped : ∀ j, j < c → chunkDue cmd.packet j = none) (unread : c = 0 ∨ veReadsB cmd.packet = false)
    (kind : veKind op ≠ some .reduce)
    (work : (s.chip.begun k cmd rest c).veWork k false ((s.chip.begun k cmd rest c).beatRecord k ((s.chip.core k).runAt cmd c)) =
      (((s.chip.begun k cmd rest c).writeElems k false [] fd cmd.d.toNat ((s.chip.core k).laneResults cmd.packet value n)).orFlags k f,
        (s.chip.begun k cmd rest c).beatRecord k ((s.chip.core k).runAt cmd c), .going)) :
    ∃ t, onChip (Chip.veWhole k op) s = .next t ∧ OnlyCoreBytes k cmd.d.toNat (n * (elemBits fd / 8)) s t ∧
      t.chip.core k = { s.chip.core k with ve := ⟨none, rest⟩, flags := (t.chip.core k).flags } ∧
      ∀ i, i < n → laneBits t k cmd.d.toNat fd i = if (s.chip.core k).masked cmd.packet i then laneBits s k cmd.d.toNat fd i else (narrowTo fd .nearest (value i) .one).1 := by
  obtain ⟨⟨-, -, -, -, -, -, latched, -, -, -, opcode, -⟩, clean⟩ := id ready
  subst format
  have results : ((s.chip.core k).laneResults cmd.packet value n).length = n := by simp [Core.laneResults]
  obtain ⟨m, written, outside, lanes⟩ := Chip.writeElems_clean clean bytes k
    ((s.chip.core k).runs ((s.chip.core k).runAt cmd c) rest) s.chip.scratch cmd.d.toNat ((s.chip.core k).laneResults cmd.packet value n) (by
      intro e he v hv
      obtain ⟨i, -, rfl⟩ := List.mem_map.mp he
      split at hv
      · cases hv
      · obtain rfl := Option.some.inj hv
        exact narrowTo_lt _ bytes ..)
  rw [results] at outside
  have whole := veWhole_of_last (y := { s.chip.core k with flags := (s.chip.core k).flags ||| f }) (m := m) ready runs length skipped unread work
    (by simp [length])
    (by
      refine (if_pos (show veKind (pkOpcode cmd.packet) ≠ some .reduce from opcode ▸ kind)).trans ?_
      rw [Chip.begun, written, Chip.orFlags, Chip.withCore_updCore]
      rfl) latched
  refine ⟨_, onChip_next _ _, ?_⟩
  rw [whole]
  refine ⟨OnlyCoreBytes.of_withCore _ outside, ?_, fun i hi => ?_⟩
  · simp only [Chip.withCore_core]
    rfl
  · rw [laneBits_eq, laneBits_eq, Chip.laneAt_clean clean, Chip.withCore_laneAt clean, lanes i (by rw [results]; exact hi)]
    simp only [Core.laneResults, List.getElem_map, List.getElem_range]
    split <;> rfl

end

/-! ## Arithmetic and functions (R90, R145) -/

section
variable {u : Chip} {k : CoreId} {r : Running} {n : Nat}

/-- The value of lane i before it is rounded to FMT_D, from a B operand that was read. -/
def Chip.laneExact (u : Chip) (k : CoreId) (r : Running) (bs : List Byte) (i : Nat) : Num :=
  let p := r.cmd.packet
  if veKind (pkOpcode p) = some .func then f32 (veFunc (pkOpcode p) (u.elementAt k r.cmd.a.toNat (pkFmtA p) i))
  else veExact (pkOpcode p) (u.elementAt k r.cmd.a.toNat (pkFmtA p) i) (bElem p bs i) (if pkOpcode p = 4 then u.elementAt k r.cmd.d.toNat (pkFmtD p) i else .zero)

theorem Chip.veArith_plain {value : Nat → Num} {bs : List Byte} (clean : u.scratchErrors = []) (hazard : (u.core k).veHazard r = []) (plain : PlainVector r.cmd.packet n)
    (b : u.veB k false [] r 0 = (u, bs)) (exact_ : ∀ i, i < n → u.laneExact k r bs i = value i) :
    ∃ f, u.veArith k false [] r 0 = (u.writeElems k false [] (pkFmtD r.cmd.packet) r.cmd.d.toNat ((u.core k).laneResults r.cmd.packet value n)).orFlags k f := by
  obtain ⟨-, -, -, -, -, length, -, small⟩ := id plain
  have old : (if pkOpcode r.cmd.packet = 4 then u.engineRead k false [] r.cmd.d.toNat (n * (elemBits (pkFmtD r.cmd.packet) / 8)) else (u, [])) =
      (u, if pkOpcode r.cmd.packet = 4 then u.scratchRead k r.cmd.d.toNat (n * (elemBits (pkFmtD r.cmd.packet) / 8)) else []) := by
    split
    · exact Chip.engineRead_clean clean ..
    · rfl
  simp only [Chip.veArith, Chip.veA_plain clean plain, b, length, chunkLen_first small, Nat.mul_zero, Nat.zero_mul, Nat.add_zero, Nat.zero_add, old, hazard]
  refine ⟨_, congrArg (fun xs => Chip.orFlags (u.writeElems k false [] (pkFmtD r.cmd.packet) r.cmd.d.toNat xs) k _) (List.ext_getElem (by simp [Core.laneResults]) fun i hi _ => ?_)⟩
  have inside : i < n := by simpa using hi
  simp only [List.getElem_map, List.getElem_mapIdx, List.getElem_range, Core.laneResults, Option.getD_some, ← exact_ i inside]
  split
  · rfl
  · by_cases func : veKind (pkOpcode r.cmd.packet) = some .func
    · simp only [func, if_true, Chip.laneExact]
    · simp only [func, if_false, Chip.laneExact]
      by_cases four : pkOpcode r.cmd.packet = 4
      · simp only [four, if_true]
        rw [Chip.scratchRead_slice clean _ (element_inside inside)]
        rfl
      · simp only [four, if_false]

theorem Chip.veWork_arith (jobless : (u.core k).job = none) (kind : veKind (pkOpcode r.cmd.packet) = some .arith2 ∨ veKind (pkOpcode r.cmd.packet) = some .func)
    (due : chunkDue r.cmd.packet r.taken = some 0) : u.veWork k false r = (u.veArith k false [] r 0, r, .going) := by
  have busy : (u.core k).deWrites ++ (u.core k).writtenBefore r.cmd 0 = [] := by rw [Core.deWrites, jobless, Core.writtenBefore_zero]; rfl
  rcases kind with kind | kind <;> simp only [Chip.veWork, kind, due, busy]

end

/-! ## Length and due beats of one group -/

section
variable {p : BitVec 128} {n : Nat}

theorem veCost_cases (op : Nat) : veCost op = 1 ∨ veCost op = 2 ∨ veCost op = 4 := by
  rw [veCost]
  split_ifs <;> simp

theorem groups_one (plain : PlainVector p n) : (veN p + 63) / 64 = 1 := by
  obtain ⟨-, -, -, -, -, length, some_, small⟩ := plain
  omega

theorem chunkDue_last (plain : PlainVector p n) : chunkDue p (veCost (pkOpcode p) - 1) = some 0 := by
  have one := groups_one plain
  rcases veCost_cases (pkOpcode p) with cost | cost | cost <;> simp [chunkDue, plain.1, one, cost]

theorem chunkDue_before (plain : PlainVector p n) {j : Nat} (before : j < veCost (pkOpcode p) - 1) : chunkDue p j = none := by
  rcases veCost_cases (pkOpcode p) with cost | cost | cost <;> rw [cost] at before <;> simp only [chunkDue, plain.1, cost] <;> rw [if_pos (by simp; omega)]

theorem cmdLength_arith (engine : pkEngine p = .ve) (plain : PlainVector p n) (kind : veKind (pkOpcode p) = some .arith2) : cmdLength p = 1 := by
  simp [cmdLength, engine, kind, plain.1, groups_one plain]

theorem cmdLength_func (engine : pkEngine p = .ve) (plain : PlainVector p n) (kind : veKind (pkOpcode p) = some .func) : cmdLength p = veCost (pkOpcode p) - 1 + 1 := by
  have some_ : 0 < veCost (pkOpcode p) := by rcases veCost_cases (pkOpcode p) with cost | cost | cost <;> omega
  simp [cmdLength, engine, kind, plain.1, groups_one plain, Nat.sub_add_cancel some_]

end

/-! ## The commands -/

theorem veArithmetic_means (k : CoreId) : ∀ e ∈ veArithmetic k, veKind e.2.1 = some .arith2 ∧ veCost e.2.1 = 1 ∧ (∀ s, exec e.1 s = onChip (Chip.veWhole k e.2.1) s) ∧
    ∀ a b d, veExact e.2.1 a b (if e.2.1 = 4 then d else .zero) = e.2.2 a b d := by
  simp only [veArithmetic, List.forall_mem_cons, List.not_mem_nil, false_implies, implies_true, and_true]
  refine ⟨?_, ?_, ?_, ?_, ?_, ?_⟩ <;> exact ⟨rfl, rfl, fun _ => rfl, fun _ _ _ => rfl⟩

theorem veFunctions_means (k : CoreId) : ∀ e ∈ veFunctions k, veKind e.2.1 = some .func ∧ (∀ s, exec e.1 s = onChip (Chip.veWhole k e.2.1) s) ∧
    ∀ x, veFunc e.2.1 x = e.2.2 (toF32 x) := by
  simp only [veFunctions, List.forall_mem_cons, List.not_mem_nil, false_implies, implies_true, and_true]
  refine ⟨?_, ?_, ?_, ?_, ?_, ?_⟩ <;> exact ⟨rfl, fun _ => rfl, fun _ => rfl⟩

theorem narrowFormat {c : Nat} (small : c ≤ 2) : c ∈ byteFormats := by
  interval_cases c <;> decide

section
variable {s : State} {k : CoreId} {op : Nat} {cmd : EngineCmd} {rest : List EngineCmd} {n : Nat}

/-- An element-wise command on one group: every lane takes the value that its operands give. -/
theorem elementwise_done {value : Nat → Num} {bs : List Byte} {c : Nat} (ready : EngineReady s k .ve op cmd rest) (plain : PlainVector cmd.packet n)
    (kind : veKind op = some .arith2 ∨ veKind op = some .func) (format : pkFmtD cmd.packet ≤ 2) (cost : c = veCost op - 1) (length : cmdLength cmd.packet = c + 1)
    (unread : c = 0 ∨ veReadsB cmd.packet = false)
    (b : (s.chip.begun k cmd rest c).veB k false [] ((s.chip.begun k cmd rest c).beatRecord k ((s.chip.core k).runAt cmd c)) 0 = (s.chip.begun k cmd rest c, bs))
    (exact_ : ∀ i, i < n → (s.chip.begun k cmd rest c).laneExact k ((s.chip.begun k cmd rest c).beatRecord k ((s.chip.core k).runAt cmd c)) bs i = value i) :
    ∃ t, onChip (Chip.veWhole k op) s = .next t ∧ OnlyCoreBytes k cmd.d.toNat (n * (elemBits (pkFmtD cmd.packet) / 8)) s t ∧
      t.chip.core k = { s.chip.core k with ve := ⟨none, rest⟩, flags := (t.chip.core k).flags } ∧
      ∀ i, i < n → laneBits t k cmd.d.toNat (pkFmtD cmd.packet) i =
        if (s.chip.core k).masked cmd.packet i then laneBits s k cmd.d.toNat (pkFmtD cmd.packet) i else (narrowTo (pkFmtD cmd.packet) .nearest (value i) .one).1 := by
  obtain ⟨⟨-, -, -, -, -, job, -, -, -, -, opcode, -⟩, clean⟩ := id ready
  have jobless : ((s.chip.begun k cmd rest c).core k).job = none := by rw [Chip.begun_core]; exact job
  have hazard : ((s.chip.begun k cmd rest c).core k).veHazard ((s.chip.begun k cmd rest c).beatRecord k ((s.chip.core k).runAt cmd c)) = [] := by
    rw [Core.veHazard, Core.deTouches, jobless, Chip.beatRecord_hazard, Core.runAt_hazard]
    rfl
  obtain ⟨f, work⟩ := Chip.veArith_plain (u := s.chip.begun k cmd rest c) clean hazard plain b exact_
  have due : chunkDue cmd.packet c = some 0 := by
    rw [cost, ← opcode]
    exact chunkDue_last plain
  simp only [Chip.begun_core, Core.runs_laneResults, Chip.beatRecord_cmd, Core.runAt_cmd] at work
  refine lanes_done (f := f) ready (ready.veRuns plain.1 plain.2.1 (by rcases kind with kind | kind <;> simp [kind])) rfl (narrowFormat format) length
    (fun j hj => chunkDue_before plain (by rw [opcode, ← cost]; exact hj)) unread (by rcases kind with kind | kind <;> simp [kind]) ?_
  have kinds : veKind (pkOpcode cmd.packet) = some .arith2 ∨ veKind (pkOpcode cmd.packet) = some .func := by rw [opcode]; exact kind
  have step := Chip.veWork_arith (r := (s.chip.begun k cmd rest c).beatRecord k ((s.chip.core k).runAt cmd c)) jobless kinds due
  rw [step, work]

theorem arithmetic_done {f : Num → Num → Num → Num} (ready : EngineReady s k .ve op cmd rest) (plain : PlainVector cmd.packet n) (kind : veKind op = some .arith2) (cost : veCost op = 1)
    (format : pkFmtD cmd.packet ≤ 2) (mode : veBMode cmd.packet ≠ 3) (means : ∀ a b d, veExact op a b (if op = 4 then d else .zero) = f a b d) :
    ∃ t, onChip (Chip.veWhole k op) s = .next t ∧ OnlyCoreBytes k cmd.d.toNat (n * (elemBits (pkFmtD cmd.packet) / 8)) s t ∧
      t.chip.core k = { s.chip.core k with ve := ⟨none, rest⟩, flags := (t.chip.core k).flags } ∧
      ∀ i, i < n → laneBits t k cmd.d.toNat (pkFmtD cmd.packet) i =
        if (s.chip.core k).masked cmd.packet i then laneBits s k cmd.d.toNat (pkFmtD cmd.packet) i else (narrowTo (pkFmtD cmd.packet) .nearest (f
          (laneValue s k cmd.a.toNat (pkFmtA cmd.packet) i) (laneValue s k cmd.b.toNat (pkFmtB cmd.packet) (if veBMode cmd.packet = 2 then 0 else i))
          (laneValue s k cmd.d.toNat (pkFmtD cmd.packet) i)) .one).1 := by
  obtain ⟨⟨-, -, -, -, -, -, -, -, -, engine, opcode, -⟩, clean⟩ := id ready
  obtain ⟨-, -, -, -, -, length, -, small⟩ := id plain
  subst opcode
  obtain ⟨bs, read, lanes⟩ := Chip.veB_plain (u := s.chip.begun k cmd rest 0) (r := (s.chip.core k).runAt cmd 0) (k := k) clean rfl (by rw [veReadsB, Core.runAt_cmd, kind])
    (by rw [Core.runAt_cmd, kind]; decide) length small mode
  refine elementwise_done (c := 0) ready plain (.inl kind) format (by rw [cost]) (cmdLength_arith engine plain kind) (.inl rfl) read fun i hi => ?_
  rw [Chip.laneExact, Chip.beatRecord_cmd, Core.runAt_cmd, if_neg (by rw [kind]; decide), ← means]
  rw [Core.runAt_cmd] at lanes
  rw [lanes i hi]
  rfl

theorem function_done {f : Word32 → Word32} (ready : EngineReady s k .ve op cmd rest) (plain : PlainVector cmd.packet n) (kind : veKind op = some .func)
    (format : pkFmtD cmd.packet ≤ 2) (means : ∀ x, veFunc op x = f (toF32 x)) :
    ∃ t, onChip (Chip.veWhole k op) s = .next t ∧ OnlyCoreBytes k cmd.d.toNat (n * (elemBits (pkFmtD cmd.packet) / 8)) s t ∧
      t.chip.core k = { s.chip.core k with ve := ⟨none, rest⟩, flags := (t.chip.core k).flags } ∧
      ∀ i, i < n → laneBits t k cmd.d.toNat (pkFmtD cmd.packet) i =
        if (s.chip.core k).masked cmd.packet i then laneBits s k cmd.d.toNat (pkFmtD cmd.packet) i else (narrowTo (pkFmtD cmd.packet) .nearest
          (f32 (f (toF32 (laneValue s k cmd.a.toNat (pkFmtA cmd.packet) i)))) .one).1 := by
  obtain ⟨⟨-, -, -, -, -, -, -, -, -, engine, opcode, -⟩, clean⟩ := id ready
  subst opcode
  have unread : veReadsB cmd.packet = false := by rw [veReadsB, kind]
  refine elementwise_done ready plain (.inr kind) format rfl (cmdLength_func engine plain kind) (.inr unread) (bs := ((s.chip.begun k cmd rest (veCost (pkOpcode cmd.packet) - 1)).beatRecord k ((s.chip.core k).runAt cmd (veCost (pkOpcode cmd.packet) - 1))).b) ?_ fun i hi => ?_
  · simp only [Chip.veB, Chip.beatRecord_cmd, Core.runAt_cmd, unread, Bool.false_and, Bool.false_eq_true, if_false]
  · rw [Chip.laneExact, Chip.beatRecord_cmd, Core.runAt_cmd, if_pos kind, means]
    rfl

end

/-- Settles O14: the group's one working beat computes each lane from the scratchpad as it was, and the elements it packs read back. -/
theorem vectorLanesComputeTheirElements : Obligations.VectorLanesComputeTheirElements := by
  unfold Obligations.VectorLanesComputeTheirElements
  intro s k cmd rest n x p a d fd done
  refine ⟨fun e member ready plain formatB format mode => ?_, fun e member ready plain format => ?_⟩
  · obtain ⟨kind, cost, runs, means⟩ := veArithmetic_means k e member
    obtain ⟨t, run, done⟩ := arithmetic_done ready plain kind cost format mode means
    exact ⟨t, (runs s).trans run, done⟩
  · obtain ⟨kind, runs, means⟩ := veFunctions_means k e member
    obtain ⟨t, run, done⟩ := function_done ready plain kind format means
    exact ⟨t, (runs s).trans run, done⟩

end Sys2Proof.Machine
end

section
/-! Conversions, reductions, masks, the seed and the flags word (R145 to R149, R152, R153), and O15. -/

namespace Sys2Proof.Machine

open Host

section
variable {s : State} {k : CoreId} {op : Nat} {cmd : EngineCmd} {rest : List EngineCmd} {n : Nat}

/-! ## Beats of commands whose groups take one beat -/

theorem veN_pos (p : BitVec 128) : 1 ≤ veN p := by
  rw [veN]
  split_ifs <;> omega

theorem chunkDue_first {p : BitVec 128} (direct : pkAgm p = false) (cost : veCost (pkOpcode p) = 1) : chunkDue p 0 = some 0 := by
  have := veN_pos p
  simp only [chunkDue, direct, cost, Bool.false_eq_true, false_and, if_false, Nat.mod_one, Nat.zero_div, false_or, ne_eq, not_true_eq_false, Nat.sub_zero]
  rw [if_neg (by omega)]

theorem chunkDue_past {p : BitVec 128} (plain : PlainVector p n) (cost : veCost (pkOpcode p) = 1) {j : Nat} (past : 1 ≤ j) : chunkDue p j = none := by
  have one := groups_one plain
  simp only [chunkDue, plain.1, cost, one, Bool.false_eq_true, false_and, if_false, Nat.sub_zero, Nat.div_one]
  rw [if_pos (Or.inr (Or.inr past))]

/-! ## vcvt (R145, R148) -/

theorem Chip.veCvt_plain {u : Chip} {r : Running} (clean : u.scratchErrors = []) (own : u.updCore k id = u) (hazard : (u.core k).veHazard r = [])
    (plain : PlainVector r.cmd.packet n) (format : pkFmtD r.cmd.packet ∈ byteFormats) :
    ∃ f, u.veCvt k false [] r 0 = ((u.writeElems k false [] (pkFmtD r.cmd.packet) r.cmd.d.toNat
      ((u.core k).laneResults r.cmd.packet (fun i => u.elementAt k r.cmd.a.toNat (pkFmtA r.cmd.packet) i) n)).orFlags k f, .going) := by
  obtain ⟨-, -, -, sr, formatA, -, -, -⟩ := id plain
  obtain ⟨unscaledA, -, -⟩ := byteFormat_bits _ formatA
  obtain ⟨unscaledD, -, -⟩ := byteFormat_bits _ format
  have element (i : Nat) (inside : i < n) : ((List.range n).map (fun i => some (u.elementAt k r.cmd.a.toNat (pkFmtA r.cmd.packet) i))).getD i none =
      some (u.elementAt k r.cmd.a.toNat (pkFmtA r.cmd.packet) i) := by simp [inside]
  have sound : (List.range n).any (fun i => (((List.range n).map (fun i => some (u.elementAt k r.cmd.a.toNat (pkFmtA r.cmd.packet) i))).getD i none).isNone &&
      !(u.core k).masked r.cmd.packet i) = false := by
    simp only [List.any_eq_false, List.mem_range]
    intro i inside
    rw [element i inside]
    simp
  have seed : u.updCore k (fun y => { y with lfsr := (u.core k).lfsr }) = u := own
  simp only [Chip.veCvt, Chip.veA_plain clean plain, sr, unscaledA, unscaledD, Bool.false_eq_true, if_false, seed, List.length_map, List.length_range, Nat.mul_zero, Nat.zero_mul,
    Nat.zero_div, Nat.add_zero, Nat.zero_add, sound, hazard]
  refine ⟨_, congrArg (fun xs => (Chip.orFlags (u.writeElems k false [] (pkFmtD r.cmd.packet) r.cmd.d.toNat xs) k _, StepEnd.going)) ?_⟩
  rw [List.map_map]
  refine List.map_congr_left fun i hi => ?_
  simp only [Function.comp_apply, element i (List.mem_range.mp hi), cvtInput, unscaledA, Bool.false_eq_true, if_false, roundingOf, sr]
  by_cases masked : (u.core k).masked r.cmd.packet i = true <;> simp only [masked, if_true, if_false, Bool.false_eq_true]

theorem conversion_done (ready : EngineReady s k .ve 0x10 cmd rest) (plain : PlainVector cmd.packet n) (format : pkFmtD cmd.packet ∈ byteFormats) :
    ∃ t, onChip (Chip.veWhole k 0x10) s = .next t ∧ OnlyCoreBytes k cmd.d.toNat (n * (elemBits (pkFmtD cmd.packet) / 8)) s t ∧
      t.chip.core k = { s.chip.core k with ve := ⟨none, rest⟩, flags := (t.chip.core k).flags } ∧
      ∀ i, i < n → laneBits t k cmd.d.toNat (pkFmtD cmd.packet) i = if (s.chip.core k).masked cmd.packet i then laneBits s k cmd.d.toNat (pkFmtD cmd.packet) i
        else (narrowTo (pkFmtD cmd.packet) .nearest (laneValue s k cmd.a.toNat (pkFmtA cmd.packet) i) .one).1 := by
  obtain ⟨⟨-, -, -, -, -, job, -, -, -, engine, opcode, -⟩, clean⟩ := id ready
  obtain ⟨direct, untiled, -, -, formatA, -, -, -⟩ := id plain
  obtain ⟨unscaledA, -, -⟩ := byteFormat_bits _ formatA
  obtain ⟨unscaledD, -, -⟩ := byteFormat_bits _ format
  have kind : veKind (pkOpcode cmd.packet) = some .cvt := by rw [opcode]; rfl
  have cost : veCost (pkOpcode cmd.packet) = 1 := by rw [opcode]; rfl
  have jobless : ((s.chip.begun k cmd rest 0).core k).job = none := by rw [Chip.begun_core]; exact job
  have busy : ((s.chip.begun k cmd rest 0).core k).deWrites ++ ((s.chip.begun k cmd rest 0).core k).writtenBefore cmd 0 = [] := by
    rw [Core.deWrites, jobless, Core.writtenBefore_zero]; rfl
  have hazard : ((s.chip.begun k cmd rest 0).core k).veHazard ((s.chip.begun k cmd rest 0).beatRecord k ((s.chip.core k).runAt cmd 0)) = [] := by
    rw [Core.veHazard, Core.deTouches, jobless, Chip.beatRecord_hazard, Core.runAt_hazard]
    rfl
  obtain ⟨f, work⟩ := Chip.veCvt_plain (u := s.chip.begun k cmd rest 0) clean (s.chip.withCore_updCore k _ _ id) hazard plain format
  simp only [Chip.begun_core, Core.runs_laneResults, Chip.beatRecord_cmd, Core.runAt_cmd] at work
  refine lanes_done (f := f) (c := 0) ready (ready.veRuns direct untiled fun _ => ⟨unscaledA, unscaledD⟩) rfl format
    (by simp [cmdLength, engine, kind, direct, unscaledD, groups_one plain]) (fun j hj => absurd hj (Nat.not_lt_zero j)) (.inl rfl) (by decide) ?_
  simp only [Chip.veWork, Chip.beatRecord_cmd, Chip.beatRecord_taken, Core.runAt_cmd, Core.runAt_taken, kind, chunkDue_first direct cost, busy, work]
  rfl

/-! ## The pairwise tree of a reduction (R149) -/

/-- A node of a reduction's tree. -/
def redWord (isMax : Bool) (a b : Word32) : Word32 := BitVec.ofNat 32 (fp32.narrow .nearest (if isMax then Num.max (f32 a) (f32 b) else Num.add (f32 a) (f32 b)) .one).1

theorem redNode_fst (isMax : Bool) (a b : Word32 × BitVec 8) : (redNode isMax a b).1 = redWord isMax a.1 b.1 := rfl

theorem groupTree_root (isMax : Bool) (g : Nat) (x : Nat → Word32) (i : Nat) :
    groupTree isMax (g + 1) x i = redWord isMax (groupTree isMax g x (2 * i)) (groupTree isMax g x (2 * i + 1)) := rfl

/-- A tree of depth g + 1 is a tree of depth g over its lowest nodes. -/
theorem groupTree_succ (isMax : Bool) (g : Nat) (x : Nat → Word32) (i : Nat) :
    groupTree isMax (g + 1) x i = groupTree isMax g (fun j => redWord isMax (x (2 * j)) (x (2 * j + 1))) i := by
  induction g generalizing i with
  | zero => rfl
  | succ g ih => rw [groupTree_root, ih, ih, groupTree_root]

/-- A tree reads its own 2^g words alone. -/
theorem groupTree_congr (isMax : Bool) (g : Nat) {x y : Nat → Word32} {i j : Nat} (same : ∀ m, m < 2 ^ g → x (2 ^ g * i + m) = y (2 ^ g * j + m)) :
    groupTree isMax g x i = groupTree isMax g y j := by
  induction g generalizing x y with
  | zero => simpa [groupTree] using same 0 (by norm_num)
  | succ g ih =>
    rw [groupTree_succ, groupTree_succ]
    refine ih fun m small => ?_
    have even (n : Nat) : 2 * (2 ^ g * n + m) = 2 ^ (g + 1) * n + 2 * m := by ring
    rw [even, even, Nat.add_assoc, Nat.add_assoc, same _ (by rw [Nat.pow_succ]; omega), same _ (by rw [Nat.pow_succ]; omega)]

section
variable (f : Word32 × BitVec 8 → Word32 × BitVec 8 → Word32 × BitVec 8)

theorem length_pair : ∀ (n : Nat) {l : List (Word32 × BitVec 8)}, l.length = 2 * n → (treeFold.pair f l).length = n
  | 0, l, none_ => by rw [List.eq_nil_of_length_eq_zero none_]; rfl
  | n + 1, a :: b :: t, h => by simp [treeFold.pair, length_pair n (l := t) (by simp at h; omega)]

theorem getD_pair (d : Word32 × BitVec 8) : ∀ (i : Nat) {l : List (Word32 × BitVec 8)}, 2 * i + 1 < l.length →
    (treeFold.pair f l).getD i d = f (l.getD (2 * i) d) (l.getD (2 * i + 1) d)
  | 0, a :: b :: t, _ => rfl
  | i + 1, a :: b :: t, h => by
    rw [treeFold.pair, List.getD_cons_succ, getD_pair d i (by simp at h; omega)]
    simp [Nat.mul_succ]

theorem treeFold_singleton (d : Nat) (a : Word32 × BitVec 8) : treeFold f d [a] = [a] := by
  induction d with
  | zero => rfl
  | succ d ih => exact ih

end

/-- Enough levels of pairs leave the root of a group's tree. -/
theorem treeFold_root (isMax : Bool) (g : Nat) {d : Nat} {l : List (Word32 × BitVec 8)} (length : l.length = 2 ^ g) (levels : g ≤ d) :
    ((treeFold (redNode isMax) d l).headD (0, 0)).1 = groupTree isMax g (fun i => (l.getD i (0, 0)).1) 0 := by
  induction g generalizing d l with
  | zero =>
    obtain ⟨a, rfl⟩ := List.length_eq_one_iff.mp length
    rw [treeFold_singleton]
    rfl
  | succ g ih =>
    obtain ⟨d, rfl⟩ := Nat.exists_eq_add_of_le' levels
    rw [Nat.pow_succ, Nat.mul_comm] at length
    rw [← Nat.add_assoc, treeFold, ih (length_pair _ _ length) (by omega), groupTree_succ]
    refine groupTree_congr isMax g fun m small => ?_
    simp only [Nat.mul_zero, Nat.zero_add]
    rw [getD_pair _ _ _ (by omega), redNode_fst]

/-! ## vredsum and vredmax (R148, R149) -/

/-- A leaf of a reduction: the element as FP32, or where masked the value that leaves the result as it is (R148, R149). -/
def Chip.leafAt (u : Chip) (k : CoreId) (cmd : EngineCmd) (isMax : Bool) (i : Nat) : Word32 :=
  if (u.core k).masked cmd.packet i then (if isMax then 0xFF800000 else 0)
  else BitVec.ofNat 32 (fp32.narrow .nearest (u.elementAt k cmd.a.toNat (pkFmtA cmd.packet) i) .one).1

/-- The results of the groups of a chunk. -/
def Chip.groupWords (u : Chip) (k : CoreId) (cmd : EngineCmd) (n : Nat) : List Word32 :=
  (List.range (n / 2 ^ veGLog2 cmd.packet)).map (groupTree (decide (pkOpcode cmd.packet = 0x12)) (veGLog2 cmd.packet) (u.leafAt k cmd (decide (pkOpcode cmd.packet = 0x12))))

theorem Chip.veReduce_plain {u : Chip} {r : Running} (clean : u.scratchErrors = []) (plain : PlainVector r.cmd.packet n) (levels : veGLog2 r.cmd.packet ≤ 6) :
    ∃ f, u.veReduce k false [] r 0 = (u.orFlags k f, u.groupWords k r.cmd n) := by
  have size : Nat.min 64 (2 ^ veGLog2 r.cmd.packet) = 2 ^ veGLog2 r.cmd.packet :=
    Nat.min_eq_right (show 2 ^ veGLog2 r.cmd.packet ≤ 2 ^ 6 from Nat.pow_le_pow_right (by omega) levels)
  simp only [Chip.veReduce, Chip.veA_plain clean plain, size, List.length_map, List.length_range, Nat.mul_zero, Nat.zero_add]
  refine ⟨_, congrArg (Prod.mk _) ?_⟩
  rw [List.map_map]
  refine List.map_congr_left fun j hj => ?_
  rw [Function.comp_apply, treeFold_root _ _ (by rw [List.length_map, List.length_range]) levels]
  refine groupTree_congr _ _ fun m small => ?_
  have inside : 2 ^ veGLog2 r.cmd.packet * j + m < n := by
    have whole : 2 ^ veGLog2 r.cmd.packet * (j + 1) ≤ n := le_trans (Nat.mul_le_mul_left _ (List.mem_range.mp hj)) (Nat.mul_div_le n _)
    rw [Nat.mul_succ] at whole
    omega
  simp only [Nat.mul_zero, Nat.zero_add, List.getD_eq_getElem?_getD, List.getElem?_map, List.getElem?_range small, Option.map_some, Option.getD_some, Chip.leafAt,
    Nat.mul_comm j, List.getElem?_range inside]
  split <;> rfl

theorem reduceResults_groups {p : BitVec 128} (levels : veGLog2 p ≤ 6) (part : List Word32) : reduceResults p part = part.map (fun w => (w, 0)) := by
  have size : 2 ^ veGLog2 p ≤ 2 ^ 6 := Nat.pow_le_pow_right (by omega) levels
  exact if_pos (by omega)

theorem Chip.veFlush_groups {u : Chip} {y : Core} {m : Memory} {r : Running} (clean : u.scratchErrors = []) (kind : veKind (pkOpcode r.cmd.packet) = some .reduce)
    (levels : veGLog2 r.cmd.packet ≤ 6) (hazard : y.veHazard r = []) :
    ∃ f, (u.withCore k y m).veFlush k false r =
      u.withCore k { y with flags := f } (m.putBytes (scratchKey k r.cmd.d.toNat) (r.part.flatMap (fun w => leBytes 4 w.toNat))) := by
  refine ⟨y.flags ||| (r.part.map (fun w => (w, (0 : BitVec 8)))).foldl (fun f e => f ||| e.2) 0, ?_⟩
  rw [Chip.veFlush, if_neg (not_not.mpr kind), reduceResults_groups levels, Chip.withCore_core, hazard]
  simp only [Chip.engineWrite_clean clean, Chip.orFlags, Chip.withCore_updCore, List.flatMap_map]

theorem Chip.begun_groupWords (s : Chip) (k : CoreId) (cmd : EngineCmd) (rest : List EngineCmd) (c n : Nat) :
    (s.begun k cmd rest c).groupWords k cmd n = s.groupWords k cmd n := by
  have leaves (isMax : Bool) : (s.begun k cmd rest c).leafAt k cmd isMax = s.leafAt k cmd isMax := by
    funext i
    rw [Chip.leafAt, Chip.begun_core]
    rfl
  rw [Chip.groupWords, leaves]
  rfl

theorem veCost_reduce {op : Nat} (kind : veKind op = some .reduce) : veCost op = 1 := by
  revert kind
  rw [veKind]
  split_ifs with _ _ _ reduce <;> simp only [Option.some.injEq, reduceCtorEq, false_implies]
  intro _
  rcases reduce with h | h <;> rw [h] <;> rfl

/-- A reduction runs its group, waits, and writes the words of its groups. -/
theorem reduction_whole (ready : EngineReady s k .ve op cmd rest) (plain : PlainVector cmd.packet n) (kind : veKind op = some .reduce) (levels : veGLog2 cmd.packet ≤ 6) :
    ∃ f, s.chip.veWhole k op = s.chip.withCore k ({ s.chip.core k with flags := f }.rests rest)
      (s.chip.scratch.putBytes (scratchKey k cmd.d.toNat) ((s.chip.groupWords k cmd n).flatMap (fun w => leBytes 4 w.toNat))) := by
  obtain ⟨⟨-, -, -, -, -, job, latched, -, -, engine, opcode, unsigned⟩, clean⟩ := id ready
  subst opcode
  obtain ⟨direct, untiled, -⟩ := id plain
  have cost := veCost_reduce kind
  have length : cmdLength cmd.packet = 7 := by simp [cmdLength, engine, kind, direct, groups_one plain]
  have runs := ready.veRuns direct untiled (by simp [kind]) 0
  have jobless : ((s.chip.begun k cmd rest 0).core k).job = none := by rw [Chip.begun_core]; exact job
  have busy : ((s.chip.begun k cmd rest 0).core k).deWrites ++ ((s.chip.begun k cmd rest 0).core k).writtenBefore cmd 0 = [] := by
    rw [Core.deWrites, jobless, Core.writtenBefore_zero]; rfl
  have record : (s.chip.begun k cmd rest 0).beatRecord k ((s.chip.core k).runAt cmd 0) = (s.chip.core k).runAt cmd 0 :=
    Chip.beatRecord_unread (.inr ⟨by rw [Core.runAt_cmd, veReadsB, kind], rfl⟩)
  obtain ⟨f, sums⟩ := Chip.veReduce_plain (k := k) (u := s.chip.begun k cmd rest 0) (r := (s.chip.core k).runAt cmd 0) clean plain levels
  rw [Core.runAt_cmd, Chip.begun_groupWords] at sums
  have work : (s.chip.begun k cmd rest 0).veWork k false ((s.chip.begun k cmd rest 0).beatRecord k ((s.chip.core k).runAt cmd 0)) =
      ((s.chip.begun k cmd rest 0).orFlags k f, { (s.chip.core k).runAt cmd 0 with part := s.chip.groupWords k cmd n }, .going) := by
    simp only [record, Chip.veWork, Core.runAt_cmd, Core.runAt_taken, kind, chunkDue_first direct cost, busy, sums]
    rfl
  let y : Core := { s.chip.core k with flags := (s.chip.core k).flags ||| f }
  let r1 : Running := { (s.chip.core k).runAt cmd 1 with part := s.chip.groupWords k cmd n }
  have first : (s.chip.begun k cmd rest 0).veBeat k false = (s.chip.withCore k (y.runs r1 rest) s.chip.scratch, []) := by
    refine (runs.works.veBeat_goes (congrArg (fun x : Core => x.ve.running) (Chip.begun_core ..)) runs.plain rfl work (by simp [length])).trans ?_
    rw [Chip.begun, Chip.orFlags, Chip.withCore_updCore, Chip.withCore_updCore]
    rfl
  have later : VeRuns s.chip y r1 := ⟨clean, job, latched, runs.plain, rfl⟩
  have last : VeRuns s.chip y { r1 with taken := 6 } := ⟨clean, job, latched, runs.plain, rfl⟩
  obtain ⟨f', flush⟩ := Chip.veFlush_groups (k := k) (u := s.chip) (y := y.runs { r1 with taken := 6 } rest) (m := s.chip.scratch) (r := { r1 with taken := 6 }) clean kind levels
    (by rw [Core.veHazard, Core.deTouches, show (y.runs { r1 with taken := 6 } rest).job = none from job]; rfl)
  refine ⟨f', Chip.veWhole_waits ready.1 ?_⟩
  rw [length]
  calc
    (s.chip.begun k cmd rest 0).veSteps k 7 = (s.chip.withCore k (y.runs r1 rest) s.chip.scratch).veSteps k 6 :=
      Chip.veSteps_goes (congrArg (fun x : Core => x.ve.running) (Chip.begun_core ..)) first 6
    _ = (s.chip.withCore k (y.runs { r1 with taken := 6 } rest) s.chip.scratch).veSteps k 1 :=
      later.skips (.inl Nat.one_pos) 5 1 (fun j some_ _ => chunkDue_past plain cost some_) (show 1 + 5 < cmdLength cmd.packet by omega)
    _ = _ := last.ends (y := { s.chip.core k with flags := f' }) (Chip.veWork_skips (chunkDue_past plain cost (show 1 ≤ 6 by decide)) (.inl (show 0 < 6 by decide))) (show ¬ 6 + 1 < cmdLength cmd.packet by omega) flush latched 0

theorem reduction_done (isMax : Bool) (ready : EngineReady s k .ve (if isMax then 0x12 else 0x11) cmd rest) (plain : PlainVector cmd.packet n) (levels : veGLog2 cmd.packet ≤ 6) :
    ∃ t, onChip (Chip.veWhole k (if isMax then 0x12 else 0x11)) s = .next t ∧ OnlyCoreBytes k cmd.d.toNat (n / 2 ^ veGLog2 cmd.packet * 4) s t ∧
      t.chip.core k = { s.chip.core k with ve := ⟨none, rest⟩, flags := (t.chip.core k).flags } ∧
      ∀ j, j < n / 2 ^ veGLog2 cmd.packet → laneBits t k cmd.d.toNat 0 j = (groupTree isMax (veGLog2 cmd.packet) (s.chip.leafAt k cmd isMax) j).toNat := by
  obtain ⟨⟨-, -, -, -, -, -, -, -, -, -, opcode, -⟩, clean⟩ := id ready
  have max : decide (pkOpcode cmd.packet = 0x12) = isMax := by rw [opcode]; cases isMax <;> rfl
  have count : (s.chip.groupWords k cmd n).length = n / 2 ^ veGLog2 cmd.packet := by simp [Chip.groupWords]
  have length := length_flatMap_leBytes 4 BitVec.toNat (s.chip.groupWords k cmd n)
  obtain ⟨f, whole⟩ := reduction_whole ready plain (by cases isMax <;> rfl) levels
  refine ⟨_, onChip_next _ _, ?_⟩
  rw [whole]
  refine ⟨OnlyCoreBytes.of_withCore _ fun a out => Memory.byte_putBytes_outside _ _ _ _ (by rwa [length, count]), ?_, fun j inside => ?_⟩
  · simp only [Chip.withCore_core]
    rfl
  · have inside' : j * 4 + 4 ≤ ((s.chip.groupWords k cmd n).flatMap (fun w => leBytes 4 w.toNat)).length := by
      rw [length, count]
      exact element_inside inside
    rw [laneBits_eq, Chip.withCore_laneAt clean, show elemBits 0 / 8 = 4 from rfl, ← Memory.bytes_slice _ _ inside', Memory.bytes_putBytes,
      leNat_flatMap_leBytes BitVec.toNat _ (fun w _ => w.isLt) (by rw [count]; exact inside)]
    simp only [Chip.groupWords, List.getElem_map, List.getElem_range, max]

/-! ## Masks, the seed, the flags word (R145, R146, R152, R153) -/

/-- A command of one data beat does its work in it. -/
theorem single_whole {y : Core} {m : Memory} {kind : VeKind} (ready : EngineReady s k .ve op cmd rest) (direct : pkAgm cmd.packet = false) (untiled : veSrcTq cmd.packet = false)
    (is : veKind op = some kind) (single : kind = .maskCmp ∨ kind = .maskLd ∨ kind = .seed ∨ kind = .flagsOp) (cost : veCost op = 1) (unlatched : y.latched = none)
    (work : (s.chip.begun k cmd rest 0).veSingle k false [] ((s.chip.begun k cmd rest 0).beatRecord k ((s.chip.core k).runAt cmd 0)) kind =
      s.chip.withCore k (y.runs ((s.chip.core k).runAt cmd 0) rest) m) :
    s.chip.veWhole k op = s.chip.withCore k (y.rests rest) m := by
  obtain ⟨⟨-, -, -, -, -, job, -, -, -, engine, opcode, -⟩, -⟩ := id ready
  subst opcode
  have jobless : ((s.chip.begun k cmd rest 0).core k).job = none := by rw [Chip.begun_core]; exact job
  have busy : ((s.chip.begun k cmd rest 0).core k).deWrites ++ ((s.chip.begun k cmd rest 0).core k).writtenBefore cmd 0 = [] := by
    rw [Core.deWrites, jobless, Core.writtenBefore_zero]; rfl
  have length : cmdLength cmd.packet = 0 + 1 := by rcases single with rfl | rfl | rfl | rfl <;> simp [cmdLength, engine, is, direct]
  refine veWhole_of_last ready (ready.veRuns direct untiled (by rw [is]; rcases single with rfl | rfl | rfl | rfl <;> simp)) length (fun j hj => absurd hj (Nat.not_lt_zero j)) (.inl rfl)
    (v := s.chip.withCore k (y.runs ((s.chip.core k).runAt cmd 0) rest) m) (r' := (s.chip.begun k cmd rest 0).beatRecord k ((s.chip.core k).runAt cmd 0)) ?_ (by simp [length]) ?_ unlatched
  · rw [← work]
    rcases single with rfl | rfl | rfl | rfl <;>
      simp only [Chip.veWork, Chip.beatRecord_cmd, Chip.beatRecord_taken, Core.runAt_cmd, Core.runAt_taken, is, chunkDue_first direct cost, busy, true_or, or_true, and_self, if_true]
  · refine if_pos ?_
    rw [Chip.beatRecord_cmd, Core.runAt_cmd, is]
    rcases single with rfl | rfl | rfl | rfl <;> decide

theorem boolsToNat_testBit (l : List Bool) (i : Nat) : (boolsToNat l).testBit i = l.getD i false := by
  induction l generalizing i with
  | nil => simp [boolsToNat]
  | cons b t ih =>
    have parity : boolsToNat (b :: t) = Nat.bit b (boolsToNat t) := by
      rw [boolsToNat, Nat.bit_val]
      cases b <;> simp [Nat.add_comm]
    rw [parity]
    cases i with
    | zero => rw [Nat.testBit_bit_zero, List.getD_cons_zero]
    | succ i => rw [Nat.testBit_bit_succ, ih, List.getD_cons_succ]

theorem compare_done (ready : EngineReady s k .ve 0x19 cmd rest) (plain : PlainVector cmd.packet 64) (mode : veBMode cmd.packet ≠ 3) :
    ∃ t, onChip (Chip.veWhole k 0x19) s = .next t ∧ OnlyCore k s t ∧ t.chip.core k = { s.chip.core k with ve := ⟨none, rest⟩, vm := (t.chip.core k).vm } ∧
      (∀ m, m ≠ veMreg cmd.packet → Table.read (BitVec.allOnes 64) (t.chip.core k).vm m = Table.read (BitVec.allOnes 64) (s.chip.core k).vm m) ∧
      ∀ l, l < 64 → (Table.read (BitVec.allOnes 64) (t.chip.core k).vm (veMreg cmd.packet)).getLsbD l = veCompare (veCond cmd.packet)
        (laneValue s k cmd.a.toNat (pkFmtA cmd.packet) l) (laneValue s k cmd.b.toNat (pkFmtB cmd.packet) (if veBMode cmd.packet = 2 then 0 else l)) := by
  obtain ⟨⟨-, -, -, -, -, -, latched, -, -, -, opcode, -⟩, clean⟩ := id ready
  obtain ⟨direct, untiled, -, -, -, length, -, -⟩ := id plain
  have kind : veKind (pkOpcode cmd.packet) = some .maskCmp := by rw [opcode]; rfl
  obtain ⟨bs, read, lanes⟩ := Chip.veB_plain (u := s.chip.begun k cmd rest 0) (r := (s.chip.core k).runAt cmd 0) (k := k) clean rfl (by rw [Core.runAt_cmd, veReadsB, kind])
    (by rw [Core.runAt_cmd, kind]; decide) length le_rfl mode
  let bits : List Bool := (List.range 64).map (fun i => veCompare (veCond cmd.packet) (laneValue s k cmd.a.toNat (pkFmtA cmd.packet) i)
    (laneValue s k cmd.b.toNat (pkFmtB cmd.packet) (if veBMode cmd.packet = 2 then 0 else i)))
  have plain' : PlainVector ((s.chip.begun k cmd rest 0).beatRecord k ((s.chip.core k).runAt cmd 0)).cmd.packet 64 := plain
  have compared : (List.range 64).map (fun i => veCompare (veCond cmd.packet)
      ((((List.range 64).map (fun i => some ((s.chip.begun k cmd rest 0).elementAt k cmd.a.toNat (pkFmtA cmd.packet) i))).getD i none).getD .nan) (bElem cmd.packet bs i)) = bits := by
    refine List.map_congr_left fun i hi => ?_
    have inside : i < 64 := List.mem_range.mp hi
    have b := lanes i inside
    rw [Core.runAt_cmd] at b
    rw [b, List.getD_eq_getElem?_getD, List.getElem?_map, List.getElem?_range inside]
    rfl
  have whole := single_whole (y := { s.chip.core k with vm := Table.write (s.chip.core k).vm (veMreg cmd.packet) (BitVec.ofNat 64 (boolsToNat bits)) }) (m := s.chip.scratch)
    ready direct untiled rfl (.inl rfl) rfl latched (by
      simp only [Chip.veSingle, Chip.veA_plain (u := s.chip.begun k cmd rest 0) clean plain', read, Chip.beatRecord_cmd, Core.runAt_cmd, compared]
      rw [Chip.begun, Chip.withCore_updCore]
      rfl)
  refine ⟨_, onChip_next _ _, ?_⟩
  rw [whole]
  refine ⟨OnlyCore.of_withCore s k _, ?_, fun m other => ?_, fun l hl => ?_⟩
  · simp only [Chip.withCore_core]
    rfl
  · simp only [Chip.withCore_core, Core.rests, Table.read_write_other _ _ _ _ _ other]
  · simp only [Chip.withCore_core, Core.rests, Table.read_write_same, BitVec.getLsbD_ofNat, hl, decide_true, Bool.true_and, boolsToNat_testBit]
    simp [bits, hl]

theorem maskLoad_done (ready : EngineReady s k .ve 0x1A cmd rest) (untiled : veSrcTq cmd.packet = false) (direct : pkAgm cmd.packet = false) :
    ∃ t, onChip (Chip.veWhole k 0x1A) s = .next t ∧ OnlyCore k s t ∧ t.chip.core k = { s.chip.core k with
      ve := ⟨none, rest⟩, vm := Table.write (s.chip.core k).vm (veMreg cmd.packet) (BitVec.ofNat 64 (leNat (s.chip.scratchRead k cmd.a.toNat 8))) } := by
  obtain ⟨⟨-, -, -, -, -, -, latched, -⟩, clean⟩ := id ready
  have whole := single_whole (y := { s.chip.core k with vm := Table.write (s.chip.core k).vm (veMreg cmd.packet) (BitVec.ofNat 64 (leNat (s.chip.scratchRead k cmd.a.toNat 8))) })
    (m := s.chip.scratch) ready direct untiled rfl (.inr (.inl rfl)) rfl latched (by
      simp only [Chip.veSingle, firstRow, Chip.beatRecord_cmd, Core.runAt_cmd, direct, Bool.false_eq_true, if_false, Chip.engineRead_clean (s := s.chip.begun k cmd rest 0) clean]
      rw [Chip.begun, Chip.withCore_updCore]
      rfl)
  refine ⟨_, onChip_next _ _, ?_⟩
  rw [whole]
  exact ⟨OnlyCore.of_withCore s k _, Chip.withCore_core ..⟩

theorem seed_done (ready : EngineReady s k .ve 0x1C cmd rest) (untiled : veSrcTq cmd.packet = false) (direct : pkAgm cmd.packet = false) :
    ∃ t, onChip (Chip.veWhole k 0x1C) s = .next t ∧ OnlyCore k s t ∧ t.chip.core k = { s.chip.core k with
      ve := ⟨none, rest⟩, lfsr := seedOf (if cmd.packet.getLsbD 0 then BitVec.ofNat 32 (leNat (s.chip.scratchRead k cmd.a.toNat 4)) ^^^ BitVec.ofNat 32 k.idx.val
        else BitVec.ofNat 32 (leNat (s.chip.scratchRead k cmd.a.toNat 4))) } := by
  obtain ⟨⟨-, -, -, -, -, -, latched, -⟩, clean⟩ := id ready
  have whole := single_whole (y := { s.chip.core k with
      lfsr := seedOf (if cmd.packet.getLsbD 0 then BitVec.ofNat 32 (leNat (s.chip.scratchRead k cmd.a.toNat 4)) ^^^ BitVec.ofNat 32 k.idx.val
        else BitVec.ofNat 32 (leNat (s.chip.scratchRead k cmd.a.toNat 4))) })
    (m := s.chip.scratch) ready direct untiled rfl (.inr (.inr (.inl rfl))) rfl latched (by
      simp only [Chip.veSingle, firstRow, Chip.beatRecord_cmd, Core.runAt_cmd, direct, Bool.false_eq_true, if_false, Chip.engineRead_clean (s := s.chip.begun k cmd rest 0) clean]
      rw [Chip.begun, Chip.withCore_updCore]
      rfl)
  refine ⟨_, onChip_next _ _, ?_⟩
  rw [whole]
  exact ⟨OnlyCore.of_withCore s k _, Chip.withCore_core ..⟩

theorem flags_done (ready : EngineReady s k .ve 0x1D cmd rest) (untiled : veSrcTq cmd.packet = false) (direct : pkAgm cmd.packet = false) :
    ∃ t, onChip (Chip.veWhole k 0x1D) s = .next t ∧ OnlyCoreBytes k cmd.d.toNat 4 s t ∧ t.chip.scratchRead k cmd.d.toNat 4 = leBytes 4 (s.chip.core k).flags.toNat ∧
      t.chip.core k = { s.chip.core k with ve := ⟨none, rest⟩, flags := if cmd.packet.getLsbD 0 then 0 else (s.chip.core k).flags } := by
  obtain ⟨⟨-, -, -, -, -, job, latched, -⟩, clean⟩ := id ready
  have hazard : ((s.chip.core k).runs ((s.chip.core k).runAt cmd 0) rest).veHazard ((s.chip.begun k cmd rest 0).beatRecord k ((s.chip.core k).runAt cmd 0)) = [] := by
    rw [Core.veHazard, Core.deTouches, show ((s.chip.core k).runs ((s.chip.core k).runAt cmd 0) rest).job = none from job]
    rfl
  have whole := single_whole (y := { s.chip.core k with flags := if cmd.packet.getLsbD 0 then 0 else (s.chip.core k).flags })
    (m := s.chip.scratch.putBytes (scratchKey k cmd.d.toNat) (leBytes 4 (s.chip.core k).flags.toNat)) ready direct untiled rfl (.inr (.inr (.inr rfl))) rfl latched (by
      simp only [Chip.veSingle, Chip.begun_core, hazard, Chip.beatRecord_cmd, Core.runAt_cmd]
      rw [Chip.begun, Chip.engineWrite_clean clean, Chip.withCore_updCore]
      split <;> rfl)
  refine ⟨_, onChip_next _ _, ?_⟩
  rw [whole]
  have bytes := Chip.withCore_scratchRead_putBytes (k := k) clean (({ s.chip.core k with flags := if cmd.packet.getLsbD 0 then 0 else (s.chip.core k).flags } : Core).rests rest)
    s.chip.scratch cmd.d.toNat (leBytes 4 (s.chip.core k).flags.toNat)
  rw [leBytes_length] at bytes
  exact ⟨OnlyCoreBytes.of_withCore _ fun a out => Memory.byte_putBytes_outside _ _ _ _ (by rwa [leBytes_length]), bytes, Chip.withCore_core ..⟩

end

/-- Settles O15: conversions write their lanes as O14's commands do, reductions write the roots of their groups' trees, and the other commands take one beat. -/
theorem vectorConversionsAndMasks : Obligations.VectorConversionsAndMasks := by
  unfold Obligations.VectorConversionsAndMasks
  refine ⟨?_, ?_⟩
  · intro s k cmd rest n x p a d fd g after leaf plain
    refine ⟨fun ready format => ?_, fun isMax ready some_ levels whole => ?_⟩
    · obtain ⟨t, run, only, core, lanes⟩ := conversion_done ready plain format
      exact ⟨t, run, ⟨only, core⟩, lanes⟩
    · obtain ⟨t, run, only, core, words⟩ := reduction_done isMax ready plain levels
      refine ⟨t, ?_, ⟨only, core⟩, words⟩
      cases isMax <;> exact run
  · intro s k cmd rest x p a word mixed
    exact ⟨fun ready plain format mode => compare_done ready plain mode, fun ready untiled direct => maskLoad_done ready untiled direct,
      fun ready untiled direct => seed_done ready untiled direct, fun ready untiled direct => flags_done ready untiled direct⟩

end Sys2Proof.Machine
end

section
/-! The beats of an mma (R129, R133): which panel pair a beat works on, and what its reads add up to. -/

namespace Sys2Proof.Machine

open Host

/-! ## Beats of the panel pairs (R133) -/

/-- Twice the K of a beat, and whether the pair of formats accumulates integers (R133). -/
def mmaK (p : BitVec 128) : Nat := ((mePair (pkFmtA p) (pkFmtB p)).getD (2, false)).1
def mmaInt (p : BitVec 128) : Bool := ((mePair (pkFmtA p) (pkFmtB p)).getD (2, false)).2

/-- Beats of one panel pair, and beats ahead of the first. -/
def pairBeats (p : BitVec 128) : Nat := 64 / mmaK p
def indexBeats (p : BitVec 128) : Nat := if pkAgm p then 1 else 0

section
variable {p : BitVec 128} {j : Nat}

theorem mmaK_cases (p : BitVec 128) : mmaK p = 1 ∨ mmaK p = 2 ∨ mmaK p = 4 := by
  rw [mmaK, mePair]
  split_ifs <;> simp

theorem pairBeats_pos (p : BitVec 128) : 0 < pairBeats p := by
  rw [pairBeats]
  rcases mmaK_cases p with k | k | k <;> rw [k] <;> decide

theorem panelBeat_eq (inside : j < mmaPanels p * pairBeats p) : panelBeat p (indexBeats p + j) = some (j % pairBeats p, j / pairBeats p) := by
  have later : ¬ (pkAgm p = true ∧ indexBeats p + j = 0) := by
    rintro ⟨gathered, first⟩
    simp [indexBeats, gathered] at first
  have beat : indexBeats p + j - (if pkAgm p then 1 else 0) = j := Nat.add_sub_cancel_left ..
  have k : ((mePair (pkFmtA p) (pkFmtB p)).getD (2, false)).1 = mmaK p := rfl
  simp only [panelBeat, later, beat, k, false_or]
  rw [pairBeats] at inside ⊢
  rcases mmaK_cases p with k | k | k <;> rw [k] at inside ⊢ <;> rw [if_neg (by omega)] <;> congr 2 <;> omega

theorem panelEnds_eq (p : BitVec 128) (j : Nat) : panelEnds p (indexBeats p + j) = decide ((j + 1) % pairBeats p = 0) := by
  have later : (pkAgm p && decide (indexBeats p + j = 0)) = false := by
    cases gathered : pkAgm p <;> simp [indexBeats, gathered]
  have beat : indexBeats p + j - (if pkAgm p then 1 else 0) = j := Nat.add_sub_cancel_left ..
  have k : ((mePair (pkFmtA p) (pkFmtB p)).getD (2, false)).1 = mmaK p := rfl
  have ends : (j + 1) * mmaK p % 64 = 0 ↔ (j + 1) % pairBeats p = 0 := by
    rw [pairBeats]
    rcases mmaK_cases p with k | k | k <;> rw [k] <;> omega
  simp only [panelEnds, later, beat, k, Bool.not_false, Bool.true_and, ends]

theorem cmdLength_mma (engine : pkEngine p = .me) (opcode : pkOpcode p = 1) : cmdLength p = indexBeats p + mmaPanels p * pairBeats p := by
  have k : ((mePair (pkFmtA p) (pkFmtB p)).getD (2, false)).1 = mmaK p := rfl
  simp only [cmdLength, engine, opcode, if_true, k, indexBeats, pairBeats]
  rcases mmaK_cases p with k | k | k <;> rw [k] <;> omega

end

/-! ## Reads that add up -/

theorem flatMap_range_mul {α : Type} (q m : Nat) (f : Nat → List α) :
    (List.range (q * m)).flatMap f = (List.range q).flatMap (fun i => (List.range m).flatMap (fun j => f (i * m + j))) := by
  induction q with
  | zero => simp
  | succ q ih => rw [Nat.succ_mul, List.range_add, List.flatMap_append, ih, List.range_succ, List.flatMap_append, List.flatMap_singleton, List.flatMap_map]

theorem Memory.bytes_append (m : Memory) (a n l : Nat) : m.bytes a n ++ m.bytes (a + n) l = m.bytes a (n + l) := by
  refine ext_getD 0 (by simp) fun i hi => ?_
  have inside : i < n + l := by simpa using hi
  rw [Memory.bytes_getD _ _ _ _ inside]
  by_cases first : i < n
  · rw [List.getD_append _ _ _ _ (by simpa using first), Memory.bytes_getD _ _ _ _ first]
  · rw [List.getD_append_right _ _ _ _ (by simpa using first), Memory.bytes_length, Memory.bytes_getD _ _ _ _ (by omega)]
    congr 1
    omega

section
variable {u : Chip} {k : CoreId} (clean : u.scratchErrors = [])
include clean

theorem Chip.scratchRead_append (a n l : Nat) : u.scratchRead k a n ++ u.scratchRead k (a + n) l = u.scratchRead k a (n + l) := by
  simp only [Chip.scratchRead_clean _ _ _ _ clean, scratchKey, ← Nat.add_assoc, Memory.bytes_append]

theorem Chip.scratchRead_flatMap (a w q : Nat) : (List.range q).flatMap (fun j => u.scratchRead k (a + j * w) w) = u.scratchRead k a (q * w) := by
  induction q with
  | zero => rw [Nat.zero_mul, Chip.scratchRead_clean _ _ _ _ clean]; rfl
  | succ q ih => rw [List.range_succ, List.flatMap_append, ih, List.flatMap_singleton, Chip.scratchRead_append clean, Nat.succ_mul]

end

/-! ## Panels and their shares (R113, R129, R132) -/

/-- The bytes of a panel, and the share of them that a beat reads: the table's beats are every fourth. -/
def Chip.panelOf (u : Chip) (k : CoreId) (c base i : Nat) : List Byte := u.scratchRead k (base + i * panelBytes c) (panelBytes c)
def Chip.shareOf (u : Chip) (k : CoreId) (p : BitVec 128) (c base i b : Nat) : List Byte :=
  if b % 4 = 0 then u.scratchRead k (base + i * panelBytes c + b / 4 * panelShare p c) (panelShare p c) else []

/-- The rows of a panel of a gathered operand A, and the half row or row that a beat reads. -/
def Chip.gatheredPanel (u : Chip) (k : CoreId) (cmd : EngineCmd) (idx : List Nat) (i : Nat) : List Byte :=
  (List.range 32).flatMap (fun row => u.scratchRead k (rowAddr cmd idx row + 32 * i * (elemBits (pkFmtA cmd.packet) / 8)) (32 * (elemBits (pkFmtA cmd.packet) / 8)))
def Chip.gatheredShare (u : Chip) (k : CoreId) (cmd : EngineCmd) (idx : List Nat) (i b : Nat) : List Byte :=
  u.scratchRead k (rowAddr cmd idx (b * mmaK cmd.packet / 2) + 4 * i * elemBits (pkFmtA cmd.packet) +
    b * mmaK cmd.packet % 2 * (elemBits (pkFmtA cmd.packet) * 2 * mmaK cmd.packet)) (elemBits (pkFmtA cmd.packet) * 2 * mmaK cmd.packet)

/-- Operand A of panel pair i, whole and by beats; and operand B. -/
def Chip.panelA (u : Chip) (k : CoreId) (cmd : EngineCmd) (idx : List Nat) (i : Nat) : List Byte :=
  if pkAgm cmd.packet then u.gatheredPanel k cmd idx i else u.panelOf k (pkFmtA cmd.packet) cmd.a.toNat i
def Chip.shareA (u : Chip) (k : CoreId) (cmd : EngineCmd) (idx : List Nat) (i b : Nat) : List Byte :=
  if pkAgm cmd.packet then u.gatheredShare k cmd idx i b else u.shareOf k cmd.packet (pkFmtA cmd.packet) cmd.a.toNat i b
def Chip.panelB (u : Chip) (k : CoreId) (cmd : EngineCmd) (i : Nat) : List Byte := u.panelOf k (pkFmtB cmd.packet) cmd.b.toNat i
def Chip.shareB (u : Chip) (k : CoreId) (cmd : EngineCmd) (i b : Nat) : List Byte := u.shareOf k cmd.packet (pkFmtB cmd.packet) cmd.b.toNat i b

/-- A panel is read in sixteenths of it, times twice the K of a beat. -/
theorem panelShare_mul (p : BitVec 128) (c : Nat) : 16 / mmaK p * panelShare p c = panelBytes c := by
  have whole : 16 ∣ panelBytes c := by
    rw [panelBytes, plateBytes]
    split_ifs <;> omega
  have share : panelShare p c = panelBytes c * mmaK p / 16 := rfl
  rw [share]
  rcases mmaK_cases p with k | k | k <;> rw [k] <;> omega

section
variable {u : Chip} {k : CoreId} (clean : u.scratchErrors = [])
include clean

theorem Chip.shareOf_flatMap (p : BitVec 128) (c base i : Nat) : (List.range (pairBeats p)).flatMap (u.shareOf k p c base i) = u.panelOf k c base i := by
  have beats : pairBeats p = 16 / mmaK p * 4 := by
    rw [pairBeats]
    rcases mmaK_cases p with k | k | k <;> rw [k]
  have four (j : Nat) : (List.range 4).flatMap (fun b => u.shareOf k p c base i (j * 4 + b)) =
      u.scratchRead k (base + i * panelBytes c + j * panelShare p c) (panelShare p c) := by
    simp [show List.range 4 = [0, 1, 2, 3] from rfl, Chip.shareOf, Nat.add_mod]
  simp only [beats, flatMap_range_mul, four, Chip.scratchRead_flatMap clean, panelShare_mul, Chip.panelOf]

theorem Chip.gatheredShare_flatMap {cmd : EngineCmd} (idx : List Nat) (i : Nat) (half : mmaK cmd.packet ≠ 4) (bits : elemBits (pkFmtA cmd.packet) = 8 * (elemBits (pkFmtA cmd.packet) / 8)) :
    (List.range (pairBeats cmd.packet)).flatMap (u.gatheredShare k cmd idx i) = u.gatheredPanel k cmd idx i := by
  have place : 4 * i * elemBits (pkFmtA cmd.packet) = 32 * i * (elemBits (pkFmtA cmd.packet) / 8) := by
    rw [show 32 * i * (elemBits (pkFmtA cmd.packet) / 8) = 4 * i * (8 * (elemBits (pkFmtA cmd.packet) / 8)) by ring, ← bits]
  rcases mmaK_cases cmd.packet with one | two | four
  · have beats : pairBeats cmd.packet = 32 * 2 := by rw [pairBeats, one]
    rw [beats, flatMap_range_mul, Chip.gatheredPanel]
    refine List.flatMap_congr fun row _ => ?_
    have size : 32 * (elemBits (pkFmtA cmd.packet) / 8) = elemBits (pkFmtA cmd.packet) * 2 + elemBits (pkFmtA cmd.packet) * 2 := by omega
    simp [show List.range 2 = [0, 1] from rfl, Chip.gatheredShare, one, place, size, ← Chip.scratchRead_append clean, Nat.add_mod, Nat.add_div]
  · have beats : pairBeats cmd.packet = 32 := by rw [pairBeats, two]
    rw [beats, Chip.gatheredPanel]
    refine List.flatMap_congr fun row _ => ?_
    have size : 32 * (elemBits (pkFmtA cmd.packet) / 8) = elemBits (pkFmtA cmd.packet) * 2 * 2 := by omega
    simp [Chip.gatheredShare, two, place, size]
  · exact absurd four half

end

end Sys2Proof.Machine
end

section
/-! One beat of an mma (R113, R129, R133, R136 to R139). -/

namespace Sys2Proof.Machine

open Host

/-- The accumulator that the first beat opens (R136). -/
def Core.meOpen (y : Core) (r : Running) : Core :=
  if r.taken = 0 then { y with acc := some ⟨mmaInt r.cmd.packet, y.accStart r.cmd.packet⟩ } else y

/-- The accumulator and the flags after a panel pair. -/
def Core.meAdds (y : Core) (r : Running) : Core :=
  let e := r.panelStep ((y.acc.map (fun t => t.data)).getD [])
  { y with acc := some e.1, flags := y.flags ||| e.2 }

/-- The record after beat b of panel pair i, and with the whole of panel pair i. -/
def Chip.beatShare (u : Chip) (k : CoreId) (r : Running) (b i : Nat) : Running :=
  if b = 0 then { r with a := u.shareA k r.cmd r.idx i b, b := u.shareB k r.cmd i b }
  else { r with a := r.a ++ u.shareA k r.cmd r.idx i b, b := r.b ++ u.shareB k r.cmd i b }
def Chip.pairRecord (u : Chip) (k : CoreId) (r : Running) (i : Nat) : Running := { r with a := u.panelA k r.cmd r.idx i, b := u.panelB k r.cmd i }

section
variable (u : Chip) (k : CoreId) (r : Running) (b i : Nat)

@[simp] theorem Chip.beatShare_cmd : (u.beatShare k r b i).cmd = r.cmd := by rw [Chip.beatShare]; split <;> rfl
@[simp] theorem Chip.beatShare_taken : (u.beatShare k r b i).taken = r.taken := by rw [Chip.beatShare]; split <;> rfl
@[simp] theorem Chip.beatShare_len : (u.beatShare k r b i).len = r.len := by rw [Chip.beatShare]; split <;> rfl
@[simp] theorem Chip.beatShare_idx : (u.beatShare k r b i).idx = r.idx := by rw [Chip.beatShare]; split <;> rfl

end

section
variable {u : Chip} {k : CoreId} (clean : u.scratchErrors = []) (r : Running)
include clean

theorem Chip.readIndices_clean (cmd : EngineCmd) (n : Nat) : u.readIndices k false [] cmd n = (u, (u.readIndices k false [] cmd n).2) := by
  rw [Chip.readIndices, Chip.engineRead_clean clean]

theorem Chip.readRows_clean (at_ : Nat → Nat) (n : Nat) (rows : List Nat) (bs : List Byte) :
    rows.foldl (fun (acc : Chip × List Byte) row => ((acc.1.engineRead k false [] (at_ row) n).1, acc.2 ++ (acc.1.engineRead k false [] (at_ row) n).2)) (u, bs) =
      (u, bs ++ rows.flatMap (fun row => u.scratchRead k (at_ row) n)) := by
  induction rows generalizing bs with
  | nil => simp
  | cons row rows ih => rw [List.foldl_cons, Chip.engineRead_clean clean, ih, List.flatMap_cons, List.append_assoc]

theorem Chip.readPanels_clean (i : Nat) : u.readPanels k false [] r i = (u, u.pairRecord k r i) := by
  have rows := Chip.readRows_clean clean (k := k) (fun row => rowAddr r.cmd r.idx row + 32 * i * (elemBits (pkFmtA r.cmd.packet) / 8)) (32 * (elemBits (pkFmtA r.cmd.packet) / 8))
  cases gathered : pkAgm r.cmd.packet
  · simp only [Chip.readPanels, Chip.pairRecord, Chip.panelA, Chip.panelB, Chip.panelOf, gathered, if_false, Chip.engineRead_clean clean, Bool.false_eq_true]
  · simp only [Chip.readPanels, Chip.pairRecord, Chip.panelA, Chip.panelB, Chip.panelOf, Chip.gatheredPanel, gathered, if_true]
    generalize List.range 32 = l
    rw [rows, Chip.engineRead_clean clean, List.nil_append]

theorem Chip.readShare_clean (b i : Nat) : u.readShare k false [] r b i = (u, u.beatShare k r b i) := by
  have share (c base : Nat) : (if b % 4 = 0 then u.engineRead k false [] (base + i * panelBytes c + b / 4 * panelShare r.cmd.packet c) (panelShare r.cmd.packet c) else (u, [])) =
      (u, u.shareOf k r.cmd.packet c base i b) := by
    rw [Chip.shareOf]
    split
    · exact Chip.engineRead_clean clean ..
    · rfl
  have a : (if pkAgm r.cmd.packet = true then u.engineRead k false [] (rowAddr r.cmd r.idx (b * mmaK r.cmd.packet / 2) + 4 * i * elemBits (pkFmtA r.cmd.packet) +
      b * mmaK r.cmd.packet % 2 * (elemBits (pkFmtA r.cmd.packet) * 2 * mmaK r.cmd.packet)) (elemBits (pkFmtA r.cmd.packet) * 2 * mmaK r.cmd.packet)
      else (u, u.shareOf k r.cmd.packet (pkFmtA r.cmd.packet) r.cmd.a.toNat i b)) = (u, u.shareA k r.cmd r.idx i b) := by
    rw [Chip.shareA]
    split
    · exact Chip.engineRead_clean clean ..
    · rfl
  have pair : ((mePair (pkFmtA r.cmd.packet) (pkFmtB r.cmd.packet)).getD (2, false)).1 = mmaK r.cmd.packet := rfl
  simp only [Chip.readShare, pair, share, a]
  rfl

end

section
variable {s : Chip} {k : CoreId} {y : Core} {r : Running} {m : Memory}

theorem panelStep_congr {r r' : Running} (cmd : r.cmd = r'.cmd) (a : r.a = r'.a) (b : r.b = r'.b) : r.panelStep = r'.panelStep := by
  funext acc
  simp only [Running.panelStep, cmd, a, b]

theorem badPanel_congr {r r' : Running} (cmd : r.cmd = r'.cmd) (a : r.a = r'.a) (b : r.b = r'.b) : r.badPanel = r'.badPanel := by
  simp only [Running.badPanel, cmd, a, b]

/-- The registers after the reads of a beat: the accumulator opened, and with the last beat of a panel pair its sum. -/
def Core.meBeat (y : Core) (r r' : Running) : Core := if panelEnds r.cmd.packet r.taken then (y.meOpen r).meAdds r' else y.meOpen r

/-- A beat of a panel pair. -/
theorem Chip.mmaStep_panel {b i : Nat} (clean : s.scratchErrors = []) (direct : ¬ (r.taken = 0 ∧ pkAgm r.cmd.packet = true))
    (begins : r.taken = 0 → y.meBegin r.cmd r.idx = none) (due : panelBeat r.cmd.packet r.taken = some (b, i)) (sound : ((s.withCore k y m).pairRecord k r i).badPanel = false) :
    (s.withCore k y m).mmaStep k false [] r =
      let r' := (s.withCore k y m).beatShare k r b i
      if r'.taken + 1 < r'.len then (s.withCore k ((y.meBeat r r').setMe { r' with taken := r'.taken + 1 }) m, none, .going)
      else (((s.withCore k (y.meBeat r r') m).mmaEnd k r').1, ((s.withCore k (y.meBeat r r') m).mmaEnd k r').2, .finished) := by
  have begin_ : (if r.taken = 0 then ((s.withCore k y m).core k).meBegin r.cmd r.idx else none) = none := by
    rw [Chip.withCore_core]
    split
    next first => exact begins first
    next => rfl
  have opens : (if r.taken = 0 then (s.withCore k y m).updCore k (fun x => { x with acc := some ⟨mmaInt r.cmd.packet, x.accStart r.cmd.packet⟩ }) else s.withCore k y m) =
      s.withCore k (y.meOpen r) m := by
    rw [Core.meOpen, Chip.withCore_updCore]
    split <;> rfl
  have indices : (if r.taken = 0 ∧ pkAgm r.cmd.packet = true then (s.withCore k y m).readIndices k false [] r.cmd 32 else (s.withCore k y m, r.idx)) = (s.withCore k y m, r.idx) :=
    if_neg direct
  have panels := Chip.readPanels_clean (u := s.withCore k (y.meOpen r) m) (k := k) clean r i
  have share : (s.withCore k (y.meOpen r) m).readShare k false [] r b i = (s.withCore k (y.meOpen r) m, (s.withCore k y m).beatShare k r b i) :=
    Chip.readShare_clean (u := s.withCore k (y.meOpen r) m) clean r b i
  have fine : ((s.withCore k (y.meOpen r) m).pairRecord k r i).badPanel = false := sound
  have adds : (if panelEnds r.cmd.packet r.taken = true then
      (s.withCore k (y.meOpen r) m).updCore k (fun x => { x with
        acc := some (((s.withCore k y m).beatShare k r b i).panelStep ((((s.withCore k (y.meOpen r) m).core k).acc.map (fun t => t.data)).getD [])).1,
        flags := x.flags ||| (((s.withCore k y m).beatShare k r b i).panelStep ((((s.withCore k (y.meOpen r) m).core k).acc.map (fun t => t.data)).getD [])).2 })
      else s.withCore k (y.meOpen r) m) = s.withCore k (y.meBeat r ((s.withCore k y m).beatShare k r b i)) m := by
    rw [Core.meBeat, Chip.withCore_updCore, Chip.withCore_core]
    split <;> rfl
  have pair : ((mePair (pkFmtA r.cmd.packet) (pkFmtB r.cmd.packet)).getD (2, false)).2 = mmaInt r.cmd.packet := rfl
  cases b with
  | zero =>
    simp only [Chip.mmaStep, indices, begin_, due, pair, opens, panels, fine, ite_self, share, Chip.beatShare_taken, Bool.false_eq_true, if_false, adds]
    simp only [Chip.withCore_updCore]
  | succ b =>
    simp only [Chip.mmaStep, indices, begin_, due, pair, opens, share, Chip.beatShare_taken, Bool.false_eq_true, if_false, adds]
    simp only [Chip.withCore_updCore]

/-- The beat that reads the indices of a gathered operand. -/
theorem Chip.mmaStep_indices (clean : s.scratchErrors = []) (first : r.taken = 0) (gathered : pkAgm r.cmd.packet = true) (more : 1 < r.len)
    (begins : y.meBegin r.cmd ((s.withCore k y m).readIndices k false [] r.cmd 32).2 = none) :
    (s.withCore k y m).mmaStep k false [] r =
      (s.withCore k ((y.meOpen r).setMe { r with idx := ((s.withCore k y m).readIndices k false [] r.cmd 32).2, taken := 1 }) m, none, .going) := by
  have begin_ : ((s.withCore k y m).core k).meBegin r.cmd ((s.withCore k y m).readIndices k false [] r.cmd 32).2 = none := by rw [Chip.withCore_core]; exact begins
  have pair : ((mePair (pkFmtA r.cmd.packet) (pkFmtB r.cmd.packet)).getD (2, false)).2 = mmaInt r.cmd.packet := rfl
  have opens : (s.withCore k y m).updCore k (fun x => { x with acc := some ⟨mmaInt r.cmd.packet, x.accStart r.cmd.packet⟩ }) = s.withCore k (y.meOpen r) m := by
    rw [Core.meOpen, if_pos first, Chip.withCore_updCore]
  have none_ : panelBeat r.cmd.packet 0 = none := by simp [panelBeat, gathered]
  have unended : panelEnds r.cmd.packet 0 = false := by simp [panelEnds, gathered]
  have indices : (s.withCore k y m).readIndices k false [] r.cmd 32 = (s.withCore k y m, ((s.withCore k y m).readIndices k false [] r.cmd 32).2) :=
    Chip.readIndices_clean (u := s.withCore k y m) clean r.cmd 32
  simp only [Chip.mmaStep, first, gathered, and_self, if_true]
  rw [indices]
  simp only [begin_, pair, opens, none_, unended, Bool.false_eq_true, if_false, Nat.zero_add, more, if_true]
  rw [Chip.withCore_updCore]

end

end Sys2Proof.Machine
end

section
/-! An mma run to its end (R133 to R141): after each beat the accumulator holds the sum over the panel pairs that are complete. -/

namespace Sys2Proof.Machine

open Host

/-! ## The sum over the first panel pairs -/

/-- The rows of a gathered operand A, and none of one that is not. -/
def Chip.mmaIdx (s : Chip) (k : CoreId) (cmd : EngineCmd) : List Nat := if pkAgm cmd.packet then (s.readIndices k false [] cmd 32).2 else []

/-- mmaSum over the first i panel pairs. -/
def Chip.mmaTo (s : Chip) (k : CoreId) (cmd : EngineCmd) (i : Nat) : Tile × BitVec 8 :=
  (List.range i).foldl (fun acc i =>
    let q := ((s.readPanels k false [] { cmd := cmd, idx := s.mmaIdx k cmd } i).2).panelStep acc.1.data
    (q.1, acc.2 ||| q.2)) (⟨mmaInt cmd.packet, (s.core k).accStart cmd.packet⟩, 0)

theorem mmaSum_eq_mmaTo (s : Chip) (k : CoreId) (cmd : EngineCmd) : mmaSum s k cmd = s.mmaTo k cmd (mmaPanels cmd.packet) := rfl

theorem next_beat {B : Nat} (some_ : 0 < B) (j : Nat) :
    (j % B + 1 = B ∧ (j + 1) % B = 0 ∧ (j + 1) / B = j / B + 1) ∨ (j % B + 1 < B ∧ (j + 1) % B = j % B + 1 ∧ (j + 1) / B = j / B) := by
  have below := Nat.mod_lt j some_
  have whole := Nat.div_add_mod j B
  rcases Nat.lt_or_ge (j % B + 1) B with inside | last
  · obtain ⟨q, r⟩ := (Nat.div_mod_unique (a := j + 1) (c := j % B + 1) (d := j / B) some_).mpr ⟨by omega, inside⟩
    exact .inr ⟨inside, r, q⟩
  · obtain ⟨q, r⟩ := (Nat.div_mod_unique (a := j + 1) (c := 0) (d := j / B + 1) some_).mpr ⟨by rw [Nat.mul_succ]; omega, some_⟩
    exact .inl ⟨by omega, r, q⟩

section
variable {s : Chip} {k : CoreId} {cmd : EngineCmd} {rest : List EngineCmd}

/-- What the lemmas on an mma ask of its packet and its core. -/
structure MmaRuns (s : Chip) (k : CoreId) (cmd : EngineCmd) : Prop where
  clean : s.scratchErrors = []
  jobless : (s.core k).job = none
  idle : (s.core k).ve.running = none
  engine : pkEngine cmd.packet = .me
  opcode : pkOpcode cmd.packet = 1
  checks : meChecks cmd.packet = []
  begins : (s.core k).meBegin cmd (s.mmaIdx k cmd) = none
  sound : ∀ i, i < mmaPanels cmd.packet → ((s.readPanels k false [] { cmd := cmd, idx := s.mmaIdx k cmd } i).2).badPanel = false

theorem whenC_eq_nil (b : Bool) (c : FaultCode) : whenC b c = [] ↔ b = false := by cases b <;> simp [whenC]

/-- An mma's packet that passes its checks: a pair of formats; a gathered operand A has a format of whole bytes; the integer formats know no tensor scale. -/
theorem mma_checked {p : BitVec 128} (opcode : pkOpcode p = 1) (checks : meChecks p = []) :
    ∃ e, mePair (pkFmtA p) (pkFmtB p) = some e ∧ (mmaTsc p && e.2) = false ∧
      (pkAgm p = true → pkFmtA p = 3 ∨ pkFmtA p = 4 ∨ pkFmtA p = 8 ∨ pkFmtA p = 1 ∨ pkFmtA p = 2) := by
  rw [meChecks, if_pos opcode] at checks
  cases pair : mePair (pkFmtA p) (pkFmtB p) with
  | none => simp only [pair, List.append_eq_nil_iff, List.cons_ne_nil, and_false] at checks
  | some e =>
    simp only [pair, List.append_eq_nil_iff, whenC_eq_nil] at checks
    obtain ⟨-, ⟨-, unscaled⟩, direct⟩ := checks
    refine ⟨e, rfl, unscaled, fun gathered => ?_⟩
    simp only [gathered, Bool.true_and, Bool.not_eq_false', Bool.or_eq_true, decide_eq_true_eq, or_assoc] at direct
    exact direct

/-- A gathered operand A has a format of whole bytes, of which a beat reads half a row or a row. -/
theorem gathered_format {p : BitVec 128} (opcode : pkOpcode p = 1) (checks : meChecks p = []) (gathered : pkAgm p = true) :
    mmaK p ≠ 4 ∧ elemBits (pkFmtA p) = 8 * (elemBits (pkFmtA p) / 8) := by
  obtain ⟨-, -, -, format⟩ := mma_checked opcode checks
  refine ⟨?_, by rcases format gathered with h | h | h | h | h <;> rw [h] <;> decide⟩
  rcases format gathered with h | h | h | h | h <;> simp only [mmaK, mePair, h] <;> split_ifs <;> simp_all

theorem MmaRuns.shares (runs : MmaRuns s k cmd) (i : Nat) :
    (List.range (pairBeats cmd.packet)).flatMap (s.shareA k cmd (s.mmaIdx k cmd) i) = s.panelA k cmd (s.mmaIdx k cmd) i ∧
      (List.range (pairBeats cmd.packet)).flatMap (s.shareB k cmd i) = s.panelB k cmd i := by
  refine ⟨?_, Chip.shareOf_flatMap runs.clean ..⟩
  by_cases gathered : pkAgm cmd.packet = true
  · obtain ⟨half, bits⟩ := gathered_format runs.opcode runs.checks gathered
    rw [Chip.panelA, if_pos gathered, ← Chip.gatheredShare_flatMap runs.clean _ _ half bits]
    exact congrArg (fun f => List.flatMap f _) (funext fun b => if_pos gathered)
  · rw [Chip.panelA, if_neg gathered, ← Chip.shareOf_flatMap runs.clean]
    exact congrArg (fun f => List.flatMap f _) (funext fun b => if_neg gathered)

theorem MmaRuns.mmaTo_succ (runs : MmaRuns s k cmd) {r : Running} {i : Nat} (of : r.cmd = cmd) (a : r.a = s.panelA k cmd (s.mmaIdx k cmd) i) (b : r.b = s.panelB k cmd i) :
    s.mmaTo k cmd (i + 1) = ((r.panelStep (s.mmaTo k cmd i).1.data).1, (s.mmaTo k cmd i).2 ||| (r.panelStep (s.mmaTo k cmd i).1.data).2) := by
  have record : ((s.readPanels k false [] { cmd := cmd, idx := s.mmaIdx k cmd } i).2).panelStep = r.panelStep := by
    rw [Chip.readPanels_clean runs.clean]
    exact panelStep_congr of.symm a.symm b.symm
  rw [Chip.mmaTo, List.range_succ, List.foldl_append, List.foldl_cons, List.foldl_nil]
  simp only [record]
  rfl

/-! ## After j beats of the panel pairs -/

/-- The registers of the core with a record, an accumulator and flags gained. -/
def Core.summed (x : Core) (r : Running) (rest : List EngineCmd) (sum : Tile × BitVec 8) : Core := { x with me := ⟨some r, rest⟩, acc := some sum.1, flags := x.flags ||| sum.2 }

structure MmaAt (s : Chip) (k : CoreId) (cmd : EngineCmd) (rest : List EngineCmd) (j : Nat) (y : Core) (r : Running) : Prop where
  of : r.cmd = cmd
  idx : r.idx = s.mmaIdx k cmd
  taken : r.taken = indexBeats cmd.packet + j
  len : r.len = cmdLength cmd.packet
  opened : y.meOpen r = (s.core k).summed r rest (s.mmaTo k cmd (j / pairBeats cmd.packet))
  begins : r.taken = 0 → y.meBegin r.cmd r.idx = none
  bytes : j % pairBeats cmd.packet ≠ 0 → r.a = (List.range (j % pairBeats cmd.packet)).flatMap (s.shareA k cmd (s.mmaIdx k cmd) (j / pairBeats cmd.packet)) ∧
    r.b = (List.range (j % pairBeats cmd.packet)).flatMap (s.shareB k cmd (j / pairBeats cmd.packet))

section
variable {j : Nat} {y : Core} {r : Running}

theorem meOpen_kept (y : Core) (r : Running) : (y.meOpen r).me = y.me ∧ (y.meOpen r).ve = y.ve ∧ (y.meOpen r).job = y.job := by
  rw [Core.meOpen]
  split <;> exact ⟨rfl, rfl, rfl⟩

theorem MmaAt.me (at_ : MmaAt s k cmd rest j y r) : y.me = ⟨some r, rest⟩ ∧ y.ve = (s.core k).ve ∧ y.job = (s.core k).job := by
  obtain ⟨me, ve, job⟩ := meOpen_kept y r
  rw [← me, ← ve, ← job, at_.opened]
  exact ⟨rfl, rfl, rfl⟩

/-- The record after the beat holds the shares read so far. -/
theorem MmaAt.share (at_ : MmaAt s k cmd rest j y r) :
    (s.beatShare k r (j % pairBeats cmd.packet) (j / pairBeats cmd.packet)).a =
        (List.range (j % pairBeats cmd.packet + 1)).flatMap (s.shareA k cmd (s.mmaIdx k cmd) (j / pairBeats cmd.packet)) ∧
      (s.beatShare k r (j % pairBeats cmd.packet) (j / pairBeats cmd.packet)).b =
        (List.range (j % pairBeats cmd.packet + 1)).flatMap (s.shareB k cmd (j / pairBeats cmd.packet)) := by
  rw [Chip.beatShare, at_.of, at_.idx]
  split
  next first => simp [first]
  next later =>
    obtain ⟨a, b⟩ := at_.bytes later
    simp [a, b, List.range_succ]

/-- The registers after the beat. -/
theorem MmaAt.beat (runs : MmaRuns s k cmd) (at_ : MmaAt s k cmd rest j y r) :
    y.meBeat r (s.beatShare k r (j % pairBeats cmd.packet) (j / pairBeats cmd.packet)) = (s.core k).summed r rest (s.mmaTo k cmd ((j + 1) / pairBeats cmd.packet)) := by
  obtain ⟨a, b⟩ := at_.share
  rw [Core.meBeat, at_.of, at_.taken, panelEnds_eq, at_.opened]
  rcases next_beat (pairBeats_pos cmd.packet) j with ⟨last, ends, next⟩ | ⟨-, goes, next⟩
  · obtain ⟨wholeA, wholeB⟩ := runs.shares (j / pairBeats cmd.packet)
    rw [last] at a b
    rw [if_pos (decide_eq_true ends), next, runs.mmaTo_succ ((Chip.beatShare_cmd ..).trans at_.of) (a.trans wholeA) (b.trans wholeB), Core.meAdds, Core.summed]
    simp only [Core.summed, Option.map_some, Option.getD_some, BitVec.or_assoc]
  · rw [if_neg (by rw [goes]; simp), next]

/-- The next beat finds what this one left. -/
theorem MmaAt.next (runs : MmaRuns s k cmd) (at_ : MmaAt s k cmd rest j y r) {r' : Running} (is : r' = s.beatShare k r (j % pairBeats cmd.packet) (j / pairBeats cmd.packet)) :
    MmaAt s k cmd rest (j + 1) ((y.meBeat r r').setMe { r' with taken := r'.taken + 1 }) { r' with taken := r'.taken + 1 } := by
  obtain ⟨a, b⟩ := at_.share
  subst is
  refine ⟨(Chip.beatShare_cmd ..).trans at_.of, (Chip.beatShare_idx ..).trans at_.idx, ?_, (Chip.beatShare_len ..).trans at_.len, ?_, fun first => absurd first (Nat.succ_ne_zero _),
    fun middle => ?_⟩
  · exact congrArg (· + 1) ((Chip.beatShare_taken ..).trans at_.taken)
  · rw [Core.meOpen, if_neg (Nat.succ_ne_zero _), at_.beat runs]
    rfl
  · rcases next_beat (pairBeats_pos cmd.packet) j with ⟨-, ends, -⟩ | ⟨-, goes, next⟩
    · exact absurd ends middle
    · rw [goes, next]
      exact ⟨a, b⟩

end

end

end Sys2Proof.Machine
end

section
/-! The beats of an mma from any of them to its end (R133 to R136). -/

namespace Sys2Proof.Machine

open Host

/-- A core's event leaves memories and cores. -/
theorem Chip.coreEvent_frame (s : Chip) (k : CoreId) (event amount : Nat) :
    (s.coreEvent k event amount).stores = s.stores ∧ (s.coreEvent k event amount).core = s.core := by
  rw [Chip.coreEvent]
  dsimp only
  split
  · exact ⟨rfl, rfl⟩
  · obtain ⟨v, e⟩ := Chip.samples_records _ _ _ _
    rw [e]
    exact ⟨rfl, rfl⟩

section
variable {s : Chip} {k : CoreId} {cmd : EngineCmd} {rest : List EngineCmd} {j : Nat} {y : Core} {r : Running}

/-- The chip of an mma under way. -/
def Chip.meAt (s : Chip) (k : CoreId) (y : Core) : Chip := s.withCore k y s.scratch

@[simp] theorem Chip.meAt_core (s : Chip) (k : CoreId) (y : Core) : (s.meAt k y).core k = y := s.withCore_core ..

/-- The step of a matrix engine that works alone. -/
theorem MmaRuns.meStep (runs : MmaRuns s k cmd) (of : r.cmd = cmd) (me : y.me.running = some r) (ve : y.ve = (s.core k).ve) (job : y.job = (s.core k).job) :
    (s.meAt k y).meStep k false = (s.meAt k y).mmaStep k false [] r := by
  have busy : y.veWrites ++ y.deWrites = [] := by rw [Core.veWrites, Core.deWrites, ve, job, runs.idle, runs.jobless]; rfl
  rw [Chip.meStep]
  simp only [Chip.meAt_core, me, busy, of, runs.opcode, if_true]
  exact Chip.guarded_clean _ _ _ _ runs.clean

theorem pos_of_indexBeats {p : BitVec 128} {j : Nat} (first : indexBeats p + j = 0) : pkAgm p = false ∧ j = 0 := by
  rw [indexBeats] at first
  cases gathered : pkAgm p <;> simp_all

theorem MmaAt.step (runs : MmaRuns s k cmd) (at_ : MmaAt s k cmd rest j y r) (inside : j < mmaPanels cmd.packet * pairBeats cmd.packet) :
    (s.meAt k y).meStep k false =
      let r' := s.beatShare k r (j % pairBeats cmd.packet) (j / pairBeats cmd.packet)
      if r'.taken + 1 < r'.len then (s.meAt k ((y.meBeat r r').setMe { r' with taken := r'.taken + 1 }), none, .going)
      else (((s.meAt k (y.meBeat r r')).mmaEnd k r').1, ((s.meAt k (y.meBeat r r')).mmaEnd k r').2, .finished) := by
  obtain ⟨me, ve, job⟩ := at_.me
  have direct : ¬ (r.taken = 0 ∧ pkAgm r.cmd.packet = true) := by
    rintro ⟨first, gathered⟩
    rw [at_.taken] at first
    rw [at_.of, (pos_of_indexBeats first).1] at gathered
    cases gathered
  have due : panelBeat r.cmd.packet r.taken = some (j % pairBeats cmd.packet, j / pairBeats cmd.packet) := by rw [at_.of, at_.taken, panelBeat_eq inside]
  have sound : ((s.meAt k y).pairRecord k r (j / pairBeats cmd.packet)).badPanel = false := by
    rw [← runs.sound (j / pairBeats cmd.packet) (Nat.div_lt_of_lt_mul (by rwa [Nat.mul_comm])), Chip.readPanels_clean runs.clean]
    refine badPanel_congr at_.of ?_ ?_
    · rw [Chip.pairRecord, at_.of, at_.idx]; rfl
    · rw [Chip.pairRecord, at_.of]; rfl
  rw [runs.meStep at_.of (congrArg EngineQueue.running me) ve job]
  exact Chip.mmaStep_panel (y := y) (m := s.scratch) runs.clean direct at_.begins due sound

/-- The beats from beat j of the panel pairs on: the last ends with the sum over all of them. -/
theorem MmaAt.steps (runs : MmaRuns s k cmd) (at_ : MmaAt s k cmd rest j y r) (d : Nat) (all : j + d + 1 = mmaPanels cmd.packet * pairBeats cmd.packet) :
    ∃ r₁ r₂ : Running, r₁.cmd = cmd ∧ r₂.cmd = cmd ∧ (s.meAt k y).meSteps k (d + 1) =
      ((s.meAt k ((s.core k).summed r₁ rest (mmaSum s k cmd))).mmaEnd k r₂).1.mePush k r₁
        ((s.meAt k ((s.core k).summed r₁ rest (mmaSum s k cmd))).mmaEnd k r₂).2 .finished := by
  have length := cmdLength_mma runs.engine runs.opcode
  induction d generalizing j y r with
  | zero =>
    have step := at_.step runs (by omega)
    have panels : (j + 1) / pairBeats cmd.packet = mmaPanels cmd.packet := by
      rw [show j + 1 = mmaPanels cmd.packet * pairBeats cmd.packet by omega, Nat.mul_div_cancel _ (pairBeats_pos cmd.packet)]
    rw [if_neg (by rw [Chip.beatShare_taken, Chip.beatShare_len, at_.taken, at_.len]; omega), at_.beat runs, panels, ← mmaSum_eq_mmaTo] at step
    refine ⟨r, s.beatShare k r (j % pairBeats cmd.packet) (j / pairBeats cmd.packet), at_.of, (Chip.beatShare_cmd ..).trans at_.of, ?_⟩
    simp only [Chip.meSteps, Chip.meAt_core, at_.me.1, step]
  | succ d ih =>
    have step := at_.step runs (by omega)
    rw [if_pos (by rw [Chip.beatShare_taken, Chip.beatShare_len, at_.taken, at_.len]; omega)] at step
    obtain ⟨r₁, r₂, of₁, of₂, ends⟩ := ih (at_.next runs rfl) (by omega)
    refine ⟨r₁, r₂, of₁, of₂, ?_⟩
    rw [← ends, Chip.meSteps]
    simp only [Chip.meAt_core, at_.me.1, step]

end

end Sys2Proof.Machine
end

section
/-! What an mma leaves (R136 to R141). -/

namespace Sys2Proof.Machine

open Host

section
variable {s : State} {k : CoreId} {cmd : EngineCmd} {rest : List EngineCmd}

theorem EngineReady.mmaRuns (ready : EngineReady s k .me 1 cmd rest) (checks : meChecks cmd.packet = []) (begins : (s.chip.core k).meBegin cmd (s.chip.mmaIdx k cmd) = none)
    (sound : ∀ i, i < mmaPanels cmd.packet → ((s.chip.readPanels k false [] { cmd := cmd, idx := s.chip.mmaIdx k cmd } i).2).badPanel = false) : MmaRuns s.chip k cmd := by
  obtain ⟨⟨-, -, ve, -, -, job, -, -, -, engine, opcode, -⟩, clean⟩ := ready
  exact ⟨clean, job, ve, engine, opcode, checks, begins, sound⟩

theorem MmaRuns.readIndices {s : Chip} (runs : MmaRuns s k cmd) (gathered : pkAgm cmd.packet = true) (y : Core) : ((s.meAt k y).readIndices k false [] cmd 32).2 = s.mmaIdx k cmd := by
  rw [Chip.mmaIdx, if_pos gathered, Chip.readIndices, Chip.readIndices, Chip.engineRead_clean runs.clean, Chip.engineRead_clean (s := s.meAt k y) runs.clean]
  rfl

/-- The registers when the mma is taken up. -/
def Core.mmaFront (x : Core) (cmd : EngineCmd) (rest : List EngineCmd) : Core := { x with me := ⟨some (x.runOf .me cmd), rest⟩ }

theorem MmaRuns.whole {s : Chip} (runs : MmaRuns s k cmd) :
    ∃ r₁ r₂ : Running, r₁.cmd = cmd ∧ r₂.cmd = cmd ∧ (s.meAt k ((s.core k).mmaFront cmd rest)).meSteps k (cmdLength cmd.packet) =
      ((s.meAt k ((s.core k).summed r₁ rest (mmaSum s k cmd))).mmaEnd k r₂).1.mePush k r₁
        ((s.meAt k ((s.core k).summed r₁ rest (mmaSum s k cmd))).mmaEnd k r₂).2 .finished := by
  have length := cmdLength_mma runs.engine runs.opcode
  have some_ : 0 < mmaPanels cmd.packet * pairBeats cmd.packet := Nat.mul_pos (Nat.succ_pos _) (pairBeats_pos _)
  obtain ⟨d, beats⟩ := Nat.exists_eq_succ_of_ne_zero (Nat.ne_of_gt some_)
  have opened : ((s.core k).mmaFront cmd rest).meOpen ((s.core k).runOf .me cmd) = (s.core k).summed ((s.core k).runOf .me cmd) rest (s.mmaTo k cmd (0 / pairBeats cmd.packet)) := by
    rw [Core.meOpen, if_pos (show ((s.core k).runOf .me cmd).taken = 0 from rfl), Nat.zero_div]
    have kept : (s.core k).flags ||| (0 : BitVec 8) = (s.core k).flags := BitVec.or_zero
    simp only [Core.summed, Chip.mmaTo, List.range_zero, List.foldl_nil, kept]
    rfl
  cases gathered : pkAgm cmd.packet with
  | false =>
    have at_ : MmaAt s k cmd rest 0 ((s.core k).mmaFront cmd rest) ((s.core k).runOf .me cmd) :=
      ⟨rfl, by rw [Chip.mmaIdx, gathered]; rfl, by rw [indexBeats, gathered]; rfl, rfl, opened, fun _ => by
        have begins := runs.begins
        rw [Chip.mmaIdx, gathered] at begins
        exact begins, fun middle => absurd (Nat.zero_mod _) middle⟩
    rw [length, indexBeats, gathered, beats]
    simpa using at_.steps runs d (by omega)
  | true =>
    let r : Running := { (s.core k).runOf .me cmd with idx := s.mmaIdx k cmd, taken := 1 }
    have indices := runs.readIndices gathered ((s.core k).mmaFront cmd rest)
    have first : (s.meAt k ((s.core k).mmaFront cmd rest)).meStep k false =
        (s.meAt k ((((s.core k).mmaFront cmd rest).meOpen ((s.core k).runOf .me cmd)).setMe r), none, .going) := by
      rw [runs.meStep (y := (s.core k).mmaFront cmd rest) (r := (s.core k).runOf .me cmd) rfl rfl rfl rfl]
      have step := Chip.mmaStep_indices (s := s) (k := k) (y := (s.core k).mmaFront cmd rest) (r := (s.core k).runOf .me cmd) (m := s.scratch) runs.clean rfl gathered
        (show 1 < cmdLength cmd.packet by rw [length, indexBeats, gathered, if_pos rfl]; omega) ((congrArg _ indices).trans runs.begins)
      refine step.trans ?_
      simp only [r, ← indices]
      rfl
    have at_ : MmaAt s k cmd rest 0 ((((s.core k).mmaFront cmd rest).meOpen ((s.core k).runOf .me cmd)).setMe r) r := by
      refine ⟨rfl, rfl, by rw [indexBeats, gathered]; rfl, rfl, ?_, fun first => absurd first Nat.one_ne_zero, fun middle => absurd (Nat.zero_mod _) middle⟩
      rw [Core.meOpen, if_neg (show ¬ r.taken = 0 from Nat.one_ne_zero), opened]
      rfl
    obtain ⟨r₁, r₂, of₁, of₂, ends⟩ := at_.steps runs d (by omega)
    refine ⟨r₁, r₂, of₁, of₂, ?_⟩
    rw [← ends, length, indexBeats, gathered, if_pos rfl, beats, Nat.add_comm 1]
    have running : ((s.meAt k ((s.core k).mmaFront cmd rest)).core k).me.running = some ((s.core k).runOf .me cmd) := by rw [Chip.meAt_core]; rfl
    rw [Chip.meSteps]
    simp only [running, first]

/-- The end of an mma: its accumulator stays under HOLD, and leaves as the newest tile elsewhere. -/
theorem mma_done (ready : EngineReady s k .me 1 cmd rest) (checks : meChecks cmd.packet = []) (begins : (s.chip.core k).meBegin cmd (s.chip.mmaIdx k cmd) = none)
    (sound : ∀ i, i < mmaPanels cmd.packet → ((s.chip.readPanels k false [] { cmd := cmd, idx := s.chip.mmaIdx k cmd } i).2).badPanel = false)
    (room : mmaHold cmd.packet = true ∨ (s.chip.core k).tiles.length < 4) :
    ∃ t, Runs (.mma k) s t ∧ SameMemory s t ∧ (∀ j, j ≠ k → t.chip.core j = s.chip.core j) ∧
      t.chip.core k =
        if mmaHold cmd.packet then { s.chip.core k with me := ⟨none, rest⟩, acc := some (mmaSum s.chip k cmd).1, flags := (s.chip.core k).flags ||| (mmaSum s.chip k cmd).2 }
        else { s.chip.core k with
          me := ⟨none, rest⟩, acc := none, tiles := (s.chip.core k).tiles ++ [((s.chip.core k).leave cmd.packet (mmaSum s.chip k cmd).1).1],
          flags := (s.chip.core k).flags ||| (mmaSum s.chip k cmd).2 ||| ((s.chip.core k).leave cmd.packet (mmaSum s.chip k cmd).1).2 } := by
  obtain ⟨⟨-, -, -, -, -, -, -, -, -, -, -, unsigned⟩, clean⟩ := id ready
  obtain ⟨r₁, r₂, of₁, of₂, steps⟩ := (ready.mmaRuns checks begins sound).whole (rest := rest)
  have whole {v : Chip} (ends : ((s.chip.meAt k ((s.chip.core k).summed r₁ rest (mmaSum s.chip k cmd))).mmaEnd k r₂).1.mePush k r₁
      ((s.chip.meAt k ((s.chip.core k).summed r₁ rest (mmaSum s.chip k cmd))).mmaEnd k r₂).2 .finished = (v, [])) : s.chip.meWhole k 1 = v := by
    have front : s.chip.updCore k (fun x => x.setQueue .me ⟨some (x.runOf .me cmd), rest⟩) = s.chip.meAt k ((s.chip.core k).mmaFront cmd rest) := rfl
    rw [Chip.meWhole, Chip.takeUp_waits ready.1, front]
    simp only [Chip.meAt_core]
    exact congrArg (fun r => r.1.report k r.2) (steps.trans ends)
  cases hold : mmaHold cmd.packet with
  | true =>
    refine ⟨_, onChip_next _ _, ?_⟩
    rw [whole (v := s.chip.meAt k (((s.chip.core k).summed r₁ rest (mmaSum s.chip k cmd)).idle .me)) (by
      simp only [Chip.mmaEnd, of₂, hold, if_true, Chip.mePush, Chip.conclude, Chip.meAt, Chip.withCore_updCore, Chip.complete_unsigned (of₁ ▸ unsigned)])]
    exact ⟨⟨rfl, rfl, rfl, rfl⟩, fun j other => Chip.withCore_core_other _ _ _ _ other, by simp only [Chip.meAt_core, if_true]; rfl⟩
  | false =>
    let z : Core := { (s.chip.core k).summed r₁ rest (mmaSum s.chip k cmd) with
      acc := none, flags := (s.chip.core k).flags ||| (mmaSum s.chip k cmd).2 ||| ((s.chip.core k).leave cmd.packet (mmaSum s.chip k cmd).1).2,
      tiles := (s.chip.core k).tiles ++ [((s.chip.core k).leave cmd.packet (mmaSum s.chip k cmd).1).1] }
    obtain ⟨stores, cores⟩ := (s.chip.meAt k z).coreEvent_frame k 7 1
    have few : (s.chip.core k).tiles.length < 4 := room.resolve_left (by rw [hold]; decide)
    refine ⟨_, onChip_next _ _, ?_⟩
    rw [whole (v := ((s.chip.meAt k z).coreEvent k 7 1).updCore k (fun x => x.idle .me)) (by
      have tile : (s.chip.meAt k ((s.chip.core k).summed r₁ rest (mmaSum s.chip k cmd))).mmaEnd k r₂ =
          (s.chip.meAt k { z with tiles := (s.chip.core k).tiles }, some ((s.chip.core k).leave cmd.packet (mmaSum s.chip k cmd).1).1) := by
        simp only [Chip.mmaEnd, of₂, hold, Bool.false_eq_true, if_false, Chip.meAt_core, Core.summed]
        rw [Chip.meAt, Chip.withCore_updCore]
        rfl
      have pushed : (s.chip.meAt k { z with tiles := (s.chip.core k).tiles }).updCore k (fun x => { x with tiles := x.tiles ++ [((s.chip.core k).leave cmd.packet (mmaSum s.chip k cmd).1).1] }) =
          s.chip.meAt k z := Chip.withCore_updCore ..
      simp only [tile, Chip.mePush, Chip.meAt_core, few, if_true, pushed, Chip.conclude, Chip.complete_unsigned (of₁ ▸ unsigned)])]
    refine ⟨sameMemory_of_stores stores rfl, fun j other => ?_, ?_⟩
    · rw [Chip.updCore_core_other _ _ _ _ other, cores]
      exact Chip.withCore_core_other _ _ _ _ other
    · rw [Chip.updCore_core_same, cores, Chip.meAt_core]
      rfl

end

end Sys2Proof.Machine
end

section
/-! An engine's fault stops the step of its cluster (R121 to R123, R155): what it leaves as it was. -/

namespace Sys2Proof.Machine

open Host

/-- A core's registers without its queues. -/
def Core.unqueued (x : Core) : Core := { x with me := {}, ve := {}, de := {}, tq := {} }

theorem Core.kept_of_unqueued {x y : Core} (same : x.unqueued = y.unqueued) : x.scaleA = y.scaleA ∧ x.scaleB = y.scaleB ∧ x.tiles = y.tiles := by
  simp only [Core.unqueued, Core.mk.injEq] at same
  tauto

/-- What the fault of an engine leaves of a chip: its memories, and its cores but for their queues. -/
def Chip.unfaulted (s : Chip) : (Memory × Memory × Memory) × (CoreId → Core) := (s.stores, fun k => (s.core k).unqueued)

theorem Chip.unfaulted_of_eq {s u : Chip} (stores : u.stores = s.stores) (cores : u.cores = s.cores) : u.unfaulted = s.unfaulted := by
  have core : u.core = s.core := by
    funext k
    rw [Chip.core, cores]
    rfl
  rw [Chip.unfaulted, Chip.unfaulted, stores, core]

theorem Chip.updCore_unfaulted (s : Chip) (k : CoreId) (f : Core → Core) (queues : ∀ x, (f x).unqueued = x.unqueued) : (s.updCore k f).unfaulted = s.unfaulted := by
  have cores : (fun j => ((s.updCore k f).core j).unqueued) = fun j => (s.core j).unqueued := by
    funext j
    rw [Chip.updCore_core]
    split
    next own => rw [own, queues]
    next => rfl
  rw [Chip.unfaulted, cores]
  rfl

theorem Chip.emit_unfaulted (s : Chip) (d : DieId) (dome : DomeId) (source : Nat) (r : TraceRec) : (s.emit d dome source r).unfaulted = s.unfaulted := by
  obtain ⟨v, e⟩ := s.emit_records d dome source r
  rw [e]
  rfl

theorem Chip.faultTrace_unfaulted (s : Chip) (c : ClusterId) (code : FaultCode) (tag : BitVec 16) (pc : Nat) : (s.faultTrace c code tag pc).unfaulted = s.unfaulted := by
  rw [Chip.faultTrace]
  split
  · exact s.emit_unfaulted ..
  · rfl

theorem Chip.stopCause_unfaulted (s : Chip) (c : ClusterId) (code : FaultCode) (tag : BitVec 16) : (s.stopCause c code tag).unfaulted = s.unfaulted :=
  Chip.unfaulted_of_eq rfl rfl

theorem Chip.errAll_unfaulted (s : Chip) (b : Block) (es : List ErrorInfo) : (s.errAll b es).unfaulted = s.unfaulted :=
  Chip.unfaulted_of_eq (by simp [Chip.stores]) (by simp)

theorem Chip.discardWaiting_kept (s : Chip) (c : ClusterId) : (s.discardWaiting c).unfaulted = s.unfaulted ∧ (s.discardWaiting c).cluster = s.cluster := by
  rw [Chip.discardWaiting]
  refine ⟨foldl_keeps Chip.unfaulted _ _ _ fun u i => u.updCore_unfaulted (coreOf c i) _ fun x => rfl, foldl_keeps Chip.cluster _ _ _ fun u i => ?_⟩
  simp only [Chip.updCore_cluster]

theorem Chip.halt_unfaulted (s : Chip) (c : ClusterId) (stop : StopKind) : (s.halt c stop).unfaulted = s.unfaulted := by
  rw [Chip.halt]
  exact (Chip.discardWaiting_kept _ c).1

theorem Chip.halt_stop (s : Chip) (c : ClusterId) : ((s.halt c .faulted).cluster c).stop = some .faulted := by
  simp only [Chip.halt, (Chip.discardWaiting_kept _ c).2, Chip.updCluster_cluster_same, true_or, if_true]

/-- A fault of an engine's command stops the step, and leaves memories and registers as they were. -/
theorem Chip.report_fault (s : Chip) (k : CoreId) (e : EngineError) :
    (s.report k [e]).unfaulted = s.unfaulted ∧ ((s.report k [e]).cluster (clusterOf k)).stop = some .faulted := by
  have stopped : s.report k [e] = ((((s.coreErrors k [e]).faultTrace (clusterOf k) e.code (pkTag e.cmd.packet) e.cmd.pc).errAll (.clusterSeq (clusterOf k)) [e.onCluster k]).stopCause
    (clusterOf k) e.code (pkTag e.cmd.packet)).halt (clusterOf k) .faulted := rfl
  rw [stopped]
  refine ⟨?_, Chip.halt_stop ..⟩
  rw [Chip.halt_unfaulted, Chip.stopCause_unfaulted, Chip.errAll_unfaulted, Chip.faultTrace_unfaulted]
  exact Chip.errAll_unfaulted ..

/-- A state whose chip is left by the fault of an engine, from a chip that differs from another's in queues of a core. -/
theorem stopped_of_report {s : State} {k : CoreId} {u : Chip} (e : EngineError) (left : u.unfaulted = s.chip.unfaulted) :
    SameMemory s { s with chip := u.report k [e] } ∧ ((u.report k [e]).cluster (clusterOf k)).stop = some .faulted ∧ ∀ j, ((u.report k [e]).core j).unqueued = (s.chip.core j).unqueued := by
  obtain ⟨unfaulted, stop⟩ := u.report_fault k e
  rw [left] at unfaulted
  exact ⟨sameMemory_of_stores (congrArg Prod.fst unfaulted) rfl, stop, fun j => congrFun (congrArg Prod.snd unfaulted) j⟩

theorem Chip.meAt_unfaulted (s : Chip) (k : CoreId) {y : Core} (kept : y.unqueued = (s.core k).unqueued) : (s.meAt k y).unfaulted = s.unfaulted := by
  refine Prod.ext rfl (funext fun j => ?_)
  by_cases own : j = k
  · subst own
    exact (congrArg Core.unqueued (Chip.withCore_core ..)).trans kept
  · exact congrArg Core.unqueued (Chip.withCore_core_other _ _ _ _ own)

/-! ## mscale (R137) -/

section
variable {s : State} {k : CoreId} {cmd : EngineCmd} {rest : List EngineCmd}

theorem cmdLength_mscale {p : BitVec 128} (engine : pkEngine p = .me) (opcode : pkOpcode p = 2) : cmdLength p = 1 := by
  simp [cmdLength, engine, opcode]

/-- mscale is one step of the matrix engine. -/
theorem mscale_whole {u : Chip} {e : StepEnd} {es : List EngineError} {v : Chip} (waits : EngineWaits s k .me 2 cmd rest)
    (step : (s.chip.meAt k ((s.chip.core k).mmaFront cmd rest)).meStep k false = (u, none, e)) (ends : e ≠ .going) (ended : u.conclude k .me cmd e = (v, es)) :
    s.chip.meWhole k 2 = v.report k es := by
  obtain ⟨-, -, -, -, -, -, -, -, -, engine, opcode, -⟩ := id waits
  have front : s.chip.updCore k (fun x => x.setQueue .me ⟨some (x.runOf .me cmd), rest⟩) = s.chip.meAt k ((s.chip.core k).mmaFront cmd rest) := rfl
  have steps : (s.chip.meAt k ((s.chip.core k).mmaFront cmd rest)).meSteps k (cmdLength cmd.packet) = (v, es) := by
    have running : ((s.chip.meAt k ((s.chip.core k).mmaFront cmd rest)).core k).me.running = some ((s.chip.core k).runOf .me cmd) := by rw [Chip.meAt_core]; rfl
    rw [cmdLength_mscale engine opcode, Chip.meSteps]
    simp only [running, step]
    cases e with
    | going => exact absurd rfl ends
    | finished => exact ended
    | faulted c => exact ended
  rw [Chip.meWhole, Chip.takeUp_waits waits, front]
  simp only [Chip.meAt_core]
  exact congrArg (fun r => r.1.report k r.2) steps

theorem mscale_guarded (waits : EngineWaits s k .me 2 cmd rest) :
    (s.chip.meAt k ((s.chip.core k).mmaFront cmd rest)).meStep k false =
      (s.chip.meAt k ((s.chip.core k).mmaFront cmd rest)).guarded k (fun u => u.mscaleStep k false [] ((s.chip.core k).runOf .me cmd)) (fun c =>
        (s.chip.meAt k ((s.chip.core k).mmaFront cmd rest), none, .faulted c)) := by
  obtain ⟨-, -, ve, -, -, job, -, -, -, -, opcode, -⟩ := waits
  have running : ((s.chip.meAt k ((s.chip.core k).mmaFront cmd rest)).core k).me.running = some ((s.chip.core k).runOf .me cmd) := by rw [Chip.meAt_core]; rfl
  have busy : ((s.chip.meAt k ((s.chip.core k).mmaFront cmd rest)).core k).veWrites ++ ((s.chip.meAt k ((s.chip.core k).mmaFront cmd rest)).core k).deWrites = [] := by
    rw [Chip.meAt_core, Core.veWrites, Core.deWrites, show ((s.chip.core k).mmaFront cmd rest).ve.running = none from ve, show ((s.chip.core k).mmaFront cmd rest).job = none from job]
    rfl
  rw [Chip.meStep]
  simp only [running, busy]
  exact if_neg (show ¬ pkOpcode cmd.packet = 1 by rw [opcode]; decide)

theorem mscale_step (ready : EngineReady s k .me 2 cmd rest) :
    (s.chip.meAt k ((s.chip.core k).mmaFront cmd rest)).meStep k false =
      let a : Word32 := BitVec.ofNat 32 (leNat (s.chip.scratchRead k cmd.a.toNat 4))
      let b : Word32 := BitVec.ofNat 32 (leNat (s.chip.scratchRead k (cmd.a.toNat + 4) 4))
      if tensorScaleOk a && tensorScaleOk b then (s.chip.meAt k { (s.chip.core k).mmaFront cmd rest with scaleA := a, scaleB := b }, none, .finished)
      else (s.chip.meAt k ((s.chip.core k).mmaFront cmd rest), none, .faulted Code.tensorScale) := by
  obtain ⟨waits, clean⟩ := ready
  have low : (s.chip.scratchRead k cmd.a.toNat 8).take 4 = s.chip.scratchRead k cmd.a.toNat 4 := Chip.scratchRead_slice clean cmd.a.toNat (show 0 + 4 ≤ 8 by omega)
  have high : (s.chip.scratchRead k cmd.a.toNat 8).drop 4 = s.chip.scratchRead k (cmd.a.toNat + 4) 4 := by
    rw [← Chip.scratchRead_slice clean cmd.a.toNat (show 4 + 4 ≤ 8 by omega), List.take_of_length_le]
    rw [List.length_drop, Chip.length_scratchRead clean]
  have read : (s.chip.meAt k ((s.chip.core k).mmaFront cmd rest)).engineRead k false [] cmd.a.toNat 8 =
      (s.chip.meAt k ((s.chip.core k).mmaFront cmd rest), s.chip.scratchRead k cmd.a.toNat 8) := Chip.engineRead_clean (s := s.chip.meAt k _) clean ..
  rw [mscale_guarded waits]
  refine (Chip.guarded_clean (s.chip.meAt k _) _ _ _ clean).trans ?_
  simp only [Chip.mscaleStep, show ((s.chip.core k).runOf .me cmd).cmd = cmd from rfl, read, low, high]
  rw [Chip.meAt, Chip.withCore_updCore]
  rfl

theorem mscale_sets (ready : EngineReady s k .me 2 cmd rest) {a b : Word32} (first : BitVec.ofNat 32 (leNat (s.chip.scratchRead k cmd.a.toNat 4)) = a)
    (second : BitVec.ofNat 32 (leNat (s.chip.scratchRead k (cmd.a.toNat + 4) 4)) = b) (okA : tensorScaleOk a = true) (okB : tensorScaleOk b = true) :
    ∃ t, Runs (.mscale k) s t ∧ OnlyCore k s t ∧ t.chip.core k = { s.chip.core k with me := ⟨none, rest⟩, scaleA := a, scaleB := b } := by
  obtain ⟨-, -, -, -, -, -, -, -, -, -, -, unsigned⟩ := ready.1
  have step := mscale_step ready
  simp only [first, second, okA, okB, Bool.and_self, if_true] at step
  have whole := mscale_whole (v := s.chip.meAt k (({ (s.chip.core k).mmaFront cmd rest with scaleA := a, scaleB := b } : Core).idle .me)) (es := []) ready.1 step (by decide) (by
    simp only [Chip.conclude, Chip.meAt, Chip.withCore_updCore, Chip.complete_unsigned unsigned])
  refine ⟨_, onChip_next _ _, ?_⟩
  rw [whole]
  exact ⟨OnlyCore.of_withCore s k _, Chip.meAt_core ..⟩

/-- An mscale that faults. -/
theorem mscale_stops {c : FaultCode} {y : Core} (waits : EngineWaits s k .me 2 cmd rest) (kept : y.unqueued = (s.chip.core k).unqueued)
    (step : (s.chip.meAt k ((s.chip.core k).mmaFront cmd rest)).meStep k false = (s.chip.meAt k y, none, .faulted c)) :
    ∃ t, Runs (.mscale k) s t ∧ SameMemory s t ∧ (t.chip.cluster (clusterOf k)).stop = some .faulted ∧
      (t.chip.core k).scaleA = (s.chip.core k).scaleA ∧ (t.chip.core k).scaleB = (s.chip.core k).scaleB := by
  have whole := mscale_whole (v := s.chip.meAt k (y.idle .me)) (es := [{ code := c, cmd := cmd }]) waits step (by simp) (by
    simp only [Chip.conclude, Chip.meAt, Chip.withCore_updCore])
  obtain ⟨memory, stop, cores⟩ := stopped_of_report (k := k) { code := c, cmd := cmd } (Chip.meAt_unfaulted (y := y.idle .me) s.chip k kept)
  obtain ⟨scaleA, scaleB, -⟩ := Core.kept_of_unqueued (cores k)
  refine ⟨_, onChip_next _ _, ?_⟩
  rw [whole]
  exact ⟨memory, stop, scaleA, scaleB⟩

theorem mscale_refuses (ready : EngineReady s k .me 2 cmd rest)
    (bad : (tensorScaleOk (BitVec.ofNat 32 (leNat (s.chip.scratchRead k cmd.a.toNat 4))) && tensorScaleOk (BitVec.ofNat 32 (leNat (s.chip.scratchRead k (cmd.a.toNat + 4) 4)))) = false) :
    ∃ t, Runs (.mscale k) s t ∧ SameMemory s t ∧ (t.chip.cluster (clusterOf k)).stop = some .faulted ∧
      (t.chip.core k).scaleA = (s.chip.core k).scaleA ∧ (t.chip.core k).scaleB = (s.chip.core k).scaleB := by
  have step := mscale_step ready
  simp only [bad, Bool.false_eq_true, if_false] at step
  exact mscale_stops (y := (s.chip.core k).mmaFront cmd rest) ready.1 rfl step

/-- A bad codeword under the operand is what the step meets. -/
theorem mscale_meets {f : FaultCode} (waits : EngineWaits s k .me 2 cmd rest) (bad : s.chip.scratchBad k cmd.a.toNat 8 = some f) :
    ∃ t, Runs (.mscale k) s t ∧ SameMemory s t ∧ (t.chip.cluster (clusterOf k)).stop = some .faulted ∧
      (t.chip.core k).scaleA = (s.chip.core k).scaleA ∧ (t.chip.core k).scaleB = (s.chip.core k).scaleB := by
  have unclean : s.chip.scratchErrors ≠ [] := fun clean => by
    rw [Chip.scratchBad_clean _ _ _ _ clean] at bad
    cases bad
  have meets (y : Core) : (s.chip.meAt k y).engineRead k false [] cmd.a.toNat 8 = (s.chip.meAt k { y with badRead := some f }, List.replicate 8 0) := by
    have there : (s.chip.meAt k y).scratchBad k cmd.a.toNat 8 = some f := bad
    rw [Chip.engineRead, there]
    simp only [Bool.false_eq_true, if_false]
    rw [Chip.meAt, Chip.withCore_updCore]
    rfl
  refine mscale_stops (c := f) waits (y := (s.chip.core k).mmaFront cmd rest) rfl ?_
  rw [mscale_guarded waits]
  refine (if_neg unclean).trans ?_
  have fresh : (s.chip.meAt k ((s.chip.core k).mmaFront cmd rest)).updCore k (fun x => { x with badRead := none }) =
      s.chip.meAt k { (s.chip.core k).mmaFront cmd rest with badRead := none } := Chip.withCore_updCore ..
  have noted (q : Chip × Option Tile × StepEnd) (met : q.1.core k = { (s.chip.core k).mmaFront cmd rest with badRead := some f }) :
      (match (q.1.core k).badRead with
        | none => q
        | some c => (s.chip.meAt k ((s.chip.core k).mmaFront cmd rest), none, .faulted c)) = (s.chip.meAt k ((s.chip.core k).mmaFront cmd rest), none, .faulted f) := by
    rw [met]
  refine (noted _ ?_).trans rfl
  simp only [fresh, Chip.mscaleStep, show ((s.chip.core k).runOf .me cmd).cmd = cmd from rfl, meets]
  rw [if_neg (by decide), Chip.meAt_core]

end

end Sys2Proof.Machine
end

section
/-! An INT8 mma of one panel pair is exact (R75, R89, R135, R136). -/

namespace Sys2Proof.Machine

open Host

/-! ## A group of integer products -/

/-- The term of a product in an integer group. -/
def intTerm (x : Num) : Int := match x with | .fin n m e => scaled n m e 0 | _ => 0

theorem intTerm_mul (a b : Int) : intTerm (.mul (.ofInt a) (.ofInt b)) = a * b := by
  rcases Int.lt_or_le a 0 with na | na <;> rcases Int.lt_or_le b 0 with nb | nb <;>
    simp [intTerm, Num.ofInt, Num.mul, scaled, na, nb, not_lt.mpr, abs_of_neg, abs_of_nonneg]

theorem intValue_bounds (b : Nat) : -128 ≤ intValue 8 b ∧ intValue 8 b ≤ 127 := by
  have low := BitVec.le_toInt (BitVec.ofNat 8 b)
  have high := BitVec.toInt_lt (x := BitVec.ofNat 8 b)
  rw [intValue]
  omega

theorem product_bounds {a b : Int} (ha : -128 ≤ a ∧ a ≤ 127) (hb : -128 ≤ b ∧ b ≤ 127) : -16384 ≤ a * b ∧ a * b ≤ 16384 := by
  constructor <;> nlinarith [ha.1, ha.2, hb.1, hb.2]

/-- A sum of 32 terms within 16,384 of zero. -/
theorem sum_bounds (f : Nat → Int) (n : Nat) (terms : ∀ j, -16384 ≤ f j ∧ f j ≤ 16384) :
    -16384 * (n : Int) ≤ ((List.range n).map f).foldl (· + ·) 0 ∧ ((List.range n).map f).foldl (· + ·) 0 ≤ 16384 * (n : Int) := by
  induction n with
  | zero => simp
  | succ n ih =>
    obtain ⟨low, high⟩ := terms n
    rw [List.range_succ, List.map_append, List.foldl_append]
    simp only [List.map_cons, List.map_nil, List.foldl_cons, List.foldl_nil]
    omega

/-- A group of products of 32 pairs of bytes, added to +0, does not saturate. -/
theorem accStepInt_exact {f g : Nat → Int} (bytesF : ∀ j, -128 ≤ f j ∧ f j ≤ 127) (bytesG : ∀ j, -128 ≤ g j ∧ g j ≤ 127) :
    accStepInt 0 (List.zipWith Num.mul ((List.range 32).map (fun j => .ofInt (f j))) ((List.range 32).map (fun j => .ofInt (g j)))) =
      (BitVec.ofInt 32 (((List.range 32).map (fun j => f j * g j)).foldl (· + ·) 0), 0) := by
  have products : List.zipWith Num.mul ((List.range 32).map (fun j => .ofInt (f j))) ((List.range 32).map (fun j => .ofInt (g j))) =
      (List.range 32).map (fun j => .mul (.ofInt (f j)) (.ofInt (g j))) := by rw [List.zipWith_map, List.zipWith_self]
  have group : (List.zipWith Num.mul ((List.range 32).map (fun j => .ofInt (f j))) ((List.range 32).map (fun j => .ofInt (g j)))).foldl (fun a x => a + intTerm x) 0 =
      ((List.range 32).map (fun j => f j * g j)).foldl (· + ·) 0 := by
    simp only [products, List.foldl_map, intTerm_mul]
  obtain ⟨low, high⟩ := sum_bounds (fun j => f j * g j) 32 fun j => product_bounds (bytesF j) (bytesG j)
  generalize ((List.range 32).map (fun j => f j * g j)).foldl (· + ·) 0 = sum at *
  have step (l : List Num) (is : l.foldl (fun a x => a + intTerm x) 0 = sum) : accStepInt 0 l = (BitVec.ofInt 32 sum, 0) := by
    have total : (0 : Word32).toInt + l.foldl (fun a x => a + intTerm x) 0 = sum := by rw [is]; exact Int.zero_add _
    have unfolded : accStepInt 0 l = if (0 : Word32).toInt + l.foldl (fun a x => a + intTerm x) 0 < -(2 ^ 31 : Int) then (0x80000000, meOverflow)
      else if (2 ^ 31 : Int) ≤ (0 : Word32).toInt + l.foldl (fun a x => a + intTerm x) 0 then (0x7FFFFFFF, meOverflow)
      else (BitVec.ofInt 32 ((0 : Word32).toInt + l.foldl (fun a x => a + intTerm x) 0), 0) := rfl
    rw [unfolded, total, if_neg (by omega), if_neg (by omega)]
  exact step _ group

/-! ## Rows of a panel -/

theorem mapM_some {α : Type} (l : List α) : (l.map some).mapM id = some l := by
  induction l with
  | nil => rfl
  | cons x xs ih => rw [List.map_cons, List.mapM_cons, ih]; rfl

theorem panelRow_some {f : Nat → Option Num} {g : Nat → Num} {r : Nat} (row : r < 32) (values : ∀ j, j < 32 → f (32 * r + j) = some (g j)) :
    panelRow ((List.range 1024).map f) r = some ((List.range 32).map g) := by
  have part : (((List.range 1024).map f).drop (32 * r)).take 32 = ((List.range 32).map g).map some := by
    refine List.ext_getElem? fun j => ?_
    rw [List.getElem?_take]
    split
    next inside =>
      rw [List.getElem?_drop, List.getElem?_map, List.getElem?_map, List.getElem?_map, List.getElem?_range (by omega), List.getElem?_range inside]
      exact congrArg some (values j inside)
    next outside => exact (List.getElem?_eq_none (by simpa using outside)).symm
  rw [panelRow, part, mapM_some]

section
variable {s : State} {k : CoreId} {cmd : EngineCmd} {rest : List EngineCmd}

/-- A row of an INT8 panel that the scratchpad holds. -/
theorem panelRow_int8 (clean : s.chip.scratchErrors = []) (base : Nat) {r : Nat} (row : r < 32) :
    panelRow (Machine.panelOf 8 (s.chip.panelOf k 8 base 0)) r = some ((List.range 32).map (fun j => .ofInt (intValue 8 (laneBits s k base 8 (32 * r + j))))) := by
  refine panelRow_some row fun j inside => ?_
  have bytes : s.chip.panelOf k 8 base 0 = s.chip.scratchRead k base (1024 * (elemBits 8 / 8)) := by
    rw [Chip.panelOf, Nat.zero_mul, Nat.add_zero]
    rfl
  rw [bytes]
  exact elemAt_scratchRead clean (by decide) base (by omega)

/-- An INT8 mma of one panel pair that starts from an empty accumulator and leaves its tile to the queue. -/
structure Int8Mma (s : State) (k : CoreId) (cmd : EngineCmd) (rest : List EngineCmd) : Prop where
  ready : EngineReady s k .me 1 cmd rest
  checks : meChecks cmd.packet = []
  format : pkFmtA cmd.packet = 8
  direct : pkAgm cmd.packet = false
  panels : mmaPanels cmd.packet = 1
  fresh : mmaAcc cmd.packet = false

/-- INT8 pairs with itself, accumulates integers, and knows no tensor scale (R133, R137). -/
theorem Int8Mma.formats (int8 : Int8Mma s k cmd rest) : pkFmtB cmd.packet = 8 ∧ mmaInt cmd.packet = true ∧ mmaTsc cmd.packet = false := by
  obtain ⟨-, -, -, -, -, -, -, -, -, -, opcode, -⟩ := int8.ready.1
  obtain ⟨e, pair, unscaled, -⟩ := mma_checked opcode int8.checks
  have b : pkFmtB cmd.packet = 8 ∧ e = (2, true) := by
    rw [int8.format] at pair
    by_cases eight : pkFmtB cmd.packet = 8
    · rw [eight] at pair
      exact ⟨eight, (Option.some.inj pair).symm⟩
    · simp [mePair, eight] at pair
  refine ⟨b.1, ?_, ?_⟩
  · rw [mmaInt, int8.format, b.1]
    rfl
  · rwa [b.2, Bool.and_true] at unscaled

theorem Int8Mma.idx (int8 : Int8Mma s k cmd rest) : s.chip.mmaIdx k cmd = [] := by rw [Chip.mmaIdx, int8.direct]; rfl

theorem Int8Mma.begins (int8 : Int8Mma s k cmd rest) : (s.chip.core k).meBegin cmd (s.chip.mmaIdx k cmd) = none := by
  simp [Core.meBegin, int8.direct, int8.fresh, whenC, lowest]

/-- The record with the panel pair. -/
def Chip.int8Pair (u : Chip) (k : CoreId) (cmd : EngineCmd) : Running := { cmd := cmd, a := u.panelOf k 8 cmd.a.toNat 0, b := u.panelOf k 8 cmd.b.toNat 0 }

theorem Int8Mma.rows (int8 : Int8Mma s k cmd rest) {n : Nat} (inside : n < 32) :
    panelRow (Machine.panelOf (pkFmtA cmd.packet) (s.chip.int8Pair k cmd).a) n = some ((List.range 32).map (fun j => .ofInt (intValue 8 (laneBits s k cmd.a.toNat 8 (32 * n + j))))) ∧
      panelRow (Machine.panelOf (pkFmtB cmd.packet) (s.chip.int8Pair k cmd).b) n = some ((List.range 32).map (fun j => .ofInt (intValue 8 (laneBits s k cmd.b.toNat 8 (32 * n + j))))) := by
  rw [int8.format, int8.formats.1]
  exact ⟨panelRow_int8 int8.ready.2 _ inside, panelRow_int8 int8.ready.2 _ inside⟩

theorem mmaRows_le (p : BitVec 128) : mmaRows p ≤ 32 := by
  have := (field p 23 19).isLt
  rw [mmaRows]
  omega

theorem mmaCols_le (p : BitVec 128) : mmaCols p ≤ 32 := by
  have := (field p 28 24).isLt
  rw [mmaCols]
  omega

theorem Int8Mma.sound (int8 : Int8Mma s k cmd rest) (i : Nat) (one : i < mmaPanels cmd.packet) :
    ((s.chip.readPanels k false [] { cmd := cmd, idx := s.chip.mmaIdx k cmd } i).2).badPanel = false := by
  obtain rfl : i = 0 := by rw [int8.panels] at one; omega
  have fine : (s.chip.int8Pair k cmd).badPanel = false := by
    rw [Running.badPanel, Bool.or_eq_false_iff, List.any_eq_false, List.any_eq_false]
    have rows := mmaRows_le cmd.packet
    have cols := mmaCols_le cmd.packet
    constructor <;> intro n hn
    · rw [show (s.chip.int8Pair k cmd).cmd = cmd from rfl] at hn ⊢
      rw [(int8.rows (n := n) (by have := List.mem_range.mp hn; omega)).1]
      simp
    · rw [show (s.chip.int8Pair k cmd).cmd = cmd from rfl] at hn ⊢
      rw [(int8.rows (n := n) (by have := List.mem_range.mp hn; omega)).2]
      simp
  rw [Chip.readPanels_clean int8.ready.2]
  refine Eq.trans ?_ fine
  refine badPanel_congr rfl ?_ ?_
  · simp only [Chip.pairRecord, Chip.panelA, int8.direct, int8.format, Bool.false_eq_true, if_false, Chip.int8Pair]
  · simp only [Chip.pairRecord, Chip.panelB, int8.formats.1, Chip.int8Pair]

/-- The exact dot product of row r of A and row c of B. -/
def int8Dot (s : State) (k : CoreId) (cmd : EngineCmd) (r c : Nat) : Int :=
  ((List.range 32).map (fun j => intValue 8 (laneBits s k cmd.a.toNat 8 (32 * r + j)) * intValue 8 (laneBits s k cmd.b.toNat 8 (32 * c + j)))).foldl (· + ·) 0

/-- Element n of the accumulator after a panel pair. -/
def Running.elementAfter (r : Running) (acc : List Word32) (n : Nat) : Word32 × BitVec 8 :=
  if mmaRows r.cmd.packet ≤ n / 32 ∨ mmaCols r.cmd.packet ≤ n % 32 then (acc.getD n 0, (0 : BitVec 8)) else
  let ps := List.zipWith Num.mul ((panelRow (Machine.panelOf (pkFmtA r.cmd.packet) r.a) (n / 32)).getD []) ((panelRow (Machine.panelOf (pkFmtB r.cmd.packet) r.b) (n % 32)).getD [])
  if mmaInt r.cmd.packet then accStepInt (acc.getD n 0) ps else accStep (acc.getD n 0) ps

theorem Running.panelStep_data (r : Running) (acc : List Word32) : (r.panelStep acc).1.data = ((List.range 1024).map (r.elementAfter acc)).map (fun e => e.1) := by
  unfold Running.panelStep
  dsimp only
  refine congrArg (List.map _) (congrArg (fun f => List.map f _) (funext fun n => ?_))
  unfold Running.elementAfter mmaInt
  dsimp only

theorem Running.panelStep_isInt (r : Running) (acc : List Word32) : (r.panelStep acc).1.isInt = mmaInt r.cmd.packet := by
  unfold Running.panelStep mmaInt
  dsimp only

theorem Running.panelStep_length (r : Running) (acc : List Word32) : (r.panelStep acc).1.data.length = 1024 := by
  rw [Running.panelStep_data, List.length_map, List.length_map, List.length_range]

theorem Running.panelStep_element (r : Running) (acc : List Word32) {n : Nat} (inside : n < 1024) :
    (r.panelStep acc).1.data[n]? = some (r.elementAfter acc n).1 := by
  rw [Running.panelStep_data, List.getElem?_map, List.getElem?_map, List.getElem?_range inside]
  rfl

theorem Int8Mma.elementAfter (int8 : Int8Mma s k cmd rest) {acc : List Word32} (empty : ∀ n, acc.getD n 0 = 0) {r c : Nat} (row : r < mmaRows cmd.packet) (col : c < mmaCols cmd.packet) :
    (s.chip.int8Pair k cmd).elementAfter acc (32 * r + c) = (BitVec.ofInt 32 (int8Dot s k cmd r c), 0) := by
  have below := mmaRows_le cmd.packet
  have beside := mmaCols_le cmd.packet
  have atR : (32 * r + c) / 32 = r := by omega
  have atC : (32 * r + c) % 32 = c := by omega
  rw [Running.elementAfter, show (s.chip.int8Pair k cmd).cmd = cmd from rfl, atR, atC, if_neg (by omega), (int8.rows (by omega)).1, (int8.rows (by omega)).2, empty]
  simp only [int8.formats.2.1, if_true, Option.getD_some]
  rw [accStepInt_exact (fun j => intValue_bounds _) (fun j => intValue_bounds _)]
  rfl

theorem Chip.mmaTo_zero (u : Chip) (k : CoreId) (cmd : EngineCmd) : u.mmaTo k cmd 0 = (⟨mmaInt cmd.packet, (u.core k).accStart cmd.packet⟩, 0) := rfl

theorem Int8Mma.sum_eq (int8 : Int8Mma s k cmd rest) :
    (mmaSum s.chip k cmd).1 = ((s.chip.int8Pair k cmd).panelStep ((s.chip.core k).accStart cmd.packet)).1 := by
  have runs := int8.ready.mmaRuns int8.checks int8.begins int8.sound
  rw [mmaSum_eq_mmaTo, int8.panels, runs.mmaTo_succ (r := s.chip.int8Pair k cmd) (i := 0) rfl, Chip.mmaTo_zero]
  · simp only [Chip.panelA, int8.direct, int8.format, Bool.false_eq_true, if_false, Chip.int8Pair]
  · simp only [Chip.panelB, int8.formats.1, Chip.int8Pair]

theorem Int8Mma.sum_length (int8 : Int8Mma s k cmd rest) : (mmaSum s.chip k cmd).1.data.length = 1024 := by
  rw [int8.sum_eq, Running.panelStep_length]

/-- The accumulator after the panel pair. -/
theorem Int8Mma.sum (int8 : Int8Mma s k cmd rest) : (mmaSum s.chip k cmd).1.isInt = true ∧ ∀ r c, r < mmaRows cmd.packet → c < mmaCols cmd.packet →
    (mmaSum s.chip k cmd).1.data[32 * r + c]? = some (BitVec.ofInt 32 (int8Dot s k cmd r c)) := by
  have empty (n : Nat) : ((s.chip.core k).accStart cmd.packet).getD n 0 = 0 := by
    have fresh : (s.chip.core k).accStart cmd.packet = List.replicate 1024 0 := by
      rw [Core.accStart]
      split
      · exact if_neg (by rw [int8.fresh]; decide)
      · rfl
    rw [fresh, List.getD_eq_getElem?_getD, List.getElem?_getD_replicate_default_eq]
  rw [int8.sum_eq]
  refine ⟨(Running.panelStep_isInt ..).trans int8.formats.2.1, fun r c row col => ?_⟩
  have below := mmaRows_le cmd.packet
  have beside := mmaCols_le cmd.packet
  rw [Running.panelStep_element _ _ (by omega), int8.elementAfter empty row col]

/-- Without a tensor scale, elements in use leave as they are, and others as +0. -/
theorem Core.leave_element (x : Core) {p : BitVec 128} (t : Tile) (unscaled : mmaTsc p = false) (r c : Fin 32) {v : Word32}
    (held : r.val < mmaRows p → c.val < mmaCols p → t.data[32 * r.val + c.val]? = some v) (inside : 32 * r.val + c.val < t.data.length) :
    (x.leave p t).1.data[32 * r.val + c.val]? = some (if r.val < mmaRows p ∧ c.val < mmaCols p then v else 0) := by
  have atR : (32 * r.val + c.val) / 32 = r.val := by omega
  have atC : (32 * r.val + c.val) % 32 = c.val := by omega
  simp only [Core.leave, unscaled, Bool.false_eq_true, if_false, List.getElem?_map, List.getElem?_mapIdx, atR, atC]
  by_cases used : r.val < mmaRows p ∧ c.val < mmaCols p
  · rw [held used.1 used.2, if_pos used]
    simp only [Option.map_some]
    rw [if_neg (by omega)]
  · rw [List.getElem?_eq_getElem inside, if_neg used]
    simp only [Option.map_some]
    rw [if_pos (by omega)]

/-- The tile that an INT8 mma pushes. -/
theorem Int8Mma.pushes (int8 : Int8Mma s k cmd rest) (unheld : mmaHold cmd.packet = false) (room : (s.chip.core k).tiles.length < 4) :
    ∃ t tile, Runs (.mma k) s t ∧ (t.chip.core k).tiles = (s.chip.core k).tiles ++ [tile] ∧ tile.isInt = true ∧
      ∀ r c : Fin 32, tile.data[32 * r.val + c.val]? = some (
        if r.val < mmaRows cmd.packet ∧ c.val < mmaCols cmd.packet then BitVec.ofInt 32 (int8Dot s k cmd r.val c.val) else 0) := by
  obtain ⟨t, runs, -, -, core⟩ := mma_done int8.ready int8.checks int8.begins int8.sound (.inr room)
  rw [if_neg (by rw [unheld]; decide)] at core
  obtain ⟨int, elements⟩ := int8.sum
  refine ⟨t, _, runs, congrArg Core.tiles core, int, fun r c => Core.leave_element _ _ int8.formats.2.2 r c (elements r c) ?_⟩
  rw [int8.sum_length]
  omega

end

end Sys2Proof.Machine
end

section
/-! Drops and clears of the tile queue (R140 to R142). -/

namespace Sys2Proof.Machine

open Host

section
variable {s : State} {k : CoreId} {cmd : EngineCmd} {rest : List EngineCmd} {op : Nat}

/-- The registers when a command of the tile queue is taken up. -/
def Core.tqFront (x : Core) (cmd : EngineCmd) (rest : List EngineCmd) : Core := { x with tq := ⟨some (x.runOf .tq cmd), rest⟩ }

/-- A command of the tile queue is one step. -/
theorem Chip.tqBeat_eq {u : Chip} {r : Running} (running : (u.core k).tq.running = some r) :
    u.tqBeat k = (u.updCore k (fun _ => ((u.core k).tqStep r.cmd.packet).1)).conclude k .tq r.cmd ((u.core k).tqStep r.cmd.packet).2 := by
  rw [Chip.tqBeat]
  simp only [running]

theorem tq_whole (waits : EngineWaits s k .tq op cmd rest) {y : Core} {e : StepEnd} (step : ((s.chip.core k).tqFront cmd rest).tqStep cmd.packet = (y, e)) :
    s.chip.tqWhole k op = ((s.chip.meAt k y).conclude k .tq cmd e).1.report k ((s.chip.meAt k y).conclude k .tq cmd e).2 := by
  have front : s.chip.updCore k (fun x => x.setQueue .tq ⟨some (x.runOf .tq cmd), rest⟩) = s.chip.meAt k ((s.chip.core k).tqFront cmd rest) := rfl
  have beat : (s.chip.meAt k ((s.chip.core k).tqFront cmd rest)).tqBeat k = (s.chip.meAt k y).conclude k .tq cmd e := by
    rw [Chip.tqBeat_eq (r := (s.chip.core k).runOf .tq cmd) (by rw [Chip.meAt_core]; rfl), Chip.meAt_core, show ((s.chip.core k).runOf .tq cmd).cmd = cmd from rfl, step, Chip.meAt, Chip.withCore_updCore]
    rfl
  rw [Chip.tqWhole, Chip.takeUp_waits waits, front]
  simp only [beat]

/-- A command of the tile queue that finishes. -/
theorem tq_finishes (waits : EngineWaits s k .tq op cmd rest) {y : Core} (step : ((s.chip.core k).tqFront cmd rest).tqStep cmd.packet = (y, .finished)) :
    s.chip.tqWhole k op = s.chip.meAt k (y.idle .tq) := by
  obtain ⟨-, -, -, -, -, -, -, -, -, -, -, unsigned⟩ := id waits
  rw [tq_whole waits step]
  simp only [Chip.conclude, Chip.meAt, Chip.withCore_updCore, Chip.complete_unsigned unsigned, Chip.report_nil]

/-- TQ_DROP removes the oldest tile. -/
theorem tqDrop_drops (ready : EngineReady s k .tq 1 cmd rest) {tile : Tile} {more : List Tile} (tiles : (s.chip.core k).tiles = tile :: more) :
    ∃ t, Runs (.tqDrop k) s t ∧ OnlyCore k s t ∧ t.chip.core k = { s.chip.core k with tq := ⟨none, rest⟩, tiles := more } := by
  obtain ⟨-, -, -, -, -, -, latched, -, -, -, opcode, -⟩ := id ready.1
  have unlatched : ((s.chip.core k).tqFront cmd rest).latched = none := latched
  have step : ((s.chip.core k).tqFront cmd rest).tqStep cmd.packet = ({ (s.chip.core k).tqFront cmd rest with tiles := more, latched := none }, .finished) := by
    rw [Core.tqStep, if_pos opcode, show ((s.chip.core k).tqFront cmd rest).tiles = tile :: more from tiles]
    simp only [unlatched, Option.map_none]
  refine ⟨_, onChip_next _ _, ?_⟩
  rw [tq_finishes ready.1 step]
  refine ⟨OnlyCore.of_withCore s k _, (Chip.meAt_core ..).trans ?_⟩
  rw [← latched]
  rfl

/-- TQ_DROP on an empty queue stops the step. -/
theorem tqDrop_empty (ready : EngineReady s k .tq 1 cmd rest) (tiles : (s.chip.core k).tiles = []) :
    ∃ t, Runs (.tqDrop k) s t ∧ SameMemory s t ∧ (t.chip.cluster (clusterOf k)).stop = some .faulted ∧ (t.chip.core k).tiles = [] := by
  obtain ⟨-, -, -, -, -, -, -, -, -, -, opcode, -⟩ := id ready.1
  have step : ((s.chip.core k).tqFront cmd rest).tqStep cmd.packet = ((s.chip.core k).tqFront cmd rest, .faulted Code.tqEmpty) := by
    rw [Core.tqStep, if_pos opcode, show ((s.chip.core k).tqFront cmd rest).tiles = [] from tiles]
  have whole : s.chip.tqWhole k 1 = (s.chip.meAt k (((s.chip.core k).tqFront cmd rest).idle .tq)).report k [{ code := Code.tqEmpty, cmd := cmd }] := by
    rw [tq_whole ready.1 step]
    simp only [Chip.conclude, Chip.meAt, Chip.withCore_updCore]
  obtain ⟨memory, stop, cores⟩ := stopped_of_report (k := k) { code := Code.tqEmpty, cmd := cmd }
    (Chip.meAt_unfaulted (y := ((s.chip.core k).tqFront cmd rest).idle .tq) s.chip k rfl)
  obtain ⟨-, -, kept⟩ := Core.kept_of_unqueued (cores k)
  refine ⟨_, onChip_next _ _, ?_⟩
  rw [whole]
  exact ⟨memory, stop, kept.trans tiles⟩

/-- With no tile latched, TQ_CLEAR removes every tile. -/
theorem Core.tqStep_clear {x : Core} {p : BitVec 128} (opcode : pkOpcode p = 2) (unlatched : x.latched = none) : x.tqStep p = ({ x with tiles := [] }, .finished) := by
  rw [Core.tqStep, if_neg (by rw [opcode]; decide), unlatched]
  rfl

theorem tqClear_clears (ready : EngineReady s k .tq 2 cmd rest) :
    ∃ t, Runs (.tqClear k) s t ∧ OnlyCore k s t ∧ t.chip.core k = { s.chip.core k with tq := ⟨none, rest⟩, tiles := [] } := by
  obtain ⟨-, -, -, -, -, -, latched, -, -, -, opcode, -⟩ := id ready.1
  have step := Core.tqStep_clear (x := (s.chip.core k).tqFront cmd rest) opcode latched
  refine ⟨_, onChip_next _ _, ?_⟩
  rw [tq_finishes ready.1 step]
  exact ⟨OnlyCore.of_withCore s k _, Chip.meAt_core ..⟩

end

end Sys2Proof.Machine
end

section
/-! The completion signal of an engine's command (R118): the event that counts it, and the records and the freeze that the event may start, leave what the signal depends on. -/

namespace Sys2Proof.Machine

open Host

/-- Which edge rings and core domains are on. -/
def Chip.powered (s : Chip) : DieId → Bool × Bool := fun d => ((s.die d).ringOn, (s.die d).coreOn)

/-- Whether a marker of a cluster waits in the trace queue of a dome. -/
def Chip.marked (s : Chip) (c : ClusterId) (m : DomeId) : Bool := (s.trace m).queue.any (fun r => decide (r.marker = some c))

/-! ## Dies keep their power in a freeze -/

theorem Chip.powered_of_eq {s u : Chip} (dies : u.dies = s.dies) : u.powered = s.powered := by
  funext d
  rw [Chip.powered, Chip.powered, Chip.die, Chip.die, dies]

theorem Chip.updDie_powered (s : Chip) (d : DieId) (f : Die → Die) (kept : ∀ x, (f x).ringOn = x.ringOn ∧ (f x).coreOn = x.coreOn) : (s.updDie d f).powered = s.powered := by
  funext e
  rw [Chip.powered, Chip.updDie_die]
  split
  next own => rw [own, Chip.powered, (kept _).1, (kept _).2]
  next => rfl

theorem Die.reportFrozen_powered (x : Die) : x.reportFrozen.ringOn = x.ringOn ∧ x.reportFrozen.coreOn = x.coreOn := by
  rw [Die.reportFrozen]
  split <;> exact ⟨rfl, rfl⟩

theorem Chip.log_powered (s : Chip) (d : DieId) (level : Nat) (code : FaultCode) (dome : Byte) (tag : BitVec 16) (detail : Word64) :
    (s.log d level code dome tag detail).powered = s.powered := by
  have sent (u : Chip) (h : u.powered = s.powered) : (if level = 0 then u else Chip.logVector { u with link := { u.link with logOwed := true } }).powered = s.powered := by
    split
    · exact h
    · exact (Chip.powered_of_eq (Chip.logVector_dies _)).trans h
  rw [Chip.log]
  split
  · rfl
  · exact sent _ (s.updDie_powered d _ fun _ => ⟨rfl, rfl⟩)

theorem Chip.freeze_powered (s : Chip) (d : DieId) (kind : Nat) (code : BitVec 16) : (s.freeze d kind code).powered = s.powered := by
  have dies (c : Word32) (u : Chip) : (allDies.foldl (fun (s : Chip) x =>
      if (s.die x).ringOn then
        (s.updDie x (fun y => Die.reportFrozen { y with coel := { y.coel with freezing := true, cause := c } })).log x 2 Code.coelostatFreeze 0xFF 0 (c.setWidth 64)
      else s) u).powered = u.powered := by
    refine foldl_keeps Chip.powered _ _ _ fun u x => ?_
    split
    · exact (Chip.log_powered ..).trans (u.updDie_powered x _ fun _ => Die.reportFrozen_powered _)
    · rfl
  have onStacks (u : Chip) : (allStacks.foldl (fun (s : Chip) t => if (s.stack t).domainOn then s.updStack t (fun x => { x with selfRefresh := true }) else s) u).powered = u.powered := by
    refine foldl_keeps Chip.powered _ _ _ fun u t => ?_
    split <;> rfl
  have down (u : Chip) (p : Table PortId Port) (h : Table HartId Hart) (l : HostLink) : Chip.powered { u with ports := p, harts := h, link := l } = u.powered := rfl
  rw [Chip.freeze]
  split
  · rfl
  · dsimp only
    rw [onStacks, down, dies]

theorem Chip.trigger_powered (s : Chip) (d : DieId) (source kind : Nat) (code : BitVec 16) : (s.trigger d source kind code).powered = s.powered := by
  rw [Chip.trigger]
  split
  · exact s.freeze_powered ..
  · rfl

/-! ## Records that are no markers -/

theorem Chip.marked_of_eq {s u : Chip} (traces : u.traces = s.traces) : u.marked = s.marked := by
  funext c m
  rw [Chip.marked, Chip.marked, Chip.trace, Chip.trace, traces]

theorem Chip.queue_marked (s : Chip) (m : DomeId) {r : TraceRec} (plain : r.marker = none) : (s.updTrace m (fun u => { u with queue := u.queue ++ [r] })).marked = s.marked := by
  funext c n
  rw [Chip.marked, Chip.updTrace_trace]
  split
  next own => simp [own, Chip.marked, plain]
  next => rfl

theorem Chip.emit_keeps (s : Chip) (d : DieId) (dome : DomeId) (source : Nat) {r : TraceRec} (plain : r.marker = none) :
    ((s.emit d dome source r).powered, (s.emit d dome source r).marked) = (s.powered, s.marked) := by
  rw [Chip.emit]
  dsimp only
  split
  · rfl
  · split
    · exact Prod.ext (Chip.trigger_powered ..) ((Chip.marked_of_eq (Chip.trigger_traces ..)).trans (s.queue_marked dome plain))
    · exact Prod.ext rfl (s.queue_marked dome plain)

theorem Chip.samples_keeps (s : Chip) (c : ClusterId) (sel : Nat → Word32) (l : List Nat) :
    (s.samples c sel l).powered = s.powered ∧ (s.samples c sel l).marked = s.marked := by
  rw [Chip.samples]
  split
  · exact ⟨rfl, rfl⟩
  · exact Prod.ext_iff.mp (foldl_keeps (fun u : Chip => (u.powered, u.marked)) _ _ _ fun u i => u.emit_keeps _ _ _ rfl)

theorem Chip.clusterEvent_keeps (s : Chip) (c : ClusterId) (event amount : Nat) :
    (s.clusterEvent c event amount).powered = s.powered ∧ (s.clusterEvent c event amount).marked = s.marked := by
  rw [Chip.clusterEvent]
  exact Chip.samples_keeps ..

theorem Chip.clusterEvent_syncs (s : Chip) (c : ClusterId) (event amount : Nat) : (s.clusterEvent c event amount).syncs = s.syncs := by
  rw [Chip.clusterEvent]
  obtain ⟨v, e⟩ := Chip.samples_records _ _ _ _
  rw [e]
  rfl

/-! ## What decides on a signal -/

theorem Chip.route_congr {s u : Chip} (powered : u.powered = s.powered) : u.route = s.route := by
  have ring (d : DieId) : (u.die d).ringOn = (s.die d).ringOn := congrArg Prod.fst (congrFun powered d)
  have spread : u.spread = s.spread := by
    funext l
    simp only [Chip.spread, ring]
  funext a b
  rw [Chip.route, Chip.route, ring, ring, spread]

theorem Chip.objGrants_sequencer (s : Chip) (c : ClusterId) (o : ObjId) (signal : Bool) :
    s.objGrants (.sequencer c) o signal = ((s.obj o).assigned && decide ((s.cluster c).domeOf = some (clip 16 (s.obj o).dome.toNat))) := rfl

/-- What decides on a cluster's signal to a die's object: rings and core domains, objects, and the cluster's dome. -/
theorem Chip.dieRefusal_congr {s u : Chip} {c : ClusterId} {w : Who} (agent : w.agent = .sequencer c) (powered : u.powered = s.powered) (objs : u.objs = s.objs)
    (dome : (u.cluster c).domeOf = (s.cluster c).domeOf) (d : DieId) (n : Fin 4096) (scope : Option (BitVec 3)) :
    u.objRefusal w (.die d n) true scope = s.objRefusal w (.die d n) true scope := by
  have offline : u.objOffline (.die d n) = s.objOffline (.die d n) :=
    congrArg (fun q : Bool × Bool => q.1 && !q.2) (congrFun powered d)
  have lost : u.objLost w (.die d n) = s.objLost w (.die d n) := by rw [Chip.objLost, Chip.objLost, Chip.route_congr powered]
  have grants : u.objGrants w.agent (.die d n) true = s.objGrants w.agent (.die d n) true := by
    rw [agent, Chip.objGrants_sequencer, Chip.objGrants_sequencer, dome, Chip.obj, Chip.obj, objs]
  unfold Chip.objRefusal
  rw [offline, lost, grants]

theorem Cluster.domeOf_ovf (x : Cluster) (o : Word32) : Cluster.domeOf { x with ovf := o } = x.domeOf := rfl

/-- A completion signal that is granted: one more in its object, and no other object, memory or core changes. -/
theorem Chip.complete_signals {s : Chip} {k : CoreId} {cmd : EngineCmd} (signs : pkSigEn cmd.packet = true) (unmarked : s.markerPending (clusterOf k) = none)
    (clear : (s.sync (unitOf (.die k.die (pkSigObj cmd.packet)))).clearBusy = false)
    (granted : s.objRefusal { whoOf (.sequencer (clusterOf k)) with tag := pkTag cmd.packet } (.die k.die (pkSigObj cmd.packet)) true (some (pkSigScope cmd.packet)) = none) :
    let o : ObjId := .die k.die (pkSigObj cmd.packet)
    let u := s.complete k (.sequencer (clusterOf k)) cmd
    u.stores = s.stores ∧ u.core = s.core ∧ (u.obj o).count = (s.obj o).count + 1 ∧ ∀ q, q ≠ o → u.obj q = s.obj q := by
  intro o u
  obtain ⟨stores, objs, cores, ovf, cluster⟩ := s.clusterEvent_frame (clusterOf k) 6 1
  obtain ⟨powered, marked⟩ := s.clusterEvent_keeps (clusterOf k) 6 1
  have syncs := s.clusterEvent_syncs (clusterOf k) 6 1
  have released : u = (s.clusterEvent (clusterOf k) 6 1).applyObj o (.signal 1 (some (pkSigScope cmd.packet))) := by
    have signed : u = (match s.clusterRelease (clusterOf k) (.sequencer (clusterOf k)) (pkTag cmd.packet) (selfAddr (objAddr o)) 1 (pkSigScope cmd.packet) (.engine k) with
        | (s, none) => s
        | (s, some f) => s.engineFault (clusterOf k) f (pkTag cmd.packet) cmd.pc (laneOf k).val (selfAddr (objAddr o))) := if_neg (by rw [signs]; decide)
    rw [signed, Chip.clusterRelease]
    generalize s.clusterEvent (clusterOf k) 6 1 = v at *
    have dome : (v.cluster (clusterOf k)).domeOf = (s.cluster (clusterOf k)).domeOf := by rw [cluster, Cluster.domeOf_ovf]
    have still : v.markerPending (clusterOf k) = none := by
      have same (m : DomeId) : (v.trace m).queue.any (fun r => decide (r.marker = some (clusterOf k))) = (s.trace m).queue.any (fun r => decide (r.marker = some (clusterOf k))) :=
        congrFun (congrFun marked (clusterOf k)) m
      rw [← unmarked, Chip.markerPending, Chip.markerPending, dome]
      simp only [same]
    have may := (Chip.dieRefusal_congr (w := { whoOf (.sequencer (clusterOf k)) with tag := pkTag cmd.packet }) rfl powered objs dome k.die (pkSigObj cmd.packet)
      (some (pkSigScope cmd.packet))).trans granted
    have idle : (v.sync (unitOf o)).clearBusy = false := by rw [Chip.sync, syncs]; exact clear
    simp only [still, Chip.release, Chip.signalTarget_own]
    rw [Chip.objOp_granted may idle]
  obtain ⟨⟨x, shape⟩, count, others⟩ := Chip.signal_effect (s.clusterEvent (clusterOf k) 6 1) o 1 (some (pkSigScope cmd.packet))
  have obj (q : ObjId) : (s.clusterEvent (clusterOf k) 6 1).obj q = s.obj q := by rw [Chip.obj, objs]; rfl
  rw [released]
  refine ⟨?_, ?_, by rw [count, obj], fun q other => (others q other).trans (obj q)⟩
  · rw [shape]
    exact stores
  · rw [shape]
    exact cores

end Sys2Proof.Machine
end

section
/-! A clear of the tile queue that signals its end; and the statement on products and tiles. -/

namespace Sys2Proof.Machine

open Host

section
variable {s : State} {k : CoreId} {cmd : EngineCmd} {rest : List EngineCmd} {op : Nat}

/-- The front command of the tile queue begins. -/
theorem Core.start_tq {x : Core} (tq : x.tq = ⟨none, cmd :: rest⟩) (unfresh : cmd.fresh = false) :
    ∃ r, r.cmd = cmd ∧ (x.start .tq).tq.running = some r ∧ (x.start .tq).latched = x.latched := by
  have begun : x.start .tq = { x.setQueue .tq ⟨some { cmd := cmd, len := cmdLength cmd.packet, dst := [], hazard := x.deTouches }, rest⟩ with
      job := x.job.map (fun j => { j with hazard := j.hazard ++ [] }) } := by
    rw [Core.start, show x.queue .tq = ⟨none, cmd :: rest⟩ from tq]
    simp only [unfresh, Bool.false_eq_true, if_false]
    rfl
  exact ⟨_, rfl, by rw [begun]; rfl, by rw [begun]; rfl⟩

/-- A clear with no tile latched. -/
theorem tqClear_whole (up : ClusterUp s (clusterOf k)) (tq : (s.chip.core k).tq = ⟨none, cmd :: rest⟩) (unfresh : cmd.fresh = false) (opcode : pkOpcode cmd.packet = 2)
    (unlatched : (s.chip.core k).latched = none) :
    ∃ y, y.tiles = [] ∧ s.chip.tqWhole k 2 = (s.chip.meAt k y).complete k (.sequencer (clusterOf k)) cmd := by
  obtain ⟨r, rfl, running, latched⟩ := Core.start_tq tq unfresh
  refine ⟨({ (s.chip.core k).start .tq with tiles := [] } : Core).idle .tq, rfl, ?_⟩
  have live : s.chip.coreLive k = true := clusterLive_of_up up
  have front : ((s.chip.updCore k (fun x => x.start .tq)).core k).queue .tq = ((s.chip.core k).start .tq).tq := by rw [Chip.updCore_core_same]; rfl
  have taken : s.chip.takeUp k .tq 2 = some (s.chip.meAt k ((s.chip.core k).start .tq)) := by
    simp only [Chip.takeUp, live, Bool.true_eq_false, if_false, front, running, opcode, if_true]
    rfl
  have beat : (s.chip.meAt k ((s.chip.core k).start .tq)).tqBeat k =
      ((s.chip.meAt k (({ (s.chip.core k).start .tq with tiles := [] } : Core).idle .tq)).complete k (.sequencer (clusterOf k)) r.cmd, []) := by
    rw [Chip.tqBeat_eq (r := r) (by rw [Chip.meAt_core]; exact running), Chip.meAt_core, Core.tqStep_clear opcode (latched.trans unlatched)]
    simp only [Chip.conclude, Chip.meAt, Chip.withCore_updCore]
  rw [Chip.tqWhole, taken]
  simp only [beat, Chip.report_nil]

/-- TQ_CLEAR with SIG_EN: no tile is left, and one more in its object. -/
theorem tqClear_signals (up : ClusterUp s (clusterOf k)) (tq : (s.chip.core k).tq = ⟨none, cmd :: rest⟩) (unfresh : cmd.fresh = false) (opcode : pkOpcode cmd.packet = 2)
    (unlatched : (s.chip.core k).latched = none) (signs : pkSigEn cmd.packet = true) (unmarked : s.chip.markerPending (clusterOf k) = none)
    (clear : (s.chip.sync (unitOf (.die k.die (pkSigObj cmd.packet)))).clearBusy = false)
    (granted : s.chip.objRefusal { whoOf (.sequencer (clusterOf k)) with tag := pkTag cmd.packet } (.die k.die (pkSigObj cmd.packet)) true (some (pkSigScope cmd.packet)) = none) :
    ∃ t, Runs (.tqClear k) s t ∧ SameMemory s t ∧ (t.chip.core k).tiles = [] ∧
      (t.chip.obj (.die k.die (pkSigObj cmd.packet))).count = (s.chip.obj (.die k.die (pkSigObj cmd.packet))).count + 1 ∧
      ∀ q, q ≠ .die k.die (pkSigObj cmd.packet) → t.chip.obj q = s.chip.obj q := by
  obtain ⟨y, tiles, whole⟩ := tqClear_whole up tq unfresh opcode unlatched
  obtain ⟨stores, cores, count, others⟩ := Chip.complete_signals (s := s.chip.meAt k y) (k := k) (cmd := cmd) signs unmarked clear
    ((Chip.dieRefusal_congr (s := s.chip) (c := clusterOf k) rfl rfl rfl rfl _ _ _).trans granted)
  refine ⟨_, onChip_next _ _, ?_⟩
  rw [whole]
  refine ⟨sameMemory_of_stores stores rfl, ?_, count, others⟩
  rw [cores, Chip.meAt_core, tiles]

end

/-- Settles O13: beat after beat the accumulator holds the sum over the panel pairs that are complete; a group of 32 products of bytes cannot saturate; the commands of the tile queue and mscale are one step each. -/
theorem matrixProductsAndTiles : Obligations.MatrixProductsAndTiles := by
  unfold Obligations.MatrixProductsAndTiles
  refine ⟨?_, ?_, ?_⟩
  · intro s k cmd rest x p idx sum
    refine ⟨fun ready checks begins sound room => mma_done ready checks begins sound room, fun ready => ?_, fun f waits bad => mscale_meets waits bad⟩
    intro a b
    exact ⟨fun okA okB => mscale_sets ready rfl rfl okA okB, fun bad => mscale_refuses ready bad⟩
  · intro s k cmd rest p ready checks format direct panels fresh unheld room
    exact Int8Mma.pushes ⟨ready, checks, format, direct, panels, fresh⟩ unheld room
  · intro s k cmd rest x o
    exact ⟨fun ready => ⟨fun tile more tiles => tqDrop_drops ready tiles, fun tiles => tqDrop_empty ready tiles⟩, fun ready => tqClear_clears ready,
      fun up tq unfresh opcode unlatched signs unmarked clear granted => tqClear_signals up tq unfresh opcode unlatched signs unmarked clear granted⟩

end Sys2Proof.Machine
end

section
/-! The scalar instructions of the sequencer: what each writes, and where the next word follows (R95, R98 to R100, R108, R111). -/

namespace Sys2Proof.Machine

open Host

/-! ## The operations as R99 and R100 word them -/

theorem add_eq_toNat (a b : Word64) : a + b = BitVec.ofNat 64 (a.toNat + b.toNat) := rfl

theorem sub_eq_toInt (a b : Word64) : a - b = BitVec.ofInt 64 (a.toInt - b.toInt) := by
  refine BitVec.eq_of_toInt_eq ?_
  rw [BitVec.toInt_sub, BitVec.toInt_ofInt]

theorem opSll_eq (a b : Word64) : opSll a b = BitVec.ofNat 64 (a.toNat * 2 ^ (b.toNat % 64)) := by
  refine BitVec.eq_of_toNat_eq ?_
  rw [opSll, BitVec.toNat_shiftLeft, Nat.shiftLeft_eq, BitVec.toNat_ofNat]

theorem opSrl_eq (a b : Word64) : opSrl a b = BitVec.ofNat 64 (a.toNat / 2 ^ (b.toNat % 64)) := by
  refine BitVec.eq_of_toNat_eq ?_
  rw [opSrl, BitVec.toNat_ushiftRight, Nat.shiftRight_eq_div_pow, BitVec.toNat_ofNat]
  refine (Nat.mod_eq_of_lt ?_).symm
  exact (Nat.div_le_self _ _).trans_lt a.isLt

theorem opSra_eq (a b : Word64) : opSra a b = BitVec.ofInt 64 (a.toInt / 2 ^ (b.toNat % 64)) := by
  rw [opSra, BitVec.sshiftRight, Int.shiftRight_eq_div_pow, Nat.cast_pow, Nat.cast_ofNat]

theorem mul_eq_toNat (a b : Word64) : a * b = BitVec.ofNat 64 (a.toNat * b.toNat) := rfl

theorem opSlt_eq (a b : Word64) : opSlt a b = if a.toInt < b.toInt then 1 else 0 := by
  simp only [opSlt, BitVec.slt_iff_toInt_lt]

theorem opSltu_eq (a b : Word64) : opSltu a b = if a.toNat < b.toNat then 1 else 0 := by
  simp only [opSltu, BitVec.ult_iff_toNat_lt]

/-- Whether two equal values count as the lower or the higher does not matter when both are answered alike. -/
theorem ite_lt_eq_ite_le {α β : Type} [LinearOrder β] {p q : β} {x y : α} (same : p = q → x = y) : (if p < q then x else y) = if p ≤ q then x else y := by
  rcases lt_trichotomy p q with less | equal | more
  · rw [if_pos less, if_pos less.le]
  · rw [if_neg equal.not_lt, if_pos equal.le, same equal]
  · rw [if_neg more.not_gt, if_neg more.not_ge]

theorem opMin_eq (a b : Word64) : opMin a b = if a.toInt ≤ b.toInt then a else b := by
  simp only [opMin, BitVec.slt_iff_toInt_lt]
  exact ite_lt_eq_ite_le BitVec.eq_of_toInt_eq

theorem opMax_eq (a b : Word64) : opMax a b = if a.toInt ≤ b.toInt then b else a := by
  simp only [opMax, BitVec.slt_iff_toInt_lt]
  exact ite_lt_eq_ite_le fun same => (BitVec.eq_of_toInt_eq same).symm

theorem opMinu_eq (a b : Word64) : opMinu a b = if a.toNat ≤ b.toNat then a else b := by
  simp only [opMinu, BitVec.ult_iff_toNat_lt]
  exact ite_lt_eq_ite_le BitVec.eq_of_toNat_eq

theorem opMaxu_eq (a b : Word64) : opMaxu a b = if a.toNat ≤ b.toNat then b else a := by
  simp only [opMaxu, BitVec.ult_iff_toNat_lt]
  exact ite_lt_eq_ite_le fun same => (BitVec.eq_of_toNat_eq same).symm

theorem add_immS (a w : Word64) : a + immS w = BitVec.ofInt 64 (a.toInt + (w.extractLsb' 0 32).toInt) := by
  rw [BitVec.ofInt_add, BitVec.ofInt_toInt]
  rfl

/-- The low six bits of a sign-extended immediate. -/
theorem immS_mod (w : Word64) : (immS w).toNat % 64 = (w.extractLsb' 0 32).toNat % 64 := by
  have small := (w.extractLsb' 0 32).isLt
  rw [immS, BitVec.toNat_signExtend, BitVec.toNat_setWidth]
  split <;> omega

theorem loadHigh_eq (i : BitVec 32) (old : Word64) : i ++ old.extractLsb' 0 32 = BitVec.ofNat 64 (i.toNat * 2 ^ 32 + old.toNat % 2 ^ 32) := by
  refine BitVec.eq_of_toNat_eq ?_
  have i_lt := i.isLt
  have low : (old.extractLsb' 0 32).toNat = old.toNat % 2 ^ 32 := by simp
  rw [BitVec.toNat_append, low, ← Nat.shiftLeft_add_eq_or_of_lt (Nat.mod_lt _ (by norm_num)), Nat.shiftLeft_eq, BitVec.toNat_ofNat]
  omega

/-! ## Registers -/

theorem Cluster.setS_shape (x : Cluster) (r : Fin 32) (v : Word64) : ∃ regs, x.setS r v = { x with regs := regs } := by
  rw [Cluster.setS]
  split
  · exact ⟨x.regs, rfl⟩
  · exact ⟨_, rfl⟩

/-- Every scalar register after one is written (R95). -/
theorem Cluster.setS_s (x : Cluster) (r q : Fin 32) (v : Word64) : (x.setS r v).s q = if q = 0 then 0 else if q = r then v else x.s q := by
  by_cases zero : q = 0
  · rw [Cluster.s, if_pos zero, if_pos zero]
  · rw [if_neg zero, Cluster.setS]
    split
    next discarded => rw [if_neg (discarded ▸ zero)]
    next => simp only [Cluster.s, zero, if_false, Table.read_write]

/-! ## One-beat instructions -/

theorem unreserved_of_ready {s : State} {c : ClusterId} {opc : Nat} {w : Word64} (ready : SeqReady s c opc w) : reservedSet w = false := by
  obtain ⟨-, -, -, -, -, -, unreserved⟩ := ready
  exact unreserved

/-- A one-beat instruction whose word is legal changes its cluster as its function says, and ends with its beat (R97, R98). -/
theorem Chip.scalar_ready {s : State} {c : ClusterId} {opc : Nat} {w : Word64} (ready : SeqReady s c opc w) (f : Cluster → Word64 → Cluster) :
    Chip.scalar c opc f s.chip = s.chip.updCluster c (fun x => (f x w).retireAt x.pc none) := by
  simp only [Chip.scalar, current_of_ready ready, unreserved_of_ready ready, Bool.false_eq_true, if_false]

/-- A command whose meaning is a one-beat instruction. -/
theorem runs_scalar {s : State} {c : ClusterId} {opc : Nat} {w : Word64} {i : Instr} {f : Cluster → Word64 → Cluster}
    (meaning : exec i s = onChip (Chip.scalar c opc f) s) (ready : SeqReady s c opc w) :
    ∃ t, Runs i s t ∧ OnlyCluster c s t ∧ t.chip.cluster c = (f (s.chip.cluster c) w).retireAt (s.chip.cluster c).pc none := by
  refine ⟨_, meaning.trans (onChip_next _ _), ?_⟩
  rw [Chip.scalar_ready ready]
  exact ⟨onlyCluster_updCluster s c _, Chip.updCluster_cluster_same _ _ _⟩

/-- A command that writes one scalar register. -/
theorem runs_setS {s : State} {c : ClusterId} {opc : Nat} {w v : Word64} {i : Instr} {f : Cluster → Word64 → Word64}
    (meaning : exec i s = onChip (Chip.scalar c opc (fun x w => x.setS (rdOf w) (f x w))) s) (ready : SeqReady s c opc w) (value : f (s.chip.cluster c) w = v) :
    ∃ t, Runs i s t ∧ OnlyCluster c s t ∧
      t.chip.cluster c = { s.chip.cluster c with regs := (t.chip.cluster c).regs, phase := .retire (s.chip.cluster c).pc none } ∧
      ∀ r, (t.chip.cluster c).s r = if r = 0 then 0 else if r = rdOf w then v else (s.chip.cluster c).s r := by
  obtain ⟨t, runs, only, cluster⟩ := runs_scalar meaning ready
  refine ⟨t, runs, only, ?_, fun r => ?_⟩
  · obtain ⟨regs, shape⟩ := (s.chip.cluster c).setS_shape (rdOf w) (f (s.chip.cluster c) w)
    rw [cluster, shape]
    rfl
  · rw [cluster, ← value]
    exact (s.chip.cluster c).setS_s (rdOf w) r _

/-- SETAD and RDAD of an engine's register (R99). -/
theorem onChip_adInstr {s : State} {c : ClusterId} {opc : Nat} {w : Word64} (ready : SeqReady s c opc w) (engine : fnOf w / 64 % 4 ≠ 3)
    (f : Cluster → Word64 → Cluster) : onChip (Chip.adInstr c opc f) s = onChip (Chip.scalar c opc f) s := by
  simp only [onChip, Chip.adInstr, current_of_ready ready, engine, if_false]

theorem clip_eq_iff {m n : Nat} [NeZero m] {i : Fin m} : i = clip m n ↔ i.val = n % m := by
  rw [clip, Fin.ext_iff, Fin.val_ofNat]

theorem adName_eq_iff {w : Word64} (engine : fnOf w / 64 % 4 ≠ 3) {k : Fin 3 × Fin 8} :
    k = adName w ↔ k.1.val = fnOf w / 64 % 4 ∧ k.2.val = fnOf w % 8 := by
  rw [adName, Prod.ext_iff, clip_eq_iff, clip_eq_iff]
  have low : fnOf w / 64 % 4 % 3 = fnOf w / 64 % 4 := by omega
  have high : fnOf w % 8 % 8 = fnOf w % 8 := by omega
  rw [low, high]

theorem low_sum_immZ (a w : Word64) : (a + immZ w).setWidth 32 = BitVec.ofNat 32 (a.toNat + (w.extractLsb' 0 32).toNat) := by
  refine BitVec.eq_of_toNat_eq ?_
  simp [immZ]

theorem low_or_immZ (a w : Word64) : (a ||| immZ w).setWidth 32 = BitVec.ofNat 32 a.toNat ||| BitVec.ofNat 32 (w.extractLsb' 0 32).toNat := by
  rw [BitVec.setWidth_or, BitVec.ofNat_toNat, BitVec.ofNat_toNat, immZ, BitVec.setWidth_setWidth_of_le _ (by norm_num)]

/-! ## The instructions of R99 and R100 -/

theorem onChip_binary {c : ClusterId} {opc : Nat} {op word : Word64 → Word64 → Word64} (same : ∀ a b, op a b = word a b) (s : State) :
    onChip (Chip.binary c opc op) s = onChip (Chip.binary c opc word) s := by
  rw [funext₂ same]

/-- Every three-register instruction is the one-beat instruction of its operation. -/
theorem exec_threeRegister (c : ClusterId) (s : State) : ∀ e ∈ threeRegister c, exec e.1 s = onChip (Chip.binary c e.2.1 e.2.2) s := by
  simp only [threeRegister, List.forall_mem_cons, List.not_mem_nil, false_imp_iff, implies_true, and_true]
  exact ⟨onChip_binary add_eq_toNat s, onChip_binary sub_eq_toInt s, rfl, rfl, rfl, onChip_binary opSll_eq s, onChip_binary opSrl_eq s,
    onChip_binary opSra_eq s, onChip_binary mul_eq_toNat s, rfl, onChip_binary opSlt_eq s, onChip_binary opSltu_eq s, onChip_binary opMin_eq s,
    onChip_binary opMax_eq s, onChip_binary opMinu_eq s, onChip_binary opMaxu_eq s⟩

/-- A one-beat instruction that writes a register with a value of s[RS1], its own old value and IMM. -/
def Chip.withImm (c : ClusterId) (opc : Nat) (op : Word64 → Word64 → BitVec 32 → Word64) : Chip → Chip :=
  Chip.scalar c opc (fun x w => x.setS (rdOf w) (op (x.s (rs1Of w)) (x.s (rdOf w)) (w.extractLsb' 0 32)))

theorem onChip_immediate {c : ClusterId} {opc : Nat} {op : Word64 → Word64 → Word64} {word : Word64 → Word64 → BitVec 32 → Word64}
    (same : ∀ a old w, op a (immS w) = word a old (w.extractLsb' 0 32)) (s : State) :
    onChip (Chip.immediate c opc op) s = onChip (Chip.withImm c opc word) s :=
  congrArg (fun f => onChip (Chip.scalar c opc f) s) (funext₂ fun x w => congrArg (x.setS (rdOf w)) (same _ _ w))

theorem exec_lih (c : ClusterId) (s : State) :
    exec (.lih c) s = onChip (Chip.withImm c 0x29 fun _ old i => BitVec.ofNat 64 (i.toNat * 2 ^ 32 + old.toNat % 2 ^ 32)) s := by
  simp only [Chip.withImm, ← loadHigh_eq]
  rfl

/-- Every register and immediate instruction is the one-beat instruction of its operation. -/
theorem exec_withImmediate (c : ClusterId) (s : State) : ∀ e ∈ withImmediate c, exec e.1 s = onChip (Chip.withImm c e.2.1 e.2.2) s := by
  simp only [withImmediate, List.forall_mem_cons, List.not_mem_nil, false_imp_iff, implies_true, and_true]
  exact ⟨onChip_immediate (fun a _ w => add_immS a w) s, rfl, rfl, rfl,
    onChip_immediate (fun a _ w => by rw [opSll_eq, immS_mod]) s, onChip_immediate (fun a _ w => by rw [opSrl_eq, immS_mod]) s,
    onChip_immediate (fun a _ w => by rw [opSra_eq, immS_mod]) s, rfl, exec_lih c s⟩

/-! ## The statement -/

theorem readers_write_their_register (s : State) (c : ClusterId) (w : Word64) :
    let x := s.chip.cluster c
    let n : Fin 4 := clip 4 (fnOf w)
    let a := x.ad (clip 3 (fnOf w / 64 % 4), clip 8 (fnOf w % 8))
    let put (t : State) (v : Word64) : Prop :=
      OnlyCluster c s t ∧ t.chip.cluster c = { x with regs := (t.chip.cluster c).regs, phase := .retire x.pc none } ∧
      ∀ r, (t.chip.cluster c).s r = if r = 0 then 0 else if r = rdOf w then v else x.s r
    (SeqReady s c 0x42 w → ∃ t, Runs (.rdlc c) s t ∧ put t (BitVec.ofNat 64 (x.lcv n).toNat)) ∧
    (SeqReady s c 0x43 w → ∃ t, Runs (.rdit c) s t ∧ put t (BitVec.ofNat 64 (if (x.level n).active then (x.level n).iter.toNat else 0))) ∧
    (SeqReady s c 0x45 w → ∃ t, Runs (.rdmask c) s t ∧ put t (BitVec.ofNat 64 x.bmask.toNat)) ∧
    (SeqReady s c 0x46 w → ∃ t, Runs (.rdbeat c) s t ∧ put t x.beat) ∧
    (SeqReady s c 0x49 w → fnOf w / 64 % 4 ≠ 3 →
      ∃ t, Runs (.rdad c) s t ∧ put t (match fnOf w / 16 % 4 with
        | 0 => a.addr
        | 1 => a.stride
        | 2 => BitVec.ofNat 64 a.rept.toNat
        | _ => a.wrap)) := by
  intro x n a put
  refine ⟨fun ready => runs_setS rfl ready (BitVec.ofNat_toNat _ _).symm, fun ready => runs_setS rfl ready ?_, fun ready => runs_setS rfl ready (BitVec.ofNat_toNat _ _).symm,
    fun ready => runs_setS rfl ready rfl, fun ready engine => runs_setS (onChip_adInstr ready engine _) ready ?_⟩
  · rw [apply_ite (BitVec.ofNat 64), BitVec.ofNat_toNat]
    rfl
  · simp only [BitVec.ofNat_toNat]
    rfl

theorem setters_write_their_field (s : State) (c : ClusterId) (w : Word64) :
    let x := s.chip.cluster c
    let src := x.s (rs1Of w)
    let imm := (w.extractLsb' 0 32).toNat
    let done : Cluster := { x with phase := .retire x.pc none }
    (SeqReady s c 0x40 w → ∃ t, Runs (.setlc c) s t ∧ OnlyCluster c s t ∧ t.chip.cluster c = { done with lc := (t.chip.cluster c).lc } ∧
      ∀ n, (t.chip.cluster c).lcv n = if n.val = fnOf w % 4 then BitVec.ofNat 32 (src.toNat + imm) else x.lcv n) ∧
    (SeqReady s c 0x44 w → ∃ t, Runs (.setmask c) s t ∧ OnlyCluster c s t ∧
      t.chip.cluster c = { done with bmask := BitVec.ofNat 32 src.toNat ||| BitVec.ofNat 32 imm }) ∧
    (SeqReady s c 0x48 w → fnOf w / 64 % 4 ≠ 3 →
      let v : Word64 := src + BitVec.ofInt 64 (w.extractLsb' 0 32).toInt
      ∃ t, Runs (.setad c) s t ∧ OnlyCluster c s t ∧ t.chip.cluster c = { done with ads := (t.chip.cluster c).ads } ∧
        ∀ k, (t.chip.cluster c).ad k =
          if k.1.val = fnOf w / 64 % 4 ∧ k.2.val = fnOf w % 8 then
            (match fnOf w / 16 % 4 with
             | 0 => { x.ad k with addr := v, count := 0 }
             | 1 => { x.ad k with stride := v }
             | 2 => { x.ad k with rept := BitVec.ofNat 32 v.toNat, count := 0 }
             | _ => { x.ad k with wrap := v })
          else x.ad k) := by
  intro x src imm done
  refine ⟨fun ready => ?_, fun ready => ?_, fun ready engine => ?_⟩
  · obtain ⟨t, runs, only, cluster⟩ := runs_scalar (i := .setlc c) rfl ready
    refine ⟨t, runs, only, by rw [cluster]; rfl, fun n => ?_⟩
    rw [cluster]
    refine (Table.read_write ..).trans ?_
    simp only [clip_eq_iff, low_sum_immZ]
    rfl
  · obtain ⟨t, runs, only, cluster⟩ := runs_scalar (i := .setmask c) rfl ready
    refine ⟨t, runs, only, cluster.trans ?_⟩
    rw [← low_or_immZ]
    rfl
  · obtain ⟨t, runs, only, cluster⟩ := runs_scalar (i := .setad c) (onChip_adInstr ready engine _) ready
    refine ⟨t, runs, only, by rw [cluster]; rfl, fun k => ?_⟩
    rw [cluster]
    refine (Table.read_write ..).trans ?_
    by_cases named : k = adName w
    · rw [if_pos named, if_pos ((adName_eq_iff engine).mp named), named]
      simp only [BitVec.ofNat_toNat]
      rfl
    · rw [if_neg named, if_neg (mt (adName_eq_iff engine).mpr named)]
      rfl

/-- Settles O5: each instruction is a one-beat change of its cluster, whose function is the operation that R99 and R100 word. -/
theorem scalarInstructions : Obligations.ScalarInstructions := by
  unfold Obligations.ScalarInstructions
  refine ⟨fun s c w e listed ready => ?_, fun s c w e listed ready => ?_, readers_write_their_register, setters_write_their_field⟩
  · exact runs_setS (exec_threeRegister c s e listed) ready rfl
  · obtain ⟨t, runs, only, shape, regs⟩ := runs_setS (exec_withImmediate c s e listed) ready rfl
    refine ⟨t, runs, only, shape, fun r => (regs r).trans ?_⟩
    by_cases own : r = rdOf w <;> simp only [own, if_true, if_false]

end Sys2Proof.Machine
end

section
/-! A fault of the sequencer's instruction (R66, R104, R121, R124): the step stops, the commands that are due begin, and what waits is discarded. -/

namespace Sys2Proof.Machine

open Host

/-! ## One change of every core of a cluster -/

/-- Every core of a cluster after the same change. -/
def Chip.onCores (s : Chip) (c : ClusterId) (f : Core → Core) : Chip := (List.finRange 32).foldl (fun s i => s.updCore (coreOf c i) f) s

theorem Chip.onCores_shape (s : Chip) (c : ClusterId) (f : Core → Core) : ∃ v, s.onCores c f = { s with cores := v } :=
  foldl_replaces (fun (v : Table CoreId Core) (s : Chip) => { s with cores := v }) (fun s => ⟨s.cores, rfl⟩) (fun _ _ _ => rfl) (fun _ _ => ⟨_, rfl⟩) _ s

theorem Chip.onCores_stores (s : Chip) (c : ClusterId) (f : Core → Core) : (s.onCores c f).stores = s.stores := by
  obtain ⟨_, h⟩ := s.onCores_shape c f; rw [h]; rfl
theorem Chip.onCores_cluster (s : Chip) (c : ClusterId) (f : Core → Core) : (s.onCores c f).cluster = s.cluster := by
  obtain ⟨_, h⟩ := s.onCores_shape c f; rw [h]; rfl

theorem Chip.onCores_core (s : Chip) (c : ClusterId) (f : Core → Core) (i : Fin 32) : (s.onCores c f).core (coreOf c i) = f (s.core (coreOf c i)) := by
  refine (foldl_units (fun (s : Chip) i => s.core (coreOf c i)) (fun _ => f) (fun u i j => ?_) (List.nodup_finRange 32) s i).trans (if_pos (List.mem_finRange i))
  rw [Chip.updCore_core]
  by_cases h : j = i
  · rw [if_pos (by rw [h]), if_pos h]
  · rw [if_neg (fun same => h (coreOf_injective c same)), if_neg h]

/-- A core whose queues hold no waiting command (R121). -/
def Core.unwaiting (k : Core) : Core :=
  { k with me := { k.me with waiting := [] }, ve := { k.ve with waiting := [] }, de := { k.de with waiting := [] }, tq := { k.tq with waiting := [] } }

theorem Core.unwaiting_queue (k : Core) (e : EngineKind) : k.unwaiting.queue e = { k.queue e with waiting := [] } := by
  cases e <;> rfl

theorem Chip.startQueues_eq (s : Chip) (c : ClusterId) : s.startQueues c = s.onCores c Core.startAll := rfl

/-! ## A stop -/

/-- A cluster whose sequencer executes nothing further: a fault wins over what else stops it (R121 to R123). -/
def Cluster.halted (x : Cluster) (k : StopKind) : Cluster :=
  { x with phase := .ready, stop := if k = .faulted ∨ x.stop ≠ some .faulted then some k else x.stop }

theorem Cluster.halted_faulted (x : Cluster) : x.halted .faulted = { x with phase := .ready, stop := some .faulted } := by
  simp only [Cluster.halted, true_or, if_true]

theorem Chip.halt_eq (s : Chip) (c : ClusterId) (k : StopKind) : s.halt c k = (s.updCluster c (fun x => x.halted k)).onCores c Core.unwaiting := rfl

/-- What a stop leaves: its cluster stopped, and no command that waits in its cores' queues. -/
theorem Chip.halt_effect (s : Chip) (c : ClusterId) (k : StopKind) :
    (∃ v w, s.halt c k = { s with clusters := v, cores := w }) ∧ (s.halt c k).cluster c = (s.cluster c).halted k ∧
      ∀ i, (s.halt c k).core (coreOf c i) = (s.core (coreOf c i)).unwaiting := by
  rw [Chip.halt_eq]
  have stopped : (s.updCluster c (fun x => x.halted k)).cluster c = (s.cluster c).halted k := Chip.updCluster_cluster_same _ _ _
  obtain ⟨v, replaced⟩ : ∃ v, s.updCluster c (fun x => x.halted k) = { s with clusters := v } := ⟨_, rfl⟩
  generalize s.updCluster c (fun x => x.halted k) = u at *
  have discarded := u.onCores_core c Core.unwaiting
  obtain ⟨w, shape⟩ := u.onCores_shape c Core.unwaiting
  generalize u.onCores c Core.unwaiting = z at *
  subst shape replaced
  exact ⟨⟨v, w, rfl⟩, stopped, discarded⟩

/-! ## The fault -/

theorem Chip.faultTrace_records (s : Chip) (c : ClusterId) (code : FaultCode) (tag : BitVec 16) (pc : Nat) : ∃ v, s.faultTrace c code tag pc = s.withRecords v := by
  rw [Chip.faultTrace]
  split
  · exact s.emit_records ..
  · exact ⟨(s.dies, s.harts, s.stk, s.ports, s.link, s.traces), rfl⟩

/-- A cluster's first cause of a stop stays (R115, R121). -/
def Cluster.blamed (x : Cluster) (code : FaultCode) (tag : BitVec 16) : Cluster := if x.stepCode = 0 then { x with stepCode := code, stepTag := tag } else x

theorem Cluster.blamed_shape (x : Cluster) (code : FaultCode) (tag : BitVec 16) :
    ∃ cause t, x.blamed code tag = { x with stepCode := cause, stepTag := t } ∧ (x.stepCode = 0 → cause = code) := by
  by_cases first : x.stepCode = 0
  · exact ⟨code, tag, if_pos first, fun _ => rfl⟩
  · exact ⟨x.stepCode, x.stepTag, if_neg first, fun h => absurd h first⟩

/-- The error of a command fault of the sequencer (R124). -/
def seqError (code : FaultCode) (tag : BitVec 16) (pc : Nat) : ErrorInfo :=
  { bit := if code.toNat ≤ 0x100B then code.toNat - 0x1001 else 31, code := code, tag := tag, syn := BitVec.ofNat 32 (pc % 32768) }

theorem Chip.seqFault_eq (s : Chip) (c : ClusterId) (code : FaultCode) (tag : BitVec 16) (pc : Nat) :
    s.seqFault c code tag pc = (((((s.faultTrace c code tag pc).err (.clusterSeq c) (seqError code tag pc)).updCluster c (fun x => x.blamed code tag)).onCores c
      Core.startAll).halt c .faulted).updCluster c (fun x => { x with phase := .retire x.pc (some x.pc) }) := by
  rw [Chip.seqFault, Chip.instrFault, Chip.startQueues_eq]
  rfl

/-- A step that a recorded fault of its sequencer's instruction stops. -/
theorem Chip.stopped_effect {s b : Chip} {c : ClusterId} {code : FaultCode} {tag : BitVec 16} (blamed : b = s.updCluster c (fun x => x.blamed code tag)) :
    let u := ((b.onCores c Core.startAll).halt c .faulted).updCluster c (fun x => { x with phase := .retire x.pc (some x.pc) })
    let x := s.cluster c
    (∃ v w, u = { s with clusters := v, cores := w }) ∧
      (∃ cause t, (x.stepCode = 0 → cause = code) ∧
        u.cluster c = { x with stop := some .faulted, phase := .retire x.pc (some x.pc), stepCode := cause, stepTag := t }) ∧
      ∀ i, u.core (coreOf c i) = (s.core (coreOf c i)).startAll.unwaiting := by
  dsimp only
  obtain ⟨cause, t, shape, first⟩ := (s.cluster c).blamed_shape code tag
  have own : b.cluster c = (s.cluster c).blamed code tag := by rw [blamed, Chip.updCluster_cluster_same]
  have cores : b.core = s.core := by rw [blamed, Chip.updCluster_core]
  obtain ⟨k, replaced⟩ : ∃ k, b = { s with clusters := k } := ⟨_, blamed⟩
  have begun := b.onCores_core c Core.startAll
  obtain ⟨y, started⟩ := b.onCores_shape c Core.startAll
  obtain ⟨⟨v, w, halted⟩, stopped, idled⟩ := (b.onCores c Core.startAll).halt_effect c .faulted
  rw [Chip.onCores_cluster, own, shape, Cluster.halted_faulted] at stopped
  refine ⟨⟨_, w, by rw [halted, started, replaced]; rfl⟩, ⟨cause, t, first, ?_⟩, fun i => ?_⟩
  · rw [Chip.updCluster_cluster_same, stopped]
  · rw [Chip.updCluster_core, idled, begun, cores]

/-- What a fault of the sequencer's instruction leaves: memories and objects as they were, its error recorded, its cluster stopped, and its cores with what has begun and nothing that waits. -/
theorem Chip.seqFault_effect (s : Chip) (c : ClusterId) (code : FaultCode) (tag : BitVec 16) (pc : Nat) :
    let u := s.seqFault c code tag pc
    let x := s.cluster c
    u.stores = s.stores ∧ u.objs = s.objs ∧ u.head (.clusterSeq c) = (s.head (.clusterSeq c)).record (seqError code tag pc) ∧
      (∃ cause t, (x.stepCode = 0 → cause = code) ∧
        u.cluster c = { x with stop := some .faulted, phase := .retire x.pc (some x.pc), stepCode := cause, stepTag := t }) ∧
      ∀ i, u.core (coreOf c i) = (s.core (coreOf c i)).startAll.unwaiting := by
  intro u x
  obtain ⟨v, traced⟩ := s.faultTrace_records c code tag pc
  have recorded := (s.withRecords v).err_head_same (.clusterSeq c) (seqError code tag pc)
  obtain ⟨heads, dies, harts, stk, ports, link, erred⟩ := (s.withRecords v).err_shape (.clusterSeq c) (seqError code tag pc)
  rw [erred] at recorded
  obtain ⟨⟨k, w, shape⟩, stopped, cores⟩ := Chip.stopped_effect (s := (s.withRecords v).err (.clusterSeq c) (seqError code tag pc)) (c := c) (code := code) (tag := tag) rfl
  have fault := s.seqFault_eq c code tag pc
  change u = _ at fault
  rw [traced] at fault
  rw [← fault, erred] at shape stopped cores
  refine ⟨by rw [shape]; rfl, by rw [shape]; rfl, ?_, stopped, cores⟩
  rw [shape]
  exact recorded

end Sys2Proof.Machine
end

section
/-! Branches, loops, NOP, END and TRACE (R97, R99, R101, R108, R110, R120, R469, R471). -/

namespace Sys2Proof.Machine

open Host

/-! ## Branches (R99, R101, R110) -/

theorem branchTarget_eq (pc : Nat) (w : Word64) : branchTarget pc w = (pc : Int) + (w.extractLsb' 0 32).toInt :=
  congrArg _ (BitVec.toInt_signExtend_of_le (by norm_num))

/-- Every branch compares its registers as R99 words it. -/
theorem exec_branches (c : ClusterId) (s : State) :
    ∀ e ∈ branches c, ∃ cond : Word64 → Word64 → Bool, (∀ a b, cond a b = true ↔ e.2.2 a b) ∧ exec e.1 s = onChip (Chip.branchOn c e.2.1 cond) s := by
  simp only [branches, List.forall_mem_cons, List.not_mem_nil, false_imp_iff, implies_true, and_true]
  refine ⟨⟨_, fun a b => ?_, rfl⟩, ⟨_, fun a b => ?_, rfl⟩, ⟨_, fun a b => ?_, rfl⟩, ⟨_, fun a b => ?_, rfl⟩, ⟨_, fun a b => ?_, rfl⟩,
    ⟨_, fun a b => ?_, rfl⟩, ⟨fun _ _ => true, fun a b => ?_, rfl⟩⟩
  · exact beq_iff_eq
  · exact bne_iff_ne
  · exact BitVec.slt_iff_toInt_lt
  · rw [Bool.not_eq_true', ← Bool.not_eq_true, BitVec.slt_iff_toInt_lt, not_lt]
  · exact BitVec.ult_iff_toNat_lt
  · rw [Bool.not_eq_true', ← Bool.not_eq_true, BitVec.ult_iff_toNat_lt, not_lt]
  · exact ⟨fun _ => trivial, fun _ => rfl⟩

section
variable {s : State} {c : ClusterId} {opc : Nat} {w : Word64} {cond : Word64 → Word64 → Bool}

theorem Chip.branchOn_untaken (ready : SeqReady s c opc w) (untaken : cond ((s.chip.cluster c).s (rs1Of w)) ((s.chip.cluster c).s (rs2Of w)) = false) :
    Chip.branchOn c opc cond s.chip = s.chip.updCluster c (fun y => y.retireAt y.pc none) := by
  simp only [Chip.branchOn, Chip.branch, current_of_ready ready, unreserved_of_ready ready, untaken, Bool.false_eq_true, if_false, if_true]

/-- A taken branch whose target the rules allow. -/
theorem Chip.branchOn_taken {n : Nat} (ready : SeqReady s c opc w) (taken : cond ((s.chip.cluster c).s (rs1Of w)) ((s.chip.cluster c).s (rs2Of w)) = true)
    (goal : ((s.chip.cluster c).pc : Int) + (w.extractLsb' 0 32).toInt = (n : Int)) (inside : n < 32768) (plain : isPacketWord (s.chip.word c) n = false)
    (body : ∀ m, (s.chip.cluster c).innermost = some m → ((s.chip.cluster c).level m).start ≤ n ∧ n ≤ ((s.chip.cluster c).level m).stop) :
    Chip.branchOn c opc cond s.chip = s.chip.updCluster c (fun y => y.retireAt y.pc (some n)) := by
  have stored : ¬ ((n : Int) < 0 ∨ 32768 ≤ (n : Int)) := by omega
  simp only [Chip.branchOn, Chip.branch, current_of_ready ready, unreserved_of_ready ready, taken, branchTarget_eq, goal, stored, Int.toNat_natCast, plain,
    Bool.false_eq_true, Bool.true_eq_false, if_false]
  cases innermost : (s.chip.cluster c).innermost with
  | none => rfl
  | some m =>
    obtain ⟨low, high⟩ := body m innermost
    simp only [Nat.not_lt.mpr low, Nat.not_lt.mpr high, decide_false, Bool.or_self, Bool.false_eq_true, if_false]

/-- A taken branch to a word beyond the store faults with BRANCH_TARGET. -/
theorem Chip.branchOn_beyond (ready : SeqReady s c opc w) (taken : cond ((s.chip.cluster c).s (rs1Of w)) ((s.chip.cluster c).s (rs2Of w)) = true)
    (beyond : ((s.chip.cluster c).pc : Int) + (w.extractLsb' 0 32).toInt < 0 ∨ 32768 ≤ ((s.chip.cluster c).pc : Int) + (w.extractLsb' 0 32).toInt) :
    Chip.branchOn c opc cond s.chip = s.chip.seqFault c Code.branchTarget 0 (s.chip.cluster c).pc := by
  simp only [Chip.branchOn, Chip.branch, current_of_ready ready, unreserved_of_ready ready, taken, branchTarget_eq, beyond, Bool.false_eq_true, Bool.true_eq_false, if_false, if_true]

end

theorem branches_go_to_their_target (s : State) (c : ClusterId) (w : Word64) : ∀ e ∈ branches c, SeqReady s c e.2.1 w →
    let x := s.chip.cluster c
    let taken : Prop := e.2.2 (x.s (rs1Of w)) (x.s (rs2Of w))
    let goal : Int := (x.pc : Int) + (w.extractLsb' 0 32).toInt
    (¬ taken → ∃ t, Runs e.1 s t ∧ OnlyCluster c s t ∧ t.chip.cluster c = { x with phase := .retire x.pc none }) ∧
    (∀ n : Nat, taken → goal = (n : Int) → n < 32768 → isPacketWord (s.chip.word c) n = false →
      (∀ m, x.innermost = some m → (x.level m).start ≤ n ∧ n ≤ (x.level m).stop) →
      ∃ t, Runs e.1 s t ∧ OnlyCluster c s t ∧ t.chip.cluster c = { x with phase := .retire x.pc (some n) }) ∧
    (taken → (goal < 0 ∨ 32768 ≤ goal) → ∃ t, Runs e.1 s t ∧ (t.chip.cluster c).stop = some .faulted) := by
  intro e listed ready x taken goal
  obtain ⟨cond, compares, meaning⟩ := exec_branches c s e listed
  have runs : Runs e.1 s { s with chip := Chip.branchOn c e.2.1 cond s.chip } := meaning
  refine ⟨fun untaken => ⟨_, runs, ?_⟩, fun n takes reaches inside plain body => ⟨_, runs, ?_⟩, fun takes beyond => ⟨_, runs, ?_⟩⟩
  · rw [Chip.branchOn_untaken ready (by rw [← Bool.not_eq_true, compares]; exact untaken)]
    exact ⟨onlyCluster_updCluster s c _, Chip.updCluster_cluster_same _ _ _⟩
  · rw [Chip.branchOn_taken ready ((compares _ _).mpr takes) reaches inside plain body]
    exact ⟨onlyCluster_updCluster s c _, Chip.updCluster_cluster_same _ _ _⟩
  · rw [Chip.branchOn_beyond ready ((compares _ _).mpr takes) beyond]
    obtain ⟨-, -, -, ⟨cause, t, -, stopped⟩, -⟩ := s.chip.seqFault_effect c Code.branchTarget 0 x.pc
    exact congrArg Cluster.stop stopped

/-! ## LOOP (R108, R110) -/

/-- A cluster after LOOP: the level runs over the words of its body, or with a count of 0 the body is skipped. -/
def Cluster.looped (x : Cluster) (n : Fin 4) (len : Nat) : Cluster :=
  if x.lcv n = 0 then { x with phase := .retire (x.pc + len) none }
  else (x.setLevel n ⟨true, x.lcv n, 0, x.pc + 1, x.pc + len⟩).retireAt x.pc none

theorem Chip.loopEnter_enters {s : State} {c : ClusterId} {w : Word64} (ready : SeqReady s c 0x41 w) (len : 1 ≤ (w.extractLsb' 0 16).toNat)
    (stored : (s.chip.cluster c).pc + (w.extractLsb' 0 16).toNat < 32768)
    (plain : isPacketWord (s.chip.word c) ((s.chip.cluster c).pc + (w.extractLsb' 0 16).toNat + 1) = false)
    (nested : ∀ m, (s.chip.cluster c).innermost = some m → m < clip 4 (fnOf w) ∧
      (s.chip.cluster c).pc + (w.extractLsb' 0 16).toNat ≤ ((s.chip.cluster c).level m).stop) :
    Chip.loopEnter c s.chip = s.chip.updCluster c (fun x => x.looped (clip 4 (fnOf w)) (w.extractLsb' 0 16).toNat) := by
  have some_ : ¬ (w.extractLsb' 0 16).toNat = 0 := by omega
  have within : ¬ 32767 < (s.chip.cluster c).pc + (w.extractLsb' 0 16).toNat := by omega
  simp only [Chip.loopEnter, current_of_ready ready, unreserved_of_ready ready, some_, within, plain, Bool.false_eq_true, or_self, or_false, if_false]
  refine (if_neg ?_).trans ?_
  · cases innermost : (s.chip.cluster c).innermost with
    | none => exact Bool.false_ne_true
    | some m =>
      obtain ⟨lower, body⟩ := nested m innermost
      simp only [not_le.mpr lower, Nat.not_lt.mpr body, decide_false, Bool.or_self, Bool.false_eq_true, not_false_iff]
  by_cases zero : (s.chip.cluster c).lcv (clip 4 (fnOf w)) = 0
  · rw [if_pos zero]
    exact Chip.updCluster_congr s.chip c (if_pos zero).symm
  · rw [if_neg zero]
    exact Chip.updCluster_congr s.chip c (if_neg zero).symm

theorem loop_enters_or_skips (s : State) (c : ClusterId) (w : Word64) :
    let x := s.chip.cluster c
    let n : Fin 4 := clip 4 (fnOf w)
    let len := (w.extractLsb' 0 16).toNat
    SeqReady s c 0x41 w → 1 ≤ len → x.pc + len < 32768 → isPacketWord (s.chip.word c) (x.pc + len + 1) = false →
    (∀ m, x.innermost = some m → m < n ∧ x.pc + len ≤ (x.level m).stop) →
      ∃ t, Runs (.loop c) s t ∧ OnlyCluster c s t ∧
        (x.lcv n = 0 → t.chip.cluster c = { x with phase := .retire (x.pc + len) none }) ∧
        (x.lcv n ≠ 0 → t.chip.cluster c = { x with phase := .retire x.pc none, levels := (t.chip.cluster c).levels } ∧
          ∀ m, (t.chip.cluster c).level m = if m = n then ⟨true, x.lcv n, 0, x.pc + 1, x.pc + len⟩ else x.level m) := by
  intro x n len ready long stored plain nested
  refine ⟨_, onChip_next _ _, ?_⟩
  rw [Chip.loopEnter_enters ready long stored plain nested]
  refine ⟨onlyCluster_updCluster s c _, fun zero => ?_, fun count => ?_⟩
  · exact (Chip.updCluster_cluster_same _ _ _).trans (if_pos zero)
  · have entered : (s.chip.updCluster c (fun x => x.looped n len)).cluster c = (x.setLevel n ⟨true, x.lcv n, 0, x.pc + 1, x.pc + len⟩).retireAt x.pc none :=
      (Chip.updCluster_cluster_same _ _ _).trans (if_neg count)
    dsimp only
    rw [entered]
    exact ⟨rfl, fun m => Table.read_write _ _ _ _ _⟩

/-! ## NOP, END and TRACE (R97, R99, R120, R469, R471) -/

section
variable {s : State} {c : ClusterId} {w : Word64}

theorem Chip.nopInstr_holds (ready : SeqReady s c 0x00 w) :
    Chip.nopInstr c s.chip = s.chip.updCluster c (fun x => { x with phase := .hold x.pc ((w.extractLsb' 0 20).toNat + 1) }) := by
  simp only [Chip.nopInstr, current_of_ready ready, unreserved_of_ready ready, Bool.false_eq_true, if_false]

theorem Chip.endInstr_stops (ready : SeqReady s c 0x01 w) :
    Chip.endInstr c s.chip = s.chip.updCluster c (fun x => { x with stop := some .ended, phase := .retire x.pc (some x.pc) }) := by
  simp only [Chip.endInstr, current_of_ready ready, unreserved_of_ready ready, Bool.false_eq_true, if_false]

/-- The record of a TRACE word (R469, R471). -/
def Chip.traceRec (s : Chip) (c : ClusterId) (w : Word64) : TraceRec :=
  let r := s.clusterRec c (if fnOf w % 2 = 1 then 2 else 1) 0 ((w.extractLsb' 0 16).setWidth 64)
  if fnOf w % 2 = 1 then { r with marker := some c } else r

theorem Chip.traceRec_fields (s : Chip) (c : ClusterId) (w : Word64) :
    (s.traceRec c w).data.toNat = w.toNat % 65536 ∧ (s.traceRec c w).beat = (s.cluster c).beat ∧ (s.traceRec c w).time = (s.die c.die).timer ∧
      ((s.traceRec c w).marker = some c ↔ fnOf w % 2 = 1) := by
  have data : ((w.extractLsb' 0 16).setWidth 64).toNat = w.toNat % 65536 := by
    rw [BitVec.toNat_setWidth, BitVec.extractLsb'_toNat, Nat.shiftRight_zero, Nat.mod_eq_of_lt]
    exact (Nat.mod_lt _ (by norm_num)).trans (by norm_num)
  by_cases fence : fnOf w % 2 = 1
  · simp only [Chip.traceRec, Chip.clusterRec, fence, if_true, data, true_and]
  · simp only [Chip.traceRec, Chip.clusterRec, fence, if_false, data, true_and, reduceCtorEq]

theorem Chip.traceInstr_records (ready : SeqReady s c 0x02 w) :
    Chip.traceInstr c s.chip = (match (s.chip.cluster c).domeOf with
      | some m => s.chip.emit c.die m 0 (s.chip.traceRec c w)
      | none => s.chip).updCluster c (fun x => x.retireAt x.pc none) := by
  simp only [Chip.traceInstr, current_of_ready ready, unreserved_of_ready ready, Bool.false_eq_true, if_false]
  rfl

/-- A record that its dome traces, with the Coelostat not armed, joins its trace unit's queue (R468, R477). -/
theorem Chip.emit_queues {s : Chip} {d : DieId} {m : DomeId} {source : Nat} (traced : (s.trace m).sizeLog2 ≠ 0) (selected : (s.trace m).sources.getLsbD source = true)
    (unarmed : (s.die d).coel.armed = false) (r : TraceRec) : s.emit d m source r = s.updTrace m (fun u => { u with queue := u.queue ++ [r] }) := by
  simp only [Chip.emit, traced, selected, Bool.true_eq_false, or_self, if_false]
  split
  · exact Chip.trigger_unarmed (s := s.updTrace m _) unarmed ..
  · rfl

end

theorem Cluster.domeOf_assigned {x : Cluster} {m : DomeId} (assigned : x.assigned = true) (dome : x.dome.toNat = m.val) : x.domeOf = some m := by
  rw [Cluster.domeOf, if_pos assigned]
  exact congrArg some (Fin.ext dome)

theorem Cluster.domeOf_unassigned {x : Cluster} (unassigned : x.assigned = false) : x.domeOf = none := by
  rw [Cluster.domeOf, unassigned]
  rfl

theorem nop_end_and_trace (s : State) (c : ClusterId) (w : Word64) :
    let x := s.chip.cluster c
    (SeqReady s c 0x00 w → ∃ t, Runs (.nop c) s t ∧ OnlyCluster c s t ∧
      t.chip.cluster c = { x with phase := .hold x.pc ((w.extractLsb' 0 20).toNat + 1) }) ∧
    (SeqReady s c 0x01 w → ∃ t, Runs (.endStep c) s t ∧ OnlyCluster c s t ∧
      t.chip.cluster c = { x with stop := some .ended, phase := .retire x.pc (some x.pc) }) ∧
    (SeqReady s c 0x02 w → x.assigned = false → ∃ t, Runs (.trace c) s t ∧ OnlyCluster c s t ∧
      t.chip.cluster c = { x with phase := .retire x.pc none }) ∧
    (∀ m : DomeId, SeqReady s c 0x02 w → x.assigned = true → x.dome.toNat = m.val → (s.chip.trace m).sizeLog2 ≠ 0 →
      (s.chip.trace m).sources.getLsbD 0 = true → (s.chip.die c.die).coel.armed = false →
      ∃ t r, Runs (.trace c) s t ∧ t.chip.cluster c = { x with phase := .retire x.pc none } ∧ SameMemory s t ∧
        (t.chip.trace m) = { s.chip.trace m with queue := (s.chip.trace m).queue ++ [r] } ∧
        (∀ k, k ≠ m → t.chip.trace k = s.chip.trace k) ∧
        r.data.toNat = w.toNat % 65536 ∧ r.beat = x.beat ∧ r.time = (s.chip.die c.die).timer ∧
        (r.marker = some c ↔ fnOf w % 2 = 1)) := by
  intro x
  refine ⟨fun ready => ⟨_, onChip_next _ _, ?_⟩, fun ready => ⟨_, onChip_next _ _, ?_⟩, fun ready unassigned => ⟨_, onChip_next _ _, ?_⟩,
    fun m ready assigned dome traced selected unarmed => ⟨_, s.chip.traceRec c w, onChip_next _ _, ?_⟩⟩
  · rw [Chip.nopInstr_holds ready]
    exact ⟨onlyCluster_updCluster s c _, Chip.updCluster_cluster_same _ _ _⟩
  · rw [Chip.endInstr_stops ready]
    exact ⟨onlyCluster_updCluster s c _, Chip.updCluster_cluster_same _ _ _⟩
  · rw [Chip.traceInstr_records ready, Cluster.domeOf_unassigned unassigned]
    exact ⟨onlyCluster_updCluster s c _, Chip.updCluster_cluster_same _ _ _⟩
  · rw [Chip.traceInstr_records ready, Cluster.domeOf_assigned assigned dome]
    dsimp only
    rw [Chip.emit_queues traced selected unarmed]
    refine ⟨Chip.updCluster_cluster_same _ _ _, ⟨rfl, rfl, rfl, rfl⟩, ?_, fun k other => ?_, s.chip.traceRec_fields c w⟩
    · rw [Chip.updCluster_trace, Chip.updTrace_trace_same]
    · rw [Chip.updCluster_trace, Chip.updTrace_trace_other _ _ _ _ other]

/-- Settles O6: a branch is checked when it is taken; LOOP within its nest writes one level; NOP, END and TRACE are one change of their cluster each, and TRACE appends its record. -/
theorem branchesLoopsAndNop : Obligations.BranchesLoopsAndNop := by
  unfold Obligations.BranchesLoopsAndNop
  exact ⟨branches_go_to_their_target, loop_enters_or_skips, nop_end_and_trace⟩

end Sys2Proof.Machine
end

section
/-! ISSUE refused: full queues, and packets that no core takes (R102 to R106, R124). -/

namespace Sys2Proof.Machine

open Host

/-! ## Lists of checks -/

theorem lowest_eq_none {l : List FaultCode} : lowest l = none ↔ l = [] := by
  cases l with
  | nil => simp [lowest]
  | cons c t =>
    rw [lowest]
    split <;> simp

theorem lowest_whenC (b : Bool) (c : FaultCode) : lowest (whenC b c) = if b then some c else none := by
  cases b <;> rfl

/-- The checks that belong to a packet's engine (R106). -/
def engineChecks (p : BitVec 128) : List FaultCode :=
  match pkEngine p with
  | .me => meChecks p
  | .ve => veChecks p
  | .de => deChecks p
  | .tq => tqChecks p

theorem packetChecks_eq (p : BitVec 128) :
    packetChecks p = whenC (pkReserved p ≠ 0 || (!pkAgm p && (pkXw p ≠ 2 || pkXShift p ≠ 0))) Code.reservedField ++
      whenC (pkSigEn p && 5 ≤ (pkSigScope p).toNat) Code.scopeInvalid ++ engineChecks p := rfl

theorem meChecks_undefined {p : BitVec 128} (undefined_ : pkOpcode p = 0 ∨ 2 < pkOpcode p) : meChecks p = [Code.illegalOpcode] := by
  have mma : ¬ pkOpcode p = 1 := by omega
  have mscale : ¬ pkOpcode p = 2 := by omega
  simp only [meChecks, mma, mscale, if_false]

theorem veChecks_undefined {p : BitVec 128} (undefined_ : veKind (pkOpcode p) = none) : veChecks p = [Code.illegalOpcode] := by
  rw [veChecks, undefined_]

theorem deChecks_undefined {p : BitVec 128} (undefined_ : pkOpcode p = 0 ∨ 4 < pkOpcode p) : deChecks p ≠ [] := by
  have illegal : (decide (pkOpcode p = 0) || decide (4 < pkOpcode p)) = true := by simpa using undefined_
  simp [deChecks, illegal, whenC]

theorem tqChecks_undefined {p : BitVec 128} (undefined_ : pkOpcode p = 0 ∨ 2 < pkOpcode p) : tqChecks p ≠ [] := by
  have illegal : (decide (pkOpcode p = 0) || decide (2 < pkOpcode p)) = true := by simpa using undefined_
  simp [tqChecks, illegal, whenC]

/-- Opcode 0, and every opcode that its engine does not define, is refused (R106). -/
theorem engineChecks_undefined {p : BitVec 128} (undefined_ : pkOpcode p = 0 ∨ (pkEngine p = .me ∧ 2 < pkOpcode p) ∨
    (pkEngine p = .ve ∧ veKind (pkOpcode p) = none) ∨ (pkEngine p = .de ∧ 4 < pkOpcode p) ∨ (pkEngine p = .tq ∧ 2 < pkOpcode p)) : engineChecks p ≠ [] := by
  rw [engineChecks]
  cases engine : pkEngine p with
  | me =>
    simp only [engine, reduceCtorEq, true_and, false_and, or_false] at undefined_
    simp [meChecks_undefined undefined_]
  | ve =>
    simp only [engine, reduceCtorEq, true_and, false_and, or_false, false_or] at undefined_
    have kind : veKind (pkOpcode p) = none := undefined_.elim (fun zero => by rw [zero]; rfl) id
    simp [veChecks_undefined kind]
  | de =>
    simp only [engine, reduceCtorEq, true_and, false_and, or_false, false_or] at undefined_
    exact deChecks_undefined undefined_
  | tq =>
    simp only [engine, reduceCtorEq, true_and, false_and, false_or] at undefined_
    exact tqChecks_undefined undefined_

/-- What a packet's own fields reveal, whichever cores it is for (R106). -/
theorem packetChecks_refuses {p : BitVec 128} (bad : packetChecks p ≠ [] ∨ pkReserved p ≠ 0 ∨ (pkSigEn p = true ∧ 5 ≤ (pkSigScope p).toNat) ∨ pkOpcode p = 0 ∨
    (pkEngine p = .me ∧ 2 < pkOpcode p) ∨ (pkEngine p = .ve ∧ veKind (pkOpcode p) = none) ∨ (pkEngine p = .de ∧ 4 < pkOpcode p) ∨
    (pkEngine p = .tq ∧ 2 < pkOpcode p)) : packetChecks p ≠ [] := by
  obtain bad | reserved | ⟨signs, scope⟩ | opcode := bad
  · exact bad
  · simp [packetChecks_eq, whenC_eq_nil, reserved]
  · simp [packetChecks_eq, whenC_eq_nil, signs, scope]
  · simp [packetChecks_eq, engineChecks_undefined opcode]

/-! ## Why an ISSUE faults (R105, R106) -/

/-- The ISSUE that a packet follows within the store: the word's and the packet's own checks, and for selected cores those of addresses and queues. -/
theorem Chip.issueFault_stored {s : Chip} {c : ClusterId} (stored : (s.cluster c).pc < 32766) (w : Word64) (p : BitVec 128) (cores : List (Fin 32)) :
    s.issueFault c w p cores = lowest (whenC (reservedSet w) Code.reservedField ++ (packetChecks p ++ (if cores = [] then [] else
      addressChecks p ((s.cluster c).slotAddr p 0).toNat ((s.cluster c).slotAddr p 1).toNat ((s.cluster c).slotAddr p 2).toNat ((s.cluster c).slotAddr p 3).toNat ++
        whenC (cores.any (fun i => 4 ≤ ((s.core (coreOf c i)).queue (pkEngine p)).depth)) Code.queueOverrun))) := by
  have fits : ¬ 32765 < (s.cluster c).pc := by omega
  rw [Chip.issueFault, if_neg fits]

/-- With nothing else to refuse, the queues of the selected cores decide (R105). -/
theorem Chip.issueFault_queues {s : Chip} {c : ClusterId} {w : Word64} {p : BitVec 128} (stored : (s.cluster c).pc < 32766) (unreserved : reservedSet w = false)
    (checks : packetChecks p = [])
    (addresses : addressChecks p ((s.cluster c).slotAddr p 0).toNat ((s.cluster c).slotAddr p 1).toNat ((s.cluster c).slotAddr p 2).toNat
      ((s.cluster c).slotAddr p 3).toNat = []) (cores : List (Fin 32)) :
    s.issueFault c w p cores = if cores.any (fun i => 4 ≤ ((s.core (coreOf c i)).queue (pkEngine p)).depth) then some Code.queueOverrun else none := by
  rw [Chip.issueFault_stored stored, unreserved, checks, addresses, ← lowest_whenC]
  cases cores <;> rfl

/-- A word or a packet that is refused for itself is refused for no core too (R106). -/
theorem Chip.issueFault_self {s : Chip} {c : ClusterId} {w : Word64} {p : BitVec 128} (stored : (s.cluster c).pc < 32766) {cores : List (Fin 32)}
    (bad : reservedSet w = true ∨ packetChecks p ≠ []) : ∃ f, s.issueFault c w p cores = some f := by
  rw [Chip.issueFault_stored stored, ← Option.ne_none_iff_exists', ne_eq, lowest_eq_none, List.append_eq_nil_iff, List.append_eq_nil_iff, whenC_eq_nil]
  rintro ⟨unreserved, checks, -⟩
  exact bad.elim (by rw [unreserved]; exact Bool.false_ne_true) (absurd checks)

theorem Chip.issueFault_noCore {s : Chip} {c : ClusterId} {w : Word64} {p : BitVec 128} (stored : (s.cluster c).pc < 32766) (unreserved : reservedSet w = false)
    (checks : packetChecks p = []) : s.issueFault c w p [] = none := by
  rw [Chip.issueFault_stored stored, unreserved, checks]
  rfl

theorem issueInstr_refused {s : Chip} {c : ClusterId} {w : Word64} (current : s.current c 0x60 = some w) {f : FaultCode}
    (refused : s.issueFault c w (s.word c ((s.cluster c).pc + 2) ++ s.word c ((s.cluster c).pc + 1)) (selectedCores (s.cluster c) (fnOf w % 2 = 1)) = some f) :
    ∃ tag, s.issueInstr c = s.seqFault c f tag (s.cluster c).pc := by
  simp only [Chip.issueInstr, current, refused]
  exact ⟨_, rfl⟩

/-! ## What an unrefused ISSUE leaves -/

theorem Chip.clusterEvent_cores (s : Chip) (c : ClusterId) (event amount : Nat) : (s.clusterEvent c event amount).cores = s.cores := by
  rw [Chip.clusterEvent]
  obtain ⟨v, e⟩ := Chip.samples_records _ _ _ _
  rw [e]
  rfl

theorem Chip.withRecords_head (v : Table DieId Die × Table HartId Hart × Table StackId Stack × Table PortId Port × HostLink × Table DomeId TraceUnit) (s : Chip) :
    (s.withRecords v).head = s.head := rfl

/-- A cluster's event reaches no head but that of its counters. -/
theorem Chip.clusterEvent_head (s : Chip) (c : ClusterId) (event amount : Nat) {b : Block} (other : b ≠ .perf (.cluster c)) :
    (s.clusterEvent c event amount).head b = s.head b := by
  rw [Chip.clusterEvent]
  obtain ⟨v, e⟩ := Chip.samples_records _ _ _ _
  rw [e, Chip.withRecords_head, Chip.updCluster_head, Chip.updHead_head_other _ _ _ _ other]

theorem issue_unrefused {s : State} {c : ClusterId} {w : Word64} (ready : SeqReady s c 0x60 w) {cores : List (Fin 32)}
    (selected : selectedCores (s.chip.cluster c) (fnOf w % 2 = 1) = cores)
    (unrefused : s.chip.issueFault c w (s.chip.word c ((s.chip.cluster c).pc + 2) ++ s.chip.word c ((s.chip.cluster c).pc + 1)) cores = none) :
    let u := s.chip.issueInstr c
    let x := s.chip.cluster c
    u.stores = s.chip.stores ∧ u.objs = s.chip.objs ∧ u.head (.clusterSeq c) = s.chip.head (.clusterSeq c) ∧ (cores = [] → u.cores = s.chip.cores) ∧
      ∃ o a q, u.cluster c = { x with ovf := o, ads := a, phase := .retire (x.pc + 2) none, presented := q } ∧ (cores = [] → a = x.ads) := by
  dsimp only
  rw [issueInstr_unrefused ready rfl selected unrefused]
  generalize s.chip.word c ((s.chip.cluster c).pc + 2) ++ s.chip.word c ((s.chip.cluster c).pc + 1) = p
  obtain ⟨v, joined⟩ := s.chip.presentTo_shape c cores (pkEngine p) ((s.chip.cluster c).command p)
  have alone : cores = [] → s.chip.presentTo c cores (pkEngine p) ((s.chip.cluster c).command p) = s.chip := by rintro rfl; rfl
  generalize s.chip.presentTo c cores (pkEngine p) ((s.chip.cluster c).command p) = u at *
  subst joined
  obtain ⟨stores, objs, -, o, cluster⟩ := Chip.clusterEvent_frame { s.chip with cores := v } c 4 1
  have still := Chip.clusterEvent_cores { s.chip with cores := v } c 4 1
  have head := Chip.clusterEvent_head { s.chip with cores := v } c 4 1 (b := .clusterSeq c) (by simp)
  generalize Chip.clusterEvent { s.chip with cores := v } c 4 1 = z at *
  obtain ⟨a, after, kept⟩ := Cluster.issued_shape { s.chip.cluster c with ovf := o } p (decide (cores ≠ []))
  refine ⟨stores, objs, head, fun none_ => still.trans (congrArg Chip.cores (alone none_)), o, a, some ((s.chip.cluster c).pc, pkTag p), ?_, fun none_ => kept (by simp [none_])⟩
  rw [Chip.updCluster_cluster_same, cluster]
  exact after

/-- QUEUE_OVERRUN has bit 5 of ERR_STATUS (R124). -/
theorem Head.record_overrun (h : Head) (tag : BitVec 16) (pc : Nat) : (h.record (seqError Code.queueOverrun tag pc)).errStatus.getLsbD 5 = true := by
  have bit : (seqError Code.queueOverrun tag pc).bit = 5 := rfl
  rw [← bit]
  exact h.record_sets_bit _ (by rw [bit]; norm_num)

/-! ## The statements -/

/-- Settles O9: with nothing else to refuse, only a full queue of a selected core faults, and the fault discards what waits. -/
theorem issueOverrunsAFullQueue : Obligations.IssueOverrunsAFullQueue := by
  unfold Obligations.IssueOverrunsAFullQueue
  intro s c w x p chosen waits ready stored checks addresses
  obtain ⟨-, -, unstopped, -⟩ := id ready
  have decided := Chip.issueFault_queues stored (unreserved_of_ready ready) checks addresses (selectedCores x (fnOf w % 2 = 1))
  have mem (i : Fin 32) : i ∈ selectedCores x (fnOf w % 2 = 1) ↔ chosen i := by rw [mem_selectedCores, decide_eq_true_eq]
  refine ⟨fun ⟨i, among, full⟩ => ?_, fun room => ?_⟩
  · have refused := decided.trans (if_pos (List.any_eq_true.mpr ⟨i, (mem i).mpr among, decide_eq_true full⟩))
    obtain ⟨tag, faulted⟩ := issueInstr_refused (current_of_ready ready) refused
    obtain ⟨stores, objs, head, ⟨cause, t, first, stopped⟩, cores⟩ := s.chip.seqFault_effect c Code.queueOverrun tag x.pc
    refine ⟨_, onChip_next _ _, ?_⟩
    rw [faulted]
    dsimp only
    rw [stopped, head]
    refine ⟨sameMemory_of_stores stores rfl, objs, rfl, first, ?_, rfl, rfl, fun i e => ?_⟩
    · exact Head.record_overrun ..
    · rw [cores, Core.unwaiting_queue]
      exact ⟨rfl, rfl⟩
  · have unrefused := decided.trans (if_neg (by
      rw [List.any_eq_true]
      rintro ⟨i, among, full⟩
      exact absurd (room i ((mem i).mp among)) (Nat.not_lt.mpr (of_decide_eq_true full))))
    obtain ⟨-, -, head, -, o, a, q, cluster, -⟩ := issue_unrefused ready rfl unrefused
    refine ⟨_, onChip_next _ _, ?_⟩
    dsimp only
    rw [cluster, head]
    exact ⟨unstopped, rfl, rfl⟩

/-- Settles O10: for no core the checks of addresses and queues fall away, and those of the word and of the packet's own fields stay. -/
theorem issueToNoCoreIsStillChecked : Obligations.IssueToNoCoreIsStillChecked := by
  unfold Obligations.IssueToNoCoreIsStillChecked
  intro s c w x p up running stop phase stored word opcode one none_
  have noCore : selectedCores x (fnOf w % 2 = 1) = [] := by simp [selectedCores, one, none_]
  refine ⟨fun unreserved checks => ?_, fun bad => ?_⟩
  · have ready : SeqReady s c 0x60 w := ⟨up, running, stop, phase, word, opcode, unreserved⟩
    obtain ⟨stores, objs, -, cores, o, a, q, cluster, ads⟩ := issue_unrefused ready noCore (Chip.issueFault_noCore stored unreserved checks)
    refine ⟨_, onChip_next _ _, sameMemory_of_stores stores rfl, objs, cores rfl, ?_⟩
    dsimp only
    rw [cluster]
    exact ⟨stop, rfl, ads rfl, rfl, rfl⟩
  · have current : s.chip.current c 0x60 = some w := by
      simp [Chip.current, clusterLive_of_up up, Cluster.mayExecute, running, stop, phase, word, opcode, x]
    obtain ⟨f, refused⟩ := Chip.issueFault_self (p := p) stored (cores := selectedCores x (fnOf w % 2 = 1)) (bad.imp_right packetChecks_refuses)
    obtain ⟨tag, faulted⟩ := issueInstr_refused current refused
    obtain ⟨stores, objs, -, ⟨cause, t, -, stopped⟩, cores⟩ := s.chip.seqFault_effect c f tag x.pc
    refine ⟨_, onChip_next _ _, ?_⟩
    rw [faulted]
    dsimp only
    rw [stopped]
    refine ⟨sameMemory_of_stores stores rfl, objs, rfl, rfl, rfl, fun i e => ?_⟩
    rw [cores, Core.unwaiting_queue]

end Sys2Proof.Machine
end

section
/-! A step's start, its abort and its end (R96, R101, R120 to R123, R125). -/

namespace Sys2Proof.Machine

open Host

/-! ## Tables listed by an index -/

theorem Table.read_indexed {ι κ α : Type} [DecidableEq κ] (d : α) (key : ι → κ) (once : key.Injective) (f : ι → α) (l : List ι) {i : ι} (listed : i ∈ l) :
    Table.read d (l.map (fun j => (key j, f j))) (key i) = f i := by
  induction l with
  | nil => cases listed
  | cons j t ih =>
    rw [List.map_cons, Table.read]
    by_cases same : key j = key i
    · rw [if_pos same, once same]
    · rw [if_neg same]
      exact ih ((List.mem_cons.mp listed).resolve_left fun h => same (congrArg key h.symm))

theorem Table.read_unlisted {ι κ α : Type} [DecidableEq κ] (d : α) (key : ι → κ) (f : ι → α) (l : List ι) {k : κ} (unlisted : ∀ i, key i ≠ k) :
    Table.read d (l.map (fun j => (key j, f j))) k = d := by
  induction l with
  | nil => rfl
  | cons j t ih => rw [List.map_cons, Table.read, if_neg (unlisted j), ih]

/-! ## Reports -/

/-- From s to u, a step has been reported: no memory or core has changed, and of the cluster's registers only overflow bits. -/
structure Chip.Reported (c : ClusterId) (s u : Chip) : Prop where
  stores : u.stores = s.stores
  cores : u.core = s.core
  cluster : ∃ o, u.cluster c = { s.cluster c with ovf := o }

theorem Chip.Reported.refl (c : ClusterId) (s : Chip) : Chip.Reported c s s := ⟨rfl, rfl, _, rfl⟩

theorem Chip.Reported.trans {c : ClusterId} {s u v : Chip} (h : Chip.Reported c s u) (g : Chip.Reported c u v) : Chip.Reported c s v := by
  obtain ⟨o, cluster⟩ := h.cluster
  obtain ⟨o', cluster'⟩ := g.cluster
  exact ⟨g.stores.trans h.stores, g.cores.trans h.cores, o', by rw [cluster', cluster]⟩

theorem Chip.emit_reported (c : ClusterId) (s : Chip) (d : DieId) (m : DomeId) (source : Nat) (r : TraceRec) : Chip.Reported c s (s.emit d m source r) := by
  obtain ⟨v, e⟩ := s.emit_records d m source r
  rw [e]
  exact ⟨rfl, rfl, _, rfl⟩

theorem Chip.clusterEvent_reported (c : ClusterId) (s : Chip) (event amount : Nat) : Chip.Reported c s (s.clusterEvent c event amount) := by
  obtain ⟨stores, -, cores, cluster⟩ := s.clusterEvent_frame c event amount
  exact ⟨stores, cores, cluster⟩

theorem Chip.log_reported (c : ClusterId) (s : Chip) (d : DieId) (level : Nat) (code : FaultCode) (dome : Byte) (tag : BitVec 16) (detail : Word64) :
    Chip.Reported c s (s.log d level code dome tag detail) := by
  obtain ⟨dies, link, e⟩ := s.log_shape d level code dome tag detail
  rw [e]
  exact ⟨rfl, rfl, _, rfl⟩

/-! ## GO (R96, R101) -/

/-- The scalar register that holds argument k (R96). -/
def argReg (k : Fin 15) : Fin 32 := clip 32 (k.val + 1)

theorem argReg_val (k : Fin 15) : (argReg k).val = k.val + 1 := by
  rw [argReg, clip, Fin.val_ofNat]
  omega

theorem argReg_injective : argReg.Injective := fun i j h => by
  have same := congrArg Fin.val h
  rw [argReg_val, argReg_val] at same
  exact Fin.ext (by omega)

/-- A cluster whose step starts; whether its ENTRY names a packet word (R96, R101). -/
def Cluster.started (x : Cluster) (bad : Bool) : Cluster :=
  { x with
    pc := x.entry.toNat, regs := (List.finRange 15).map (fun k => (argReg k, Table.read 0 x.args k)), ads := [], lc := [], levels := [], bmask := 0xFFFFFFFF,
    beat := 0, running := true, stop := none, phase := if bad then .badEntry else .ready, faultedFlag := false, abortedFlag := false, stepBeats := 0,
    presented := none, stepCode := 0, stepTag := 0 }

theorem Cluster.started_args (x : Cluster) (bad : Bool) (k : Fin 15) : (x.started bad).s (clip 32 (k.val + 1)) = Table.read 0 x.args k := by
  have positive : argReg k ≠ 0 := fun zero => by
    have val := argReg_val k
    rw [zero] at val
    exact absurd val (Nat.succ_ne_zero _).symm
  exact (if_neg positive).trans (Table.read_indexed 0 argReg argReg_injective _ _ (List.mem_finRange k))

theorem Cluster.started_zero (x : Cluster) (bad : Bool) {r : Fin 32} (high : 16 ≤ r.val) : (x.started bad).s r = 0 := by
  have unlisted (k : Fin 15) : argReg k ≠ r := fun same => by
    have val := argReg_val k
    rw [same] at val
    omega
  rw [Cluster.s]
  split
  · rfl
  · exact Table.read_unlisted 0 argReg _ _ unlisted

/-- A core at the start of a step (R96). -/
def Core.started (k : Core) : Core := { k with acc := none, scaleA := 0x3F800000, scaleB := 0x3F800000, vm := [], flags := 0 }

/-- GO on an idle cluster is its cluster's start, its cores' start, and a record. -/
theorem Chip.stepGo_reports {s : State} {c : ClusterId} (idle : SeqIdle s c) (number : Nat) :
    Chip.Reported c ((s.chip.updCluster c (fun x => x.started (isPacketWord (s.chip.word c) (s.chip.cluster c).entry.toNat))).onCores c Core.started)
      (Chip.stepGo c number s.chip) := by
  obtain ⟨up, stopped⟩ := idle
  simp only [Chip.stepGo, clusterLive_of_up up, stopped, Bool.true_eq_false, Bool.false_eq_true, if_false]
  cases (s.chip.cluster c).domeOf with
  | some m => exact Chip.emit_reported ..
  | none => exact .refl ..

theorem go_starts_the_step (s : State) (c : ClusterId) :
    let x := s.chip.cluster c
    SeqIdle s c →
      ∃ t, Runs (.stepGo c) s t ∧ SameMemory s t ∧
        (t.chip.cluster c).running = true ∧ (t.chip.cluster c).stop = none ∧
        (t.chip.cluster c).phase = (if isPacketWord (s.chip.word c) x.entry.toNat then .badEntry else .ready) ∧
        (t.chip.cluster c).pc = x.entry.toNat ∧ (t.chip.cluster c).beat = 0 ∧ (t.chip.cluster c).bmask = 0xFFFFFFFF ∧
        (t.chip.cluster c).faultedFlag = false ∧ (t.chip.cluster c).abortedFlag = false ∧
        (∀ k : Fin 15, (t.chip.cluster c).s (clip 32 (k.val + 1)) = Table.read 0 x.args k) ∧
        (∀ r : Fin 32, 16 ≤ r.val → (t.chip.cluster c).s r = 0) ∧
        (∀ k, (t.chip.cluster c).ad k = {}) ∧ (∀ n, (t.chip.cluster c).lcv n = 0 ∧ ((t.chip.cluster c).level n).active = false) ∧
        (t.chip.cluster c).args = x.args ∧ (t.chip.cluster c).entry = x.entry ∧ (t.chip.cluster c).assigned = x.assigned ∧ (t.chip.cluster c).dome = x.dome ∧
        ∀ i, (t.chip.core (coreOf c i)).flags = 0 ∧ (t.chip.core (coreOf c i)).acc = none ∧ (t.chip.core (coreOf c i)).scaleA = 0x3F800000 ∧
          (t.chip.core (coreOf c i)).scaleB = 0x3F800000 ∧ (t.chip.core (coreOf c i)).tiles = (s.chip.core (coreOf c i)).tiles := by
  intro x idle
  obtain ⟨number, meaning⟩ : ∃ number, exec (.stepGo c) s = onChip (Chip.stepGo c number) s := ⟨_, rfl⟩
  obtain ⟨stores, cores, o, cluster⟩ := Chip.stepGo_reports idle number
  rw [Chip.onCores_stores] at stores
  rw [Chip.onCores_cluster, Chip.updCluster_cluster_same] at cluster
  refine ⟨_, meaning.trans (onChip_next _ _), sameMemory_of_stores stores rfl, ?_⟩
  dsimp only
  rw [cluster]
  refine ⟨rfl, rfl, rfl, rfl, rfl, rfl, rfl, rfl, x.started_args (isPacketWord (s.chip.word c) x.entry.toNat),
    fun r high => x.started_zero (isPacketWord (s.chip.word c) x.entry.toNat) high, fun _ => rfl, fun _ => ⟨rfl, rfl⟩, rfl, rfl, rfl, rfl, fun i => ?_⟩
  rw [cores, Chip.onCores_core]
  exact ⟨rfl, rfl, rfl, rfl, rfl⟩

/-! ## ABORT (R122, R123) -/

theorem Cluster.halted_aborted {x : Cluster} (unfaulted : x.stop ≠ some .faulted) : x.halted .aborted = { x with phase := .ready, stop := some .aborted } := by
  simp only [Cluster.halted, unfaulted, ne_eq, not_false_iff, or_true, if_true]

theorem abort_discards_what_waits (s : State) (c : ClusterId) (up : ClusterUp s c) :
    ((s.chip.cluster c).running = true → (s.chip.cluster c).stop ≠ some .faulted →
      ∃ t, Runs (.abort c) s t ∧ SameMemory s t ∧ t.chip.cluster c = { s.chip.cluster c with phase := .ready, stop := some .aborted } ∧
        t.chip.heads = s.chip.heads ∧
        ∀ i e, ((t.chip.core (coreOf c i)).queue e).waiting = [] ∧ ((t.chip.core (coreOf c i)).queue e).running = ((s.chip.core (coreOf c i)).queue e).running) ∧
    ((s.chip.cluster c).running = false → Runs (.abort c) s s) := by
  refine ⟨fun running unfaulted => ?_, fun idle => ?_⟩
  · have aborts : Chip.abortStep c s.chip = s.chip.halt c .aborted := by
      simp only [Chip.abortStep, clusterLive_of_up up, running, unfaulted, Bool.true_eq_false, or_self, if_false]
    obtain ⟨⟨v, w, shape⟩, stopped, idled⟩ := s.chip.halt_effect c .aborted
    refine ⟨_, onChip_next _ _, ?_⟩
    rw [aborts]
    refine ⟨?_, stopped.trans (Cluster.halted_aborted unfaulted), ?_, fun i e => ?_⟩
    · rw [shape]
      exact ⟨rfl, rfl, rfl, rfl⟩
    · rw [shape]
    · dsimp only
      rw [idled, Core.unwaiting_queue]
      exact ⟨rfl, rfl⟩
  · have ignores : Chip.abortStep c s.chip = s.chip := if_pos (.inr idle)
    exact (onChip_next _ _).trans (by rw [ignores])

/-! ## STEP_COMPLETION (R120, R125) -/

/-- A cluster whose step has ended (R125). -/
def Cluster.completed (x : Cluster) (how : StopKind) : Cluster :=
  { x with running := false, stop := none, phase := .ready, lastStepBeats := x.stepBeats, faultedFlag := how = .faulted, abortedFlag := how = .aborted }

/-- A core at the end of a step. -/
def Core.cleared (k : Core) : Core := { k with acc := none }

theorem Chip.stepping_drained {s : Chip} {c : ClusterId} {how : StopKind} (stop : (s.cluster c).stop = some how) (phase : (s.cluster c).phase = .ready)
    (drained : s.drained c = true) : s.stepping c = false := by
  simp [Chip.stepping, stop, phase, drained]

/-- The end of a drained step is its cluster's and its cores' end, a record, an event, and for a fault an entry of the night log. -/
theorem Chip.stepDone_reports {s : State} {c : ClusterId} {how : StopKind} (up : ClusterUp s c) (running : (s.chip.cluster c).running = true)
    (stop : (s.chip.cluster c).stop = some how) (phase : (s.chip.cluster c).phase = .ready) (drained : s.chip.drained c = true) :
    Chip.Reported c ((s.chip.updCluster c (fun x => x.completed how)).onCores c Core.cleared) (Chip.stepDone c s.chip) := by
  have logged {u v : Chip} (h : Chip.Reported c u v) (code : FaultCode) (dome : Byte) (tag : BitVec 16) (detail : Word64) :
      Chip.Reported c u (if how = .faulted then v.log c.die 2 code dome tag detail else v) := by
    split
    · exact h.trans (Chip.log_reported ..)
    · exact h
  simp only [Chip.stepDone, stop, Chip.stepping_drained stop phase drained, running, clusterLive_of_up up, Bool.true_eq_false, Bool.false_eq_true, or_self, if_false]
  cases (s.chip.cluster c).domeOf with
  | some m => exact logged ((Chip.emit_reported c ((s.chip.updCluster c (fun x => x.completed how)).onCores c Core.cleared) ..).trans (Chip.clusterEvent_reported ..)) ..
  | none => exact logged (Chip.clusterEvent_reported c ((s.chip.updCluster c (fun x => x.completed how)).onCores c Core.cleared) ..) ..

theorem completion_reports_the_step (s : State) (c : ClusterId) (how : StopKind) (up : ClusterUp s c) (running : (s.chip.cluster c).running = true)
    (stop : (s.chip.cluster c).stop = some how) (phase : (s.chip.cluster c).phase = .ready) (drained : s.chip.drained c = true) :
    ∃ t, Runs (.stepCompletion c) s t ∧ SameMemory s t ∧ (t.chip.cluster c).running = false ∧ (t.chip.cluster c).stop = none ∧
      (t.chip.cluster c).lastStepBeats = (s.chip.cluster c).stepBeats ∧
      ((t.chip.cluster c).faultedFlag = true ↔ how = .faulted) ∧ ((t.chip.cluster c).abortedFlag = true ↔ how = .aborted) ∧
      ∀ i, (t.chip.core (coreOf c i)).acc = none := by
  obtain ⟨stores, cores, o, cluster⟩ := Chip.stepDone_reports up running stop phase drained
  rw [Chip.onCores_stores] at stores
  rw [Chip.onCores_cluster, Chip.updCluster_cluster_same] at cluster
  refine ⟨_, onChip_next _ _, sameMemory_of_stores stores rfl, ?_⟩
  dsimp only
  rw [cluster]
  refine ⟨rfl, rfl, rfl, decide_eq_true_iff, decide_eq_true_iff, fun i => ?_⟩
  rw [cores, Chip.onCores_core]
  rfl

/-- Settles O11: GO is one start of the cluster and of each core; ABORT is the stop that a fault shares; the completion of a drained step clears RUNNING and reports how it stopped. -/
theorem stepsStartStopAndReport : Obligations.StepsStartStopAndReport := by
  unfold Obligations.StepsStartStopAndReport
  exact ⟨go_starts_the_step, abort_discards_what_waits, completion_reports_the_step⟩

end Sys2Proof.Machine
end
